-- ==== Sys2Proof/Word.lean ====
section
/-! DEFINITION. The bit-vector types the manual's registers, structures and memories are made of (R6, R7). -/

namespace Sys2Proof

/-- One byte of memory (the manual's smallest addressable unit). -/
abbrev Byte := BitVec 8

/-- One BAR0 register: 32 bits (R7). -/
abbrev Word := BitVec 32

/-- A 64-bit quantity: an address, a semaphore, a field of a Waybill. -/
abbrev DWord := BitVec 64

/-- A Waybill: 64 bytes, byte 0 holding bits [7:0] (R7, R50). -/
abbrev Slot := BitVec 512

end Sys2Proof
end

