-- ==== Sys2Proof/Config.lean ====
section
/-! DEFINITION. What the manual leaves open or leaves to another standard: every constant here is opaque, so that no
proof can see a value of it. The log entry that names each is given with it. -/

namespace Sys2Proof

/-- A byte whose value the manual does not specify (R106, R139, R284, R285, R316, R352, R469, R526): applied to the
counter State.free. Log entry 5. -/
opaque Config.freeByte : Nat → Byte

/-- A register or counter value the manual does not specify, applied to State.free. Log entry 5. -/
opaque Config.freeWord : Nat → Word

/-- A bit that an entropy source of the chip draws (R313, R507), applied to State.free. Log entry 5. -/
opaque Config.entropy : Nat → Byte

/-- Where the MSI-X capability lies in PCIe configuration space, which the manual leaves to the part (R33, R77). Log entry 31. -/
opaque Config.msixCap : Nat

/-- The first word of that capability as far as the manual does not give it: the pointer to the next one. Log entry 31. -/
opaque Config.msixNext : Word

/-- ML-DSA-65 verification (FIPS 204), which the manual names and does not define: key, message, signature. Log entry 7. -/
opaque Config.mlDsaVerify : List Byte → List Byte → List Byte → Bool

/-- ML-DSA-65 signing (FIPS 204) with the key that a 32-byte seed generates: seed, message (R500, R502). Log entry 7. -/
opaque Config.mlDsaSign : List Byte → List Byte → List Byte

/-- The ML-DSA-65 public key that a 32-byte seed generates (R500). Log entry 7. -/
opaque Config.mlDsaPublic : List Byte → List Byte

/-- The X.509 encoding of the alias certificate: seed of the device identity key that signs it, alias public key, serial number,
extension (R501). Log entry 7. -/
opaque Config.aliasCertificate : List Byte → List Byte → List Byte → List Byte → List Byte

/-- What an SPDM responder answers to a KEY_EXCHANGE: the ML-KEM-768 cipher text for a requester's key, from drawn bytes (R502).
Log entry 7. -/
opaque Config.mlKemEncapsulate : List Byte → List Byte → List Byte

/-- The secret that the same encapsulation shares with the requester (R502). Log entry 7. -/
opaque Config.mlKemSecret : List Byte → List Byte → List Byte

/-- The session key that follows from a handshake's secret (R502). Log entry 7. -/
opaque Config.sessionKey : List Byte → List Byte

/-- A message sealed with AES-256-GCM: key, number of the message under it, message (R502). Log entry 7. -/
opaque Config.sessionSeal : List Byte → Nat → List Byte → List Byte

/-- The algorithms that the attestation responder offers, in the roles signature, hash, key exchange and session AEAD (R502). -/
inductive SpdmAlg where
  | mlDsa65 | shake256 | mlKem768 | aes256Gcm
  deriving DecidableEq, Repr

/-- The number under which an algorithm is named as an extended algorithm, which the manual does not give (R502). Log entry 29. -/
opaque Config.extAlgorithm : SpdmAlg → Word

/-- The digest of the boot ROM that measurement 1 reports (R503). Log entry 7. -/
opaque Config.romDigest : List Byte

/-- λ of motion search, by codec and quantiser, which follows from the quantiser in a way the manual does not give (R406). Log
entry 91. -/
opaque Config.motionLambda : Nat → Nat → Rat

/-- The estimated bits of a motion vector, by codec, predictor and vector, in eighths of a sample (R406). Log entry 91. -/
opaque Config.motionBits : Nat → Int × Int → Int × Int → Rat

/-- What a DECODE found in its unit (R403): a picture; a picture whose headers are not usable; a sequence header, SPS or PPS that is
not usable; or no picture. -/
inductive UnitKind where
  | picture
  | headless
  | unusable
  | empty
  deriving DecidableEq, Repr, Inhabited

/-- What the sequence header in force states, in the numbers of its standard (R384): profile, bit depth, chroma_format_idc (0
monochrome, 1 4:2:0), level, whether the tier is High, and whether it asks for a tool that the CDE does not support. -/
structure SeqHead where
  profile : Nat
  depth   : Nat
  chroma  : Nat
  level   : Nat
  high    : Bool
  tools   : Bool
  deriving DecidableEq, Repr, Inhabited

/-- What the syntax of one tile says: where in the bitstream its data begins, up to where each of its units in decoding order needs
bytes, and the first unit at which the data breaks the syntax or a constraint of the standard. -/
structure Tile where
  start  : Nat
  needs  : List Nat
  damage : Option Nat
  deriving DecidableEq, Repr, Inhabited

/-- A prediction: a rectangle of luma samples (x, y, width, height) is predicted from a rectangle of a frame buffer; buffer 64 is a
reference picture that is missing. -/
structure Pred where
  dst : Nat × Nat × Nat × Nat
  buf : Nat
  src : Nat × Nat × Nat × Nat
  deriving DecidableEq, Repr, Inhabited

/-- What the headers of a unit say of marks and output (R399). AV1: refresh, the reference slots that take the picture; shown, whether
it is shown; existing, the slot that show_existing_frame shows. HEVC: poc, the picture order count, offset by 2^31; shorts and
longs, the counts in the reference picture set; shown, PicOutputFlag; newSeq, an IRAP picture with NoRaslOutputFlag 1; noPrior,
NoOutputOfPriorPicsFlag; reorder, latency and dpb, the limits of the bumping process; endSeq, an end-of-sequence NAL unit. -/
structure UnitMarks where
  refresh  : List Nat
  shown    : Bool
  existing : Option Nat
  poc      : Nat
  shorts   : List Nat
  longs    : List Nat
  newSeq   : Bool
  noPrior  : Bool
  reorder  : Nat
  latency  : Option Nat
  dpb      : Nat
  endSeq   : Bool
  deriving DecidableEq, Repr, Inhabited

/-- What a DECODE is given: the parameter block; the bytes of its unit, a poisoned one being none (R404); the marks; which buffer
each reference slot holds (AV1; 64: none); the picture order counts and the motion of frame buffers; what earlier units left. -/
structure DecodeInput where
  params : List Byte
  bits   : List (Option Byte)
  marks  : List Nat
  slots  : List Nat
  pocs   : List (Nat × Nat)
  motion : List (Nat × List Nat)
  past   : Nat
  deriving DecidableEq, Repr

/-- What the syntax of one unit says, as the standard parses it: what the unit holds; the sequence header in force; whether the
unit brings a sequence header, and a key frame or IRAP picture; the ranges of bytes (offset, length) that its sequence parameters
and its picture headers take; the frame size, the display size and the crop offset; bytes consumed; the size of its
units of concealment, as a power of two; where tile columns and rows after the first begin, in units; its tiles, row by row; what is
predicted from frame buffers; whether the headers yield marks, and those; and of each unit the motion that is kept (0: none); past: what
is left for later units. -/
structure Parsed where
  unit      : UnitKind
  seq       : SeqHead
  newSeq    : Bool
  key       : Bool
  seqBytes  : List (Nat × Nat)
  headBytes : List (Nat × Nat)
  frame     : Nat × Nat
  disp      : Nat × Nat
  crop      : Nat × Nat
  consumed  : Nat
  unitLog   : Nat
  cols      : List Nat
  rows      : List Nat
  tiles     : List Tile
  preds     : List Pred
  headMarks : Bool
  marks     : UnitMarks
  motion    : List Nat
  past      : Nat
  deriving DecidableEq, Repr, Inhabited

/-- The parsing process of the AV1 or HEVC standard for one unit (R385). Log entry 22. -/
opaque Config.parseUnit : DecodeInput → Parsed

/-- The reconstruction of the standard, in-loop filters included (R385, R402): of a unit, the units that are concealed, the samples of
the 64 frame buffers and of a missing reference, and the samples that the concealed units take, the samples of the picture (luma, then
chroma, row by row). Log entry 22. -/
opaque Config.reconstruct : DecodeInput → List (Nat × Nat) → List (List Nat) → List Nat → List Nat

/-- What an ENCODE is given (R405): the parameter block, the arguments of the command, the source samples (luma, then chroma, row by
row), the marks, the samples of the frame buffers that REF0 to REF6 name, the AV1 reference slots of these and those that take the
reconstruction, whether eighth-sample vectors are allowed, the motion of frame buffers, and what earlier commands of the
context left. -/
structure EncodeInput where
  params  : List Byte
  args    : List Byte
  source  : List Nat
  marks   : List Nat
  refs    : List (List Nat)
  refIdx  : List (Option Nat)
  refresh : List Nat
  hp      : Bool
  motion  : List (Nat × List Nat)
  past    : Nat
  deriving DecidableEq, Repr

/-- A block that the encoder searches: its rectangle (x, y, width, height), for each reference name the first motion-vector predictor
candidate, in eighths of a sample, and its quantiser (R406). -/
structure EncBlock where
  rect  : Nat × Nat × Nat × Nat
  preds : List (Int × Int)
  quant : Nat
  deriving DecidableEq, Repr, Inhabited

/-- What encoding makes of a picture (R405): the payloads of its parameter sets (AV1: of the sequence header; HEVC: of VPS, SPS and
PPS), the payloads that carry the picture (AV1: of its frame; HEVC: of its slices), the samples of its reconstruction, the motion of each
unit, and what the context keeps. -/
structure Encoded where
  heads  : List (List Byte)
  body   : List (List Byte)
  recon  : List Nat
  motion : List Nat
  past   : Nat
  deriving DecidableEq, Repr, Inhabited

/-- The block that the encoder, by its own choice of modes, tiles and quantisers, searches next, from what it is given and what the
blocks before it found; none when it has searched all (R405, R406). Log entry 22. -/
opaque Config.encodeNext : EncodeInput → List (EncBlock × List (Int × Int)) → Option EncBlock

/-- The encoding process of the standard, from what it is given and what motion search found (R405, R406). Log entry 22. -/
opaque Config.encodePicture : EncodeInput → List (EncBlock × List (Int × Int)) → Encoded

end Sys2Proof
end

