-- ==== Sys2Proof/Syntax.lean ====
section
/-! DEFINITION. The commands of the block: one constructor of Instr per row of spec/opcode_table.json. The table gives
the rows no operands; each operand here carries what the rule of the row takes from outside the chip (a ring or an
instance named by the sender, a word written to a register, bytes that a read of host memory returned, what a link or a
sensor showed, a time that passed). Log entry 1. -/

namespace Sys2Proof

/-- How one access of the device to host memory ended (R49, R58, R61, R553, R554): done, met CXL data poison, failed on
the link three times in a row; or the value a head word held when the device polled it (R61, R63). -/
inductive IoRes where
  | ok
  | poisoned
  | failed
  | head (v : Word)
  deriving DecidableEq, Repr

/-- What a read of a doorbell line returned (R45, R49). -/
inductive LineRead where
  | ok (words : List DWord)
  | poisoned
  | failed
  deriving DecidableEq, Repr

/-- What a read of one 64-byte slot of host memory (a Waybill, a ring context) returned (R58, R78). -/
inductive SlotRead where
  | ok (w : Slot)
  | poisoned
  | failed
  deriving DecidableEq, Repr

/-- What a read of a range of host memory returned: its bytes; with CXL data poison, the bytes and the host lines (address / 64)
that are poisoned (R521, R554); or nothing. -/
inductive BytesRead where
  | ok (bytes : List Byte)
  | poisoned (bytes : List Byte) (lines : List Nat)
  | failed
  deriving DecidableEq, Repr

/-- The engine kinds of R417 and R421. -/
inductive EngKind where
  | mxe | vxe | cve | cde | xfe | cle | gaz
  deriving DecidableEq, Repr

/-- What a link brings a port: the 256 bytes of a flit (R298), how many codewords since the flit before it the decoder corrected and
could not correct, and whether the flit overlaps one that it could not correct, be it counted with this flit or before: such a flit is
bad (R297). -/
structure Flit where
  bytes  : List Byte
  corr   : Nat
  uncorr : Nat
  hit    : Bool
  deriving DecidableEq, Repr

/-- Error marks that the reads of a step meet (R513, R515, R517): lines that a second read corrects, lines that stay
uncorrectable, by device virtual address, and SRAM words (memory code of R524, bank, corrected or not). -/
structure Marks where
  ce   : List Nat
  ue   : List Nat
  sram : List (Nat × Nat × Bool)
  deriving DecidableEq, Repr

/-- A Waybill whose command reads memory, and the error marks that those reads meet. -/
structure WbRead where
  wid   : Nat
  marks : Marks
  deriving DecidableEq, Repr

/-- The engine time that a command takes, in ns (R421), and the error marks that its reads meet. -/
structure Took where
  ns    : Nat
  marks : Marks
  deriving DecidableEq, Repr

/-- The port that a message came by, none for one of the device's own, and the error marks that the reads of its command meet. -/
structure PortRead where
  port  : Option Nat
  marks : Marks
  deriving DecidableEq, Repr

/-- One beat of a host access to lent memory: CXL data poison of what it writes, error marks of what it reads (R276, R515). -/
structure HdmBeat where
  poison : Bool
  marks  : Marks
  deriving DecidableEq, Repr

/-- A word written to a table command register, none while a load in progress goes on, and the error marks that its reads meet. -/
structure TableCmd where
  word  : Option Word
  marks : Marks
  deriving DecidableEq, Repr

/-- A compute die whose Theodolite ends a check, and the error marks that its reads meet. -/
structure CheckRead where
  die   : Nat
  marks : Marks
  deriving DecidableEq, Repr

/-- What the copy of a move meets (R222, R273, R515, R554): lines that came back from a host pool with CXL data poison, by place in the
page; error marks; and which reads under a lease on the page have ended before the switch, by place among the page's leases. -/
structure CopyRead where
  bad   : List Nat
  marks : Marks
  ended : List Nat
  deriving DecidableEq, Repr

/-- What a management epoch measured (R450 to R459, R531): input power in W averaged over the epoch, input current and
voltage at its end in mA and mV, inlet and outlet in 0.1 °C, flow pulses in the epoch, compute-die sensors in 0.1 °C, and
readings below the limits of checks 1, 3 and 7 as (check, item, value, lane). -/
structure EpochIn where
  power  : Nat
  iin    : Nat
  vin    : Nat
  tIn    : Int
  tOut   : Int
  pulses : Nat
  dies   : List Int
  checks : List (Nat × Nat × Nat × Nat)
  deriving DecidableEq, Repr

/-- How the work on a picture ends (R385, R401, R421): the time it took, in ns, and, when a DECODE reaches its work limit, how many units
were decoded by then. -/
structure Picture where
  ns      : Nat
  decoded : Option Nat
  deriving DecidableEq, Repr

/-- A CXL configuration request (R476); ideMode sets CXL.cachemem IDE to skid mode or to containment mode (R33). -/
inductive CfgOp where
  | cache (on : Bool)
  | mem (on : Bool)
  | msix (on mask : Bool)
  | ideMode (skid : Bool)
  | read (off : Nat)
  | write (off : Nat) (w : Word)
  deriving DecidableEq, Repr

/-- A unit whose control state can fail (R517). -/
inductive CtlUnit where
  | block (k : EngKind) (i : Nat)
  | signalBox (kind die : Nat)
  | surveyor (die : Nat)
  | expander (die : Nat)
  | theodolite (die : Nat)
  deriving DecidableEq, Repr

/-- The commands. -/
inductive Instr where
  | doorbellInvalidation (line : Nat)
  | doorbellReread (line : Nat) (rd : LineRead) (io : List IoRes)
  | consistAccept (ring : Nat) (slots : List SlotRead) (io : List IoRes)
  | cacheLoss (linkDown : Bool)
  | cacheReturn (speed width : Nat) (reads : List (Nat × LineRead)) (io : List IoRes)
  | nop (wid : Nat)
  | timestamp (wid : Nat) (io : List IoRes)
  | runTimetable (b : WbRead)
  | xfer (wid : Nat)
  | fill (wid : Nat)
  | map (wid : Nat)
  | unmap (wid : Nat)
  | hint (wid : Nat)
  | lendHost (wid : Nat)
  | lendFabric (wid : Nat)
  | reclaim (wid : Nat)
  | reclaimDone (wid : Nat)
  | unmapRelease (wid : Nat)
  | hash (wid : Nat) (took : Took)
  | lookup (wid : Nat) (took : Took)
  | insert (wid : Nat) (took : Took)
  | release (wid : Nat) (took : Took)
  | remove (wid : Nat) (took : Took)
  | viewOpen (wid : Nat) (took : Took)
  | viewClose (wid : Nat) (took : Took)
  | viewCloseDone (wid : Nat)
  | viewRead (wid addr len : Nat) (m : Marks)
  | codecOpen (b : WbRead)
  | codecClose (wid : Nat)
  | decode (wid : Nat)
  | encode (wid : Nat)
  | codecRelease (wid : Nat)
  | pictureDone (cde : Nat) (pic : Picture) (m : Marks)
  | tileRowBoundary (cde row : Nat)
  | classAge (wid : Nat)
  | allReduce (wid : Nat) (took : Took)
  | reduceScatter (wid : Nat) (took : Took)
  | allGather (wid : Nat) (took : Took)
  | allToAllV (wid : Nat) (took : Took)
  | collOpen (b : WbRead)
  | join (b : PortRead)
  | joinResend (wid : Nat)
  | grant (b : PortRead)
  | data (port : Option Nat) (took : Took)
  | check (port : Option Nat)
  | verdict (port : Option Nat)
  | poison (port : Option Nat)
  | abort (port : Option Nat)
  | collStepTimeout (wid member : Nat)
  | tileNotice (inst : Nat)
  | tstoreRoomFree (die : Nat)
  | mxeStep (inst cycles ns : Nat) (m : Marks)
  | positionReport (kind : EngKind) (inst ns : Nat)
  | epilogueDrainDone (inst cycles ns : Nat) (m : Marks)
  | theodoliteCheckDone (b : CheckRead)
  | vxeStep (inst cycles ns : Nat) (m : Marks)
  | cveStep (inst cycles ns : Nat) (m : Marks)
  | waybillComplete (wid : Nat) (io : List IoRes)
  | msixGapExpire (g : Nat)
  | grpHeadPoll (g : Nat) (io : List IoRes)
  | cqStall (g : Nat)
  | evqHeadPoll (io : List IoRes)
  | ringDrainEnd (ring : Nat) (io : List IoRes)
  | rngEnable
  | rngDisable (io : List IoRes)
  | attach (ring : Nat) (ctx : SlotRead) (rd : LineRead) (io : List IoRes)
  | detach (ring : Nat) (io : List IoRes)
  | evqEnable (w : Word) (io : List IoRes)
  | grpEnable (g : Nat) (w : Word) (io : List IoRes)
  | grpFaultRetry (g : Nat) (io : List IoRes)
  | bar0BadAccess (off size : Nat) (write : Bool)
  | loReadLatch (off : Nat)
  | registerWrite (off : Nat) (w : Word)
  | mxeCtrClr (i : Nat)
  | mxeNfClr (i : Nat)
  | thdClrEntry (die : Nat)
  | thdClrAll (die : Nat)
  | vxeCtrClr (i : Nat)
  | tableLoad (die : Nat) (w : TableCmd)
  | tableClear (die : Nat) (w : Word)
  | gazEnable (i : Nat) (w : Word)
  | gazCtrClr (i : Nat)
  | expCtrClr (i : Nat)
  | srvCtrClr (i : Nat)
  | xfeCtrClr (i : Nat)
  | cveCtrClr (i : Nat)
  | cdeCtrClr (i : Nat)
  | cleCtrClr (i : Nat)
  | quotaWrite (off : Nat) (w : Word)
  | poolFaultClear (off : Nat) (w : Word)
  | moveStart (die : Nat)
  | moveSwitch (page : Nat) (c : CopyRead)
  | moveDrainEnd (page ns : Nat)
  | poolFault (page ns : Nat)
  | heatDecay (die : Nat)
  | xferPieceDone (wid idx ns : Nat) (host : BytesRead) (m : Marks) (io : List IoRes)
  | hostHdmAccess (off : Nat) (wr : Option (List Byte)) (beat : HdmBeat)
  | portEnable (n : Nat)
  | portDisable (n : Nat)
  | portRetrain (n : Nat)
  | linkTrained (n lanes : Nat)
  | frameLock (n : Nat)
  | lockLost (n : Nat)
  | laneLost (n : Nat)
  | flitData (n : Nat) (f : Flit)
  | flitNak (n : Nat) (f : Flit)
  | flitIdle (n : Nat) (f : Flit)
  | replayTimeout (n : Nat)
  | ackTimeout (n : Nat)
  | assign (port : Option Nat)
  | noAssign (n : Nat)
  | read (port : Option Nat) (m : Marks)
  | write (port : Option Nat)
  | atomicAdd (b : PortRead)
  | atomicSwap (b : PortRead)
  | atomicCas (b : PortRead)
  | readRsp (port : Option Nat)
  | writeRsp (port : Option Nat)
  | atomicRsp (port : Option Nat)
  | resolveRsp (port : Option Nat)
  | resolveTimeout (ep : Nat)
  | notice (port : Option Nat)
  | resetCmd (port : Option Nat)
  | fabTimeout (tag : Nat)
  | tagQuarantineEnd (tag : Nat)
  | vrlPortClr (n : Nat)
  | vrlCtrClr
  | create (p : Nat)
  | partitionRemove (p : Nat)
  | evict (p : Nat)
  | suspend (p : Nat)
  | resume (p : Nat)
  | instanceFree (kind : EngKind) (inst : Nat)
  | semSet (w : Word)
  | semRangeWrite (off : Nat) (w : Word)
  | modeWrite (p : Nat) (w : Word)
  | shareWrite (p : Nat) (w : Word)
  | prtCtrClr (p : Nat)
  | managementEpoch (e : EpochIn) (io : List IoRes)
  | governorEval (iin vin : Nat)
  | brownout (vin iin : Nat)
  | brownoutEnd
  | currentLimit (iin vin : Nat)
  | ilimRelease
  | dieHot (die : Nat) (temp : Int)
  | flowLow
  | flowRelease
  | leak (asserted : Bool)
  | sensorRefFail (die : Nat) (reading : Int)
  | sensorRefPass (die : Nat)
  | ballastHoldExpire (mxe : Nat)
  | pwrStatClr
  | domainSleep (d : Nat)
  | domainWake (d : Nat)
  | pllLock (d : Nat)
  | clkForceWrite (w : Word)
  | crystalLost
  | aonRailUp (busSel : Bool) (addr : Nat)
  | powerGoodFall
  | inputSwitchOpen
  | thermalTrip (die : Nat)
  | watchdogExpire
  | perstAssert
  | hotReset
  | functionLevelReset
  | mctpReset (kind : Nat)
  | resetHoldEnd (source : Nat)
  | resetRelease
  | pllLockTimeout (d : Nat)
  | deviceReady (failed : List (EngKind × Nat × Nat))
  | blockReset (w : Word)
  | dieFence (kind die cause : Nat)
  | dieRestart (kind die : Nat)
  | dieRestarted (ok : Bool)
  | bootVerify (flashOk : Bool)
  | rcvStart (host : BytesRead)
  | rcvTransferDone
  | requestUpdate (size : Nat)
  | passComponentTable
  | updateComponent (head : List Byte)
  | requestFirmwareData (off : Nat) (bytes : List Byte)
  | transferComplete
  | verifyComplete
  | applyComplete
  | svnCommit (mctp : Bool)
  | sealDevice
  | sealPartition (p : Nat)
  | getVersion (t : Nat)
  | getCapabilities (t : Nat)
  | negotiateAlgorithms (t : Nat) (offered : List SpdmAlg)
  | getDigests (t : Nat)
  | getCertificate (t slot off len : Nat)
  | challenge (t slot : Nat) (nonce : List Byte)
  | getMeasurements (t : Nat) (index : Option Nat) (sign : Bool) (nonce : List Byte)
  | keyExchange (t : Nat) (key : List Byte)
  | finish (t : Nat) (ok : Bool)
  | endSession (t : Nat)
  | ideKm (t : Nat) (key : List Byte)
  | debugChallengeRead (mctp : Bool)
  | debugUnlock (level : Nat) (sig : List Byte) (mctp : Bool)
  | debugChallengeExpire
  | debugLockoutEnd
  | blockIdleTimeout (kind : EngKind) (inst : Nat)
  | junctionFlitBad (recvKind recvDie farKind farDie : Nat) (retrained : Bool)
  | junctionLinkFail (recvKind recvDie farKind farDie : Nat)
  | chipFatal (cause : Nat) (io : List IoRes)
  | scrubRead (die : Nat) (addr : Nat) (symbols : Nat) (ue : Bool)
  | bstSliceDue (kind : EngKind) (inst slice : Nat)
  | bstSliceOverdue (kind : EngKind) (inst slice : Nat)
  | bstSliceStart (kind : EngKind) (inst slice : Nat)
  | bstSliceDone (kind : EngKind) (inst : Nat) (want got : Word)
  | bstCmd (w : Word) (sigs : List (Word × Word))
  | bstCtrClr
  | errCtrClr
  | hbmPhyMarginCheck (stack value channel : Nat)
  | lpddrPhyCheck (pkg value channel : Nat)
  | portLoopbackCheck (n errors : Nat)
  | cxlMarginCheck (lane value : Nat)
  | collPoisonTimeout (wid : Nat)
  | controlParityFailure (u : CtlUnit)
  | watchdogRestart
  | auxiliaryRailLoss
  | cxlReferenceClockChange (present : Bool)
  | mctpControlMessage (msg : List Byte)
  | configRequest (speed width : Nat) (op : CfgOp)
  | brownoutReleaseLevel (rise : Bool) (vin : Nat)
  deriving DecidableEq, Repr

end Sys2Proof
end

