-- ==== Sys2Proof/Machine/Bits.lean ====
section
/-! DEFINITION. Bit fields, byte order and the canonical sparse map that device memory, the BAR0 registers and the
semaphores are held in (R6, R7). -/

namespace Sys2Proof.Machine

/-- Bits [hi:lo] of a number, both ends included (R6). -/
def bitsN (hi lo n : Nat) : Nat := (n >>> lo) % 2 ^ (hi + 1 - lo)

/-- Bits [hi:lo] of a bit vector, as a number (R6). -/
def bits {w : Nat} (hi lo : Nat) (x : BitVec w) : Nat := bitsN hi lo x.toNat

/-- Bit i of a bit vector. -/
def bit {w : Nat} (i : Nat) (x : BitVec w) : Bool := x.getLsbD i

/-- A number's low bits put at position lo. -/
def putBits (hi lo v : Nat) : Nat := (v % 2 ^ (hi + 1 - lo)) <<< lo

/-- A register word with its field [hi:lo] replaced by v. -/
def setBits (hi lo : Nat) (x : Word) (v : Nat) : Word :=
  let mask := BitVec.ofNat 32 ((2 ^ (hi + 1 - lo) - 1) <<< lo)
  (x &&& ~~~mask) ||| BitVec.ofNat 32 (putBits hi lo v)

/-- n bytes of a number, least significant first (R7). -/
def leBytes : Nat → Nat → List Byte
  | 0, _ => []
  | n + 1, v => BitVec.ofNat 8 v :: leBytes n (v / 256)

/-- The number that a little-endian list of bytes spells (R7). -/
def leNat : List Byte → Nat
  | [] => 0
  | b :: bs => b.toNat + 256 * leNat bs

/-- A field of a memory-resident structure: bits [hi:lo] counted from byte offset off (R7). -/
def fieldAt (bs : List Byte) (off hi lo : Nat) : Nat := bitsN hi lo (leNat ((bs.drop off).take (hi / 8 + 1)))

/-- A field of a Waybill: bits [hi:lo] counted from byte offset off (R50). -/
def slotField (w : Slot) (off hi lo : Nat) : Nat := bitsN hi lo (w.toNat >>> (8 * off))

/-- The signed reading of an n-bit number (R8). -/
def signed (n v : Nat) : Int := if v < 2 ^ (n - 1) then (v : Int) else (v : Int) - (2 ^ n : Nat)

/-- A counter that holds at its highest value (R147). -/
def satAdd (width a b : Nat) : Nat := min (a + b) (2 ^ width - 1)

/-- Division rounded up. -/
def ceilDiv (a b : Nat) : Nat := if b = 0 then 0 else (a + b - 1) / b

/-- Value of a key in a canonical sparse map whose unlisted keys read as d. -/
def sget {α : Type} (d : Nat → α) : List (Nat × α) → Nat → α
  | [], k => d k
  | (k', v) :: r, k => if k' = k then v else sget d r k

/-- The map with one key written: keys stay strictly rising and no entry equals what an unlisted key reads as. -/
def sset {α : Type} [DecidableEq α] (d : Nat → α) : List (Nat × α) → Nat → α → List (Nat × α)
  | [], k, v => if v = d k then [] else [(k, v)]
  | (k', v') :: r, k, v =>
    if k < k' then (if v = d k then (k', v') :: r else (k, v) :: (k', v') :: r)
    else if k = k' then (if v = d k then r else (k, v) :: r)
    else (k', v') :: sset d r k v

/-- Every key of a list lies above a bound, the keys rise, and no entry reads as an unlisted key would. -/
def swfFrom {α : Type} [DecidableEq α] (d : Nat → α) : Option Nat → List (Nat × α) → Bool
  | _, [] => true
  | lo, (k, v) :: r =>
    (match lo with | none => true | some b => decide (b < k)) && decide (v ≠ d k) && swfFrom d (some k) r

/-- The canonical form of a sparse map. -/
def swf {α : Type} [DecidableEq α] (d : Nat → α) (m : List (Nat × α)) : Bool := swfFrom d none m

/-- Write a list of values at consecutive keys. -/
def ssetMany {α : Type} [DecidableEq α] (d : Nat → α) : List (Nat × α) → Nat → List α → List (Nat × α)
  | m, _, [] => m
  | m, k, v :: vs => ssetMany d (sset d m k v) (k + 1) vs

/-- Read n values at consecutive keys. -/
def sgetMany {α : Type} (d : Nat → α) (m : List (Nat × α)) (k : Nat) : Nat → List α
  | 0 => []
  | n + 1 => sget d m k :: sgetMany d m (k + 1) n

/-- The first element that a strict order puts before every other (ties to the earlier one). -/
def pickMin {α : Type} (lt : α → α → Bool) : List α → Option α
  | [] => none
  | a :: as => match pickMin lt as with
    | none => some a
    | some b => if lt b a then some b else some a

/-- Insert into a list kept in order by a key. -/
def insertByKey {α : Type} (key : α → Nat) (x : α) : List α → List α
  | [] => [x]
  | y :: ys => if key x ≤ key y then x :: y :: ys else y :: insertByKey key x ys

/-- A list put in rising order of a key (stable). -/
def sortByKey {α : Type} (key : α → Nat) (l : List α) : List α := l.foldr (insertByKey key) []

/-- Lexicographic order on lists of numbers. -/
def lexLt : List Nat → List Nat → Bool
  | [], [] => false
  | [], _ :: _ => true
  | _ :: _, [] => false
  | a :: as, b :: bs => if a < b then true else if b < a then false else lexLt as bs

/-- Change the elements of a list that a test picks. -/
def updIf {α : Type} (p : α → Bool) (f : α → α) (l : List α) : List α := l.map fun x => if p x then f x else x

/-- Fold a step function over a list of inputs, threading a state. -/
def foldS {σ α : Type} (f : σ → α → σ) (s : σ) (l : List α) : σ := l.foldl f s

end Sys2Proof.Machine
end

