-- ==== Sys2Proof/Machine/Num.lean ====
section
/-! DEFINITION. Exact numbers with NaN, infinities and signed zeros, and their rounding to the formats of the manual
(R121, R123, R124, R148 to R150): a result is computed exactly and rounded once. -/

namespace Sys2Proof.Machine

/-- A number as the engines see it: NaN, an infinity, or (-1)^neg times m times 2^e with its own sign of zero. -/
inductive FNum where
  | nan
  | inf (neg : Bool)
  | fin (neg : Bool) (m : Nat) (e : Int)
  deriving DecidableEq, Repr

/-- +0.0 -/
def nzero : FNum := .fin false 0 0
/-- -0.0 -/
def nzeroNeg : FNum := .fin true 0 0
/-- 1.0 -/
def none1 : FNum := .fin false 1 0
/-- A power of two. -/
def npow2 (e : Int) : FNum := .fin false 1 e
/-- An integer. -/
def nofInt (i : Int) : FNum := .fin (decide (i < 0)) i.natAbs 0

/-- Is the number a NaN? -/
def nisNan : FNum → Bool
  | .nan => true
  | _ => false
/-- Is the number finite? -/
def nisFin : FNum → Bool
  | .fin _ _ _ => true
  | _ => false
/-- Is the number a zero of either sign? -/
def nisZero : FNum → Bool
  | .fin _ m _ => m == 0
  | _ => false
/-- The sign bit (false for NaN). -/
def nneg : FNum → Bool
  | .nan => false
  | .inf s => s
  | .fin s _ _ => s
/-- The number with its sign changed. -/
def nnegate : FNum → FNum
  | .nan => .nan
  | .inf s => .inf (!s)
  | .fin s m e => .fin (!s) m e
/-- The magnitude. -/
def nabs : FNum → FNum
  | .nan => .nan
  | .inf _ => .inf false
  | .fin _ m e => .fin false m e

/-- floor(log2 |x|) of a finite non-zero number. -/
def nexp : FNum → Int
  | .fin _ m e => (Nat.log2 m : Int) + e
  | _ => 0

/-- The exact product; Inf times 0 is NaN (R124). -/
def nmul : FNum → FNum → FNum
  | .nan, _ => .nan
  | _, .nan => .nan
  | .inf s, .inf t => .inf (s != t)
  | .inf s, .fin t m _ => if m = 0 then .nan else .inf (s != t)
  | .fin s m _, .inf t => if m = 0 then .nan else .inf (s != t)
  | .fin s m e, .fin t n f => .fin (s != t) (m * n) (e + f)

/-- A finite number as an integer multiple of 2^q, for q at most its exponent. -/
def nscaled (q : Int) : FNum → Int
  | .fin s m e => let v : Int := (m * 2 ^ (e - q).toNat : Nat); if s then -v else v
  | _ => 0

/-- The smallest exponent of the non-zero finite numbers of a list. -/
def nminExp : List FNum → Int
  | [] => 0
  | [.fin _ _ e] => e
  | .fin _ _ e :: r => min e (nminExp r)
  | _ :: r => nminExp r

/-- The exact sum (R124): NaN if any term is, or if infinities of both signs meet; an exact zero is +0.0 unless every
term is -0.0. -/
def nsum (l : List FNum) : FNum :=
  if l.any nisNan then .nan
  else
    let pos := l.any fun x => decide (x = .inf false)
    let neg := l.any fun x => decide (x = .inf true)
    if pos && neg then .nan else if pos then .inf false else if neg then .inf true
    else
      let q := nminExp l
      let t : Int := (l.map (nscaled q)).foldl (· + ·) 0
      if t = 0 then (if l.length > 0 && l.all nneg then nzeroNeg else nzero)
      else .fin (decide (t < 0)) t.natAbs q

/-- The exact sum of two numbers. -/
def nadd (a b : FNum) : FNum := nsum [a, b]

/-- Integer quotient rounded to nearest, ties to even. -/
def divRne (a b : Nat) : Nat :=
  let q := a / b
  let r := a % b
  if 2 * r > b || (2 * r == b && q % 2 == 1) then q + 1 else q

/-- Round to nearest even with p significand bits, least exponent qmin and overflow to infinity at 2^emax. -/
def nround (p : Nat) (qmin emax : Int) : FNum → FNum
  | .fin s m e =>
    if m = 0 then .fin s 0 0
    else
      let q := max (e + (Nat.log2 m : Int) + 1 - p) qmin
      let m' := if q ≤ e then m * 2 ^ (e - q).toNat else divRne m (2 ^ (q - e).toNat)
      if m' = 0 then .fin s 0 0
      else if (Nat.log2 m' : Int) + q ≥ emax then .inf s
      else .fin s m' q
  | x => x

/-- Rounded to binary32 (R121, R123). -/
def rne32 : FNum → FNum := nround 24 (-149) 128
/-- Rounded to BF16 (R131). -/
def rneBf16 : FNum → FNum := nround 8 (-133) 128
/-- Rounded to binary64 (R172, R173). -/
def rne64 : FNum → FNum := nround 53 (-1074) 1024

/-- The code of a number in a binary format with w exponent bits and t mantissa bits; the number is one of the format.
NaN has the quiet bit alone set (R124). -/
def nencode (w t : Nat) : FNum → Nat
  | .nan => ((2 ^ w - 1) * 2 + 1) * 2 ^ (t - 1)
  | .inf s => (if s then 2 ^ (w + t) else 0) + (2 ^ w - 1) * 2 ^ t
  | .fin s m e =>
    let sg := if s then 2 ^ (w + t) else 0
    if m = 0 then sg
    else
      let bias : Int := 2 ^ (w - 1) - 1
      let x : Int := max ((Nat.log2 m : Int) + e) (1 - bias)
      let q : Int := x - t
      let sig := if q ≤ e then m * 2 ^ (e - q).toNat else m / 2 ^ (q - e).toNat
      if sig < 2 ^ t then sg + sig else sg + (x + bias).toNat * 2 ^ t + (sig - 2 ^ t)

/-- The number that a code of a binary format spells (R149). -/
def ndecode (w t : Nat) (c : Nat) : FNum :=
  let s := decide ((c / 2 ^ (w + t)) % 2 = 1)
  let x := (c / 2 ^ t) % 2 ^ w
  let f := c % 2 ^ t
  let bias : Int := 2 ^ (w - 1) - 1
  if x = 2 ^ w - 1 then (if f = 0 then .inf s else .nan)
  else if x = 0 then .fin s f (1 - bias - t)
  else .fin s (2 ^ t + f) ((x : Int) - bias - t)

/-- A binary32 code as a number, and back. -/
def ofF32 (x : Word) : FNum := ndecode 8 23 x.toNat
/-- The binary32 code of a number, rounded once. -/
def toF32 (x : FNum) : Word := BitVec.ofNat 32 (nencode 8 23 (rne32 x))
/-- A BF16 code as a number. -/
def ofBf16 (c : Nat) : FNum := ndecode 8 7 c
/-- The BF16 code of a number, rounded once. -/
def toBf16 (x : FNum) : Nat := nencode 8 7 (rneBf16 x)

/-- Binary32 operations: computed exactly and rounded once (R128). -/
def addF (a b : Word) : Word := toF32 (nadd (ofF32 a) (ofF32 b))
/-- Binary32 difference. -/
def subF (a b : Word) : Word := toF32 (nadd (ofF32 a) (nnegate (ofF32 b)))
/-- Binary32 product. -/
def mulF (a b : Word) : Word := toF32 (nmul (ofF32 a) (ofF32 b))

/-- Less than, on numbers that are not NaN; zeros compare equal. -/
def nlt : FNum → FNum → Bool
  | .nan, _ => false
  | _, .nan => false
  | .inf s, .inf t => s && !t
  | .inf s, .fin _ _ _ => s
  | .fin _ _ _, .inf t => !t
  | .fin s m e, .fin t n f =>
    let q := min e f
    decide (nscaled q (.fin s m e) < nscaled q (.fin t n f))

/-- At most, on numbers that are not NaN. -/
def nle (a b : FNum) : Bool := !nisNan a && !nisNan b && !nlt b a

/-- Equality of value; zeros of both signs are equal, NaN equals nothing. -/
def neqv (a b : FNum) : Bool := nle a b && nle b a

/-- The larger of two numbers with -0.0 below +0.0 (R126, R341); NaN if either is. -/
def nmax (a b : FNum) : FNum :=
  if nisNan a || nisNan b then .nan
  else if nlt a b then b else if nlt b a then a
  else if nneg a then b else a

/-- The smaller of two numbers with -0.0 below +0.0 (R126, R341); NaN if either is. -/
def nmin (a b : FNum) : FNum :=
  if nisNan a || nisNan b then .nan
  else if nlt a b then a else if nlt b a then b
  else if nneg a then a else b

/-- The quotient of two finite non-zero numbers with p significand bits kept, and a sticky bit below them. -/
def nquot (s : Bool) (m : Nat) (e : Int) (n : Nat) (f : Int) (p : Nat) : FNum :=
  let sh := p + 2 + Nat.log2 n + 1
  let q := (m * 2 ^ sh) / n
  let sticky := if (m * 2 ^ sh) % n = 0 then 0 else 1
  .fin s (2 * q + sticky) (e - f - sh - 1)

/-- Division before rounding to at most p bits (division by zero and infinities as IEEE 754). -/
def ndiv (p : Nat) : FNum → FNum → FNum
  | .nan, _ => .nan
  | _, .nan => .nan
  | .inf _, .inf _ => .nan
  | .inf s, .fin t _ _ => .inf (s != t)
  | .fin s _ _, .inf t => .fin (s != t) 0 0
  | .fin s m e, .fin t n f =>
    if n = 0 then (if m = 0 then .nan else .inf (s != t))
    else if m = 0 then .fin (s != t) 0 0
    else nquot (s != t) m e n f p

/-- Binary32 division, correctly rounded. -/
def divF (a b : Word) : Word := toF32 (ndiv 24 (ofF32 a) (ofF32 b))

/-- The square root before rounding to at most p bits. -/
def nsqrt (p : Nat) : FNum → FNum
  | .nan => .nan
  | .inf s => if s then .nan else .inf false
  | .fin s m e =>
    if m = 0 then .fin s 0 0
    else if s then .nan
    else
      let sh0 := 2 * p + 4
      let sh := if (e - sh0) % 2 = 0 then sh0 else sh0 + 1
      let r := Nat.sqrt (m * 2 ^ sh)
      let sticky := if r * r = m * 2 ^ sh then 0 else 1
      .fin false (2 * r + sticky) ((e - sh) / 2 - 1)

/-- Binary32 square root, correctly rounded. -/
def sqrtF (a : Word) : Word := toF32 (nsqrt 24 (ofF32 a))

/-- Is a binary32 code NaN or infinite? -/
def nonFinite (x : Word) : Bool := !nisFin (ofF32 x)

/-- +0.0, -Inf and the canonical NaN of binary32 (R124). -/
def f32Zero : Word := 0x00000000#32
/-- minus infinity -/
def f32NegInf : Word := 0xFF800000#32
/-- plus infinity -/
def f32PosInf : Word := 0x7F800000#32
/-- The canonical quiet NaN (R124). -/
def f32Nan : Word := 0x7FC00000#32

/-- Truncate a finite number toward zero to a multiple of 2^q. -/
def ntrunc (q : Int) : FNum → FNum
  | .fin s m e => if q ≤ e then .fin s m e else .fin s (m / 2 ^ (q - e).toNat) q
  | x => x

/-- The accumulator update of one cell-cycle (R121, R124): terms truncated to 63 binades below the largest, summed
exactly, rounded once. -/
def accUpdate (c : Word) (terms : List FNum) : Word :=
  let xs := ofF32 c :: terms
  if xs.any fun x => !nisFin x then toF32 (nsum xs)
  else
    match (xs.filter fun x => !nisZero x).map nexp with
    | [] => toF32 (nsum xs)
    | e0 :: es =>
      let e := es.foldl max e0
      let t := xs.map (ntrunc (e - 63))
      match nsum t with
      | .fin s m q => if m = 0 then f32Zero else toF32 (.fin s m q)
      | x => toF32 x

/-- The ROW_SUM and R341 binary tree over present values: pairs in ascending order, an absent child passes the other up. -/
def treeLevel (f : Word → Word → Word) : List (Option Word) → List (Option Word)
  | a :: b :: r => (match a, b with
      | some x, some y => some (f x y)
      | some x, none => some x
      | none, some y => some y
      | none, none => none) :: treeLevel f r
  | l => l

/-- A binary tree over a list, taken level by level (fuel: the number of levels). -/
def treeFold (f : Word → Word → Word) : Nat → List (Option Word) → Option Word
  | _, [] => none
  | _, [x] => x
  | 0, x :: _ => x
  | k + 1, l => treeFold f k (treeLevel f l)

/-- A list cut into pieces of n (fuel: at most as many pieces as elements). -/
def chunksOf {α : Type} (n : Nat) : Nat → List α → List (List α)
  | 0, _ => []
  | _, [] => []
  | k + 1, l => l.take n :: chunksOf n k (l.drop n)

end Sys2Proof.Machine
end

