-- ==== Sys2Proof/Machine/RegTable.lean ====
section
/-! DEFINITION. Every register of BAR0 (R36): where it lies, and the access code and reset value of each of its fields,
as the register tables of the chapters give them. The reset values that differ by assembly or by part (GLB_ASSY,
SRV_CAP, PWR_LIMIT, CLK_RUN, RST_CAUSE, the fuses) stand in State.lean. -/

namespace Sys2Proof.Machine

/-- The access codes of R9. -/
inductive Access where
  | ro | rw | w1c | wo | rwl
  deriving DecidableEq, Repr

/-- One field [hi:lo] of a register. -/
structure RegField where
  acc   : Access
  hi    : Nat
  lo    : Nat
  reset : Nat
  deriving DecidableEq, Repr

/-- A register or an array of registers: base offset in BAR0; dies and instances per die (instance stride inner); two
further strides j and k for numbered registers. -/
structure RegSpec where
  base : Nat
  dies : Nat
  per : Nat
  inner : Nat
  jStride : Nat
  jCount : Nat
  kStride : Nat
  kCount : Nat
  fields : List RegField
  deriving DecidableEq, Repr

/-- `GLB_ID` (R37) -/
def rGlbId : Nat := 0x0
/-- `GLB_ASSY` (R37) -/
def rGlbAssy : Nat := 0x4
/-- `HIF_LINK_STATUS` (R75) -/
def rHifLinkStatus : Nat := 0x100000
/-- `RNG_CTX_BASE_LO` (R75) -/
def rRngCtxBaseLo : Nat := 0x100010
/-- `RNG_CTX_BASE_HI` (R75) -/
def rRngCtxBaseHi : Nat := 0x100014
/-- `RNG_DB_BASE_LO` (R75) -/
def rRngDbBaseLo : Nat := 0x100018
/-- `RNG_DB_BASE_HI` (R75) -/
def rRngDbBaseHi : Nat := 0x10001c
/-- `RNG_EVQ_BASE_LO` (R75) -/
def rRngEvqBaseLo : Nat := 0x100030
/-- `RNG_EVQ_BASE_HI` (R75) -/
def rRngEvqBaseHi : Nat := 0x100034
/-- `RNG_EVQ_HEAD_LO` (R75) -/
def rRngEvqHeadLo : Nat := 0x100038
/-- `RNG_EVQ_HEAD_HI` (R75) -/
def rRngEvqHeadHi : Nat := 0x10003c
/-- `RNG_CTL` (R75) -/
def rRngCtl : Nat := 0x100020
/-- `RNG_CMD` (R75) -/
def rRngCmd : Nat := 0x100024
/-- `RNG_CMD_STATUS` (R75) -/
def rRngCmdStatus : Nat := 0x100028
/-- `RNG_EVQ_CFG` (R75) -/
def rRngEvqCfg : Nat := 0x100040
/-- `RNG_EVQ_LOST` (R75) -/
def rRngEvqLost : Nat := 0x100044
/-- `RNG_DB_LINES` (R75) -/
def rRngDbLines : Nat := 0x100048
/-- `RNG_GRP_BASE_LO` (R76) -/
def rRngGrpBaseLo (j : Nat) : Nat := 0x108000 + j * 32
/-- `RNG_GRP_BASE_HI` (R76) -/
def rRngGrpBaseHi (j : Nat) : Nat := 0x108004 + j * 32
/-- `RNG_GRP_HEAD_LO` (R76) -/
def rRngGrpHeadLo (j : Nat) : Nat := 0x108008 + j * 32
/-- `RNG_GRP_HEAD_HI` (R76) -/
def rRngGrpHeadHi (j : Nat) : Nat := 0x10800c + j * 32
/-- `RNG_GRP_CFG` (R76) -/
def rRngGrpCfg (j : Nat) : Nat := 0x108010 + j * 32
/-- `RNG_GRP_MOD` (R76) -/
def rRngGrpMod (j : Nat) : Nat := 0x108014 + j * 32
/-- `RNG_GRP_STATUS` (R76) -/
def rRngGrpStatus (j : Nat) : Nat := 0x108018 + j * 32
/-- `MXE_CFG` (R147) -/
def rMxeCfg (i : Nat) : Nat := 0x1000000 + i / 4 * 0x400000 + i % 4 * 0x1000
/-- `MXE_STATUS` (R147) -/
def rMxeStatus (i : Nat) : Nat := 0x1000004 + i / 4 * 0x400000 + i % 4 * 0x1000
/-- `MXE_POS` (R147) -/
def rMxePos (i : Nat) : Nat := 0x1000008 + i / 4 * 0x400000 + i % 4 * 0x1000
/-- `MXE_TT_LO` (R147) -/
def rMxeTtLo (i : Nat) : Nat := 0x1000010 + i / 4 * 0x400000 + i % 4 * 0x1000
/-- `MXE_TT_HI` (R147) -/
def rMxeTtHi (i : Nat) : Nat := 0x1000014 + i / 4 * 0x400000 + i % 4 * 0x1000
/-- `MXE_CYC_LO` (R147) -/
def rMxeCycLo (i : Nat) : Nat := 0x1000018 + i / 4 * 0x400000 + i % 4 * 0x1000
/-- `MXE_CYC_HI` (R147) -/
def rMxeCycHi (i : Nat) : Nat := 0x100001c + i / 4 * 0x400000 + i % 4 * 0x1000
/-- `MXE_STEPS_LO` (R147) -/
def rMxeStepsLo (i : Nat) : Nat := 0x1000020 + i / 4 * 0x400000 + i % 4 * 0x1000
/-- `MXE_STEPS_HI` (R147) -/
def rMxeStepsHi (i : Nat) : Nat := 0x1000024 + i / 4 * 0x400000 + i % 4 * 0x1000
/-- `MXE_SKIPS_LO` (R147) -/
def rMxeSkipsLo (i : Nat) : Nat := 0x1000028 + i / 4 * 0x400000 + i % 4 * 0x1000
/-- `MXE_SKIPS_HI` (R147) -/
def rMxeSkipsHi (i : Nat) : Nat := 0x100002c + i / 4 * 0x400000 + i % 4 * 0x1000
/-- `MXE_WAITS` (R147) -/
def rMxeWaits (i : Nat) : Nat := 0x1000030 + i / 4 * 0x400000 + i % 4 * 0x1000
/-- `MXE_NONFINITE` (R147) -/
def rMxeNonfinite (i : Nat) : Nat := 0x1000034 + i / 4 * 0x400000 + i % 4 * 0x1000
/-- `MXE_OUTLIERS` (R147) -/
def rMxeOutliers (i : Nat) : Nat := 0x1000038 + i / 4 * 0x400000 + i % 4 * 0x1000
/-- `MXE_STREAM_MISS` (R147) -/
def rMxeStreamMiss (i : Nat) : Nat := 0x100003c + i / 4 * 0x400000 + i % 4 * 0x1000
/-- `MXE_ECC` (R147) -/
def rMxeEcc (i : Nat) : Nat := 0x1000040 + i / 4 * 0x400000 + i % 4 * 0x1000
/-- `MXE_CTR_CLR` (R147) -/
def rMxeCtrClr (i : Nat) : Nat := 0x1000044 + i / 4 * 0x400000 + i % 4 * 0x1000
/-- `MXE_DIE_PRESENT` (R147) -/
def rMxeDiePresent (i : Nat) : Nat := 0x1004000 + i * 0x400000
/-- `MXE_TSTORE` (R147) -/
def rMxeTstore (i : Nat) : Nat := 0x1004004 + i * 0x400000
/-- `MXE_TSLOTS` (R147) -/
def rMxeTslots (i : Nat) : Nat := 0x1004008 + i * 0x400000
/-- `MXE_TSLOTS_HI` (R147) -/
def rMxeTslotsHi (i : Nat) : Nat := 0x100400c + i * 0x400000
/-- `MXE_TSTORE_WAITS` (R147) -/
def rMxeTstoreWaits (i : Nat) : Nat := 0x1004010 + i * 0x400000
/-- `MXE_NF_CFG` (R180) -/
def rMxeNfCfg (i : Nat) : Nat := 0x1005000 + i * 0x400000
/-- `MXE_NF_OVF_THR` (R180) -/
def rMxeNfOvfThr (i : Nat) : Nat := 0x1005004 + i * 0x400000
/-- `MXE_NF_SAT_LO` (R180) -/
def rMxeNfSatLo (i : Nat) : Nat := 0x1005008 + i * 0x400000
/-- `MXE_NF_SAT_HI` (R180) -/
def rMxeNfSatHi (i : Nat) : Nat := 0x100500c + i * 0x400000
/-- `MXE_NF_OVF_LO` (R180) -/
def rMxeNfOvfLo (i : Nat) : Nat := 0x1005010 + i * 0x400000
/-- `MXE_NF_OVF_HI` (R180) -/
def rMxeNfOvfHi (i : Nat) : Nat := 0x1005014 + i * 0x400000
/-- `MXE_NF_LANE_BAD` (R180) -/
def rMxeNfLaneBad (i : Nat) : Nat := 0x1005018 + i * 0x400000
/-- `MXE_NF_CLR` (R180) -/
def rMxeNfClr (i : Nat) : Nat := 0x100501c + i * 0x400000
/-- `MXE_THD_CFG` (R180) -/
def rMxeThdCfg (i : Nat) : Nat := 0x1005040 + i * 0x400000
/-- `MXE_THD_SEED` (R180) -/
def rMxeThdSeed (i : Nat) : Nat := 0x1005044 + i * 0x400000
/-- `MXE_THD_SEL` (R180) -/
def rMxeThdSel (i : Nat) : Nat := 0x1005048 + i * 0x400000
/-- `MXE_THD_CLR` (R180) -/
def rMxeThdClr (i : Nat) : Nat := 0x100504c + i * 0x400000
/-- `MXE_THD_KEY_LO` (R180) -/
def rMxeThdKeyLo (i : Nat) : Nat := 0x1005050 + i * 0x400000
/-- `MXE_THD_KEY_HI` (R180) -/
def rMxeThdKeyHi (i : Nat) : Nat := 0x1005054 + i * 0x400000
/-- `MXE_THD_INFO` (R180) -/
def rMxeThdInfo (i : Nat) : Nat := 0x1005058 + i * 0x400000
/-- `MXE_THD_SAMPLES` (R180) -/
def rMxeThdSamples (i : Nat) : Nat := 0x100505c + i * 0x400000
/-- `MXE_THD_DRIFTING` (R180) -/
def rMxeThdDrifting (i : Nat) : Nat := 0x1005060 + i * 0x400000
/-- `MXE_THD_SKIP_BUSY` (R180) -/
def rMxeThdSkipBusy (i : Nat) : Nat := 0x1005064 + i * 0x400000
/-- `MXE_THD_SKIP_SIZE` (R180) -/
def rMxeThdSkipSize (i : Nat) : Nat := 0x1005068 + i * 0x400000
/-- `MXE_THD_SKIP_NF` (R180) -/
def rMxeThdSkipNf (i : Nat) : Nat := 0x100506c + i * 0x400000
/-- `MXE_THD_LAST_LO` (R180) -/
def rMxeThdLastLo (i : Nat) : Nat := 0x1005070 + i * 0x400000
/-- `MXE_THD_LAST_HI` (R180) -/
def rMxeThdLastHi (i : Nat) : Nat := 0x1005074 + i * 0x400000
/-- `MXE_THD_BIN` (R180) -/
def rMxeThdBin (i j : Nat) : Nat := 0x1005080 + i * 0x400000 + j * 4
/-- `VXE_CFG` (R205) -/
def rVxeCfg (i : Nat) : Nat := 0x1006000 + i / 2 * 0x400000 + i % 2 * 0x1000
/-- `VXE_STATUS` (R205) -/
def rVxeStatus (i : Nat) : Nat := 0x1006004 + i / 2 * 0x400000 + i % 2 * 0x1000
/-- `VXE_POS` (R205) -/
def rVxePos (i : Nat) : Nat := 0x1006008 + i / 2 * 0x400000 + i % 2 * 0x1000
/-- `VXE_TT_LO` (R205) -/
def rVxeTtLo (i : Nat) : Nat := 0x1006010 + i / 2 * 0x400000 + i % 2 * 0x1000
/-- `VXE_TT_HI` (R205) -/
def rVxeTtHi (i : Nat) : Nat := 0x1006014 + i / 2 * 0x400000 + i % 2 * 0x1000
/-- `VXE_CYC_LO` (R205) -/
def rVxeCycLo (i : Nat) : Nat := 0x1006018 + i / 2 * 0x400000 + i % 2 * 0x1000
/-- `VXE_CYC_HI` (R205) -/
def rVxeCycHi (i : Nat) : Nat := 0x100601c + i / 2 * 0x400000 + i % 2 * 0x1000
/-- `VXE_STEPS_LO` (R205) -/
def rVxeStepsLo (i : Nat) : Nat := 0x1006020 + i / 2 * 0x400000 + i % 2 * 0x1000
/-- `VXE_STEPS_HI` (R205) -/
def rVxeStepsHi (i : Nat) : Nat := 0x1006024 + i / 2 * 0x400000 + i % 2 * 0x1000
/-- `VXE_SKIPS_LO` (R205) -/
def rVxeSkipsLo (i : Nat) : Nat := 0x1006028 + i / 2 * 0x400000 + i % 2 * 0x1000
/-- `VXE_SKIPS_HI` (R205) -/
def rVxeSkipsHi (i : Nat) : Nat := 0x100602c + i / 2 * 0x400000 + i % 2 * 0x1000
/-- `VXE_WAITS` (R205) -/
def rVxeWaits (i : Nat) : Nat := 0x1006030 + i / 2 * 0x400000 + i % 2 * 0x1000
/-- `VXE_NONFINITE` (R205) -/
def rVxeNonfinite (i : Nat) : Nat := 0x1006034 + i / 2 * 0x400000 + i % 2 * 0x1000
/-- `VXE_VAR_CLAMP` (R205) -/
def rVxeVarClamp (i : Nat) : Nat := 0x1006038 + i / 2 * 0x400000 + i % 2 * 0x1000
/-- `VXE_EMPTY_ROWS` (R205) -/
def rVxeEmptyRows (i : Nat) : Nat := 0x100603c + i / 2 * 0x400000 + i % 2 * 0x1000
/-- `VXE_ECC` (R205) -/
def rVxeEcc (i : Nat) : Nat := 0x1006040 + i / 2 * 0x400000 + i % 2 * 0x1000
/-- `VXE_CTR_CLR` (R205) -/
def rVxeCtrClr (i : Nat) : Nat := 0x1006044 + i / 2 * 0x400000 + i % 2 * 0x1000
/-- `VXE_TBL_ADDR_LO` (R205) -/
def rVxeTblAddrLo (i : Nat) : Nat := 0x1008000 + i * 0x400000
/-- `VXE_TBL_ADDR_HI` (R205) -/
def rVxeTblAddrHi (i : Nat) : Nat := 0x1008004 + i * 0x400000
/-- `VXE_TBL_CMD` (R205) -/
def rVxeTblCmd (i : Nat) : Nat := 0x1008008 + i * 0x400000
/-- `VXE_TBL_STATUS` (R205) -/
def rVxeTblStatus (i : Nat) : Nat := 0x100800c + i * 0x400000
/-- `VXE_TBL_SEL` (R205) -/
def rVxeTblSel (i : Nat) : Nat := 0x1008010 + i * 0x400000
/-- `VXE_TBL_INFO` (R205) -/
def rVxeTblInfo (i : Nat) : Nat := 0x1008014 + i * 0x400000
/-- `VXE_TBL_FUNC` (R205) -/
def rVxeTblFunc (i : Nat) : Nat := 0x1008018 + i * 0x400000
/-- `VXE_TBL_VER` (R205) -/
def rVxeTblVer (i : Nat) : Nat := 0x100801c + i * 0x400000
/-- `VXE_TBL_KEY_LO` (R205) -/
def rVxeTblKeyLo (i : Nat) : Nat := 0x1008020 + i * 0x400000
/-- `VXE_TBL_KEY_HI` (R205) -/
def rVxeTblKeyHi (i : Nat) : Nat := 0x1008024 + i * 0x400000
/-- `GAZ_CFG` (R244) -/
def rGazCfg (i : Nat) : Nat := 0x2020000 + i * 0x400000
/-- `GAZ_STATUS` (R244) -/
def rGazStatus (i : Nat) : Nat := 0x2020004 + i * 0x400000
/-- `GAZ_NEAR_THR` (R244) -/
def rGazNearThr (i : Nat) : Nat := 0x2020008 + i * 0x400000
/-- `GAZ_PROBES_LO` (R244) -/
def rGazProbesLo (i : Nat) : Nat := 0x2020010 + i * 0x400000
/-- `GAZ_PROBES_HI` (R244) -/
def rGazProbesHi (i : Nat) : Nat := 0x2020014 + i * 0x400000
/-- `GAZ_HITS_LO` (R244) -/
def rGazHitsLo (i : Nat) : Nat := 0x2020018 + i * 0x400000
/-- `GAZ_HITS_HI` (R244) -/
def rGazHitsHi (i : Nat) : Nat := 0x202001c + i * 0x400000
/-- `GAZ_CREATES_LO` (R244) -/
def rGazCreatesLo (i : Nat) : Nat := 0x2020020 + i * 0x400000
/-- `GAZ_CREATES_HI` (R244) -/
def rGazCreatesHi (i : Nat) : Nat := 0x2020024 + i * 0x400000
/-- `GAZ_EVICTS` (R244) -/
def rGazEvicts (i : Nat) : Nat := 0x2020028 + i * 0x400000
/-- `GAZ_CTR_CLR` (R244) -/
def rGazCtrClr (i : Nat) : Nat := 0x202002c + i * 0x400000
/-- `GAZ_QUOTA` (R244) -/
def rGazQuota (i j : Nat) : Nat := 0x2020100 + i * 0x400000 + j * 4
/-- `GAZ_HELD` (R244) -/
def rGazHeld (i j : Nat) : Nat := 0x2020180 + i * 0x400000 + j * 4
/-- `EXP_CFG` (R245) -/
def rExpCfg (i : Nat) : Nat := 0x2021000 + i * 0x400000
/-- `EXP_STATUS` (R245) -/
def rExpStatus (i : Nat) : Nat := 0x2021004 + i * 0x400000
/-- `EXP_READ_LO` (R245) -/
def rExpReadLo (i : Nat) : Nat := 0x2021008 + i * 0x400000
/-- `EXP_READ_HI` (R245) -/
def rExpReadHi (i : Nat) : Nat := 0x202100c + i * 0x400000
/-- `EXP_DLV_LO` (R245) -/
def rExpDlvLo (i : Nat) : Nat := 0x2021010 + i * 0x400000
/-- `EXP_DLV_HI` (R245) -/
def rExpDlvHi (i : Nat) : Nat := 0x2021014 + i * 0x400000
/-- `EXP_MAC_LO` (R245) -/
def rExpMacLo (i : Nat) : Nat := 0x2021018 + i * 0x400000
/-- `EXP_MAC_HI` (R245) -/
def rExpMacHi (i : Nat) : Nat := 0x202101c + i * 0x400000
/-- `EXP_OLD_COPY` (R245) -/
def rExpOldCopy (i : Nat) : Nat := 0x2021020 + i * 0x400000
/-- `EXP_HOLES` (R245) -/
def rExpHoles (i : Nat) : Nat := 0x2021024 + i * 0x400000
/-- `EXP_CTR_CLR` (R245) -/
def rExpCtrClr (i : Nat) : Nat := 0x2021028 + i * 0x400000
/-- `SRV_TIMING` (R290) -/
def rSrvTiming (i : Nat) : Nat := 0x2010000 + i * 0x400000
/-- `SRV_PROMOTE` (R290) -/
def rSrvPromote (i : Nat) : Nat := 0x2010004 + i * 0x400000
/-- `SRV_STATUS` (R290) -/
def rSrvStatus (i : Nat) : Nat := 0x2010008 + i * 0x400000
/-- `SRV_TABLE` (R290) -/
def rSrvTable (i : Nat) : Nat := 0x201000c + i * 0x400000
/-- `SRV_CAP` (R290) -/
def rSrvCap (i : Nat) : Nat := 0x2010010 + i * 0x400000
/-- `SRV_CAP_SID` (R290) -/
def rSrvCapSid (i : Nat) : Nat := 0x2010014 + i * 0x400000
/-- `SRV_MOVES_LO` (R290) -/
def rSrvMovesLo (i : Nat) : Nat := 0x2010020 + i * 0x400000
/-- `SRV_MOVES_HI` (R290) -/
def rSrvMovesHi (i : Nat) : Nat := 0x2010024 + i * 0x400000
/-- `SRV_DEMAND` (R290) -/
def rSrvDemand (i : Nat) : Nat := 0x2010028 + i * 0x400000
/-- `SRV_LATE` (R290) -/
def rSrvLate (i : Nat) : Nat := 0x201002c + i * 0x400000
/-- `SRV_INTENT_DROP` (R290) -/
def rSrvIntentDrop (i : Nat) : Nat := 0x2010030 + i * 0x400000
/-- `SRV_PROMOTED` (R290) -/
def rSrvPromoted (i : Nat) : Nat := 0x2010034 + i * 0x400000
/-- `SRV_CTR_CLR` (R290) -/
def rSrvCtrClr (i : Nat) : Nat := 0x2010038 + i * 0x400000
/-- `SRV_QUOTA_ERR` (R290) -/
def rSrvQuotaErr (i : Nat) : Nat := 0x201003c + i * 0x400000
/-- `SRV_QUOTA_HBM` (R290) -/
def rSrvQuotaHbm (i j : Nat) : Nat := 0x2010100 + i * 0x400000 + j * 4
/-- `SRV_QUOTA_SID` (R290) -/
def rSrvQuotaSid (i j : Nat) : Nat := 0x2010180 + i * 0x400000 + j * 4
/-- `SRV_USE_HBM` (R290) -/
def rSrvUseHbm (i j : Nat) : Nat := 0x2010200 + i * 0x400000 + j * 4
/-- `SRV_USE_SID` (R290) -/
def rSrvUseSid (i j : Nat) : Nat := 0x2010280 + i * 0x400000 + j * 4
/-- `SRV_USE_EXT` (R290) -/
def rSrvUseExt (i j : Nat) : Nat := 0x2010300 + i * 0x400000 + j * 4
/-- `SRV_MAPPED` (R290) -/
def rSrvMapped (i j : Nat) : Nat := 0x2010380 + i * 0x400000 + j * 4
/-- `SRV_HOSTPOOL_LO` (R291) -/
def rSrvHostpoolLo (j : Nat) : Nat := 0x2010800 + j * 16
/-- `SRV_HOSTPOOL_HI` (R291) -/
def rSrvHostpoolHi (j : Nat) : Nat := 0x2010804 + j * 16
/-- `SRV_HOSTPOOL_PAGES` (R291) -/
def rSrvHostpoolPages (j : Nat) : Nat := 0x2010808 + j * 16
/-- `SRV_HOSTPOOL_CFG` (R291) -/
def rSrvHostpoolCfg (j : Nat) : Nat := 0x201080c + j * 16
/-- `SRV_FABPOOL_LO` (R291) -/
def rSrvFabpoolLo (j k : Nat) : Nat := 0x2010a00 + j * 64 + k * 16
/-- `SRV_FABPOOL_HI` (R291) -/
def rSrvFabpoolHi (j k : Nat) : Nat := 0x2010a04 + j * 64 + k * 16
/-- `SRV_FABPOOL_PAGES` (R291) -/
def rSrvFabpoolPages (j k : Nat) : Nat := 0x2010a08 + j * 64 + k * 16
/-- `SRV_POOL_FAULT` (R291) -/
def rSrvPoolFault (j : Nat) : Nat := 0x2011200 + j * 4
/-- `SRV_HDM_USED` (R291) -/
def rSrvHdmUsed : Nat := 0x2011280
/-- `SRV_HDM_STRAY` (R291) -/
def rSrvHdmStray : Nat := 0x2011284
/-- `XFE_HOSTWIN_LO` (R291) -/
def rXfeHostwinLo (j : Nat) : Nat := 0x2011300 + j * 16
/-- `XFE_HOSTWIN_HI` (R291) -/
def rXfeHostwinHi (j : Nat) : Nat := 0x2011304 + j * 16
/-- `XFE_HOSTSIZE_LO` (R291) -/
def rXfeHostsizeLo (j : Nat) : Nat := 0x2011308 + j * 16
/-- `XFE_HOSTSIZE_HI` (R291) -/
def rXfeHostsizeHi (j : Nat) : Nat := 0x201130c + j * 16
/-- `XFE_CFG` (R292) -/
def rXfeCfg (i : Nat) : Nat := 0x2018000 + i / 2 * 0x400000 + i % 2 * 0x1000
/-- `XFE_STATUS` (R292) -/
def rXfeStatus (i : Nat) : Nat := 0x2018004 + i / 2 * 0x400000 + i % 2 * 0x1000
/-- `XFE_BYTES_LO` (R292) -/
def rXfeBytesLo (i : Nat) : Nat := 0x2018008 + i / 2 * 0x400000 + i % 2 * 0x1000
/-- `XFE_BYTES_HI` (R292) -/
def rXfeBytesHi (i : Nat) : Nat := 0x201800c + i / 2 * 0x400000 + i % 2 * 0x1000
/-- `XFE_SRV_BYTES_LO` (R292) -/
def rXfeSrvBytesLo (i : Nat) : Nat := 0x2018010 + i / 2 * 0x400000 + i % 2 * 0x1000
/-- `XFE_SRV_BYTES_HI` (R292) -/
def rXfeSrvBytesHi (i : Nat) : Nat := 0x2018014 + i / 2 * 0x400000 + i % 2 * 0x1000
/-- `XFE_CTR_CLR` (R292) -/
def rXfeCtrClr (i : Nat) : Nat := 0x2018018 + i / 2 * 0x400000 + i % 2 * 0x1000
/-- `VRL_PORT_CTL` (R332) -/
def rVrlPortCtl (i : Nat) : Nat := 0x3000000 + i / 25 * 0x400000 + i % 25 * 0x100
/-- `VRL_PORT_STATUS` (R332) -/
def rVrlPortStatus (i : Nat) : Nat := 0x3000004 + i / 25 * 0x400000 + i % 25 * 0x100
/-- `VRL_PORT_PEER` (R332) -/
def rVrlPortPeer (i : Nat) : Nat := 0x3000008 + i / 25 * 0x400000 + i % 25 * 0x100
/-- `VRL_FEC_CORR_LO` (R332) -/
def rVrlFecCorrLo (i : Nat) : Nat := 0x3000010 + i / 25 * 0x400000 + i % 25 * 0x100
/-- `VRL_FEC_CORR_HI` (R332) -/
def rVrlFecCorrHi (i : Nat) : Nat := 0x3000014 + i / 25 * 0x400000 + i % 25 * 0x100
/-- `VRL_FEC_UNCORR` (R332) -/
def rVrlFecUncorr (i : Nat) : Nat := 0x3000018 + i / 25 * 0x400000 + i % 25 * 0x100
/-- `VRL_CRC_ERR` (R332) -/
def rVrlCrcErr (i : Nat) : Nat := 0x300001c + i / 25 * 0x400000 + i % 25 * 0x100
/-- `VRL_REPLAYS` (R332) -/
def rVrlReplays (i : Nat) : Nat := 0x3000020 + i / 25 * 0x400000 + i % 25 * 0x100
/-- `VRL_DOWNS` (R332) -/
def rVrlDowns (i : Nat) : Nat := 0x3000024 + i / 25 * 0x400000 + i % 25 * 0x100
/-- `VRL_TX_FLITS_LO` (R332) -/
def rVrlTxFlitsLo (i : Nat) : Nat := 0x3000028 + i / 25 * 0x400000 + i % 25 * 0x100
/-- `VRL_TX_FLITS_HI` (R332) -/
def rVrlTxFlitsHi (i : Nat) : Nat := 0x300002c + i / 25 * 0x400000 + i % 25 * 0x100
/-- `VRL_RX_FLITS_LO` (R332) -/
def rVrlRxFlitsLo (i : Nat) : Nat := 0x3000030 + i / 25 * 0x400000 + i % 25 * 0x100
/-- `VRL_RX_FLITS_HI` (R332) -/
def rVrlRxFlitsHi (i : Nat) : Nat := 0x3000034 + i / 25 * 0x400000 + i % 25 * 0x100
/-- `VRL_PORT_CLR` (R332) -/
def rVrlPortClr (i : Nat) : Nat := 0x3000038 + i / 25 * 0x400000 + i % 25 * 0x100
/-- `VRL_EP` (R333) -/
def rVrlEp : Nat := 0x3008000
/-- `VRL_FABRIC` (R333) -/
def rVrlFabric : Nat := 0x3008004
/-- `VRL_TIMEOUT` (R333) -/
def rVrlTimeout : Nat := 0x3008008
/-- `VRL_MGT_CFG` (R333) -/
def rVrlMgtCfg : Nat := 0x300800c
/-- `VRL_PEER_STATUS` (R333) -/
def rVrlPeerStatus : Nat := 0x3008010
/-- `VRL_PEER_SEL` (R333) -/
def rVrlPeerSel : Nat := 0x3008014
/-- `VRL_PEER_INFO` (R333) -/
def rVrlPeerInfo : Nat := 0x3008018
/-- `VRL_PEER_OUT` (R333) -/
def rVrlPeerOut : Nat := 0x300801c
/-- `VRL_RESOLVES_LO` (R333) -/
def rVrlResolvesLo : Nat := 0x3008020
/-- `VRL_RESOLVES_HI` (R333) -/
def rVrlResolvesHi : Nat := 0x3008024
/-- `VRL_TIMEOUTS` (R333) -/
def rVrlTimeouts : Nat := 0x3008028
/-- `VRL_PEER_GONE` (R333) -/
def rVrlPeerGone : Nat := 0x300802c
/-- `VRL_LATE_RSP` (R333) -/
def rVrlLateRsp : Nat := 0x3008030
/-- `VRL_MISROUTE` (R333) -/
def rVrlMisroute : Nat := 0x3008034
/-- `VRL_DENIED` (R333) -/
def rVrlDenied : Nat := 0x3008038
/-- `VRL_PEER_FULL` (R333) -/
def rVrlPeerFull : Nat := 0x300803c
/-- `VRL_CTR_CLR` (R333) -/
def rVrlCtrClr : Nat := 0x3008040
/-- `VRL_PART_FAB` (R333) -/
def rVrlPartFab (j : Nat) : Nat := 0x3008100 + j * 4
/-- `VRL_WIN_LO` (R333) -/
def rVrlWinLo (j : Nat) : Nat := 0x3008200 + j * 16
/-- `VRL_WIN_HI` (R333) -/
def rVrlWinHi (j : Nat) : Nat := 0x3008204 + j * 16
/-- `VRL_WIN_PAGES` (R333) -/
def rVrlWinPages (j : Nat) : Nat := 0x3008208 + j * 16
/-- `VRL_WIN_EPS` (R333) -/
def rVrlWinEps (j : Nat) : Nat := 0x300820c + j * 16
/-- `CLE_CFG` (R361) -/
def rCleCfg (i : Nat) : Nat := 0x300a000 + i * 0x400000
/-- `CLE_STATUS` (R361) -/
def rCleStatus (i : Nat) : Nat := 0x300a004 + i * 0x400000
/-- `CLE_STAGE` (R361) -/
def rCleStage (i : Nat) : Nat := 0x300a008 + i * 0x400000
/-- `CLE_TX_LO` (R361) -/
def rCleTxLo (i : Nat) : Nat := 0x300a010 + i * 0x400000
/-- `CLE_TX_HI` (R361) -/
def rCleTxHi (i : Nat) : Nat := 0x300a014 + i * 0x400000
/-- `CLE_RX_LO` (R361) -/
def rCleRxLo (i : Nat) : Nat := 0x300a018 + i * 0x400000
/-- `CLE_RX_HI` (R361) -/
def rCleRxHi (i : Nat) : Nat := 0x300a01c + i * 0x400000
/-- `CLE_CHECKS_LO` (R361) -/
def rCleChecksLo (i : Nat) : Nat := 0x300a020 + i * 0x400000
/-- `CLE_CHECKS_HI` (R361) -/
def rCleChecksHi (i : Nat) : Nat := 0x300a024 + i * 0x400000
/-- `CLE_STALLS` (R361) -/
def rCleStalls (i : Nat) : Nat := 0x300a028 + i * 0x400000
/-- `CLE_POISONS` (R361) -/
def rClePoisons (i : Nat) : Nat := 0x300a02c + i * 0x400000
/-- `CLE_DROPPED` (R361) -/
def rCleDropped (i : Nat) : Nat := 0x300a030 + i * 0x400000
/-- `CLE_STRAY` (R361) -/
def rCleStray (i : Nat) : Nat := 0x300a034 + i * 0x400000
/-- `CLE_PARKS` (R361) -/
def rCleParks (i : Nat) : Nat := 0x300a038 + i * 0x400000
/-- `CLE_NONFINITE` (R361) -/
def rCleNonfinite (i : Nat) : Nat := 0x300a03c + i * 0x400000
/-- `CLE_CTR_CLR` (R361) -/
def rCleCtrClr (i : Nat) : Nat := 0x300a040 + i * 0x400000
/-- `CVE_CFG` (R383) -/
def rCveCfg (i : Nat) : Nat := 0x1009000 + i * 0x400000
/-- `CVE_STATUS` (R383) -/
def rCveStatus (i : Nat) : Nat := 0x1009004 + i * 0x400000
/-- `CVE_POS` (R383) -/
def rCvePos (i : Nat) : Nat := 0x1009008 + i * 0x400000
/-- `CVE_TT_LO` (R383) -/
def rCveTtLo (i : Nat) : Nat := 0x1009010 + i * 0x400000
/-- `CVE_TT_HI` (R383) -/
def rCveTtHi (i : Nat) : Nat := 0x1009014 + i * 0x400000
/-- `CVE_CYC_LO` (R383) -/
def rCveCycLo (i : Nat) : Nat := 0x1009018 + i * 0x400000
/-- `CVE_CYC_HI` (R383) -/
def rCveCycHi (i : Nat) : Nat := 0x100901c + i * 0x400000
/-- `CVE_STEPS_LO` (R383) -/
def rCveStepsLo (i : Nat) : Nat := 0x1009020 + i * 0x400000
/-- `CVE_STEPS_HI` (R383) -/
def rCveStepsHi (i : Nat) : Nat := 0x1009024 + i * 0x400000
/-- `CVE_SKIPS_LO` (R383) -/
def rCveSkipsLo (i : Nat) : Nat := 0x1009028 + i * 0x400000
/-- `CVE_SKIPS_HI` (R383) -/
def rCveSkipsHi (i : Nat) : Nat := 0x100902c + i * 0x400000
/-- `CVE_TAPSKIP_LO` (R383) -/
def rCveTapskipLo (i : Nat) : Nat := 0x1009030 + i * 0x400000
/-- `CVE_TAPSKIP_HI` (R383) -/
def rCveTapskipHi (i : Nat) : Nat := 0x1009034 + i * 0x400000
/-- `CVE_WAITS` (R383) -/
def rCveWaits (i : Nat) : Nat := 0x1009038 + i * 0x400000
/-- `CVE_NONFINITE` (R383) -/
def rCveNonfinite (i : Nat) : Nat := 0x100903c + i * 0x400000
/-- `CVE_NF_SAT` (R383) -/
def rCveNfSat (i : Nat) : Nat := 0x1009040 + i * 0x400000
/-- `CVE_ECC` (R383) -/
def rCveEcc (i : Nat) : Nat := 0x1009044 + i * 0x400000
/-- `CVE_CTR_CLR` (R383) -/
def rCveCtrClr (i : Nat) : Nat := 0x1009048 + i * 0x400000
/-- `CDE_CFG` (R412) -/
def rCdeCfg (i : Nat) : Nat := 0x2030000 + i * 0x400000
/-- `CDE_STATUS` (R412) -/
def rCdeStatus (i : Nat) : Nat := 0x2030004 + i * 0x400000
/-- `CDE_DEC_SAMPLES_LO` (R412) -/
def rCdeDecSamplesLo (i : Nat) : Nat := 0x2030008 + i * 0x400000
/-- `CDE_DEC_SAMPLES_HI` (R412) -/
def rCdeDecSamplesHi (i : Nat) : Nat := 0x203000c + i * 0x400000
/-- `CDE_ENC_SAMPLES_LO` (R412) -/
def rCdeEncSamplesLo (i : Nat) : Nat := 0x2030010 + i * 0x400000
/-- `CDE_ENC_SAMPLES_HI` (R412) -/
def rCdeEncSamplesHi (i : Nat) : Nat := 0x2030014 + i * 0x400000
/-- `CDE_DISPLACED` (R412) -/
def rCdeDisplaced (i : Nat) : Nat := 0x2030018 + i * 0x400000
/-- `CDE_DAMAGED` (R412) -/
def rCdeDamaged (i : Nat) : Nat := 0x203001c + i * 0x400000
/-- `CDE_CONCEALED` (R412) -/
def rCdeConcealed (i : Nat) : Nat := 0x2030020 + i * 0x400000
/-- `CDE_ECC` (R412) -/
def rCdeEcc (i : Nat) : Nat := 0x2030024 + i * 0x400000
/-- `CDE_CTR_CLR` (R412) -/
def rCdeCtrClr (i : Nat) : Nat := 0x2030028 + i * 0x400000
/-- `PRT_CMD` (R438) -/
def rPrtCmd : Nat := 0x200000
/-- `PRT_CMD_STATUS` (R438) -/
def rPrtCmdStatus : Nat := 0x200004
/-- `PRT_EXISTS` (R438) -/
def rPrtExists : Nat := 0x200008
/-- `PRT_SUSPENDED` (R438) -/
def rPrtSuspended : Nat := 0x20000c
/-- `PRT_SWAP` (R438) -/
def rPrtSwap : Nat := 0x200010
/-- `PRT_ERR` (R438) -/
def rPrtErr : Nat := 0x200014
/-- `PRT_SEM_SEL` (R438) -/
def rPrtSemSel : Nat := 0x200018
/-- `PRT_SEM_VAL_LO` (R438) -/
def rPrtSemValLo : Nat := 0x20001c
/-- `PRT_SEM_VAL_HI` (R438) -/
def rPrtSemValHi : Nat := 0x200020
/-- `PRT_SWAP_HBM` (R438) -/
def rPrtSwapHbm (j : Nat) : Nat := 0x200040 + j * 4
/-- `PRT_SWAP_SID` (R438) -/
def rPrtSwapSid (j : Nat) : Nat := 0x200050 + j * 4
/-- `PRT_CFG` (R439) -/
def rPrtCfg (j : Nat) : Nat := 0x201000 + j * 64
/-- `PRT_SHARE` (R439) -/
def rPrtShare (j : Nat) : Nat := 0x201004 + j * 64
/-- `PRT_ENG_MXE` (R439) -/
def rPrtEngMxe (j : Nat) : Nat := 0x201008 + j * 64
/-- `PRT_ENG_OTHER` (R439) -/
def rPrtEngOther (j : Nat) : Nat := 0x20100c + j * 64
/-- `PRT_SEM_BASE` (R439) -/
def rPrtSemBase (j : Nat) : Nat := 0x201010 + j * 64
/-- `PRT_SEM_COUNT` (R439) -/
def rPrtSemCount (j : Nat) : Nat := 0x201014 + j * 64
/-- `PRT_STATUS` (R439) -/
def rPrtStatus (j : Nat) : Nat := 0x201018 + j * 64
/-- `PRT_USE_LO` (R439) -/
def rPrtUseLo (j : Nat) : Nat := 0x201020 + j * 64
/-- `PRT_USE_HI` (R439) -/
def rPrtUseHi (j : Nat) : Nat := 0x201024 + j * 64
/-- `PRT_VTIME_LO` (R439) -/
def rPrtVtimeLo (j : Nat) : Nat := 0x201028 + j * 64
/-- `PRT_VTIME_HI` (R439) -/
def rPrtVtimeHi (j : Nat) : Nat := 0x20102c + j * 64
/-- `PRT_PREEMPTS` (R439) -/
def rPrtPreempts (j : Nat) : Nat := 0x201030 + j * 64
/-- `PRT_PREEMPT_MAX` (R439) -/
def rPrtPreemptMax (j : Nat) : Nat := 0x201034 + j * 64
/-- `PRT_CTR_CLR` (R439) -/
def rPrtCtrClr (j : Nat) : Nat := 0x201038 + j * 64
/-- `PWR_CFG` (R462) -/
def rPwrCfg : Nat := 0x300000
/-- `PWR_LIMIT` (R462) -/
def rPwrLimit : Nat := 0x300004
/-- `PWR_ILIM` (R462) -/
def rPwrIlim : Nat := 0x300008
/-- `PWR_RAMP` (R462) -/
def rPwrRamp : Nat := 0x30000c
/-- `PWR_CAP` (R462) -/
def rPwrCap : Nat := 0x300010
/-- `PWR_DEFAULT_W` (R462) -/
def rPwrDefaultW : Nat := 0x300014
/-- `PWR_VIN` (R462) -/
def rPwrVin : Nat := 0x300018
/-- `PWR_IIN` (R462) -/
def rPwrIin : Nat := 0x30001c
/-- `PWR_PIN` (R462) -/
def rPwrPin : Nat := 0x300020
/-- `PWR_STEP` (R462) -/
def rPwrStep : Nat := 0x300024
/-- `PWR_REASON` (R462) -/
def rPwrReason : Nat := 0x300028
/-- `PWR_HINT` (R462) -/
def rPwrHint : Nat := 0x30002c
/-- `PWR_TJ` (R462) -/
def rPwrTj (j : Nat) : Nat := 0x300030 + j * 4
/-- `PWR_TCOOL` (R462) -/
def rPwrTcool : Nat := 0x300040
/-- `PWR_FLOW` (R462) -/
def rPwrFlow : Nat := 0x300044
/-- `PWR_FLOW_CFG` (R462) -/
def rPwrFlowCfg : Nat := 0x300048
/-- `PWR_FLOW_LIM` (R462) -/
def rPwrFlowLim : Nat := 0x30004c
/-- `PWR_VALVE` (R462) -/
def rPwrValve : Nat := 0x300050
/-- `PWR_VALVE_FF` (R462) -/
def rPwrValveFf : Nat := 0x300054
/-- `PWR_COOL` (R462) -/
def rPwrCool : Nat := 0x300058
/-- `PWR_MODEL` (R462) -/
def rPwrModel : Nat := 0x30005c
/-- `PWR_THERM` (R462) -/
def rPwrTherm : Nat := 0x300060
/-- `PWR_TRIP` (R462) -/
def rPwrTrip : Nat := 0x300064
/-- `PWR_BROWNOUTS` (R462) -/
def rPwrBrownouts : Nat := 0x300068
/-- `PWR_THR_CYC_LO` (R462) -/
def rPwrThrCycLo : Nat := 0x30006c
/-- `PWR_THR_CYC_HI` (R462) -/
def rPwrThrCycHi : Nat := 0x300070
/-- `PWR_STAT_CLR` (R462) -/
def rPwrStatClr : Nat := 0x300074
/-- `CLK_RUN` (R487) -/
def rClkRun : Nat := 0x301000
/-- `CLK_LOCKING` (R487) -/
def rClkLocking : Nat := 0x301004
/-- `CLK_HELD` (R487) -/
def rClkHeld : Nat := 0x301008
/-- `CLK_SLEEP` (R487) -/
def rClkSleep : Nat := 0x30100c
/-- `CLK_AON_LO` (R487) -/
def rClkAonLo : Nat := 0x301010
/-- `CLK_AON_HI` (R487) -/
def rClkAonHi : Nat := 0x301014
/-- `CLK_EPOCH` (R487) -/
def rClkEpoch : Nat := 0x301018
/-- `CLK_WAKES` (R487) -/
def rClkWakes : Nat := 0x30101c
/-- `CLK_FORCE` (R487) -/
def rClkForce : Nat := 0x301020
/-- `CLK_REF` (R487) -/
def rClkRef : Nat := 0x301024
/-- `CLK_WARM` (R487) -/
def rClkWarm (j : Nat) : Nat := 0x301100 + j * 4
/-- `RST_CAUSE` (R488) -/
def rRstCause : Nat := 0x302000
/-- `RST_TIME_LO` (R488) -/
def rRstTimeLo : Nat := 0x302004
/-- `RST_TIME_HI` (R488) -/
def rRstTimeHi : Nat := 0x302008
/-- `RST_COUNT` (R488) -/
def rRstCount : Nat := 0x30200c
/-- `RST_STATUS` (R488) -/
def rRstStatus : Nat := 0x302010
/-- `RST_LOCKFAIL` (R488) -/
def rRstLockfail : Nat := 0x302014
/-- `RST_BLOCK` (R488) -/
def rRstBlock : Nat := 0x302018
/-- `RST_BLOCK_STATUS` (R488) -/
def rRstBlockStatus : Nat := 0x30201c
/-- `RST_DIE` (R488) -/
def rRstDie : Nat := 0x302020
/-- `RST_DIE_STATUS` (R488) -/
def rRstDieStatus : Nat := 0x302024
/-- `RST_WDOG` (R488) -/
def rRstWdog : Nat := 0x302028
/-- `RST_HIST` (R488) -/
def rRstHist (j : Nat) : Nat := 0x302040 + j * 4
/-- `SEC_BOOT` (R512) -/
def rSecBoot : Nat := 0x400000
/-- `SEC_FUSE_SVN` (R512) -/
def rSecFuseSvn : Nat := 0x400004
/-- `SEC_FUSE` (R512) -/
def rSecFuse : Nat := 0x400008
/-- `SEC_UID_LO` (R512) -/
def rSecUidLo : Nat := 0x40000c
/-- `SEC_UID_HI` (R512) -/
def rSecUidHi : Nat := 0x400010
/-- `SEC_FW_VER_LO` (R512) -/
def rSecFwVerLo : Nat := 0x400018
/-- `SEC_FW_VER_HI` (R512) -/
def rSecFwVerHi : Nat := 0x40001c
/-- `SEC_SEAL_CMD` (R512) -/
def rSecSealCmd : Nat := 0x400020
/-- `SEC_SEAL_STATUS` (R512) -/
def rSecSealStatus : Nat := 0x400024
/-- `SEC_PART_SEALED` (R512) -/
def rSecPartSealed : Nat := 0x400028
/-- `SEC_POLICY` (R512) -/
def rSecPolicy : Nat := 0x400030
/-- `SEC_RWL_VIOL` (R512) -/
def rSecRwlViol : Nat := 0x400034
/-- `SEC_RWL_ADDR` (R512) -/
def rSecRwlAddr : Nat := 0x400038
/-- `SEC_DBG` (R512) -/
def rSecDbg : Nat := 0x400040
/-- `SEC_SVN_CMD` (R512) -/
def rSecSvnCmd : Nat := 0x400044
/-- `SEC_SVN_STATUS` (R512) -/
def rSecSvnStatus : Nat := 0x400048
/-- `SEC_RCV_ADDR_LO` (R512) -/
def rSecRcvAddrLo : Nat := 0x400080
/-- `SEC_RCV_ADDR_HI` (R512) -/
def rSecRcvAddrHi : Nat := 0x400084
/-- `SEC_RCV_SIZE` (R512) -/
def rSecRcvSize : Nat := 0x400088
/-- `SEC_RCV_CMD` (R512) -/
def rSecRcvCmd : Nat := 0x40008c
/-- `SEC_RCV_STATUS` (R512) -/
def rSecRcvStatus : Nat := 0x400090
/-- `SEC_RCV_DONE` (R512) -/
def rSecRcvDone : Nat := 0x400094
/-- `ERR_CFG` (R533) -/
def rErrCfg : Nat := 0x500000
/-- `ERR_CE_HBM_LO` (R533) -/
def rErrCeHbmLo : Nat := 0x500008
/-- `ERR_CE_HBM_HI` (R533) -/
def rErrCeHbmHi : Nat := 0x50000c
/-- `ERR_CE_SID_LO` (R533) -/
def rErrCeSidLo : Nat := 0x500010
/-- `ERR_CE_SID_HI` (R533) -/
def rErrCeSidHi : Nat := 0x500014
/-- `ERR_CE_SRAM_LO` (R533) -/
def rErrCeSramLo : Nat := 0x500018
/-- `ERR_CE_SRAM_HI` (R533) -/
def rErrCeSramHi : Nat := 0x50001c
/-- `ERR_UE_HBM` (R533) -/
def rErrUeHbm : Nat := 0x500020
/-- `ERR_UE_SID` (R533) -/
def rErrUeSid : Nat := 0x500024
/-- `ERR_UE_SRAM` (R533) -/
def rErrUeSram : Nat := 0x500028
/-- `ERR_PARITY` (R533) -/
def rErrParity : Nat := 0x50002c
/-- `ERR_LINK_RETRY` (R533) -/
def rErrLinkRetry : Nat := 0x500030
/-- `ERR_BLOCK_FAIL` (R533) -/
def rErrBlockFail : Nat := 0x500034
/-- `ERR_POISON_READ` (R533) -/
def rErrPoisonRead : Nat := 0x500038
/-- `ERR_SCRUB_PASS` (R533) -/
def rErrScrubPass : Nat := 0x50003c
/-- `ERR_CTR_CLR` (R533) -/
def rErrCtrClr : Nat := 0x500040
/-- `ERR_FATAL` (R533) -/
def rErrFatal : Nat := 0x500080
/-- `ERR_FATAL_TIME_LO` (R533) -/
def rErrFatalTimeLo : Nat := 0x500084
/-- `ERR_FATAL_TIME_HI` (R533) -/
def rErrFatalTimeHi : Nat := 0x500088
/-- `ERR_FAILED_MXE` (R533) -/
def rErrFailedMxe : Nat := 0x500100
/-- `ERR_FAILED_OTHER` (R533) -/
def rErrFailedOther : Nat := 0x500104
/-- `BST_CFG` (R534) -/
def rBstCfg : Nat := 0x501000
/-- `BST_IDLE` (R534) -/
def rBstIdle : Nat := 0x501004
/-- `BST_STATUS` (R534) -/
def rBstStatus : Nat := 0x501008
/-- `BST_SLICES_LO` (R534) -/
def rBstSlicesLo : Nat := 0x501010
/-- `BST_SLICES_HI` (R534) -/
def rBstSlicesHi : Nat := 0x501014
/-- `BST_CYCLES` (R534) -/
def rBstCycles : Nat := 0x501018
/-- `BST_FAILS` (R534) -/
def rBstFails : Nat := 0x50101c
/-- `BST_OVERDUE` (R534) -/
def rBstOverdue : Nat := 0x501020
/-- `BST_LAST_FAIL` (R534) -/
def rBstLastFail : Nat := 0x501024
/-- `BST_CMD` (R534) -/
def rBstCmd : Nat := 0x501028
/-- `BST_CMD_STATUS` (R534) -/
def rBstCmdStatus : Nat := 0x50102c
/-- `BST_CTR_CLR` (R534) -/
def rBstCtrClr : Nat := 0x501030
/-- `BST_ANA_STATUS` (R534) -/
def rBstAnaStatus : Nat := 0x501040

/-- Rows 0 to 19 of the register table. -/
def regTable0 : List RegSpec :=
  [ ⟨0x0, 1, 1, 0x0, 0, 0, 0, 0, [⟨.ro, 15, 0, 8147⟩, ⟨.ro, 31, 16, 46497⟩]⟩
  , ⟨0x4, 1, 1, 0x0, 0, 0, 0, 0, [⟨.ro, 3, 0, 0⟩, ⟨.ro, 7, 4, 0⟩, ⟨.ro, 31, 16, 0⟩]⟩
  , ⟨0x100000, 1, 1, 0x0, 0, 0, 0, 0, [⟨.ro, 3, 0, 0⟩, ⟨.ro, 8, 4, 0⟩, ⟨.ro, 9, 9, 0⟩, ⟨.ro, 10, 10, 0⟩, ⟨.ro, 11, 11, 0⟩, ⟨.ro, 12, 12, 0⟩, ⟨.ro, 13, 13, 0⟩]⟩
  , ⟨0x100010, 1, 1, 0x0, 0, 0, 0, 0, [⟨.rwl, 31, 0, 0⟩]⟩
  , ⟨0x100014, 1, 1, 0x0, 0, 0, 0, 0, [⟨.rwl, 31, 0, 0⟩]⟩
  , ⟨0x100018, 1, 1, 0x0, 0, 0, 0, 0, [⟨.rwl, 31, 0, 0⟩]⟩
  , ⟨0x10001c, 1, 1, 0x0, 0, 0, 0, 0, [⟨.rwl, 31, 0, 0⟩]⟩
  , ⟨0x100030, 1, 1, 0x0, 0, 0, 0, 0, [⟨.rw, 31, 0, 0⟩]⟩
  , ⟨0x100034, 1, 1, 0x0, 0, 0, 0, 0, [⟨.rw, 31, 0, 0⟩]⟩
  , ⟨0x100038, 1, 1, 0x0, 0, 0, 0, 0, [⟨.rw, 31, 0, 0⟩]⟩
  , ⟨0x10003c, 1, 1, 0x0, 0, 0, 0, 0, [⟨.rw, 31, 0, 0⟩]⟩
  , ⟨0x100020, 1, 1, 0x0, 0, 0, 0, 0, [⟨.rw, 0, 0, 0⟩]⟩
  , ⟨0x100024, 1, 1, 0x0, 0, 0, 0, 0, [⟨.wo, 14, 0, 0⟩, ⟨.wo, 17, 16, 0⟩]⟩
  , ⟨0x100028, 1, 1, 0x0, 0, 0, 0, 0, [⟨.ro, 0, 0, 0⟩, ⟨.w1c, 1, 1, 0⟩, ⟨.ro, 7, 4, 0⟩]⟩
  , ⟨0x100040, 1, 1, 0x0, 0, 0, 0, 0, [⟨.rw, 4, 0, 0⟩, ⟨.rw, 15, 5, 0⟩, ⟨.rw, 16, 16, 0⟩]⟩
  , ⟨0x100044, 1, 1, 0x0, 0, 0, 0, 0, [⟨.ro, 31, 0, 0⟩]⟩
  , ⟨0x100048, 1, 1, 0x0, 0, 0, 0, 0, [⟨.ro, 12, 0, 0⟩]⟩
  , ⟨0x108000, 1, 1, 0x0, 32, 1024, 0, 0, [⟨.rw, 31, 0, 0⟩]⟩
  , ⟨0x108004, 1, 1, 0x0, 32, 1024, 0, 0, [⟨.rw, 31, 0, 0⟩]⟩
  , ⟨0x108008, 1, 1, 0x0, 32, 1024, 0, 0, [⟨.rw, 31, 0, 0⟩]⟩ ]

/-- Rows 20 to 39 of the register table. -/
def regTable1 : List RegSpec :=
  [ ⟨0x10800c, 1, 1, 0x0, 32, 1024, 0, 0, [⟨.rw, 31, 0, 0⟩]⟩
  , ⟨0x108010, 1, 1, 0x0, 32, 1024, 0, 0, [⟨.rw, 4, 0, 0⟩, ⟨.rw, 15, 5, 0⟩, ⟨.rw, 16, 16, 0⟩, ⟨.rw, 21, 17, 0⟩, ⟨.rw, 31, 31, 0⟩]⟩
  , ⟨0x108014, 1, 1, 0x0, 32, 1024, 0, 0, [⟨.rw, 15, 0, 0⟩]⟩
  , ⟨0x108018, 1, 1, 0x0, 32, 1024, 0, 0, [⟨.ro, 0, 0, 0⟩, ⟨.w1c, 1, 1, 0⟩]⟩
  , ⟨0x1000000, 4, 4, 0x1000, 0, 0, 0, 0, [⟨.rwl, 0, 0, 1⟩]⟩
  , ⟨0x1000004, 4, 4, 0x1000, 0, 0, 0, 0, [⟨.ro, 2, 0, 0⟩, ⟨.ro, 12, 8, 0⟩, ⟨.ro, 22, 16, 0⟩]⟩
  , ⟨0x1000008, 4, 4, 0x1000, 0, 0, 0, 0, [⟨.ro, 31, 0, 0⟩]⟩
  , ⟨0x1000010, 4, 4, 0x1000, 0, 0, 0, 0, [⟨.ro, 31, 0, 0⟩]⟩
  , ⟨0x1000014, 4, 4, 0x1000, 0, 0, 0, 0, [⟨.ro, 31, 0, 0⟩]⟩
  , ⟨0x1000018, 4, 4, 0x1000, 0, 0, 0, 0, [⟨.ro, 31, 0, 0⟩]⟩
  , ⟨0x100001c, 4, 4, 0x1000, 0, 0, 0, 0, [⟨.ro, 31, 0, 0⟩]⟩
  , ⟨0x1000020, 4, 4, 0x1000, 0, 0, 0, 0, [⟨.ro, 31, 0, 0⟩]⟩
  , ⟨0x1000024, 4, 4, 0x1000, 0, 0, 0, 0, [⟨.ro, 31, 0, 0⟩]⟩
  , ⟨0x1000028, 4, 4, 0x1000, 0, 0, 0, 0, [⟨.ro, 31, 0, 0⟩]⟩
  , ⟨0x100002c, 4, 4, 0x1000, 0, 0, 0, 0, [⟨.ro, 31, 0, 0⟩]⟩
  , ⟨0x1000030, 4, 4, 0x1000, 0, 0, 0, 0, [⟨.ro, 31, 0, 0⟩]⟩
  , ⟨0x1000034, 4, 4, 0x1000, 0, 0, 0, 0, [⟨.ro, 31, 0, 0⟩]⟩
  , ⟨0x1000038, 4, 4, 0x1000, 0, 0, 0, 0, [⟨.ro, 31, 0, 0⟩]⟩
  , ⟨0x100003c, 4, 4, 0x1000, 0, 0, 0, 0, [⟨.ro, 31, 0, 0⟩]⟩
  , ⟨0x1000040, 4, 4, 0x1000, 0, 0, 0, 0, [⟨.w1c, 0, 0, 0⟩, ⟨.w1c, 1, 1, 0⟩, ⟨.w1c, 2, 2, 0⟩, ⟨.w1c, 3, 3, 0⟩]⟩ ]

/-- Rows 40 to 59 of the register table. -/
def regTable2 : List RegSpec :=
  [ ⟨0x1000044, 4, 4, 0x1000, 0, 0, 0, 0, [⟨.wo, 0, 0, 0⟩]⟩
  , ⟨0x1004000, 4, 1, 0x0, 0, 0, 0, 0, [⟨.ro, 3, 0, 15⟩]⟩
  , ⟨0x1004004, 4, 1, 0x0, 0, 0, 0, 0, [⟨.ro, 5, 0, 0⟩]⟩
  , ⟨0x1004008, 4, 1, 0x0, 0, 0, 0, 0, [⟨.ro, 31, 0, 0⟩]⟩
  , ⟨0x100400c, 4, 1, 0x0, 0, 0, 0, 0, [⟨.ro, 31, 0, 0⟩]⟩
  , ⟨0x1004010, 4, 1, 0x0, 0, 0, 0, 0, [⟨.ro, 31, 0, 0⟩]⟩
  , ⟨0x1005000, 4, 1, 0x0, 0, 0, 0, 0, [⟨.rwl, 3, 0, 4⟩, ⟨.rw, 4, 4, 1⟩]⟩
  , ⟨0x1005004, 4, 1, 0x0, 0, 0, 0, 0, [⟨.rw, 31, 0, 1024⟩]⟩
  , ⟨0x1005008, 4, 1, 0x0, 0, 0, 0, 0, [⟨.ro, 31, 0, 0⟩]⟩
  , ⟨0x100500c, 4, 1, 0x0, 0, 0, 0, 0, [⟨.ro, 31, 0, 0⟩]⟩
  , ⟨0x1005010, 4, 1, 0x0, 0, 0, 0, 0, [⟨.ro, 31, 0, 0⟩]⟩
  , ⟨0x1005014, 4, 1, 0x0, 0, 0, 0, 0, [⟨.ro, 31, 0, 0⟩]⟩
  , ⟨0x1005018, 4, 1, 0x0, 0, 0, 0, 0, [⟨.ro, 31, 0, 0⟩]⟩
  , ⟨0x100501c, 4, 1, 0x0, 0, 0, 0, 0, [⟨.wo, 0, 0, 0⟩]⟩
  , ⟨0x1005040, 4, 1, 0x0, 0, 0, 0, 0, [⟨.rw, 4, 0, 12⟩, ⟨.rw, 9, 5, 3⟩, ⟨.rw, 31, 16, 4⟩]⟩
  , ⟨0x1005044, 4, 1, 0x0, 0, 0, 0, 0, [⟨.rw, 31, 0, 0⟩]⟩
  , ⟨0x1005048, 4, 1, 0x0, 0, 0, 0, 0, [⟨.rw, 6, 0, 0⟩]⟩
  , ⟨0x100504c, 4, 1, 0x0, 0, 0, 0, 0, [⟨.wo, 0, 0, 0⟩, ⟨.wo, 1, 1, 0⟩]⟩
  , ⟨0x1005050, 4, 1, 0x0, 0, 0, 0, 0, [⟨.ro, 31, 0, 0⟩]⟩
  , ⟨0x1005054, 4, 1, 0x0, 0, 0, 0, 0, [⟨.ro, 31, 0, 0⟩]⟩ ]

/-- Rows 60 to 79 of the register table. -/
def regTable3 : List RegSpec :=
  [ ⟨0x1005058, 4, 1, 0x0, 0, 0, 0, 0, [⟨.ro, 4, 0, 0⟩, ⟨.ro, 8, 8, 0⟩]⟩
  , ⟨0x100505c, 4, 1, 0x0, 0, 0, 0, 0, [⟨.ro, 31, 0, 0⟩]⟩
  , ⟨0x1005060, 4, 1, 0x0, 0, 0, 0, 0, [⟨.ro, 31, 0, 0⟩]⟩
  , ⟨0x1005064, 4, 1, 0x0, 0, 0, 0, 0, [⟨.ro, 31, 0, 0⟩]⟩
  , ⟨0x1005068, 4, 1, 0x0, 0, 0, 0, 0, [⟨.ro, 31, 0, 0⟩]⟩
  , ⟨0x100506c, 4, 1, 0x0, 0, 0, 0, 0, [⟨.ro, 31, 0, 0⟩]⟩
  , ⟨0x1005070, 4, 1, 0x0, 0, 0, 0, 0, [⟨.ro, 31, 0, 0⟩]⟩
  , ⟨0x1005074, 4, 1, 0x0, 0, 0, 0, 0, [⟨.ro, 31, 0, 0⟩]⟩
  , ⟨0x1005080, 4, 1, 0x0, 4, 32, 0, 0, [⟨.ro, 31, 0, 0⟩]⟩
  , ⟨0x1006000, 4, 2, 0x1000, 0, 0, 0, 0, [⟨.rwl, 0, 0, 1⟩]⟩
  , ⟨0x1006004, 4, 2, 0x1000, 0, 0, 0, 0, [⟨.ro, 2, 0, 0⟩, ⟨.ro, 12, 8, 0⟩]⟩
  , ⟨0x1006008, 4, 2, 0x1000, 0, 0, 0, 0, [⟨.ro, 31, 0, 0⟩]⟩
  , ⟨0x1006010, 4, 2, 0x1000, 0, 0, 0, 0, [⟨.ro, 31, 0, 0⟩]⟩
  , ⟨0x1006014, 4, 2, 0x1000, 0, 0, 0, 0, [⟨.ro, 31, 0, 0⟩]⟩
  , ⟨0x1006018, 4, 2, 0x1000, 0, 0, 0, 0, [⟨.ro, 31, 0, 0⟩]⟩
  , ⟨0x100601c, 4, 2, 0x1000, 0, 0, 0, 0, [⟨.ro, 31, 0, 0⟩]⟩
  , ⟨0x1006020, 4, 2, 0x1000, 0, 0, 0, 0, [⟨.ro, 31, 0, 0⟩]⟩
  , ⟨0x1006024, 4, 2, 0x1000, 0, 0, 0, 0, [⟨.ro, 31, 0, 0⟩]⟩
  , ⟨0x1006028, 4, 2, 0x1000, 0, 0, 0, 0, [⟨.ro, 31, 0, 0⟩]⟩
  , ⟨0x100602c, 4, 2, 0x1000, 0, 0, 0, 0, [⟨.ro, 31, 0, 0⟩]⟩ ]

/-- Rows 80 to 99 of the register table. -/
def regTable4 : List RegSpec :=
  [ ⟨0x1006030, 4, 2, 0x1000, 0, 0, 0, 0, [⟨.ro, 31, 0, 0⟩]⟩
  , ⟨0x1006034, 4, 2, 0x1000, 0, 0, 0, 0, [⟨.ro, 31, 0, 0⟩]⟩
  , ⟨0x1006038, 4, 2, 0x1000, 0, 0, 0, 0, [⟨.ro, 31, 0, 0⟩]⟩
  , ⟨0x100603c, 4, 2, 0x1000, 0, 0, 0, 0, [⟨.ro, 31, 0, 0⟩]⟩
  , ⟨0x1006040, 4, 2, 0x1000, 0, 0, 0, 0, [⟨.w1c, 0, 0, 0⟩, ⟨.w1c, 1, 1, 0⟩, ⟨.w1c, 2, 2, 0⟩, ⟨.w1c, 3, 3, 0⟩]⟩
  , ⟨0x1006044, 4, 2, 0x1000, 0, 0, 0, 0, [⟨.wo, 0, 0, 0⟩]⟩
  , ⟨0x1008000, 4, 1, 0x0, 0, 0, 0, 0, [⟨.rw, 31, 0, 0⟩]⟩
  , ⟨0x1008004, 4, 1, 0x0, 0, 0, 0, 0, [⟨.rw, 31, 0, 0⟩]⟩
  , ⟨0x1008008, 4, 1, 0x0, 0, 0, 0, 0, [⟨.wo, 5, 0, 0⟩, ⟨.wo, 9, 8, 0⟩, ⟨.wo, 20, 16, 0⟩]⟩
  , ⟨0x100800c, 4, 1, 0x0, 0, 0, 0, 0, [⟨.ro, 0, 0, 0⟩, ⟨.w1c, 1, 1, 0⟩, ⟨.ro, 7, 4, 0⟩]⟩
  , ⟨0x1008010, 4, 1, 0x0, 0, 0, 0, 0, [⟨.rw, 5, 0, 0⟩]⟩
  , ⟨0x1008014, 4, 1, 0x0, 0, 0, 0, 0, [⟨.ro, 0, 0, 0⟩, ⟨.ro, 1, 1, 0⟩, ⟨.ro, 3, 2, 0⟩, ⟨.ro, 4, 4, 0⟩, ⟨.ro, 12, 8, 0⟩]⟩
  , ⟨0x1008018, 4, 1, 0x0, 0, 0, 0, 0, [⟨.ro, 31, 0, 0⟩]⟩
  , ⟨0x100801c, 4, 1, 0x0, 0, 0, 0, 0, [⟨.ro, 31, 0, 0⟩]⟩
  , ⟨0x1008020, 4, 1, 0x0, 0, 0, 0, 0, [⟨.ro, 31, 0, 0⟩]⟩
  , ⟨0x1008024, 4, 1, 0x0, 0, 0, 0, 0, [⟨.ro, 31, 0, 0⟩]⟩
  , ⟨0x2020000, 4, 1, 0x0, 0, 0, 0, 0, [⟨.rw, 0, 0, 0⟩, ⟨.rw, 12, 8, 20⟩]⟩
  , ⟨0x2020004, 4, 1, 0x0, 0, 0, 0, 0, [⟨.ro, 22, 0, 0⟩]⟩
  , ⟨0x2020008, 4, 1, 0x0, 0, 0, 0, 0, [⟨.rw, 22, 0, 0⟩]⟩
  , ⟨0x2020010, 4, 1, 0x0, 0, 0, 0, 0, [⟨.ro, 31, 0, 0⟩]⟩ ]

/-- Rows 100 to 119 of the register table. -/
def regTable5 : List RegSpec :=
  [ ⟨0x2020014, 4, 1, 0x0, 0, 0, 0, 0, [⟨.ro, 31, 0, 0⟩]⟩
  , ⟨0x2020018, 4, 1, 0x0, 0, 0, 0, 0, [⟨.ro, 31, 0, 0⟩]⟩
  , ⟨0x202001c, 4, 1, 0x0, 0, 0, 0, 0, [⟨.ro, 31, 0, 0⟩]⟩
  , ⟨0x2020020, 4, 1, 0x0, 0, 0, 0, 0, [⟨.ro, 31, 0, 0⟩]⟩
  , ⟨0x2020024, 4, 1, 0x0, 0, 0, 0, 0, [⟨.ro, 31, 0, 0⟩]⟩
  , ⟨0x2020028, 4, 1, 0x0, 0, 0, 0, 0, [⟨.ro, 31, 0, 0⟩]⟩
  , ⟨0x202002c, 4, 1, 0x0, 0, 0, 0, 0, [⟨.wo, 0, 0, 0⟩]⟩
  , ⟨0x2020100, 4, 1, 0x0, 4, 32, 0, 0, [⟨.rwl, 22, 0, 0⟩]⟩
  , ⟨0x2020180, 4, 1, 0x0, 4, 32, 0, 0, [⟨.ro, 22, 0, 0⟩]⟩
  , ⟨0x2021000, 4, 1, 0x0, 0, 0, 0, 0, [⟨.rw, 0, 0, 1⟩]⟩
  , ⟨0x2021004, 4, 1, 0x0, 0, 0, 0, 0, [⟨.ro, 12, 0, 0⟩]⟩
  , ⟨0x2021008, 4, 1, 0x0, 0, 0, 0, 0, [⟨.ro, 31, 0, 0⟩]⟩
  , ⟨0x202100c, 4, 1, 0x0, 0, 0, 0, 0, [⟨.ro, 31, 0, 0⟩]⟩
  , ⟨0x2021010, 4, 1, 0x0, 0, 0, 0, 0, [⟨.ro, 31, 0, 0⟩]⟩
  , ⟨0x2021014, 4, 1, 0x0, 0, 0, 0, 0, [⟨.ro, 31, 0, 0⟩]⟩
  , ⟨0x2021018, 4, 1, 0x0, 0, 0, 0, 0, [⟨.ro, 31, 0, 0⟩]⟩
  , ⟨0x202101c, 4, 1, 0x0, 0, 0, 0, 0, [⟨.ro, 31, 0, 0⟩]⟩
  , ⟨0x2021020, 4, 1, 0x0, 0, 0, 0, 0, [⟨.ro, 31, 0, 0⟩]⟩
  , ⟨0x2021024, 4, 1, 0x0, 0, 0, 0, 0, [⟨.ro, 31, 0, 0⟩]⟩
  , ⟨0x2021028, 4, 1, 0x0, 0, 0, 0, 0, [⟨.wo, 0, 0, 0⟩]⟩ ]

/-- Rows 120 to 139 of the register table. -/
def regTable6 : List RegSpec :=
  [ ⟨0x2010000, 4, 1, 0x0, 0, 0, 0, 0, [⟨.rw, 15, 0, 200⟩, ⟨.rw, 31, 16, 1000⟩]⟩
  , ⟨0x2010004, 4, 1, 0x0, 0, 0, 0, 0, [⟨.rw, 15, 0, 64⟩]⟩
  , ⟨0x2010008, 4, 1, 0x0, 0, 0, 0, 0, [⟨.ro, 2, 0, 0⟩]⟩
  , ⟨0x201000c, 4, 1, 0x0, 0, 0, 0, 0, [⟨.ro, 20, 0, 0⟩]⟩
  , ⟨0x2010010, 4, 1, 0x0, 0, 0, 0, 0, [⟨.ro, 15, 0, 0⟩]⟩
  , ⟨0x2010014, 4, 1, 0x0, 0, 0, 0, 0, [⟨.ro, 17, 0, 196608⟩]⟩
  , ⟨0x2010020, 4, 1, 0x0, 0, 0, 0, 0, [⟨.ro, 31, 0, 0⟩]⟩
  , ⟨0x2010024, 4, 1, 0x0, 0, 0, 0, 0, [⟨.ro, 31, 0, 0⟩]⟩
  , ⟨0x2010028, 4, 1, 0x0, 0, 0, 0, 0, [⟨.ro, 31, 0, 0⟩]⟩
  , ⟨0x201002c, 4, 1, 0x0, 0, 0, 0, 0, [⟨.ro, 31, 0, 0⟩]⟩
  , ⟨0x2010030, 4, 1, 0x0, 0, 0, 0, 0, [⟨.ro, 31, 0, 0⟩]⟩
  , ⟨0x2010034, 4, 1, 0x0, 0, 0, 0, 0, [⟨.ro, 31, 0, 0⟩]⟩
  , ⟨0x2010038, 4, 1, 0x0, 0, 0, 0, 0, [⟨.wo, 0, 0, 0⟩]⟩
  , ⟨0x201003c, 4, 1, 0x0, 0, 0, 0, 0, [⟨.w1c, 0, 0, 0⟩]⟩
  , ⟨0x2010100, 4, 1, 0x0, 4, 32, 0, 0, [⟨.rwl, 19, 0, 0⟩]⟩
  , ⟨0x2010180, 4, 1, 0x0, 4, 32, 0, 0, [⟨.rwl, 19, 0, 0⟩]⟩
  , ⟨0x2010200, 4, 1, 0x0, 4, 32, 0, 0, [⟨.ro, 19, 0, 0⟩]⟩
  , ⟨0x2010280, 4, 1, 0x0, 4, 32, 0, 0, [⟨.ro, 19, 0, 0⟩]⟩
  , ⟨0x2010300, 4, 1, 0x0, 4, 32, 0, 0, [⟨.ro, 20, 0, 0⟩]⟩
  , ⟨0x2010380, 4, 1, 0x0, 4, 32, 0, 0, [⟨.ro, 20, 0, 0⟩]⟩ ]

/-- Rows 140 to 159 of the register table. -/
def regTable7 : List RegSpec :=
  [ ⟨0x2010800, 1, 1, 0x0, 16, 32, 0, 0, [⟨.rwl, 31, 0, 0⟩]⟩
  , ⟨0x2010804, 1, 1, 0x0, 16, 32, 0, 0, [⟨.rwl, 31, 0, 0⟩]⟩
  , ⟨0x2010808, 1, 1, 0x0, 16, 32, 0, 0, [⟨.rwl, 20, 0, 0⟩]⟩
  , ⟨0x201080c, 1, 1, 0x0, 16, 32, 0, 0, [⟨.rwl, 0, 0, 0⟩]⟩
  , ⟨0x2010a00, 1, 1, 0x0, 64, 32, 16, 4, [⟨.rwl, 31, 0, 0⟩]⟩
  , ⟨0x2010a04, 1, 1, 0x0, 64, 32, 16, 4, [⟨.rwl, 15, 0, 0⟩, ⟨.rwl, 31, 16, 0⟩]⟩
  , ⟨0x2010a08, 1, 1, 0x0, 64, 32, 16, 4, [⟨.rwl, 20, 0, 0⟩]⟩
  , ⟨0x2011200, 1, 1, 0x0, 4, 32, 0, 0, [⟨.w1c, 0, 0, 0⟩, ⟨.w1c, 4, 1, 0⟩]⟩
  , ⟨0x2011280, 1, 1, 0x0, 0, 0, 0, 0, [⟨.ro, 19, 0, 0⟩]⟩
  , ⟨0x2011284, 1, 1, 0x0, 0, 0, 0, 0, [⟨.ro, 31, 0, 0⟩]⟩
  , ⟨0x2011300, 1, 1, 0x0, 16, 32, 0, 0, [⟨.rwl, 31, 0, 0⟩]⟩
  , ⟨0x2011304, 1, 1, 0x0, 16, 32, 0, 0, [⟨.rwl, 31, 0, 0⟩]⟩
  , ⟨0x2011308, 1, 1, 0x0, 16, 32, 0, 0, [⟨.rwl, 31, 0, 0⟩]⟩
  , ⟨0x201130c, 1, 1, 0x0, 16, 32, 0, 0, [⟨.rwl, 31, 0, 0⟩]⟩
  , ⟨0x2018000, 4, 2, 0x1000, 0, 0, 0, 0, [⟨.rwl, 0, 0, 1⟩]⟩
  , ⟨0x2018004, 4, 2, 0x1000, 0, 0, 0, 0, [⟨.ro, 2, 0, 0⟩, ⟨.ro, 12, 8, 0⟩]⟩
  , ⟨0x2018008, 4, 2, 0x1000, 0, 0, 0, 0, [⟨.ro, 31, 0, 0⟩]⟩
  , ⟨0x201800c, 4, 2, 0x1000, 0, 0, 0, 0, [⟨.ro, 31, 0, 0⟩]⟩
  , ⟨0x2018010, 4, 2, 0x1000, 0, 0, 0, 0, [⟨.ro, 31, 0, 0⟩]⟩
  , ⟨0x2018014, 4, 2, 0x1000, 0, 0, 0, 0, [⟨.ro, 31, 0, 0⟩]⟩ ]

/-- Rows 160 to 179 of the register table. -/
def regTable8 : List RegSpec :=
  [ ⟨0x2018018, 4, 2, 0x1000, 0, 0, 0, 0, [⟨.wo, 0, 0, 0⟩]⟩
  , ⟨0x3000000, 4, 25, 0x100, 0, 0, 0, 0, [⟨.rw, 0, 0, 0⟩, ⟨.wo, 1, 1, 0⟩]⟩
  , ⟨0x3000004, 4, 25, 0x100, 0, 0, 0, 0, [⟨.ro, 3, 0, 0⟩, ⟨.ro, 11, 8, 0⟩, ⟨.ro, 23, 16, 0⟩]⟩
  , ⟨0x3000008, 4, 25, 0x100, 0, 0, 0, 0, [⟨.ro, 15, 0, 0⟩, ⟨.ro, 31, 16, 0⟩]⟩
  , ⟨0x3000010, 4, 25, 0x100, 0, 0, 0, 0, [⟨.ro, 31, 0, 0⟩]⟩
  , ⟨0x3000014, 4, 25, 0x100, 0, 0, 0, 0, [⟨.ro, 31, 0, 0⟩]⟩
  , ⟨0x3000018, 4, 25, 0x100, 0, 0, 0, 0, [⟨.ro, 31, 0, 0⟩]⟩
  , ⟨0x300001c, 4, 25, 0x100, 0, 0, 0, 0, [⟨.ro, 31, 0, 0⟩]⟩
  , ⟨0x3000020, 4, 25, 0x100, 0, 0, 0, 0, [⟨.ro, 31, 0, 0⟩]⟩
  , ⟨0x3000024, 4, 25, 0x100, 0, 0, 0, 0, [⟨.ro, 31, 0, 0⟩]⟩
  , ⟨0x3000028, 4, 25, 0x100, 0, 0, 0, 0, [⟨.ro, 31, 0, 0⟩]⟩
  , ⟨0x300002c, 4, 25, 0x100, 0, 0, 0, 0, [⟨.ro, 31, 0, 0⟩]⟩
  , ⟨0x3000030, 4, 25, 0x100, 0, 0, 0, 0, [⟨.ro, 31, 0, 0⟩]⟩
  , ⟨0x3000034, 4, 25, 0x100, 0, 0, 0, 0, [⟨.ro, 31, 0, 0⟩]⟩
  , ⟨0x3000038, 4, 25, 0x100, 0, 0, 0, 0, [⟨.wo, 0, 0, 0⟩]⟩
  , ⟨0x3008000, 1, 1, 0x0, 0, 0, 0, 0, [⟨.ro, 15, 0, 0⟩, ⟨.ro, 31, 16, 0⟩]⟩
  , ⟨0x3008004, 1, 1, 0x0, 0, 0, 0, 0, [⟨.ro, 15, 0, 0⟩, ⟨.ro, 31, 16, 0⟩]⟩
  , ⟨0x3008008, 1, 1, 0x0, 0, 0, 0, 0, [⟨.rw, 15, 0, 500⟩]⟩
  , ⟨0x300800c, 1, 1, 0x0, 0, 0, 0, 0, [⟨.rwl, 0, 0, 0⟩, ⟨.rw, 1, 1, 1⟩]⟩
  , ⟨0x3008010, 1, 1, 0x0, 0, 0, 0, 0, [⟨.ro, 12, 0, 0⟩, ⟨.ro, 28, 16, 0⟩]⟩ ]

/-- Rows 180 to 199 of the register table. -/
def regTable9 : List RegSpec :=
  [ ⟨0x3008014, 1, 1, 0x0, 0, 0, 0, 0, [⟨.rw, 15, 0, 0⟩]⟩
  , ⟨0x3008018, 1, 1, 0x0, 0, 0, 0, 0, [⟨.ro, 1, 0, 0⟩, ⟨.ro, 31, 16, 0⟩]⟩
  , ⟨0x300801c, 1, 1, 0x0, 0, 0, 0, 0, [⟨.ro, 16, 0, 0⟩]⟩
  , ⟨0x3008020, 1, 1, 0x0, 0, 0, 0, 0, [⟨.ro, 31, 0, 0⟩]⟩
  , ⟨0x3008024, 1, 1, 0x0, 0, 0, 0, 0, [⟨.ro, 31, 0, 0⟩]⟩
  , ⟨0x3008028, 1, 1, 0x0, 0, 0, 0, 0, [⟨.ro, 31, 0, 0⟩]⟩
  , ⟨0x300802c, 1, 1, 0x0, 0, 0, 0, 0, [⟨.ro, 31, 0, 0⟩]⟩
  , ⟨0x3008030, 1, 1, 0x0, 0, 0, 0, 0, [⟨.ro, 31, 0, 0⟩]⟩
  , ⟨0x3008034, 1, 1, 0x0, 0, 0, 0, 0, [⟨.ro, 31, 0, 0⟩]⟩
  , ⟨0x3008038, 1, 1, 0x0, 0, 0, 0, 0, [⟨.ro, 31, 0, 0⟩]⟩
  , ⟨0x300803c, 1, 1, 0x0, 0, 0, 0, 0, [⟨.ro, 31, 0, 0⟩]⟩
  , ⟨0x3008040, 1, 1, 0x0, 0, 0, 0, 0, [⟨.wo, 0, 0, 0⟩]⟩
  , ⟨0x3008100, 1, 1, 0x0, 4, 32, 0, 0, [⟨.rwl, 15, 0, 0⟩, ⟨.rwl, 31, 16, 0⟩]⟩
  , ⟨0x3008200, 1, 1, 0x0, 16, 64, 0, 0, [⟨.rwl, 31, 0, 0⟩]⟩
  , ⟨0x3008204, 1, 1, 0x0, 16, 64, 0, 0, [⟨.rwl, 15, 0, 0⟩, ⟨.rwl, 20, 16, 0⟩, ⟨.rwl, 24, 24, 0⟩, ⟨.rwl, 25, 25, 0⟩, ⟨.rwl, 26, 26, 0⟩, ⟨.rwl, 31, 31, 0⟩]⟩
  , ⟨0x3008208, 1, 1, 0x0, 16, 64, 0, 0, [⟨.rwl, 19, 0, 0⟩]⟩
  , ⟨0x300820c, 1, 1, 0x0, 16, 64, 0, 0, [⟨.rwl, 15, 0, 0⟩, ⟨.rwl, 31, 16, 0⟩]⟩
  , ⟨0x300a000, 4, 1, 0x0, 0, 0, 0, 0, [⟨.rwl, 0, 0, 1⟩, ⟨.rw, 31, 16, 2000⟩]⟩
  , ⟨0x300a004, 4, 1, 0x0, 0, 0, 0, 0, [⟨.ro, 2, 0, 0⟩, ⟨.ro, 13, 8, 0⟩, ⟨.ro, 23, 16, 0⟩]⟩
  , ⟨0x300a008, 4, 1, 0x0, 0, 0, 0, 0, [⟨.ro, 16, 0, 65536⟩]⟩ ]

/-- Rows 200 to 219 of the register table. -/
def regTable10 : List RegSpec :=
  [ ⟨0x300a010, 4, 1, 0x0, 0, 0, 0, 0, [⟨.ro, 31, 0, 0⟩]⟩
  , ⟨0x300a014, 4, 1, 0x0, 0, 0, 0, 0, [⟨.ro, 31, 0, 0⟩]⟩
  , ⟨0x300a018, 4, 1, 0x0, 0, 0, 0, 0, [⟨.ro, 31, 0, 0⟩]⟩
  , ⟨0x300a01c, 4, 1, 0x0, 0, 0, 0, 0, [⟨.ro, 31, 0, 0⟩]⟩
  , ⟨0x300a020, 4, 1, 0x0, 0, 0, 0, 0, [⟨.ro, 31, 0, 0⟩]⟩
  , ⟨0x300a024, 4, 1, 0x0, 0, 0, 0, 0, [⟨.ro, 31, 0, 0⟩]⟩
  , ⟨0x300a028, 4, 1, 0x0, 0, 0, 0, 0, [⟨.ro, 31, 0, 0⟩]⟩
  , ⟨0x300a02c, 4, 1, 0x0, 0, 0, 0, 0, [⟨.ro, 31, 0, 0⟩]⟩
  , ⟨0x300a030, 4, 1, 0x0, 0, 0, 0, 0, [⟨.ro, 31, 0, 0⟩]⟩
  , ⟨0x300a034, 4, 1, 0x0, 0, 0, 0, 0, [⟨.ro, 31, 0, 0⟩]⟩
  , ⟨0x300a038, 4, 1, 0x0, 0, 0, 0, 0, [⟨.ro, 31, 0, 0⟩]⟩
  , ⟨0x300a03c, 4, 1, 0x0, 0, 0, 0, 0, [⟨.ro, 31, 0, 0⟩]⟩
  , ⟨0x300a040, 4, 1, 0x0, 0, 0, 0, 0, [⟨.wo, 0, 0, 0⟩]⟩
  , ⟨0x1009000, 4, 1, 0x0, 0, 0, 0, 0, [⟨.rwl, 0, 0, 1⟩]⟩
  , ⟨0x1009004, 4, 1, 0x0, 0, 0, 0, 0, [⟨.ro, 2, 0, 0⟩, ⟨.ro, 12, 8, 0⟩]⟩
  , ⟨0x1009008, 4, 1, 0x0, 0, 0, 0, 0, [⟨.ro, 31, 0, 0⟩]⟩
  , ⟨0x1009010, 4, 1, 0x0, 0, 0, 0, 0, [⟨.ro, 31, 0, 0⟩]⟩
  , ⟨0x1009014, 4, 1, 0x0, 0, 0, 0, 0, [⟨.ro, 31, 0, 0⟩]⟩
  , ⟨0x1009018, 4, 1, 0x0, 0, 0, 0, 0, [⟨.ro, 31, 0, 0⟩]⟩
  , ⟨0x100901c, 4, 1, 0x0, 0, 0, 0, 0, [⟨.ro, 31, 0, 0⟩]⟩ ]

/-- Rows 220 to 239 of the register table. -/
def regTable11 : List RegSpec :=
  [ ⟨0x1009020, 4, 1, 0x0, 0, 0, 0, 0, [⟨.ro, 31, 0, 0⟩]⟩
  , ⟨0x1009024, 4, 1, 0x0, 0, 0, 0, 0, [⟨.ro, 31, 0, 0⟩]⟩
  , ⟨0x1009028, 4, 1, 0x0, 0, 0, 0, 0, [⟨.ro, 31, 0, 0⟩]⟩
  , ⟨0x100902c, 4, 1, 0x0, 0, 0, 0, 0, [⟨.ro, 31, 0, 0⟩]⟩
  , ⟨0x1009030, 4, 1, 0x0, 0, 0, 0, 0, [⟨.ro, 31, 0, 0⟩]⟩
  , ⟨0x1009034, 4, 1, 0x0, 0, 0, 0, 0, [⟨.ro, 31, 0, 0⟩]⟩
  , ⟨0x1009038, 4, 1, 0x0, 0, 0, 0, 0, [⟨.ro, 31, 0, 0⟩]⟩
  , ⟨0x100903c, 4, 1, 0x0, 0, 0, 0, 0, [⟨.ro, 31, 0, 0⟩]⟩
  , ⟨0x1009040, 4, 1, 0x0, 0, 0, 0, 0, [⟨.ro, 31, 0, 0⟩]⟩
  , ⟨0x1009044, 4, 1, 0x0, 0, 0, 0, 0, [⟨.w1c, 0, 0, 0⟩, ⟨.w1c, 1, 1, 0⟩, ⟨.w1c, 2, 2, 0⟩, ⟨.w1c, 3, 3, 0⟩, ⟨.w1c, 4, 4, 0⟩, ⟨.w1c, 5, 5, 0⟩]⟩
  , ⟨0x1009048, 4, 1, 0x0, 0, 0, 0, 0, [⟨.wo, 0, 0, 0⟩]⟩
  , ⟨0x2030000, 4, 1, 0x0, 0, 0, 0, 0, [⟨.rwl, 0, 0, 1⟩, ⟨.rw, 1, 1, 1⟩, ⟨.rw, 31, 16, 500⟩]⟩
  , ⟨0x2030004, 4, 1, 0x0, 0, 0, 0, 0, [⟨.ro, 2, 0, 0⟩, ⟨.ro, 13, 8, 0⟩, ⟨.ro, 23, 16, 0⟩, ⟨.ro, 24, 24, 0⟩]⟩
  , ⟨0x2030008, 4, 1, 0x0, 0, 0, 0, 0, [⟨.ro, 31, 0, 0⟩]⟩
  , ⟨0x203000c, 4, 1, 0x0, 0, 0, 0, 0, [⟨.ro, 31, 0, 0⟩]⟩
  , ⟨0x2030010, 4, 1, 0x0, 0, 0, 0, 0, [⟨.ro, 31, 0, 0⟩]⟩
  , ⟨0x2030014, 4, 1, 0x0, 0, 0, 0, 0, [⟨.ro, 31, 0, 0⟩]⟩
  , ⟨0x2030018, 4, 1, 0x0, 0, 0, 0, 0, [⟨.ro, 31, 0, 0⟩]⟩
  , ⟨0x203001c, 4, 1, 0x0, 0, 0, 0, 0, [⟨.ro, 31, 0, 0⟩]⟩
  , ⟨0x2030020, 4, 1, 0x0, 0, 0, 0, 0, [⟨.ro, 31, 0, 0⟩]⟩ ]

/-- Rows 240 to 259 of the register table. -/
def regTable12 : List RegSpec :=
  [ ⟨0x2030024, 4, 1, 0x0, 0, 0, 0, 0, [⟨.w1c, 0, 0, 0⟩, ⟨.w1c, 1, 1, 0⟩]⟩
  , ⟨0x2030028, 4, 1, 0x0, 0, 0, 0, 0, [⟨.wo, 0, 0, 0⟩]⟩
  , ⟨0x200000, 1, 1, 0x0, 0, 0, 0, 0, [⟨.wo, 4, 0, 0⟩, ⟨.wo, 10, 8, 0⟩]⟩
  , ⟨0x200004, 1, 1, 0x0, 0, 0, 0, 0, [⟨.ro, 0, 0, 0⟩, ⟨.w1c, 1, 1, 0⟩, ⟨.ro, 7, 4, 0⟩]⟩
  , ⟨0x200008, 1, 1, 0x0, 0, 0, 0, 0, [⟨.ro, 31, 0, 0⟩]⟩
  , ⟨0x20000c, 1, 1, 0x0, 0, 0, 0, 0, [⟨.ro, 31, 0, 0⟩]⟩
  , ⟨0x200010, 1, 1, 0x0, 0, 0, 0, 0, [⟨.ro, 4, 0, 0⟩, ⟨.ro, 8, 8, 0⟩]⟩
  , ⟨0x200014, 1, 1, 0x0, 0, 0, 0, 0, [⟨.w1c, 0, 0, 0⟩, ⟨.w1c, 1, 1, 0⟩, ⟨.w1c, 2, 2, 0⟩]⟩
  , ⟨0x200018, 1, 1, 0x0, 0, 0, 0, 0, [⟨.rw, 15, 0, 0⟩]⟩
  , ⟨0x20001c, 1, 1, 0x0, 0, 0, 0, 0, [⟨.rw, 31, 0, 0⟩]⟩
  , ⟨0x200020, 1, 1, 0x0, 0, 0, 0, 0, [⟨.rw, 31, 0, 0⟩]⟩
  , ⟨0x200040, 1, 1, 0x0, 4, 4, 0, 0, [⟨.rwl, 19, 0, 0⟩]⟩
  , ⟨0x200050, 1, 1, 0x0, 4, 4, 0, 0, [⟨.rwl, 19, 0, 0⟩]⟩
  , ⟨0x201000, 1, 1, 0x0, 64, 32, 0, 0, [⟨.rwl, 0, 0, 0⟩, ⟨.rwl, 1, 1, 0⟩, ⟨.rwl, 3, 2, 2⟩, ⟨.rwl, 14, 8, 16⟩]⟩
  , ⟨0x201004, 1, 1, 0x0, 64, 32, 0, 0, [⟨.rwl, 15, 0, 1⟩]⟩
  , ⟨0x201008, 1, 1, 0x0, 64, 32, 0, 0, [⟨.rwl, 15, 0, 0⟩]⟩
  , ⟨0x20100c, 1, 1, 0x0, 64, 32, 0, 0, [⟨.rwl, 7, 0, 0⟩, ⟨.rwl, 11, 8, 0⟩, ⟨.rwl, 15, 12, 0⟩, ⟨.rwl, 23, 16, 0⟩, ⟨.rwl, 27, 24, 0⟩]⟩
  , ⟨0x201010, 1, 1, 0x0, 64, 32, 0, 0, [⟨.rwl, 15, 0, 0⟩]⟩
  , ⟨0x201014, 1, 1, 0x0, 64, 32, 0, 0, [⟨.rwl, 16, 0, 0⟩]⟩
  , ⟨0x201018, 1, 1, 0x0, 64, 32, 0, 0, [⟨.ro, 2, 0, 0⟩, ⟨.ro, 14, 8, 0⟩, ⟨.ro, 16, 16, 0⟩, ⟨.ro, 17, 17, 0⟩]⟩ ]

/-- Rows 260 to 279 of the register table. -/
def regTable13 : List RegSpec :=
  [ ⟨0x201020, 1, 1, 0x0, 64, 32, 0, 0, [⟨.ro, 31, 0, 0⟩]⟩
  , ⟨0x201024, 1, 1, 0x0, 64, 32, 0, 0, [⟨.ro, 31, 0, 0⟩]⟩
  , ⟨0x201028, 1, 1, 0x0, 64, 32, 0, 0, [⟨.ro, 31, 0, 0⟩]⟩
  , ⟨0x20102c, 1, 1, 0x0, 64, 32, 0, 0, [⟨.ro, 31, 0, 0⟩]⟩
  , ⟨0x201030, 1, 1, 0x0, 64, 32, 0, 0, [⟨.ro, 31, 0, 0⟩]⟩
  , ⟨0x201034, 1, 1, 0x0, 64, 32, 0, 0, [⟨.ro, 31, 0, 0⟩]⟩
  , ⟨0x201038, 1, 1, 0x0, 64, 32, 0, 0, [⟨.wo, 0, 0, 0⟩]⟩
  , ⟨0x300000, 1, 1, 0x0, 0, 0, 0, 0, [⟨.rwl, 0, 0, 1⟩, ⟨.rwl, 1, 1, 1⟩]⟩
  , ⟨0x300004, 1, 1, 0x0, 0, 0, 0, 0, [⟨.rwl, 15, 0, 0⟩]⟩
  , ⟨0x300008, 1, 1, 0x0, 0, 0, 0, 0, [⟨.rwl, 6, 0, 65⟩]⟩
  , ⟨0x30000c, 1, 1, 0x0, 0, 0, 0, 0, [⟨.rwl, 7, 0, 50⟩, ⟨.rwl, 15, 8, 50⟩, ⟨.rw, 31, 16, 500⟩]⟩
  , ⟨0x300010, 1, 1, 0x0, 0, 0, 0, 0, [⟨.rw, 2, 0, 0⟩]⟩
  , ⟨0x300014, 1, 1, 0x0, 0, 0, 0, 0, [⟨.rw, 7, 0, 60⟩, ⟨.rw, 15, 8, 20⟩, ⟨.rw, 23, 16, 25⟩]⟩
  , ⟨0x300018, 1, 1, 0x0, 0, 0, 0, 0, [⟨.ro, 15, 0, 0⟩, ⟨.ro, 31, 16, 65535⟩]⟩
  , ⟨0x30001c, 1, 1, 0x0, 0, 0, 0, 0, [⟨.ro, 15, 0, 0⟩, ⟨.ro, 31, 16, 0⟩]⟩
  , ⟨0x300020, 1, 1, 0x0, 0, 0, 0, 0, [⟨.ro, 15, 0, 0⟩, ⟨.ro, 31, 16, 0⟩]⟩
  , ⟨0x300024, 1, 1, 0x0, 0, 0, 0, 0, [⟨.ro, 2, 0, 0⟩, ⟨.ro, 6, 4, 0⟩, ⟨.ro, 10, 8, 0⟩, ⟨.ro, 14, 12, 0⟩]⟩
  , ⟨0x300028, 1, 1, 0x0, 0, 0, 0, 0, [⟨.ro, 0, 0, 0⟩, ⟨.ro, 1, 1, 0⟩, ⟨.ro, 2, 2, 0⟩, ⟨.ro, 3, 3, 0⟩, ⟨.ro, 4, 4, 0⟩, ⟨.ro, 5, 5, 0⟩, ⟨.ro, 6, 6, 0⟩, ⟨.ro, 7, 7, 0⟩, ⟨.ro, 8, 8, 0⟩]⟩
  , ⟨0x30002c, 1, 1, 0x0, 0, 0, 0, 0, [⟨.ro, 15, 0, 0⟩, ⟨.ro, 19, 16, 0⟩]⟩
  , ⟨0x300030, 1, 1, 0x0, 4, 4, 0, 0, [⟨.ro, 11, 0, 0⟩]⟩ ]

/-- Rows 280 to 299 of the register table. -/
def regTable14 : List RegSpec :=
  [ ⟨0x300040, 1, 1, 0x0, 0, 0, 0, 0, [⟨.ro, 11, 0, 0⟩, ⟨.ro, 27, 16, 0⟩]⟩
  , ⟨0x300044, 1, 1, 0x0, 0, 0, 0, 0, [⟨.ro, 15, 0, 0⟩]⟩
  , ⟨0x300048, 1, 1, 0x0, 0, 0, 0, 0, [⟨.rwl, 15, 0, 300⟩]⟩
  , ⟨0x30004c, 1, 1, 0x0, 0, 0, 0, 0, [⟨.rwl, 15, 0, 200⟩, ⟨.rwl, 31, 16, 400⟩]⟩
  , ⟨0x300050, 1, 1, 0x0, 0, 0, 0, 0, [⟨.ro, 10, 0, 1000⟩, ⟨.rwl, 25, 16, 150⟩]⟩
  , ⟨0x300054, 1, 1, 0x0, 0, 0, 0, 0, [⟨.rwl, 15, 0, 250⟩]⟩
  , ⟨0x300058, 1, 1, 0x0, 0, 0, 0, 0, [⟨.rwl, 7, 0, 50⟩, ⟨.rwl, 15, 8, 65⟩]⟩
  , ⟨0x30005c, 1, 1, 0x0, 0, 0, 0, 0, [⟨.rwl, 15, 0, 3500⟩, ⟨.rwl, 31, 16, 8000⟩]⟩
  , ⟨0x300060, 1, 1, 0x0, 0, 0, 0, 0, [⟨.rwl, 7, 0, 95⟩, ⟨.rwl, 15, 8, 90⟩, ⟨.ro, 23, 16, 110⟩]⟩
  , ⟨0x300064, 1, 1, 0x0, 0, 0, 0, 0, [⟨.w1c, 0, 0, 0⟩, ⟨.w1c, 1, 1, 0⟩, ⟨.ro, 3, 2, 0⟩]⟩
  , ⟨0x300068, 1, 1, 0x0, 0, 0, 0, 0, [⟨.ro, 31, 0, 0⟩]⟩
  , ⟨0x30006c, 1, 1, 0x0, 0, 0, 0, 0, [⟨.ro, 31, 0, 0⟩]⟩
  , ⟨0x300070, 1, 1, 0x0, 0, 0, 0, 0, [⟨.ro, 31, 0, 0⟩]⟩
  , ⟨0x300074, 1, 1, 0x0, 0, 0, 0, 0, [⟨.wo, 0, 0, 0⟩]⟩
  , ⟨0x301000, 1, 1, 0x0, 0, 0, 0, 0, [⟨.ro, 24, 0, 0⟩]⟩
  , ⟨0x301004, 1, 1, 0x0, 0, 0, 0, 0, [⟨.ro, 24, 0, 0⟩]⟩
  , ⟨0x301008, 1, 1, 0x0, 0, 0, 0, 0, [⟨.ro, 24, 0, 0⟩]⟩
  , ⟨0x30100c, 1, 1, 0x0, 0, 0, 0, 0, [⟨.rwl, 15, 0, 1000⟩, ⟨.rwl, 16, 16, 1⟩]⟩
  , ⟨0x301010, 1, 1, 0x0, 0, 0, 0, 0, [⟨.ro, 31, 0, 0⟩]⟩
  , ⟨0x301014, 1, 1, 0x0, 0, 0, 0, 0, [⟨.ro, 31, 0, 0⟩]⟩ ]

/-- Rows 300 to 319 of the register table. -/
def regTable15 : List RegSpec :=
  [ ⟨0x301018, 1, 1, 0x0, 0, 0, 0, 0, [⟨.ro, 31, 0, 0⟩]⟩
  , ⟨0x30101c, 1, 1, 0x0, 0, 0, 0, 0, [⟨.ro, 31, 0, 0⟩]⟩
  , ⟨0x301020, 1, 1, 0x0, 0, 0, 0, 0, [⟨.rw, 24, 0, 0⟩]⟩
  , ⟨0x301024, 1, 1, 0x0, 0, 0, 0, 0, [⟨.ro, 0, 0, 1⟩, ⟨.ro, 1, 1, 0⟩]⟩
  , ⟨0x301100, 1, 1, 0x0, 4, 32, 0, 0, [⟨.rwl, 24, 0, 0⟩]⟩
  , ⟨0x302000, 1, 1, 0x0, 0, 0, 0, 0, [⟨.ro, 4, 0, 1⟩, ⟨.ro, 10, 8, 5⟩]⟩
  , ⟨0x302004, 1, 1, 0x0, 0, 0, 0, 0, [⟨.ro, 31, 0, 0⟩]⟩
  , ⟨0x302008, 1, 1, 0x0, 0, 0, 0, 0, [⟨.ro, 31, 0, 0⟩]⟩
  , ⟨0x30200c, 1, 1, 0x0, 0, 0, 0, 0, [⟨.ro, 31, 0, 0⟩]⟩
  , ⟨0x302010, 1, 1, 0x0, 0, 0, 0, 0, [⟨.ro, 0, 0, 0⟩, ⟨.ro, 1, 1, 0⟩, ⟨.ro, 2, 2, 0⟩, ⟨.ro, 11, 8, 0⟩, ⟨.ro, 15, 12, 0⟩, ⟨.ro, 19, 16, 0⟩]⟩
  , ⟨0x302014, 1, 1, 0x0, 0, 0, 0, 0, [⟨.ro, 24, 0, 0⟩]⟩
  , ⟨0x302018, 1, 1, 0x0, 0, 0, 0, 0, [⟨.wo, 11, 0, 0⟩, ⟨.wo, 15, 12, 0⟩]⟩
  , ⟨0x30201c, 1, 1, 0x0, 0, 0, 0, 0, [⟨.ro, 0, 0, 0⟩, ⟨.w1c, 1, 1, 0⟩, ⟨.ro, 7, 4, 0⟩]⟩
  , ⟨0x302020, 1, 1, 0x0, 0, 0, 0, 0, [⟨.wo, 3, 0, 0⟩, ⟨.wo, 5, 4, 0⟩, ⟨.wo, 9, 8, 0⟩]⟩
  , ⟨0x302024, 1, 1, 0x0, 0, 0, 0, 0, [⟨.ro, 0, 0, 0⟩, ⟨.w1c, 1, 1, 0⟩, ⟨.ro, 7, 4, 0⟩]⟩
  , ⟨0x302028, 1, 1, 0x0, 0, 0, 0, 0, [⟨.ro, 31, 0, 2400000⟩]⟩
  , ⟨0x302040, 1, 1, 0x0, 4, 8, 0, 0, [⟨.ro, 4, 0, 0⟩, ⟨.ro, 10, 8, 0⟩, ⟨.ro, 31, 16, 0⟩]⟩
  , ⟨0x400000, 1, 1, 0x0, 0, 0, 0, 0, [⟨.ro, 3, 0, 0⟩, ⟨.ro, 11, 8, 0⟩, ⟨.ro, 23, 16, 0⟩]⟩
  , ⟨0x400004, 1, 1, 0x0, 0, 0, 0, 0, [⟨.ro, 6, 0, 0⟩]⟩
  , ⟨0x400008, 1, 1, 0x0, 0, 0, 0, 0, [⟨.ro, 0, 0, 0⟩, ⟨.ro, 1, 1, 0⟩]⟩ ]

/-- Rows 320 to 339 of the register table. -/
def regTable16 : List RegSpec :=
  [ ⟨0x40000c, 1, 1, 0x0, 0, 0, 0, 0, [⟨.ro, 31, 0, 0⟩]⟩
  , ⟨0x400010, 1, 1, 0x0, 0, 0, 0, 0, [⟨.ro, 31, 0, 0⟩]⟩
  , ⟨0x400018, 1, 1, 0x0, 0, 0, 0, 0, [⟨.ro, 31, 0, 0⟩]⟩
  , ⟨0x40001c, 1, 1, 0x0, 0, 0, 0, 0, [⟨.ro, 31, 0, 0⟩]⟩
  , ⟨0x400020, 1, 1, 0x0, 0, 0, 0, 0, [⟨.wo, 4, 0, 0⟩, ⟨.wo, 9, 8, 0⟩]⟩
  , ⟨0x400024, 1, 1, 0x0, 0, 0, 0, 0, [⟨.ro, 0, 0, 0⟩, ⟨.w1c, 1, 1, 0⟩, ⟨.ro, 2, 2, 0⟩, ⟨.ro, 7, 4, 0⟩]⟩
  , ⟨0x400028, 1, 1, 0x0, 0, 0, 0, 0, [⟨.ro, 31, 0, 0⟩]⟩
  , ⟨0x400030, 1, 1, 0x0, 0, 0, 0, 0, [⟨.rwl, 0, 0, 0⟩]⟩
  , ⟨0x400034, 1, 1, 0x0, 0, 0, 0, 0, [⟨.ro, 31, 0, 0⟩]⟩
  , ⟨0x400038, 1, 1, 0x0, 0, 0, 0, 0, [⟨.ro, 25, 0, 0⟩]⟩
  , ⟨0x400040, 1, 1, 0x0, 0, 0, 0, 0, [⟨.ro, 1, 0, 0⟩, ⟨.ro, 10, 8, 0⟩]⟩
  , ⟨0x400044, 1, 1, 0x0, 0, 0, 0, 0, [⟨.wo, 0, 0, 0⟩]⟩
  , ⟨0x400048, 1, 1, 0x0, 0, 0, 0, 0, [⟨.ro, 0, 0, 0⟩, ⟨.w1c, 1, 1, 0⟩, ⟨.ro, 7, 4, 0⟩]⟩
  , ⟨0x400080, 1, 1, 0x0, 0, 0, 0, 0, [⟨.rw, 31, 0, 0⟩]⟩
  , ⟨0x400084, 1, 1, 0x0, 0, 0, 0, 0, [⟨.rw, 31, 0, 0⟩]⟩
  , ⟨0x400088, 1, 1, 0x0, 0, 0, 0, 0, [⟨.rw, 31, 0, 0⟩]⟩
  , ⟨0x40008c, 1, 1, 0x0, 0, 0, 0, 0, [⟨.wo, 0, 0, 0⟩]⟩
  , ⟨0x400090, 1, 1, 0x0, 0, 0, 0, 0, [⟨.ro, 0, 0, 0⟩, ⟨.w1c, 1, 1, 0⟩, ⟨.ro, 7, 4, 0⟩]⟩
  , ⟨0x400094, 1, 1, 0x0, 0, 0, 0, 0, [⟨.ro, 31, 0, 0⟩]⟩
  , ⟨0x500000, 1, 1, 0x0, 0, 0, 0, 0, [⟨.rw, 0, 0, 1⟩, ⟨.rwl, 1, 1, 1⟩, ⟨.rwl, 15, 8, 24⟩]⟩ ]

/-- Rows 340 to 359 of the register table. -/
def regTable17 : List RegSpec :=
  [ ⟨0x500008, 1, 1, 0x0, 0, 0, 0, 0, [⟨.ro, 31, 0, 0⟩]⟩
  , ⟨0x50000c, 1, 1, 0x0, 0, 0, 0, 0, [⟨.ro, 31, 0, 0⟩]⟩
  , ⟨0x500010, 1, 1, 0x0, 0, 0, 0, 0, [⟨.ro, 31, 0, 0⟩]⟩
  , ⟨0x500014, 1, 1, 0x0, 0, 0, 0, 0, [⟨.ro, 31, 0, 0⟩]⟩
  , ⟨0x500018, 1, 1, 0x0, 0, 0, 0, 0, [⟨.ro, 31, 0, 0⟩]⟩
  , ⟨0x50001c, 1, 1, 0x0, 0, 0, 0, 0, [⟨.ro, 31, 0, 0⟩]⟩
  , ⟨0x500020, 1, 1, 0x0, 0, 0, 0, 0, [⟨.ro, 31, 0, 0⟩]⟩
  , ⟨0x500024, 1, 1, 0x0, 0, 0, 0, 0, [⟨.ro, 31, 0, 0⟩]⟩
  , ⟨0x500028, 1, 1, 0x0, 0, 0, 0, 0, [⟨.ro, 31, 0, 0⟩]⟩
  , ⟨0x50002c, 1, 1, 0x0, 0, 0, 0, 0, [⟨.ro, 31, 0, 0⟩]⟩
  , ⟨0x500030, 1, 1, 0x0, 0, 0, 0, 0, [⟨.ro, 31, 0, 0⟩]⟩
  , ⟨0x500034, 1, 1, 0x0, 0, 0, 0, 0, [⟨.ro, 31, 0, 0⟩]⟩
  , ⟨0x500038, 1, 1, 0x0, 0, 0, 0, 0, [⟨.ro, 31, 0, 0⟩]⟩
  , ⟨0x50003c, 1, 1, 0x0, 0, 0, 0, 0, [⟨.ro, 31, 0, 0⟩]⟩
  , ⟨0x500040, 1, 1, 0x0, 0, 0, 0, 0, [⟨.wo, 0, 0, 0⟩]⟩
  , ⟨0x500080, 1, 1, 0x0, 0, 0, 0, 0, [⟨.ro, 7, 0, 0⟩]⟩
  , ⟨0x500084, 1, 1, 0x0, 0, 0, 0, 0, [⟨.ro, 31, 0, 0⟩]⟩
  , ⟨0x500088, 1, 1, 0x0, 0, 0, 0, 0, [⟨.ro, 31, 0, 0⟩]⟩
  , ⟨0x500100, 1, 1, 0x0, 0, 0, 0, 0, [⟨.ro, 15, 0, 0⟩]⟩
  , ⟨0x500104, 1, 1, 0x0, 0, 0, 0, 0, [⟨.ro, 7, 0, 0⟩, ⟨.ro, 11, 8, 0⟩, ⟨.ro, 15, 12, 0⟩, ⟨.ro, 23, 16, 0⟩, ⟨.ro, 27, 24, 0⟩]⟩ ]

/-- Rows 360 to 372 of the register table. -/
def regTable18 : List RegSpec :=
  [ ⟨0x501000, 1, 1, 0x0, 0, 0, 0, 0, [⟨.rwl, 0, 0, 1⟩, ⟨.rwl, 31, 16, 60⟩]⟩
  , ⟨0x501004, 1, 1, 0x0, 0, 0, 0, 0, [⟨.rw, 15, 0, 50⟩]⟩
  , ⟨0x501008, 1, 1, 0x0, 0, 0, 0, 0, [⟨.ro, 0, 0, 1⟩, ⟨.ro, 1, 1, 0⟩, ⟨.ro, 11, 8, 0⟩, ⟨.ro, 27, 16, 0⟩]⟩
  , ⟨0x501010, 1, 1, 0x0, 0, 0, 0, 0, [⟨.ro, 31, 0, 0⟩]⟩
  , ⟨0x501014, 1, 1, 0x0, 0, 0, 0, 0, [⟨.ro, 31, 0, 0⟩]⟩
  , ⟨0x501018, 1, 1, 0x0, 0, 0, 0, 0, [⟨.ro, 31, 0, 0⟩]⟩
  , ⟨0x50101c, 1, 1, 0x0, 0, 0, 0, 0, [⟨.ro, 31, 0, 0⟩]⟩
  , ⟨0x501020, 1, 1, 0x0, 0, 0, 0, 0, [⟨.ro, 31, 0, 0⟩]⟩
  , ⟨0x501024, 1, 1, 0x0, 0, 0, 0, 0, [⟨.ro, 11, 0, 0⟩, ⟨.ro, 15, 12, 0⟩, ⟨.ro, 23, 16, 0⟩]⟩
  , ⟨0x501028, 1, 1, 0x0, 0, 0, 0, 0, [⟨.wo, 11, 0, 0⟩, ⟨.wo, 15, 12, 0⟩]⟩
  , ⟨0x50102c, 1, 1, 0x0, 0, 0, 0, 0, [⟨.ro, 0, 0, 0⟩, ⟨.w1c, 1, 1, 0⟩, ⟨.ro, 7, 4, 0⟩]⟩
  , ⟨0x501030, 1, 1, 0x0, 0, 0, 0, 0, [⟨.wo, 0, 0, 0⟩]⟩
  , ⟨0x501040, 1, 1, 0x0, 0, 0, 0, 0, [⟨.ro, 6, 0, 0⟩]⟩ ]

/-- The register table. -/
def regTable : List RegSpec :=
  regTable0 ++ regTable1 ++ regTable2 ++ regTable3 ++ regTable4 ++ regTable5 ++ regTable6 ++ regTable7 ++ regTable8 ++ regTable9 ++ regTable10 ++ regTable11 ++ regTable12 ++ regTable13 ++ regTable14 ++ regTable15 ++ regTable16 ++ regTable17 ++ regTable18

/-- The position of an offset within one row of the table: instance, j and k. -/
def regIndex (r : RegSpec) (off : Nat) : Option (Nat × Nat × Nat) :=
  if off < r.base then none
  else
    let d := if r.dies ≤ 1 then 0 else (off - r.base) / 0x400000
    let o := off - r.base - d * 0x400000
    let i := if r.per ≤ 1 || r.inner = 0 then 0 else o / r.inner
    let o := o - i * r.inner
    let j := if r.jStride = 0 then 0 else o / r.jStride
    let o := o - j * r.jStride
    let k := if r.kStride = 0 then 0 else o / r.kStride
    let o := o - k * r.kStride
    if o = 0 && d < max 1 r.dies && i < max 1 r.per && j < max 1 r.jCount && k < max 1 r.kCount then
      some (d * max 1 r.per + i, j, k)
    else none

/-- The row of the table that an offset lies in, with its position there. -/
def regAt (off : Nat) : Option (RegSpec × Nat × Nat × Nat) :=
  regTable.findSome? fun r => (regIndex r off).map fun p => (r, p)

/-- The reset value of a register, its fields put together (reserved bits read as zero, R10). -/
def regResetOf (fs : List RegField) : Nat := (fs.map fun f => putBits f.hi f.lo f.reset).sum

end Sys2Proof.Machine
end

