-- ==== Sys2Proof/Machine/State.lean ====
section
/-! DEFINITION. The state of the BX-V1 as plain data: everything the chapters name, the queue of commands that wait, and
the model's own fields (free, io, out: log entries 2, 3 and 5). State.reset is the module right after a POWER_ON reset has
been released: the boot ROM has not yet checked the flash (R468, R471, R476, R493). -/

namespace Sys2Proof.Machine

open Sys2Proof

/-- The four assemblies (R1). -/
inductive Assembly where
  | h12f4 | h12f2 | h8f4 | h8f2
  deriving DecidableEq, Repr

/-- HBM stacks fitted (R1, R2). -/
def asmStacks : Assembly → Nat
  | .h12f4 => 12 | .h12f2 => 12 | .h8f4 => 8 | .h8f2 => 8

/-- I/O dies fitted (R1). -/
def asmIoDies : Assembly → Nat
  | .h12f4 => 4 | .h12f2 => 2 | .h8f4 => 4 | .h8f2 => 2

/-- What the block puts out: a write to host memory, an MSI-X message, an unsupported-request answer, a message on the
management connector, a host read request it makes, or a configuration completion. The model's own log of the
interface; log entry 2. -/
inductive Out where
  | hostWrite (addr : Nat) (bytes : List Byte)
  | hostPoison (addr : Nat) (bytes : List Byte)
  | msix (vector : Nat) (addr : Nat) (data : Word)
  | unsupported
  | cfgRetry
  | cfgDone
  | mgmt (code : Nat) (data : List Byte)
  | backInvalidate (line : Nat)
  | cfgData (off : Nat) (w : Word)
  | hdmData (offset : Nat) (bytes : List Byte) (poison : Bool)
  | flit (port : Nat) (bytes : List Byte)
  | pin (name : Nat) (value : Nat)
  deriving DecidableEq, Repr

/-- An event not yet given a record (R63): code, level, partition, source, merged count, DATA words. -/
structure Ev where
  code  : Nat
  level : Nat
  part  : Option Nat
  src   : Nat
  count : Nat
  data  : List Nat
  deriving DecidableEq, Repr

/-- A completion record without its PHASE (R59), with what R62 needs to raise the vector. -/
structure Rec where
  wid    : Nat
  cmdId  : Nat
  step   : Nat
  ring   : Nat
  us     : Nat
  src    : Nat
  events : Nat
  detail : Nat
  status : Nat
  irq    : Bool
  deriving DecidableEq, Repr

/-- A ring that is not detached (R39, R43, R78, R79). mute: it drains after ENABLE was cleared while CXL.cache was away, with nothing
written for it (R35). -/
structure Ring where
  n        : Nat
  state    : Nat
  cause    : Nat
  cons     : Word
  prod     : Word
  lastStep : Word
  base     : DWord
  log2     : Nat
  group    : Nat
  part     : Nat
  mute     : Bool
  deriving DecidableEq, Repr

/-- A doorbell line held in Shared state: the words last seen, and whether a re-read is awaited (R44, R45). -/
structure DbLine where
  line  : Nat
  words : List DWord
  await : Bool
  deriving DecidableEq, Repr

/-- An enabled ring group: records written since enable, the head word last read, records held, FAULT, the epoch count of
its stall, and the moderation gap (R60 to R62, R553). -/
structure Group where
  g        : Nat
  written  : Nat
  head     : Word
  held     : List Rec
  fault    : Bool
  stalled  : Bool
  reported : Bool
  gapRun   : Bool
  gapPend  : Bool
  deriving DecidableEq, Repr

/-- A write held while CXL.cache is away, in the order it would have been made (R35); a context with the ring as it then stood. -/
inductive HeldWrite where
  | record (g : Nat) (r : Rec)
  | event (e : Ev)
  | context (r : Ring)
  deriving DecidableEq, Repr

/-- The ring engine, the completion and event rings and the host link (chapter 02). -/
structure HostIf where
  rings     : List Ring
  lines     : List DbLine
  groups    : List Group
  evqCount  : Nat
  evqHead   : Word
  evqSeq    : Word
  lostSince : Option Nat
  held      : List HeldWrite
  pba       : List Nat
  msixOn    : Bool
  msixMask  : Bool
  latches   : List (Nat × Word)
  deriving DecidableEq, Repr

/-- Where a Waybill stands: waiting on its fence and semaphore; ready for an instance; started; its work over with its
record still to be made; its record queued, suppressed or held back for the END rule (R54, R57, R72, R418). -/
inductive Phase where
  | waiting | ready | running | ended | recorded | endHeld
  deriving DecidableEq, Repr

/-- An accepted Waybill (R50, R56) with what its completion record will carry. cut: memory-side dies fenced while it was running;
lost: one of them that a request of its met (R483). -/
structure Wb where
  wid      : Nat
  cid      : Nat
  ring     : Nat
  part     : Nat
  slot     : Slot
  phase    : Phase
  preset   : Option Nat
  status   : Nat
  detail   : Nat
  src      : Nat
  ns       : Nat
  events   : Nat
  kind     : Option EngKind
  need     : Nat
  held     : List Nat
  resSince : Option Nat
  faults   : Nat
  firstAt  : Option (Nat × Bool)
  poison   : Bool
  quota    : Bool
  fabGone  : Bool
  fabTime  : Bool
  linkBad  : Bool
  numeric  : Bool
  holes    : List Nat
  cut      : List Nat
  lost     : Option Nat
  deriving DecidableEq, Repr

/-- An accepted Consist (R55, R56), or the Waybills that R57 completes with WB_FORMAT (split). poisoned: a COLLECTIVE of it
has been poisoned (R351). preempted: a Waybill of it completed with PREEMPTED (R427). -/
structure Consist where
  cid     : Nat
  ring    : Nat
  part    : Nat
  group   : Nat
  step    : Nat
  endWid  : Option Nat
  started : Bool
  split   : Bool
  evicted : Bool
  poisoned : Bool
  preempted : Bool
  deriving DecidableEq, Repr

/-- What an engine instance is given to; an instance not listed is idle. -/
inductive Use where
  | reserved (wid : Nat)
  | running (wid : Nat)
  | selfTest
  | resetting
  deriving DecidableEq, Repr

/-- One suspension of a partition on an instance (R422); taker none means a driver SUSPEND. passed tells that the instance
has passed. -/
structure Susp where
  part   : Nat
  kind   : EngKind
  inst   : Nat
  taker  : Option Nat
  since  : Nat
  passed : Bool
  deriving DecidableEq, Repr

/-- One taking of instances, reported by PART_SUSPENDED when its last instance has passed (R436). -/
structure Taking where
  part     : Nat
  taker    : Option Nat
  since    : Nat
  kinds    : Nat
  reported : Bool
  deriving DecidableEq, Repr

/-- A partition that exists (R413, R419). useNs counts the engine-nanoseconds of PRT_USE. -/
structure Partn where
  p       : Nat
  v       : DWord
  rem     : Nat
  useNs   : Nat
  drvSusp : Bool
  evict   : Option (List Nat)
  evictPre : Nat
  deriving DecidableEq, Repr

/-- The Consist scheduler (chapter 13). idleAt: when an engine that was used became idle, as AON counts (R527). swapRun: a swap-out under way, with the AON count at its start, pages moved and moves
failed (R434). -/
structure Sched where
  parts    : List Partn
  consists : List Consist
  wbs      : List Wb
  insts    : List ((EngKind × Nat) × Use)
  idleAt   : List ((EngKind × Nat) × Nat)
  susps    : List Susp
  takings  : List Taking
  swapOwner : Option Nat
  swapWait : List Nat
  swapRun : Option (Nat × Nat × Nat)
  nextWid  : Nat
  nextCid  : Nat
  nextRes  : Nat
  deriving DecidableEq, Repr

/-- Where a placement page lives (R250, R255, R266): no backing yet, HBM, Siding, a slot of the host pool, a slot of a
fabric pool. -/
inductive Place where
  | none | hbm | siding
  | host (slot : Nat)
  | fabric (pool slot : Nat)
  deriving DecidableEq, Repr

/-- Whether and how a placement page is lent (R275, R278). -/
inductive Lent where
  | no
  | host (off : Nat)
  | fabric (off tier : Nat)
  deriving DecidableEq, Repr

/-- A mapped placement page: number (address / 2 MiB), hint, place, lending, heat, AON time of the last access and of
the last view read (0: none), and the Waybill of an UNMAP or RECLAIM that waits on it (R253 to R268). -/
structure Page where
  num    : Nat
  cold   : Bool
  place  : Place
  lent   : Lent
  heat   : Nat
  last   : Nat
  lastView : Nat
  gone   : Option Nat
  taking : Option Nat
  deriving DecidableEq, Repr

/-- Why a move was started (R269). -/
inductive MoveCause where
  | demand | intent | promote | background | victim | lend | swapOut
  deriving DecidableEq, Repr

/-- A move in flight: copy phase until the switch, then drain (R222, R273). xfe: the Transfer Engine that carries a pool move
(R282); failed: how one of its fabric transactions ended, as in fabStatus (R274, R311). -/
structure Move where
  page     : Nat
  die      : Nat
  src      : Place
  dst      : Place
  cause    : MoveCause
  switched : Bool
  xfe      : Option Nat
  failed   : Option Nat
  deriving DecidableEq, Repr

/-- A prefetch intent (R270 to R272). -/
structure Intent where
  page : Nat
  die  : Nat
  due  : Nat
  wid  : Nat
  inst : Nat
  queued : Bool
  deriving DecidableEq, Repr

/-- The last two position reports of an instance of a run (R270): once two are known, the ns between them and the positions. -/
structure Report where
  wid   : Nat
  inst  : Nat
  pos   : Nat
  nsPer : Option (Nat × Nat)
  deriving DecidableEq, Repr

/-- One piece of an XFER or FILL (R285). late: its pages that an UNMAP had taken before the piece started (R256). lost: bytes that it
did not write. -/
structure Piece where
  wid  : Nat
  idx  : Nat
  off  : Nat
  len  : Nat
  home : Nat
  xfe  : Option Nat
  run  : Bool
  sent : Bool
  failed : Bool
  late : List Nat
  lost : Nat
  deriving DecidableEq, Repr

/-- An XFER or FILL in progress (R284 to R286). -/
structure Xfer where
  wid      : Nat
  fill     : Bool
  src      : Nat
  dst      : Nat
  len      : Nat
  srcSpace : Nat
  dstSpace : Nat
  pieces   : List Piece
  unmoved  : Nat
  deriving DecidableEq, Repr

/-- A lease of a view read on one latent page: its placement page and 128 KiB frame, the view and the Waybill that read, whether the
read started in a copy phase of the page, and whether the page has switched since (R222, R223). -/
structure Lease where
  page   : Nat
  frame  : Nat
  view   : Nat
  wid    : Nat
  copy   : Bool
  before : Bool
  deriving DecidableEq, Repr

/-- Placement, moves, transfers and the snoop filter (chapter 08). placeQ: PLACE Waybills that wait, in the order of arrival (R258).
begun: accesses that wait, by Waybill and place in it, with the pages they began on (R256). serving: those pages of the access that the
running command makes, and via the die that makes them, as KIND and number (R17); both empty between commands. -/
structure Placing where
  pages   : List Page
  moves   : List Move
  demand  : List Nat
  intents : List Intent
  reports : List Report
  leases  : List Lease
  xfers   : List Xfer
  snoop   : List Nat
  dropped : List (Nat × Nat)
  placeQ  : List Nat
  begun   : List (Nat × Nat × List Nat)
  serving : List Nat
  via     : Option (Nat × Nat)
  deriving DecidableEq, Repr

/-- An open view: base, partition, the spec's bytes, the block list's bytes, and whether VIEW_CLOSE is waiting (R215,
R221, R241). -/
structure View where
  base    : Nat
  part    : Nat
  spec    : List Byte
  list    : List Byte
  closing : Option Nat
  holeSaid : Bool
  deriving DecidableEq, Repr

/-- A Gazetteer node (R228). -/
structure Node where
  h       : List Byte
  parent  : List Byte
  root    : Bool
  handle  : Nat
  part    : Nat
  die     : Nat
  refs    : Nat
  kids    : Nat
  last    : Nat
  deriving DecidableEq, Repr

/-- A KV Waybill in progress: descriptors done, RESULT codes so far, and the descriptors as they were read (R232 to R234). -/
structure KvJob where
  wid     : Nat
  gaz     : Nat
  next    : Nat
  count   : Nat
  notDone : Nat
  quota   : Bool
  closing : Bool
  descs   : List (List Byte)
  deriving DecidableEq, Repr

/-- The Expanders and Gazetteers (chapter 07). -/
structure Kv where
  views : List View
  nodes : List Node
  jobs  : List KvJob
  deriving DecidableEq, Repr

/-- A live or draining output tile: its key (digits outside K), the digits and position of its finishing step once that has
run, the accumulator row by row, the VXE's running m and l of each row, whether poisoned data reached it; for a tile that the
Theodolite samples the exact references and the bytes captured (R103, R114, R137, R171, R172, R201). -/
structure AccTile where
  key      : List Nat
  pos      : Nat
  digits   : List Nat
  vals     : List Word
  ms       : List Word
  ls       : List Word
  poison   : Bool
  draining : Bool
  refs     : List FNum
  captured : Nat
  deriving DecidableEq, Repr

/-- One instance of a run: its range of positions, its position, its tiles (R90, R91, R105, R108, R136). outer and outerEnd
run over the tiles of a SPARSE Timetable (R111, R213). -/
structure RunInst where
  inst    : Nat
  lo      : Nat
  hi      : Nat
  pos     : Nat
  outer   : Nat
  outerEnd : Nat
  tiles   : List AccTile
  missed  : Bool
  noticed : Bool
  waited  : List Nat
  started : Bool
  done    : Bool
  deriving DecidableEq, Repr

/-- A tile notice on its way to a CLE (R135): the instance, the partition and handle, the finishing position and digits, and
the byte ranges of C written. sent: it has left its MXE; the notices sent stand in the order of sending (R19). -/
structure TileNotice where
  inst   : Nat
  part   : Nat
  coll   : Nat
  pos    : Nat
  digits : List Nat
  ranges : List (Nat × Nat)
  sent   : Bool
  deriving DecidableEq, Repr

/-- A RUN_TIMETABLE in progress or checked and waiting (R31, R84 to R86, R133, R139, R143, R160, R177). nfCfg: MXE_NF_CFG of each
compute die as it applied at issue. unplaced: ranges whose engine passed to another Waybill while it waited for a copy. -/
structure Run where
  wid     : Nat
  part    : Nat
  kind    : EngKind
  addr    : Nat
  tt      : List Byte
  shapes  : List Nat
  bucket  : Nat
  recv    : Nat
  insts   : List RunInst
  unplaced : List RunInst
  dirty   : List (Nat × Nat)
  thd     : List (Word × Word)
  nfCfg   : List Word
  tables  : List (Nat × List Byte)
  storeWait : List Nat
  waits   : Nat
  sat     : Nat
  ovf     : Nat
  nonfin  : Nat
  laneBad : Nat
  laneAt  : Option (Nat × Nat)
  deriving DecidableEq, Repr

/-- A Timetable copy in a die's store (R86, R141, R143). -/
structure TtCopy where
  die  : Nat
  wid  : Nat
  size : Nat
  deriving DecidableEq, Repr

/-- A Theodolite histogram entry (R175, R176). -/
structure ThdEntry where
  die      : Nat
  slot     : Nat
  part     : Nat
  dig      : Nat
  bins     : List Nat
  samples  : Nat
  drifting : Nat
  skipBusy : Nat
  skipSize : Nat
  skipNf   : Nat
  last     : Nat
  since    : Nat
  deriving DecidableEq, Repr

/-- The tile a Theodolite is checking: its key, position, and the captured inputs reduced to the pairs of accumulator
value and binary64 reference of each unmasked element (R171 to R173). -/
structure ThdCheck where
  die   : Nat
  part  : Nat
  dig   : Nat
  addr  : Nat
  pos   : Nat
  drift : Word
  pairs : List (Word × DWord)
  deriving DecidableEq, Repr

/-- A table slot of a compute die that holds a table: bytes 0x000 to 0x107F of its file (R141, R193). -/
structure TableSlot where
  die   : Nat
  slot  : Nat
  part  : Nat
  bytes : List Byte
  deriving DecidableEq, Repr

/-- The engines that run Timetables (chapters 03 to 06 and 11). ovfEpoch: overflowed candidates of this epoch by die and
partition (R158). laneTold: a Waybill has met ignored outlier entries since reset (R153). -/
structure Engines where
  runs    : List Run
  copies  : List TtCopy
  thd     : List ThdEntry
  checks  : List ThdCheck
  tables  : List TableSlot
  notices : List TileNotice
  ovfEpoch : List (Nat × Nat × Nat)
  laneTold : Bool
  deriving DecidableEq, Repr

/-- A collective message that cannot leave yet, for want of a port in service or of a PRESENT peer entry (R321, R344). place: its place
among the messages of its chunk. inc: the INC fixed for its member, if one was when the message was made (R324). -/
structure OwedMsg where
  wid    : Nat
  cle    : Nat
  dst    : Nat
  inc    : Option Nat
  place  : Nat
  tag    : Nat
  off    : Nat
  mdata  : Nat
  body   : List Byte
  poison : Nat
  deriving DecidableEq, Repr

/-- What a message queued at a port is: the request of a transaction, by its tag; a collective's message; any other. -/
inductive QMark where
  | req (tag : Nat)
  | coll (o : OwedMsg)
  | none
  deriving DecidableEq, Repr

/-- A DATA flit kept until an ACK covers it (R301). -/
structure TxFlit where
  seq     : Nat
  bytes   : List Byte
  tags    : List Nat
  replays : Nat
  deriving DecidableEq, Repr

/-- A Vrela port (R293 to R305, R328). Lists of four run over the VCs request, response, collective, management. txPart, txTags: what is
left of a message whose first slots have been sent, and what the messages in it are, with their slots (R300). -/
structure Port where
  n        : Nat
  state    : Nat
  en       : Bool
  locked   : Bool
  fails    : Nat
  lanes    : Nat
  cause    : Nat
  nextSeq  : Nat
  unacked  : List TxFlit
  rxSeq    : Nat
  nakOut   : Bool
  badRun   : Nat
  freed    : List Nat
  owed     : List Nat
  held     : List Nat
  seen     : List Nat
  queue    : List (Nat × List Byte × QMark)
  txPart   : List Byte
  txTags   : List (QMark × Nat)
  rxPart   : List Byte
  inbox    : List (List Byte)
  colNext  : Bool
  replays  : Nat
  uncorr   : Nat
  swId     : Nat
  swPort   : Nat
  deriving DecidableEq, Repr

/-- State of a peer entry (R321). -/
inductive PeerSt where
  | resolving | present | gone
  deriving DecidableEq, Repr

/-- A peer table entry (R321, R322). asked: RESOLVEs whose answer has not come; stale: how many of those answers are discarded, because
a NOTICE came after the RESOLVE (R323). -/
structure Peer where
  ep   : Nat
  inc  : Nat
  st   : PeerSt
  out  : Nat
  used : Nat
  asked : Nat
  stale : Nat
  deriving DecidableEq, Repr

/-- Who made a fabric transaction: a piece of an XFER or FILL, a TIMESTAMP, or a Surveyor's move of a placement page. -/
inductive TxnOwner where
  | piece (wid idx : Nat)
  | stamp (wid : Nat)
  | move (page : Nat)
  deriving DecidableEq, Repr

/-- A fabric transaction (R311, R316, R324): it takes a tag and an INC once its peer is present, and is sent when a port is in
service. place: the offset within its owner of its first byte. again: it has been sent a second time (R302). port: where it was sent,
which holds room for its response (R305). full: its wait for a peer entry has been counted (R322). -/
structure Txn where
  tag    : Option Nat
  op     : Nat
  dst    : Nat
  inc    : Option Nat
  off    : Nat
  len    : Nat
  data   : List Byte
  poison : Nat
  owner  : TxnOwner
  place  : Nat
  sent   : Bool
  again  : Bool
  port   : Option Nat
  full   : Bool
  deriving DecidableEq, Repr

/-- The fabric (chapter 09). incs: the INC each Waybill or move has fixed for an endpoint (R324).
failed: failed transactions of each Waybill or move (R318). loop: messages turned back to the module itself (R312). mgtOrder: the
RESOLVE_RSP and NOTICE messages in the inboxes, by port and endpoint, in the order of their arrival (R323). turns: for each XFE, whether
the Surveyor's moves or the pieces have their turn of 64 KiB, and the bytes left of it (R287). -/
structure Vrela where
  ports  : List Port
  ep     : Nat
  inc    : Nat
  fabric : Nat
  peers  : List Peer
  txns   : List Txn
  quar   : List Nat
  incs   : List (Nat × Nat × Nat)
  failed : List (Nat × Nat)
  loop   : List (List Byte)
  mgtOrder : List (Nat × Nat)
  turns  : List (Nat × Bool × Nat)
  nextTag : Nat
  denied : Nat
  lastSrc : Nat
  lastOff : Nat
  deriving DecidableEq, Repr

/-- A chunk being received by a collective: DATA placed so far with its POISON bits, the CRC of its CHECK, whether it has been
checked and whether it has been combined, forwarded or written (R343, R349). -/
structure RxChunk where
  phase : Nat
  t     : Nat
  chunk : Nat
  src   : Nat
  got   : List (Nat × List Byte × Nat)
  check : Option Word
  ok    : Bool
  done  : Bool
  deriving DecidableEq, Repr

/-- Final bytes of one output chunk, with a poison flag for each byte, and whether this member formed them (R342, R349). -/
structure FinalChunk where
  chunk  : Nat
  bytes  : List Byte
  flags  : List Bool
  crc    : Word
  own    : Bool
  deriving DecidableEq, Repr

/-- A COLLECTIVE that has passed its checks (R345 to R354). me: the module's member index. joins: JOINs held, by member,
with the elements that the member sends here. said: members that have been sent a JOIN. grants: chunk buffers granted by
each member. gave: sources that ALL_TO_ALL_V has granted to. parts: FP32 partials by phase and chunk, each element with a
poison flag. ready: byte ranges that notices marked. -/
structure Coll where
  wid     : Nat
  part    : Nat
  cle     : Nat
  desc    : List Byte
  table   : List (Nat × Nat)
  me      : Nat
  opened  : Bool
  parked  : Bool
  joins   : List (Nat × Nat)
  incs    : List (Nat × Nat)
  said    : List Nat
  grants  : List (Nat × Nat)
  gave    : List Nat
  scount  : List Nat
  parts   : List ((Nat × Nat) × List (Word × Bool))
  sent    : List (Nat × Nat × Nat)
  rx      : List RxChunk
  finals  : List FinalChunk
  signalled : Nat
  openSaid : Bool
  saidVerdict : Bool
  verdicts : List Nat
  poisons : List Nat
  poisoned : Option (Nat × Nat × Nat)
  ready   : List (Nat × Nat)
  dropped : Nat
  nonfin  : Nat
  ns      : Nat
  deriving DecidableEq, Repr

/-- The CLEs: collectives in opening order (R345), the messages that wait to be sent, and the Waybills and endpoints whose wait for
a place in the peer table has been counted (R322). -/
structure Colls where
  list : List Coll
  owed : List OwedMsg
  full : List (Nat × Nat)
  deriving DecidableEq, Repr

/-- A codec context that is registered (R387, R398): its parameter block, frame buffers (BASE, PITCH, CHROMA_OFF), save
area, marks, next OUT_SEQ and picture number, and whether units are not decoded until a usable sequence header comes with a
key picture (R403). recent: the buffers written, with the size of what each holds, the last first (R402). due: decoded pictures whose
output is still to come, as picture order count, buffer and latency count (R395, R399). slots: the buffer in each AV1 reference slot, 64
for none. pocs: the picture order count of frame buffers. motion: what each buffer's units keep of motion (R391, R402). past: what
the standard's process keeps from unit to unit (R388, R405). -/
structure Ctx where
  id     : Nat
  part   : Nat
  cde    : Nat
  dir    : Nat
  params : List Byte
  bufs   : List (Nat × Nat × Nat)
  save   : Nat
  saveSize : Nat
  marks  : List Nat
  outSeq : Nat
  picNum : Nat
  seqBad : Bool
  recent : List (Nat × Nat × Nat)
  due    : List (Nat × Nat × Nat)
  slots  : List Nat
  pocs   : List (Nat × Nat)
  motion : List (Nat × List Nat)
  past   : Nat
  deriving DecidableEq, Repr

/-- A codec command queued at a CDE (R388, R407). checked: a picture command that has passed R396; the others wait for the
commands of their context before them. -/
structure CdCmd where
  wid   : Nat
  ctx   : Nat
  cls   : Nat
  aged  : Bool
  order : Nat
  checked : Bool
  deriving DecidableEq, Repr

/-- A picture that runs, is displaced or is parked (R408, R409): rows done of its tile rows. -/
structure CdRun where
  wid    : Nat
  ctx    : Nat
  cls    : Nat
  order  : Nat
  rows   : Nat
  saves  : Nat
  aged   : Bool
  parked : Bool
  deriving DecidableEq, Repr

/-- A codec engine with work (R407). -/
structure Cde where
  n      : Nat
  queue  : List CdCmd
  run    : Option CdRun
  asides : List CdRun
  deriving DecidableEq, Repr

/-- The codec engines and their contexts (chapter 12). -/
structure Codec where
  ctxs : List Ctx
  cdes : List Cde
  nextOrder : Nat
  deriving DecidableEq, Repr

/-- An episode of the brown-out source (R450, R453): AON count when it acted, lowest input in mV, restarts of the release count, the AON
count from which it runs, and whether it has run before. -/
structure Brown where
  since    : Nat
  lowest   : Nat
  restarts : Nat
  counting : Option Nat
  counted  : Bool
  deriving DecidableEq, Repr

/-- An episode of the input-current source (R450): AON count when it acted, peak in mA, input in mV at the peak, and the AON count from
which the current has been measured below 90 % of the limit. -/
structure IlimEp where
  since : Nat
  peak  : Nat
  vin   : Nat
  low   : Option Nat
  deriving DecidableEq, Repr

/-- Thermal source of one compute die: requested step, highest temperature in 0.1 °C and highest step of the episode. -/
structure HotEp where
  die  : Nat
  step : Nat
  temp : Int
  high : Nat
  deriving DecidableEq, Repr

/-- What an accepted Consist hinted (R447, R448): per kind of engine the largest SPREAD and the MEAN_W of its Timetables, PEAK_W and
CLASS of those that hint, and whether its rise is still predicted. -/
structure Predict where
  cid   : Nat
  part  : Nat
  terms : List (EngKind × Nat × List Nat)
  hints : List (Nat × Nat)
  live  : Bool
  deriving DecidableEq, Repr

/-- Ballast on one MXE: when it was put there, and whether it is being lowered (R449). -/
structure Ballast where
  mxe   : Nat
  since : Nat
  lower : Bool
  deriving DecidableEq, Repr

/-- The power governor and the coolant loop (chapter 14). Currents in mA, voltages in mV, temperatures in 0.1 °C. plate is
the model temperature of R456 in °C and integ the integrator of R455, both exact. -/
structure Power where
  steps    : List Nat
  brown    : Option Brown
  brownEnd : Option (Nat × Nat × Nat)
  ilim     : Option IlimEp
  limit    : Nat
  limitEp  : Option (Nat × Nat)
  hot      : List HotEp
  flowAct  : Bool
  leakIn   : Bool
  sensor   : List Nat
  up       : Nat
  down     : Nat
  predicts : List Predict
  ballast  : List Ballast
  iin      : Nat
  vin      : Nat
  integ    : Rat
  plate    : Option Rat
  flowWin  : List Nat
  goodIn   : Int
  coolHot  : Bool
  sensBad  : List Nat
  pMeas    : Nat
  deriving DecidableEq, Repr

/-- A reset that is asserted or being released (R471, R475, R477): its kind, held sources still asserted, domains still in
reset, those whose PLL has locked with the AON count of the lock, those that failed to lock, and AON counts: of the assertion, of the last
release, and at which the thermal trip last asserted. -/
structure RstRun where
  kind    : Nat
  holds   : List Nat
  scope   : List Nat
  inReset : List Nat
  locked  : List (Nat × Nat)
  failed  : List Nat
  start   : Nat
  lastRel : Nat
  trip    : Nat
  stuck   : Bool
  deriving DecidableEq, Repr

/-- A die being restarted: KIND, number, AON count at the command and of the last release, and its domains whose PLL has locked with the AON count
of the lock (R484). -/
structure DieRun where
  kind    : Nat
  die     : Nat
  start   : Nat
  lastRel : Nat
  locked  : List (Nat × Nat)
  deriving DecidableEq, Repr

/-- Clocks and resets (chapter 15). -/
structure ClkRst where
  run     : Option RstRun
  fenced  : List (Nat × Nat)
  restart : Option DieRun
  booted  : Bool
  trained : Bool
  xtalOk  : Bool
  kept    : List Nat
  deriving DecidableEq, Repr

/-- The image of the firmware that runs, as the ROM left it, and the alias certificate it issued (R492, R494, R501). -/
structure Firmware where
  svn     : Nat
  version : Nat
  digest  : List Byte
  keys    : List Byte
  cert    : List Byte
  deriving DecidableEq, Repr

/-- A firmware transfer into flash (R496, R498): over CXL in recovery, over PLDM in recovery or by the firmware. -/
structure Update where
  pldm   : Bool
  size   : Nat
  headOk : Bool
  result : Option Nat
  verified : Option Bool
  ended  : Bool
  deriving DecidableEq, Repr

/-- What an SPDM requester has negotiated on one transport (R502): 0 MCTP, 1 CXL DOE; the secret of a handshake under way; the key of a
session and the messages sent under it. -/
structure Spdm where
  transport : Nat
  version : Bool
  caps    : Bool
  algs    : List SpdmAlg
  handshake : Option (List Byte)
  session : Option (List Byte × Nat)
  deriving DecidableEq, Repr

/-- Boot, identity, seals and debug (chapter 16). -/
structure Sec where
  secret  : List Byte
  vkd     : Option (List Byte)
  svnFuse : Nat
  uid     : DWord
  dbgOff  : Bool
  flash   : List Byte
  spoilt  : Bool
  certs   : List (List Byte)
  fw      : Option Firmware
  recovery : Bool
  aliasGone : Bool
  update  : Option Update
  devSeal : Option (List Byte)
  partSeals : List (Nat × List Byte)
  violMark : Word
  challenge : Option (List Byte)
  failsNow : Nat
  lockout : Bool
  spdm    : List Spdm
  ideKeys : List (List Byte)
  deriving DecidableEq, Repr

/-- A self-test slice that is due (R527). -/
structure Due where
  kind    : EngKind
  inst    : Nat
  slice   : Nat
  overdue : Bool
  deriving DecidableEq, Repr

/-- A slice that runs; second after a first mismatch (R528). -/
structure SliceRun where
  kind   : EngKind
  inst   : Nat
  slice  : Nat
  second : Bool
  deriving DecidableEq, Repr

/-- A cell-level error gathered for its merged record (R523): code, source, count, DATA0 to DATA3. -/
structure Merged where
  code  : Nat
  part  : Option Nat
  src   : Nat
  count : Nat
  d0    : Nat
  d1    : Nat
  d2    : Nat
  d3    : Nat
  deriving DecidableEq, Repr

/-- Errors and self-test (chapter 17). done: slices run since the last BST_CYCLE; tally: slices, overdue, failures in it;
fresh: lines whose mark the present step set, empty between commands (R521); badUnits: blocks without an AVAIL that have failed, 0 a
Gazetteer, 1 an Expander, 2 a Theodolite, with their die (R518). -/
structure Errors where
  merged  : List Merged
  due     : List Due
  slices  : List SliceRun
  done    : List (EngKind × Nat × Nat)
  tally   : Nat × Nat × Nat
  cycleAt : Nat
  episodes : List (Nat × Nat)
  scrubAt : List (Nat × Nat)
  fresh   : List Nat
  badUnits : List (Nat × Nat)
  deriving DecidableEq, Repr

/-- The management connector and the host link outside the register files (chapters 02 and 18). -/
structure Pins where
  aux     : Bool
  strapI3c  : Bool
  strapAddr : Nat
  busSel  : Bool
  addr    : Nat
  refClk  : Bool
  perst   : Bool
  cfg     : List (Nat × Word)
  ideSkid : Bool
  deriving DecidableEq, Repr

/-- The whole block. Grouped as the chapters are. -/
structure State where
  /-- Which of the four assemblies this module is (R1); never written. -/
  assy    : Assembly
  /-- The AON counter (R32, R464). -/
  aon     : Nat
  /-- Commands that wait, first in first out. -/
  pending : List Instr
  /-- Free values used so far: the model's own (log entry 5). -/
  free    : Nat
  /-- Outcomes of the host accesses that the running command still has to make; empty between commands (log entry 3). -/
  io      : List IoRes
  /-- What the block has put out, oldest first (log entry 2). -/
  out     : List Out
  /-- BAR0 registers by offset (R36): words that differ from their reset value. -/
  regs    : List (Nat × Word)
  /-- Settings as they stood at the last epoch boundary, for the registers whose changes wait for it (R31). -/
  latched : List (Nat × Word)
  /-- Contents of device memory by device virtual address; an unlisted byte reads as zero (R255). -/
  mem     : List Host.Cell
  /-- Poisoned 64-byte lines by device virtual address / 64 (R260, R514). -/
  marks   : List (Nat × Bool)
  /-- The semaphore store by index (R428). -/
  sems    : List (Nat × DWord)
  host    : HostIf
  sched   : Sched
  place   : Placing
  kv      : Kv
  eng     : Engines
  vrl     : Vrela
  colls   : Colls
  codec   : Codec
  pwr     : Power
  clk     : ClkRst
  sec     : Sec
  err     : Errors
  pins    : Pins
  deriving DecidableEq, Repr

/-- Why the block would stop. The manual gives every command an effect, so no meaning raises a fault: the type has no
constructor. Safe. -/
inductive Fault where
  deriving DecidableEq, Repr

/-- Why a command would be refused. -/
inductive Refusal where
  /-- Raised by an arm of exec whose command has no meaning yet, with its mnemonic. Safe. -/
  | notModelled (mnemonic : String)
  deriving DecidableEq, Repr

/-- The clock domains of an assembly (R463): 0 to 22 always, 23 and 24 with four I/O dies. -/
def asmDomains (a : Assembly) : List Nat := List.range (21 + asmIoDies a)

/-- A word with bit d set for every d of a list. -/
def maskOf (l : List Nat) : Word := l.foldl (fun m d => m ||| BitVec.ofNat 32 (1 <<< d)) 0

/-- Module power limit in W (R442). -/
def asmWatts : Assembly → Nat
  | .h12f4 => 2800 | .h12f2 => 2450 | .h8f4 => 2650 | .h8f2 => 2300

/-- Reset values that depend on the assembly or that the table gives as a state rather than a number; the Vector Control
words of the MSI-X table come up masked, as PCIe lays them out (R77, log entry 9). -/
def regResetSpecial (a : Assembly) (off : Nat) : Option Nat :=
  if off = rGlbAssy then some (asmStacks a + 16 * asmIoDies a)
  else if off = rPwrLimit then some (asmWatts a)
  else if off = rClkRun then some (maskOf (asmDomains a)).toNat
  else if off = rRstCause then some 0x501
  else if 0x110000 ≤ off ∧ off < 0x118000 ∧ off % 16 = 12 then some 1
  else none

/-- Reset value of the register at an offset; an offset without a register reads as zero (R10). -/
def regReset (a : Assembly) (off : Nat) : Word :=
  match regResetSpecial a off with
  | some v => BitVec.ofNat 32 v
  | none => match regAt off with
    | some (r, _) => BitVec.ofNat 32 (regResetOf r.fields)
    | none => 0

/-- A byte of device memory that nothing has written reads as zero (R255). -/
def memReset (_ : Nat) : Byte := 0
/-- No line is poisoned. -/
def markReset (_ : Nat) : Bool := false
/-- A semaphore starts at zero (R428). -/
def semReset (_ : Nat) : DWord := 0

/-- The host interface at reset: no ring attached, no group enabled, vectors masked. -/
def HostIf.reset : HostIf :=
  { rings := [], lines := [], groups := [], evqCount := 0, evqHead := 0, evqSeq := 0, lostSince := none, held := [],
    pba := [], msixOn := false, msixMask := false, latches := [] }

/-- The scheduler at reset: no partition, nothing accepted. -/
def Sched.reset : Sched :=
  { parts := [], consists := [], wbs := [], insts := [], idleAt := [], susps := [], takings := [], swapOwner := none, swapWait := [], swapRun := none,
    nextWid := 0, nextCid := 0, nextRes := 0 }

/-- Placement at reset: nothing mapped. -/
def Placing.reset : Placing :=
  { pages := [], moves := [], demand := [], intents := [], reports := [], leases := [], xfers := [], snoop := [],
    dropped := [], placeQ := [], begun := [], serving := [], via := none }

/-- The governor at reset (R446, R454 to R458). -/
def Power.reset : Power :=
  { steps := [0, 0, 0, 0], brown := none, brownEnd := none, ilim := none, limit := 0, limitEp := none, hot := [],
    flowAct := false, leakIn := false, sensor := [], up := 0, down := 0, predicts := [], ballast := [], iin := 0, vin := 0,
    integ := 0, plate := none, flowWin := [], goodIn := 0, coolHot := false, sensBad := [], pMeas := 0 }

/-- Security state at reset: an erased flash and fuses as the model names them (log entry 12). -/
def Sec.reset : Sec :=
  { secret := List.replicate 32 0, vkd := none, svnFuse := 0, uid := 0, dbgOff := false, flash := [], spoilt := false,
    certs := [], fw := none, recovery := false, aliasGone := false, update := none, devSeal := none, partSeals := [],
    violMark := 0, challenge := none, failsNow := 0, lockout := false, spdm := [], ideKeys := [] }

/-- Errors and self-test at reset. -/
def Errors.reset : Errors :=
  { merged := [], due := [], slices := [], done := [], tally := (0, 0, 0), cycleAt := 0, episodes := [],
    scrubAt := [], fresh := [], badUnits := [] }

/-- Fabric state at reset; INC is drawn from the entropy source (R313). -/
def Vrela.reset : Vrela :=
  { ports := [], ep := 0, inc := 0, fabric := 0, peers := [], txns := [], quar := [], incs := [], failed := [],
    loop := [], mgtOrder := [], turns := [], nextTag := 0, denied := 0, lastSrc := 0, lastOff := 0 }

/-- The module right after a POWER_ON reset. -/
def State.reset : State where
  assy := .h12f4
  aon := 0
  pending := []
  free := 0
  io := []
  out := []
  regs := []
  latched := []
  mem := []
  marks := []
  sems := []
  host := HostIf.reset
  sched := Sched.reset
  place := Placing.reset
  kv := { views := [], nodes := [], jobs := [] }
  eng := { runs := [], copies := [], thd := [], checks := [], tables := [], notices := [], ovfEpoch := [], laneTold := false }
  vrl := Vrela.reset
  colls := { list := [], owed := [], full := [] }
  codec := { ctxs := [], cdes := [], nextOrder := 0 }
  pwr := Power.reset
  clk := { run := none, fenced := [], restart := none, booted := false, trained := false, xtalOk := true, kept := [] }
  sec := Sec.reset
  err := Errors.reset
  pins := { aux := true, strapI3c := true, strapAddr := 0, busSel := true, addr := 0, refClk := false, perst := false,
            cfg := [], ideSkid := false }

end Sys2Proof.Machine
end

