-- ==== Sys2Proof/Machine/Flags.lean ====
section
/-! DEFINITION. The codes that results are reported in: status codes (R69), event codes with their levels (R66 and the
event tables of the chapters), the SOURCE encoding (R64), and the saturation of counts (R59). -/

namespace Sys2Proof.Machine

open Sys2Proof

/-- Status codes of R69. -/
def stOk : Nat := 0x00
/-- OK_EMPTY -/
def stOkEmpty : Nat := 0x01
/-- OK_NUMERIC -/
def stOkNumeric : Nat := 0x02
/-- OK_DROPPED -/
def stOkDropped : Nat := 0x03
/-- OK_CONCEALED -/
def stOkConcealed : Nat := 0x04
/-- WB_FORMAT -/
def stWbFormat : Nat := 0x10
/-- WB_OPCODE -/
def stWbOpcode : Nat := 0x11
/-- WB_ALIGN -/
def stWbAlign : Nat := 0x12
/-- WB_BOUNDS -/
def stWbBounds : Nat := 0x13
/-- TT_SEAL -/
def stTtSeal : Nat := 0x20
/-- TT_ACC_CAPACITY -/
def stTtAcc : Nat := 0x21
/-- TT_OPB_CAPACITY -/
def stTtOpb : Nat := 0x22
/-- TT_LOOP_SHAPE -/
def stTtShape : Nat := 0x23
/-- TT_BUCKET -/
def stTtBucket : Nat := 0x24
/-- MEM_FAULT -/
def stMemFault : Nat := 0x30
/-- MEM_POISON -/
def stMemPoison : Nat := 0x31
/-- MEM_QUOTA -/
def stMemQuota : Nat := 0x32
/-- FAB_PEER_GONE -/
def stFabGone : Nat := 0x40
/-- FAB_TIMEOUT -/
def stFabTimeout : Nat := 0x41
/-- COLL_POISON -/
def stCollPoison : Nat := 0x42
/-- COLL_STALL -/
def stCollStall : Nat := 0x43
/-- PREEMPTED -/
def stPreempted : Nat := 0x60
/-- BLK_BUSY -/
def stBlkBusy : Nat := 0x61
/-- SEC_DENIED -/
def stSecDenied : Nat := 0x70
/-- SEC_UNSEALED -/
def stSecUnsealed : Nat := 0x71
/-- DEV_FATAL -/
def stDevFatal : Nat := 0xF0
/-- DIE_LOST -/
def stDieLost : Nat := 0xF1

/-- The success class of R69. -/
def stSuccess (st : Nat) : Bool := decide (st < 0x10)

/-- A count in DETAIL saturates at 0xFFFF_FFFF (R59). -/
def detailSat (n : Nat) : Nat := min n 0xFFFFFFFF

/-- SOURCE of an event or a record: KIND and INSTANCE (R64). -/
def srcOf (kind inst : Nat) : Nat := (kind % 16) * 4096 + inst % 4096

/-- SOURCE KIND of an engine kind (R64); a Gazetteer has none and is named by its memory-side die (log entry 13). -/
def kindCode : EngKind → Nat
  | .mxe => 4 | .vxe => 5 | .cve => 6 | .cde => 7 | .xfe => 8 | .cle => 9 | .gaz => 2

/-- SOURCE of an engine. -/
def engSrc (k : EngKind) (i : Nat) : Nat := srcOf (kindCode k) i

/-- The engine kind that a SOURCE KIND from 4 to 9 names. -/
def kindOfCode : Nat → Option EngKind
  | 4 => some .mxe | 5 => some .vxe | 6 => some .cve | 7 => some .cde | 8 => some .xfe | 9 => some .cle | _ => none

/-- Bit of an engine kind in PART_SUSPENDED (R436). -/
def kindBit : EngKind → Nat
  | .mxe => 1 | .vxe => 2 | .cve => 4 | .cde => 8 | .xfe => 16 | .cle => 32 | .gaz => 64

/-- The engine kinds. -/
def allKinds : List EngKind := [.mxe, .vxe, .cve, .cde, .xfe, .cle, .gaz]

/-- LEVEL of an event (R21, R63). -/
def lvCell : Nat := 0
/-- Block level. -/
def lvBlock : Nat := 1
/-- Region level. -/
def lvRegion : Nat := 2
/-- Chip level. -/
def lvChip : Nat := 3

/-- An event that stands for one occurrence. -/
def ev (code level : Nat) (part : Option Nat) (src : Nat) (data : List Nat) : Ev :=
  { code := code, level := level, part := part, src := src, count := 1, data := data }

/-- Bytes of an event record (R63). -/
def evBytes (e : Ev) (aon : Nat) (seq : Word) (phase : Nat) : List Byte :=
  leBytes 8 aon
  ++ leBytes 8 (e.code % 65536 + e.level % 8 * 65536 + (e.part.getD 0) % 32 * 2 ^ 24
      + (if e.part.isSome then 2 ^ 31 else 0) + e.src % 65536 * 2 ^ 32 + (min e.count 65535) * 2 ^ 48)
  ++ ((List.range 5).map fun i => leBytes 8 (e.data.getD i 0)).flatten
  ++ leBytes 8 (seq.toNat + phase % 2 * 2 ^ 63)

/-- Bytes of a completion record (R59). -/
def recBytes (r : Rec) (phase : Nat) : List Byte :=
  leBytes 8 r.cmdId ++ leBytes 8 (r.step % 2 ^ 32 + r.ring % 2 ^ 15 * 2 ^ 32)
  ++ leBytes 8 (r.us % 2 ^ 32 + r.src % 65536 * 2 ^ 32 + min r.events 65535 * 2 ^ 48)
  ++ leBytes 8 (detailSat r.detail + r.status % 256 * 2 ^ 48 + phase % 2 * 2 ^ 63)

end Sys2Proof.Machine
end

