-- ==== Sys2Proof/Machine/Operands.lean ====
section
/-! DEFINITION. The operand forms: the fields of a Waybill (R50, R51), of a ring context (R39), and of the addresses they
hold (R52, R249, R250). -/

namespace Sys2Proof.Machine

open Sys2Proof

/-- OPCODE -/
def wOpcode (w : Slot) : Nat := slotField w 0 7 0
/-- END -/
def wEnd (w : Slot) : Bool := decide (slotField w 0 8 8 = 1)
/-- IRQ -/
def wIrq (w : Slot) : Bool := decide (slotField w 0 9 9 = 1)
/-- QUIET -/
def wQuiet (w : Slot) : Bool := decide (slotField w 0 10 10 = 1)
/-- FENCE -/
def wFence (w : Slot) : Bool := decide (slotField w 0 11 11 = 1)
/-- WAIT_EN -/
def wWaitEn (w : Slot) : Bool := decide (slotField w 0 12 12 = 1)
/-- SIGNAL_EN -/
def wSignalEn (w : Slot) : Bool := decide (slotField w 0 13 13 = 1)
/-- Reserved bits [31:14] -/
def wReserved (w : Slot) : Nat := slotField w 0 31 14
/-- STEP -/
def wStep (w : Slot) : Nat := slotField w 0 63 32
/-- CMD_ID -/
def wCmdId (w : Slot) : Nat := slotField w 8 63 0
/-- ARG0 to ARG3 -/
def wArg (w : Slot) (i : Nat) : Nat := slotField w (0x10 + 8 * i) 63 0
/-- WAIT_SEM -/
def wWaitSem (w : Slot) : Nat := slotField w 0x30 15 0
/-- SIGNAL_SEM -/
def wSignalSem (w : Slot) : Nat := slotField w 0x30 31 16
/-- SIGNAL_ADD -/
def wSignalAdd (w : Slot) : Nat := slotField w 0x30 63 32
/-- WAIT_VALUE -/
def wWaitValue (w : Slot) : Nat := slotField w 0x38 63 0
/-- Source space of ARG3 (R51) -/
def wSrcSpace (w : Slot) : Nat := bitsN 3 0 (wArg w 3)
/-- Destination space of ARG3 (R51) -/
def wDstSpace (w : Slot) : Nat := bitsN 7 4 (wArg w 3)

/-- NOP -/
def opNop : Nat := 0x01
/-- RUN_TIMETABLE -/
def opRunTt : Nat := 0x10
/-- XFER -/
def opXfer : Nat := 0x20
/-- FILL -/
def opFill : Nat := 0x21
/-- PLACE -/
def opPlace : Nat := 0x30
/-- KV -/
def opKv : Nat := 0x40
/-- CODEC -/
def opCodec : Nat := 0x50
/-- COLLECTIVE -/
def opColl : Nat := 0x60
/-- TIMESTAMP -/
def opStamp : Nat := 0x70

/-- Is the opcode one of R51's table? -/
def opKnown (op : Nat) : Bool := [opNop, opRunTt, opXfer, opFill, opPlace, opKv, opCodec, opColl, opStamp].contains op

/-- Does ARG2 of a PLACE name no action, or set a bit its action does not list (R253)? -/
def placeBad (a : Nat) : Bool :=
  let act := bitsN 7 0 a
  let par := bitsN 15 8 a
  let off := a / 65536
  if act = 1 || act = 3 then par > 1 || off ≠ 0
  else if act = 2 || act = 6 then par ≠ 0 || off ≠ 0
  else if act = 4 then par ≠ 0
  else if act = 5 then par ≠ 1 && par ≠ 2
  else true

/-- Reserved arguments of an opcode that are not zero (R11, R51). An unknown opcode has none named. -/
def argReservedBad (w : Slot) : Bool :=
  let a (i : Nat) : Bool := wArg w i ≠ 0
  let op := wOpcode w
  if op = opNop then a 0 || a 1 || a 2 || a 3
  else if op = opXfer then wArg w 3 ≥ 256
  else if op = opFill then wArg w 3 ≥ 256 || wSrcSpace w ≠ 0
  else if op = opPlace then a 3 || placeBad (wArg w 2)
  else if op = opKv then a 2 || a 3
  else if op = opCodec then a 2 || a 3 || wArg w 1 ≥ 128
  else if op = opColl then a 1 || a 2 || a 3
  else if op = opStamp then a 1 || a 2 || wArg w 3 ≥ 256 || wSrcSpace w ≠ 0
  else false

/-- Step 1 of R53: is a reserved field of the Waybill not zero? -/
def wbReservedBad (w : Slot) : Bool := wReserved w ≠ 0 || argReservedBad w

/-- Step 3 of R53: does the Waybill itself ask for zero work (R51)? -/
def wbZeroWork (w : Slot) : Bool :=
  let op := wOpcode w
  op = opNop || ((op = opXfer || op = opFill) && wArg w 2 = 0) || ((op = opPlace || op = opKv) && wArg w 1 = 0)

/-- Step 4 of R53: the status that a misaligned argument gives, if one is (R51, R84, R230, R254, R334, R394). -/
def wbAlignBad (w : Slot) : Option Nat :=
  let op := wOpcode w
  let a := wArg w 0
  if op = opStamp && a % 8 ≠ 0 then some stWbAlign
  else if (op = opRunTt || op = opCodec) && a % 256 ≠ 0 then some stWbAlign
  else if op = opColl && a % 128 ≠ 0 then some stWbAlign
  else if op = opPlace && (a % 2 ^ 21 ≠ 0 || wArg w 1 % 2 ^ 21 ≠ 0 || wArg w 2 / 65536 % 2 ^ 21 ≠ 0) then some stWbAlign
  else if op = opKv && (a % 64 ≠ 0 || wArg w 1 > 4096) then some stWbFormat
  else none

/-- Partition that a device virtual address names (R249). -/
def addrPart (a : Nat) : Nat := a / 2 ^ 52
/-- Does an address range lie in a partition (R249)? -/
def rangeInPart (p a n : Nat) : Bool := decide (a / 2 ^ 52 = p ∧ a + n ≤ (p + 1) * 2 ^ 52)
/-- Number of the placement page of an address (R250). -/
def pageOf (a : Nat) : Nat := a / 2 ^ 21
/-- Home die of an address (R250). -/
def homeOf (a : Nat) : Nat := bitsN 22 21 a
/-- The pages that n bytes at a touch. -/
def pagesOf (a n : Nat) : List Nat :=
  if n = 0 then [] else (List.range (pageOf (a + n - 1) + 1 - pageOf a)).map fun i => pageOf a + i
/-- The 64-byte lines that n bytes at a touch. -/
def linesOf (a n : Nat) : List Nat :=
  if n = 0 then [] else (List.range ((a + n - 1) / 64 + 1 - a / 64)).map fun i => a / 64 + i

/-- The bytes of a 64-byte slot. -/
def slotBytes (w : Slot) : List Byte := leBytes 64 w.toNat

/-- Ring context fields of R39. -/
def cBase (w : Slot) : Nat := slotField w 0 63 0
/-- LOG2_SIZE -/
def cLog2 (w : Slot) : Nat := slotField w 8 4 0
/-- GROUP -/
def cGroup (w : Slot) : Nat := slotField w 8 17 8
/-- PARTITION -/
def cPart (w : Slot) : Nat := slotField w 8 28 24
/-- CONS_INIT -/
def cConsInit (w : Slot) : Word := BitVec.ofNat 32 (slotField w 0x10 31 0)
/-- Reserved fields of the host-written bytes not zero? -/
def cReservedBad (w : Slot) : Bool :=
  slotField w 8 7 5 ≠ 0 || slotField w 8 23 18 ≠ 0 || slotField w 8 63 29 ≠ 0 || slotField w 0x10 63 32 ≠ 0
    || slotField w 0x18 63 0 ≠ 0

end Sys2Proof.Machine
end

