-- ==== Sys2Proof/Machine/Ops.lean ====
section
/-! DEFINITION. The named operations over the block's state: registers and counters, device memory with its poison
marks, semaphores, free values, what goes out to the host, the geometry of dies and instances, and the AON count. -/

namespace Sys2Proof.Machine

open Sys2Proof

/-- A number as a register word. -/
def w32 (n : Nat) : Word := BitVec.ofNat 32 n

/-- Value of the register at an offset, as stored. -/
def State.reg (s : State) (off : Nat) : Word := sget (regReset s.assy) s.regs off

/-- Store a register. -/
def State.setReg (s : State) (off : Nat) (w : Word) : State := { s with regs := sset (regReset s.assy) s.regs off w }

/-- A field of a register. -/
def State.fld (s : State) (off hi lo : Nat) : Nat := bits hi lo (s.reg off)

/-- Store a field of a register. -/
def State.setFld (s : State) (off hi lo v : Nat) : State := s.setReg off (setBits hi lo (s.reg off) v)

/-- Value of a register as it stood at the last epoch boundary (R31). -/
def State.eff (s : State) (off : Nat) : Word := sget (regReset s.assy) s.latched off

/-- Field of a register as it stood at the last epoch boundary. -/
def State.effFld (s : State) (off hi lo : Nat) : Nat := bits hi lo (s.eff off)

/-- Add to a saturating 32-bit counter (R147). -/
def State.bump (s : State) (off n : Nat) : State := s.setReg off (w32 (satAdd 32 (s.reg off).toNat n))

/-- Value of a pair of registers, _LO at off and _HI at the next word (R36). -/
def State.reg64 (s : State) (off : Nat) : Nat := (s.reg off).toNat + 2 ^ 32 * (s.reg (off + 4)).toNat

/-- Store a pair of registers. -/
def State.setReg64 (s : State) (off v : Nat) : State := (s.setReg off (w32 v)).setReg (off + 4) (w32 (v / 2 ^ 32))

/-- Add to a 64-bit counter, which wraps (R147). -/
def State.bump64 (s : State) (off n : Nat) : State := s.setReg64 off ((s.reg64 off + n) % 2 ^ 64)

/-- Put a list of registers at zero. -/
def State.zeroRegs (s : State) (offs : List Nat) : State := offs.foldl (fun s o => s.setReg o 0) s

/-- Return a list of registers to their reset values. -/
def State.resetRegs (s : State) (offs : List Nat) : State := offs.foldl (fun s o => s.setReg o (regReset s.assy o)) s

/-- Put something out (log entry 2). -/
def State.put (s : State) (o : Out) : State := { s with out := s.out ++ [o] }

/-- Run with the outcomes of host accesses that the command was given; none are left over (log entry 3). -/
def withIo (io : List IoRes) (f : State → State) (s : State) : State := { f { s with io := io } with io := [] }

/-- Outcome of the next device write to host memory; one not given succeeds (log entry 3). -/
def State.takeIo (s : State) : IoRes × State :=
  match s.io with
  | .poisoned :: r => (.poisoned, { s with io := r })
  | .failed :: r => (.failed, { s with io := r })
  | .ok :: r => (.ok, { s with io := r })
  | _ => (.ok, s)

/-- Value that the next read of a head word returns, when the command was given one (R61, R63). -/
def State.takeHead (s : State) : Option Word × State :=
  match s.io with
  | .head v :: r => (some v, { s with io := r })
  | _ => (none, s)

/-- Bytes the manual leaves unspecified (log entry 5). -/
def State.freeBytes (s : State) (n : Nat) : List Byte × State :=
  ((List.range n).map fun i => Config.freeByte (s.free + i), { s with free := s.free + n })

/-- Random bytes (log entry 5). -/
def State.drawBytes (s : State) (n : Nat) : List Byte × State :=
  ((List.range n).map fun i => Config.entropy (s.free + i), { s with free := s.free + n })

/-- How many places of an engine kind an assembly has (R1, R14). -/
def kindCount (a : Assembly) : EngKind → Nat
  | .mxe => 16 | .vxe => 8 | .cve => 4 | .cde => 4 | .xfe => 8 | .cle => asmIoDies a | .gaz => 4

/-- Die on which an engine sits, as KIND and number (R14). -/
def dieOf : EngKind → Nat → Nat × Nat
  | .mxe, i => (1, i / 4) | .vxe, i => (1, i / 2) | .cve, i => (1, i)
  | .cde, i => (2, i) | .xfe, i => (2, i / 2) | .gaz, i => (2, i) | .cle, i => (3, i)

/-- Dies of a KIND that an assembly has. -/
def dieCount (a : Assembly) : Nat → Nat
  | 1 => 4 | 2 => 4 | 3 => asmIoDies a | _ => 0

/-- Is a die fenced? -/
def State.fenced (s : State) (kind die : Nat) : Bool := s.clk.fenced.contains (kind, die)

/-! ### Routes (R16, R17) -/

/-- I/O dies linked to a die: KIND 1 compute, 2 memory-side (R16). -/
def linkedIo (kind die : Nat) : List Nat :=
  if kind = 1 then (if die % 2 = 0 then [0, 2] else [1, 3])
  else if kind = 2 then (if die % 2 = 0 then [0, 3] else [1, 2])
  else List.range 4

/-- Dies of a KIND linked to an I/O die, in ascending order (R16). -/
def linkedDies (kind io : Nat) : List Nat := (List.range 4).filter fun d => (linkedIo kind d).contains io

/-- Relay dies of the route between two dies, each as KIND and number (R17). A route from a compute or memory-side die to an I/O die is
the reverse of the route back (DEDUCED: log entry 83). -/
def relays (a b : Nat × Nat) : List (Nat × Nat) :=
  let io (i k d : Nat) : List (Nat × Nat) := if (linkedIo k d).contains i then [] else [(3 - k, (linkedDies (3 - k) i).headD 0)]
  if a = b then []
  else match a.1, b.1 with
    | 1, 1 => [(2, b.2)]
    | 2, 2 => [(1, b.2)]
    | 3, 3 =>
      let both (k : Nat) : List Nat := (linkedDies k a.2).filter (linkedDies k b.2).contains
      match both 1, both 2 with
      | d :: _, _ => [(1, d)]
      | [], d :: _ => [(2, d)]
      | [], [] => [(1, (linkedDies 1 a.2).headD 0), (2, (linkedDies 2 b.2).headD 0)]
    | 3, k => io a.2 k b.2
    | k, 3 => io b.2 k a.2
    | _, _ => []

/-- Does a route pass through a fenced relay die? It then fails with the fence (R519). -/
def State.routeOut (s : State) (a b : Nat × Nat) : Bool := (relays a b).any fun d => s.fenced d.1 d.2

/-- Is a memory-side die out of reach of a die: fenced, or behind a fenced relay die (R23, R519)? -/
def State.outOf (s : State) (a : Nat × Nat) (d : Nat) : Bool := s.fenced 2 d || s.routeOut a (2, d)

/-- The die that a SOURCE names or lies on (R14, R64). -/
def dieOfSrc (src : Nat) : Option (Nat × Nat) :=
  if 1 ≤ src / 4096 ∧ src / 4096 ≤ 3 then some (src / 4096, src % 4096)
  else (kindOfCode (src / 4096)).map fun k => dieOf k (src % 4096)

/-- Is a memory-side die out of reach of the die whose accesses the running command makes? -/
def State.unreached (s : State) (d : Nat) : Bool := match s.place.via with
  | some a => s.outOf a d
  | none => s.fenced 2 d

/-- Act with the accesses of a die. -/
def State.asDie (s : State) (a : Option (Nat × Nat)) (f : State → State) : State :=
  let t := f { s with place := { s.place with via := a } }
  { t with place := { t.place with via := s.place.via } }

/-- CFG register of an engine, whose bit 0 is AVAIL; a Gazetteer's is GAZ_CFG.EN. -/
def cfgReg : EngKind → Nat → Nat
  | .mxe, i => rMxeCfg i | .vxe, i => rVxeCfg i | .cve, i => rCveCfg i | .cde, i => rCdeCfg i
  | .xfe, i => rXfeCfg i | .cle, i => rCleCfg i | .gaz, i => rGazCfg i

/-- The bit of an engine in ERR_FAILED_MXE or ERR_FAILED_OTHER (R533). -/
def failedBit : EngKind → Nat → Nat × Nat
  | .mxe, i => (rErrFailedMxe, i)
  | .vxe, i => (rErrFailedOther, i)
  | .cve, i => (rErrFailedOther, 8 + i)
  | .cde, i => (rErrFailedOther, 12 + i)
  | .xfe, i => (rErrFailedOther, 16 + i)
  | .cle, i => (rErrFailedOther, 24 + i)
  | .gaz, _ => (rErrFailedOther, 31)

/-- Is an engine marked failed (R518)? -/
def State.failed (s : State) (k : EngKind) (i : Nat) : Bool :=
  if k = .gaz then s.err.badUnits.contains (0, i) else bit (failedBit k i).2 (s.reg (failedBit k i).1)

/-- Set or clear an engine's failed mark. -/
def State.setFailed (s : State) (k : EngKind) (i : Nat) (v : Bool) : State :=
  let units := s.err.badUnits.filter (· ≠ (0, i)) ++ if v then [(0, i)] else []
  let b := failedBit k i
  { s with
    regs := if k = .gaz then s.regs else (s.setFld b.1 b.2 b.2 (if v then 1 else 0)).regs,
    err := { s.err with badUnits := if k = .gaz then units else s.err.badUnits } }

/-- Is the host interface's domain in reset (R463, R468)? -/
def State.hifReset (s : State) : Bool := s.clk.run.any fun r => r.inReset.contains 3

/-- AVAIL of an engine; a Gazetteer has none and is offered while it has not failed. -/
def State.avail (s : State) (k : EngKind) (i : Nat) : Bool :=
  match k with
  | .gaz => !s.failed .gaz i
  | _ => bit 0 (s.reg (cfgReg k i))

/-- A partition's mask of an engine kind (R417); no mask limits the Gazetteers. -/
def State.mask (s : State) (p : Nat) : EngKind → Nat
  | .mxe => s.fld (rPrtEngMxe p) 15 0
  | .vxe => s.fld (rPrtEngOther p) 7 0
  | .cve => s.fld (rPrtEngOther p) 11 8
  | .cde => s.fld (rPrtEngOther p) 15 12
  | .xfe => s.fld (rPrtEngOther p) 23 16
  | .cle => s.fld (rPrtEngOther p) 27 24
  | .gaz => 15

/-- Is a place of an engine kind named in a partition's mask and fitted? -/
def State.inMask (s : State) (p : Nat) (k : EngKind) (i : Nat) : Bool :=
  decide (i < kindCount s.assy k) && (s.mask p k).testBit i

/-- May a partition use an engine: mask bit 1, AVAIL 1, die not fenced (R417)? -/
def State.mayUse (s : State) (p : Nat) (k : EngKind) (i : Nat) : Bool :=
  s.inMask p k i && s.avail k i && !s.fenced (dieOf k i).1 (dieOf k i).2

/-- The engines of a kind that a partition may use, in rising order. -/
def State.usable (s : State) (p : Nat) (k : EngKind) : List Nat :=
  (List.range (kindCount s.assy k)).filter (s.mayUse p k)

/-- What an engine is given to. -/
def State.useOf (s : State) (k : EngKind) (i : Nat) : Option Use := (s.sched.insts.find? fun x => x.1 = (k, i)).map (·.2)

/-- Give an engine to something, or make it idle. -/
def State.setUse (s : State) (k : EngKind) (i : Nat) (u : Option Use) : State :=
  let rest := s.sched.insts.filter fun x => x.1 ≠ (k, i)
  let freed := u.isNone && (s.useOf k i).isSome
  { s with sched := { s.sched with
      insts := match u with
        | none => rest
        | some v => rest ++ [((k, i), v)],
      idleAt := if freed then s.sched.idleAt.filter (fun x => x.1 ≠ (k, i)) ++ [((k, i), s.aon)] else s.sched.idleAt } }

/-- AON count from which an engine has been idle; one never used has been so from the start. -/
def State.idleSince (s : State) (k : EngKind) (i : Nat) : Nat := ((s.sched.idleAt.find? fun x => x.1 = (k, i)).map (·.2)).getD 0

/-- A semaphore's value (R429). -/
def State.sem (s : State) (i : Nat) : DWord := sget semReset s.sems i

/-- Set a semaphore. -/
def State.setSem (s : State) (i : Nat) (v : DWord) : State := { s with sems := sset semReset s.sems i v }

/-- Device semaphore that index i of partition p names, when it lies in the range (R428). -/
def State.semIndex (s : State) (p i : Nat) : Option Nat :=
  if i < s.fld (rPrtSemCount p) 16 0 then some (s.fld (rPrtSemBase p) 15 0 + i) else none

/-- n bytes of device memory. -/
def State.memRead (s : State) (a n : Nat) : List Byte := sgetMany memReset s.mem a n

/-- One byte of device memory. -/
def State.memByte (s : State) (a : Nat) : Byte := sget memReset s.mem a

/-- Is the line of an address poisoned (R260)? -/
def State.poisoned (s : State) (a : Nat) : Bool := sget markReset s.marks (a / 64)

/-- Does any line of a range carry poison? -/
def State.poisonedIn (s : State) (a n : Nat) : Bool := (linesOf a n).any fun l => sget markReset s.marks l

/-- Mark or clear a line. -/
def State.mark (s : State) (line : Nat) (v : Bool) : State := { s with marks := sset markReset s.marks line v }

/-- Mark or clear lines. -/
def State.markAll (s : State) (lines : List Nat) (v : Bool) : State := lines.foldl (fun s l => s.mark l v) s

/-- Store bytes in device memory and nothing else. -/
def State.memStore (s : State) (a : Nat) (bs : List Byte) : State := { s with mem := ssetMany memReset s.mem a bs }

/-- The lines that a write covers whole (R260). -/
def wholeLines (a n : Nat) : List Nat := (linesOf a n).filter fun l => decide (a ≤ 64 * l ∧ 64 * l + 64 ≤ a + n)

/-- Write bytes: a line written whole loses its mark, a line written in part keeps it (R260). -/
def State.memWrite (s : State) (a : Nat) (bs : List Byte) : State :=
  (s.memStore a bs).markAll (wholeLines a bs.length) false

/-- Write bytes that are themselves poisoned: every line they touch is marked (R514, R521). -/
def State.memWritePoison (s : State) (a : Nat) (bs : List Byte) : State :=
  (s.memStore a bs).markAll (linesOf a bs.length) true

/-- Make a range read as zero and carry no mark, as a page mapped does (R255). -/
def State.memClear (s : State) (a n : Nat) : State :=
  { s with mem := s.mem.filter fun c => !(decide (a ≤ c.1 ∧ c.1 < a + n)),
           marks := s.marks.filter fun c => !(decide (a / 64 ≤ c.1 ∧ 64 * c.1 < a + n)) }

/-- Are CXL.cache writes possible: is the link's loss of CXL.cache not under way (R35)? -/
def State.cacheOk (s : State) : Bool := s.host.lostSince.isNone

/-- Is RST_STATUS.READY 1 (R476)? -/
def State.ready (s : State) : Bool := bit 0 (s.reg rRstStatus)

/-- Does BAR0 answer for an offset: READY is 1, in recovery only the security window, and not the windows of absent I/O
dies (R3, R476, R495, R512)? -/
def State.barOpen (s : State) (off : Nat) : Bool :=
  s.ready
  && (if s.sec.recovery then
        decide (0x400000 ≤ off ∧ off < 0x500000 ∧ (off < 0x400014 ∨ (0x400080 ≤ off ∧ off < 0x400098)))
      else true)
  && !decide (0x3000000 + asmIoDies s.assy * 0x400000 ≤ off ∧ off < 0x4000000)

/-- AON cycles pass: the count rises, the watchdog's remainder falls, and cycles with a C domain throttled are counted
(R462, R464, R473). -/
def State.advance (s : State) (n : Nat) : State :=
  if !s.pins.aux then s else
  let s := { s with aon := s.aon + n }
  let s := s.setReg rRstWdog (w32 ((s.reg rRstWdog).toNat - n))
  if s.pwr.steps.any (· ≠ 0) then s.bump64 rPwrThrCycLo n else s

/-- One AON cycle passes, but not the one that ends a management epoch: that comes with what the epoch measured (R464; DESIGN CHOICE,
log entry 15). -/
def State.tick (s : State) : State := if (s.aon + 1) % 1200 = 0 then s else s.advance 1

/-- The die of a domain, as KIND and number, for the domains that lie on dies which can be fenced (R463). -/
def domainDie (d : Nat) : Option (Nat × Nat) :=
  if 5 ≤ d ∧ d ≤ 8 then some (1, d - 5)
  else if 9 ≤ d ∧ d ≤ 12 then some (1, d - 9)
  else if 13 ≤ d ∧ d ≤ 16 then some (2, d - 13)
  else if 17 ≤ d ∧ d ≤ 20 then some (2, d - 17)
  else if 21 ≤ d ∧ d ≤ 24 then some (3, d - 21)
  else none

/-- Is a domain held off by a reset, by recovery or by the fence of its die? -/
def State.domainOff (s : State) (d : Nat) : Bool :=
  (s.clk.run.any fun r => r.inReset.contains d) || s.clk.kept.contains d || (domainDie d).any fun x => s.fenced x.1 x.2

/-- Work reaches a domain: one that sleeps wakes, its PLL starts, and the wake is counted (R466, R487). -/
def State.wake (s : State) (d : Nat) : State :=
  if s.domainOff d || bit d (s.reg rClkRun) || bit d (s.reg rClkLocking) || !(asmDomains s.assy).contains d then s
  else (s.setFld rClkLocking d d 1).bump rClkWakes 1

/-- A partition that exists. -/
def State.part (s : State) (p : Nat) : Option Partn := s.sched.parts.find? fun x => x.p = p

/-- Change a partition's entry. -/
def State.updPart (s : State) (p : Nat) (f : Partn → Partn) : State :=
  { s with sched := { s.sched with parts := updIf (fun x => decide (x.p = p)) f s.sched.parts } }

/-- An accepted Waybill that has not had its record written. -/
def State.wb (s : State) (wid : Nat) : Option Wb := s.sched.wbs.find? fun x => x.wid = wid

/-- Change a Waybill's entry. -/
def State.updWb (s : State) (wid : Nat) (f : Wb → Wb) : State :=
  { s with sched := { s.sched with wbs := updIf (fun x => decide (x.wid = wid)) f s.sched.wbs } }

/-- Is a partition sealed? -/
def State.sealed (s : State) (p : Nat) : Bool := (s.reg rSecPartSealed).getLsbD p

end Sys2Proof.Machine
end

