-- ==== Sys2Proof/Machine/HostOps.lean ====
section
/-! DEFINITION. Shared operations of the host interface: MSI-X, the event ring, completion records and ring contexts
(R35, R39, R58 to R67, R553, R554). -/

namespace Sys2Proof.Machine

open Sys2Proof

/-- Offset of entry v of the MSI-X table (R77). -/
def msixEntry (v : Nat) : Nat := 0x110000 + 16 * v

/-- Raise a vector: a message, or the pending bit while the vector or the function is masked (R62, R63, R77). No message goes out
while CXL.cache is away (R35): the raise is then kept in the pending bit too (DESIGN CHOICE, log entry 85). -/
def State.raise (s : State) (v : Nat) : State :=
  if !s.host.msixOn then s
  else if !s.cacheOk || s.host.msixMask || bit 0 (s.reg (msixEntry v + 12)) then
    if s.host.pba.contains v then s else { s with host := { s.host with pba := insertByKey id v s.host.pba } }
  else s.put (.msix v (s.reg64 (msixEntry v)) (s.reg (msixEntry v + 8)))

/-- Send what is pending on a vector that has become unmasked, unless CXL.cache is away (R35, R77). -/
def State.unmask (s : State) (v : Nat) : State :=
  if s.cacheOk && s.host.pba.contains v && s.host.msixOn && !s.host.msixMask && !bit 0 (s.reg (msixEntry v + 12)) then
    ({ s with host := { s.host with pba := s.host.pba.filter (· ≠ v) } }).put
      (.msix v (s.reg64 (msixEntry v)) (s.reg (msixEntry v + 8)))
  else s

/-- Pending vectors are sent once nothing masks them any more (R35, R77). -/
def State.unmaskAll (s : State) : State := s.host.pba.foldl (fun s v => s.unmask v) s

/-- RNG_EVQ_CFG.EN -/
def State.evqOn (s : State) : Bool := bit 16 (s.reg rRngEvqCfg)

/-- Records the event ring holds. -/
def State.evqSize (s : State) : Nat := 2 ^ s.fld rRngEvqCfg 4 0

/-- HIF_LINK_STATUS.CACHE_EN -/
def State.cacheEn (s : State) : Bool := bit 10 (s.reg rHifLinkStatus)

/-- Does the event ring appear full (R61, R63)? -/
def State.evqFull (s : State) : Bool := decide (s.evqSize ≤ (w32 s.host.evqCount - s.host.evqHead).toNat)

/-- Read the event head word again, when the command was given its value. -/
def State.evqPoll (s : State) : State :=
  match s.takeHead with
  | (some v, s) => { s with host := { s.host with evqHead := v } }
  | (none, s) => s

/-- PHASE of record n of a ring (R60): 1 on the first lap. -/
def lapPhase (n size : Nat) : Nat := 1 - n / size % 2

/-- Write one event record into its slot; a write that fails discards the event, clears EN and raises the vector once
(R63, R553). AON_TIME is the count at the writing, also for an event that was held (DESIGN CHOICE, log entry 86). -/
def State.evqPut (s : State) (e : Ev) : State :=
  match s.takeIo with
  | (.failed, s) => ((s.bump rRngEvqLost 1).setFld rRngEvqCfg 16 16 0).raise (s.fld rRngEvqCfg 15 5)
  | (_, s) =>
    let n := s.host.evqCount
    let s := s.put (.hostWrite (s.reg64 rRngEvqBaseLo + 64 * (n % s.evqSize))
      (evBytes e s.aon s.host.evqSeq (lapPhase n s.evqSize)))
    ({ s with host := { s.host with evqCount := n + 1, evqSeq := s.host.evqSeq + 1 } }).raise (s.fld rRngEvqCfg 15 5)

/-- Write the EVQ_LOST record when events were lost, EN is 1 and there is space (R67); not while CXL.cache is away (R35). -/
def State.evqLostPut (s : State) : State :=
  if s.reg rRngEvqLost = 0 || !s.cacheOk || !s.cacheEn || !s.evqOn || s.evqFull then s
  else
    let t := s.evqPut (ev 0x0005 lvChip none 0 [(s.reg rRngEvqLost).toNat])
    if t.evqOn then t.setReg rRngEvqLost 0 else t

/-- An event is written, held while CXL.cache is away, or discarded and counted (R35, R63, R67). With CXL.cache off and no
loss under way there is no way to write it, and it is discarded too; while HIF is in reset nothing is written or counted (log
entry 14). -/
def State.emit (s : State) (e : Ev) : State :=
  if s.hifReset then s
  else if !s.evqOn then s.bump rRngEvqLost 1
  else if !s.cacheOk then { s with host := { s.host with held := s.host.held ++ [.event e] } }
  else if !s.cacheEn then s.bump rRngEvqLost 1
  else
    let s := if s.evqFull then s.evqPoll else s
    let s := s.evqLostPut
    if !s.evqOn || s.evqFull then s.bump rRngEvqLost 1 else s.evqPut e

/-- An event that a Waybill causes; its record counts it (R59). -/
def State.emitFor (s : State) (wid : Nat) (e : Ev) : State :=
  (s.updWb wid fun w => { w with events := w.events + 1 }).emit e

/-- An enabled ring group. -/
def State.grp (s : State) (g : Nat) : Option Group := s.host.groups.find? fun x => x.g = g

/-- Change a ring group's entry. -/
def State.updGrp (s : State) (g : Nat) (f : Group → Group) : State :=
  { s with host := { s.host with groups := updIf (fun x => decide (x.g = g)) f s.host.groups } }

/-- A ring that is not detached. -/
def State.ring (s : State) (n : Nat) : Option Ring := s.host.rings.find? fun x => x.n = n

/-- Change a ring's entry. -/
def State.updRing (s : State) (n : Nat) (f : Ring → Ring) : State :=
  { s with host := { s.host with rings := updIf (fun x => decide (x.n = n)) f s.host.rings } }

/-- Records a group's completion ring holds. -/
def State.grpSize (s : State) (g : Nat) : Nat := 2 ^ s.fld (rRngGrpCfg g) 4 0

/-- Does a completion ring appear full (R61)? -/
def State.grpFull (s : State) (g : Nat) : Bool :=
  match s.grp g with
  | none => true
  | some x => decide (s.grpSize g ≤ (w32 x.written - x.head).toNat)

/-- Read a group's head word again, when the command was given its value (R61). -/
def State.grpPoll (s : State) (g : Nat) : State :=
  match s.takeHead with
  | (some v, s) => s.updGrp g fun x => { x with head := v }
  | (none, s) => s

/-- Raise a group's vector, merging raises within GAP_US (R62). -/
def State.raiseGrp (s : State) (g : Nat) : State :=
  if !bit 16 (s.reg (rRngGrpCfg g)) then s
  else match s.grp g with
    | none => s
    | some x =>
      if s.fld (rRngGrpMod g) 15 0 = 0 then s.raise (s.fld (rRngGrpCfg g) 15 5)
      else if x.gapRun then s.updGrp g fun x => { x with gapPend := true }
      else (s.raise (s.fld (rRngGrpCfg g) 15 5)).updGrp g fun x => { x with gapRun := true }

/-- The record of a Waybill has been written: the Waybill is done with. -/
def State.dropWb (s : State) (wid : Nat) : State :=
  { s with sched := { s.sched with wbs := s.sched.wbs.filter (fun w => w.wid ≠ wid) } }

/-- Write the first held record of a group; a failed write sets FAULT and writes CQ_FAULT (R59 to R62, R553). The result
tells whether it was written. -/
def State.recPut (s : State) (g : Nat) (x : Group) (r : Rec) : Bool × State :=
  let a := s.reg64 (rRngGrpBaseLo g) + 32 * (x.written % s.grpSize g)
  match s.takeIo with
  | (.ok, s) =>
    let s := s.put (.hostWrite a (recBytes r (lapPhase x.written (s.grpSize g))))
    let s := s.updGrp g fun x => { x with written := x.written + 1, held := x.held.drop 1 }
    let s := if r.irq || !stSuccess r.status then s.raiseGrp g else s
    (true, s.dropWb r.wid)
  | (_, s) =>
    let s := s.updGrp g fun x => { x with fault := true }
    (false, s.emit (ev 0x0009 lvBlock (some (s.fld (rRngGrpCfg g) 21 17)) (srcOf 14 g) [g, a, x.held.length]))

/-- A completion ring has room again: its stall is over (R61, R76). -/
def State.unstall (s : State) (g : Nat) : State := s.updGrp g fun x => { x with stalled := false, reported := false }

/-- Write held records of a group in order while there is room, no fault, and CXL.cache is not away (R35, R61, R553). -/
def State.flushGrp (s : State) (g : Nat) : Nat → State
  | 0 => s
  | n + 1 =>
    match s.grp g with
    | none => s
    | some x =>
      match x.held with
      | [] => s.unstall g
      | r :: _ =>
        if x.fault || !s.cacheOk then s
        else
          let s := if s.grpFull g then s.grpPoll g else s
          if s.grpFull g then s.updGrp g fun x => { x with stalled := true }
          else
            let s := s.unstall g
            match s.grp g with
            | none => s
            | some x => match s.recPut g x r with
              | (true, s) => s.flushGrp g n
              | (false, s) => s

/-- Write what a group holds. -/
def State.flush (s : State) (g : Nat) : State :=
  match s.grp g with
  | none => s
  | some x => s.flushGrp g (x.held.length + 1)

/-- Queue a record on its group's completion ring and write what can be written; while CXL.cache is away it is held with
everything else (R35, R61). A record of a group that is no longer enabled is discarded (R35). -/
def State.writeRec (s : State) (g : Nat) (r : Rec) : State :=
  if !s.cacheOk then { s with host := { s.host with held := s.host.held ++ [.record g r] } }
  else if (s.grp g).isNone then s.dropWb r.wid
  else (s.updGrp g fun x => { x with held := x.held ++ [r] }).flush g

/-- Host address of the device-written bytes of a ring's context (R39). -/
def State.ctxAddr (s : State) (n : Nat) : Nat := s.reg64 rRngCtxBaseLo + 64 * n + 0x20

/-- The device-written bytes of a ring's context (R39). -/
def ctxBytes (r : Ring) : List Byte :=
  leBytes 4 r.cons.toNat ++ leBytes 4 r.lastStep.toNat ++ leBytes 8 (r.state % 256 + r.cause % 256 * 256)

/-- Write the device-written bytes of a ring's context; false when the write fails (R41, R58, R553, R554). -/
def State.writeCtx (s : State) (r : Ring) : Bool × State :=
  if !s.cacheOk then (true, { s with host := { s.host with held := s.host.held ++ [.context r] } })
  else match s.takeIo with
    | (.ok, s) => (true, s.put (.hostWrite (s.ctxAddr r.n) (ctxBytes r)))
    | (_, s) => (false, s)

/-- RING_FAULT (R66). -/
def ringFaultEv (r : Ring) (addr slot : Nat) : Ev := ev 0x0007 lvBlock (some r.part) (srcOf 11 r.n) [r.n, addr, slot]

/-- Write a ring's context; a failure stops the ring, or while it drains only reports it (R58, R79). -/
def State.saveCtx (s : State) (n : Nat) : State :=
  match s.ring n with
  | none => s
  | some r => match s.writeCtx r with
    | (true, s) => s
    | (false, s) =>
      let s := if r.state = 3 then s else s.updRing n fun r => { r with state := 2, cause := 7 }
      s.emit (ringFaultEv r (s.ctxAddr n) 0xFFFFFFFF)

/-- Stop a ring with a cause and write its context (R43, R49). When that write fails too, R58 applies: CAUSE becomes 0x07 and
RING_FAULT is written. -/
def State.stopRing (s : State) (n cause : Nat) : State :=
  (s.updRing n fun r => { r with state := 2, cause := cause }).saveCtx n

/-- Stop a ring whose slot could not be read: its context is written when that is still possible, and one RING_FAULT is written
(R58). -/
def State.faultRing (s : State) (r : Ring) (addr slot : Nat) : State :=
  let s := s.updRing r.n fun r => { r with state := 2, cause := 7 }
  match s.ring r.n with
  | none => s
  | some x => (s.writeCtx x).2.emit (ringFaultEv r addr slot)

/-- Release doorbell lines that no attached ring uses (R44). A ring stopped in STATE 2 keeps its line until it is detached, as a ring
in STATE 3 does (DESIGN CHOICE, log entry 87). -/
def State.dropLines (s : State) : State :=
  { s with host := { s.host with lines := s.host.lines.filter (fun l =>
      s.host.rings.any (fun r => decide (r.n / 8 = l.line))) } }

/-- A ring becomes detached and its doorbell line is released when no other attached ring uses it (R79). -/
def State.forgetRing (s : State) (n : Nat) : State :=
  ({ s with host := { s.host with rings := s.host.rings.filter (fun r => r.n ≠ n) },
            sched := { s.sched with swapWait := s.sched.swapWait.filter (· ≠ n) } }).dropLines

end Sys2Proof.Machine
end

