-- ==== Sys2Proof/Machine/ErrOps.lean ====
section
/-! DEFINITION. Shared operations on detected memory errors: corrections gathered for the epoch's merged record, lines and
words that stay uncorrectable, reads of marked lines (R513 to R517, R521, R523, R524). Which stack, package, bank or row
holds a line is not stated, and is a free value (log entry 5). -/

namespace Sys2Proof.Machine

open Sys2Proof

/-- A free number, for what the manual does not state (log entry 5). -/
def State.drawNat (s : State) : Nat × State := ((Config.freeWord s.free).toNat, { s with free := s.free + 1 })

/-- A mapped placement page by number. -/
def State.page (s : State) (n : Nat) : Option Page := s.place.pages.find? fun g => g.num = n

/-- Gather a cell-level error for the record at the end of the epoch; a record of data of more than one partition names
none (R523, R524). -/
def State.merge (s : State) (m : Merged) : State :=
  let same (x : Merged) : Bool := decide (x.code = m.code ∧ x.src = m.src)
  let l := if s.err.merged.any same then
      updIf same (fun x => { m with count := x.count + m.count, part := if x.part = m.part then m.part else none,
                                    d1 := if m.code = 0x0805 then x.d1 + m.d1 else m.d1,
                                    d2 := if m.code = 0x0800 || m.code = 0x0805 then x.d2 + m.d2 else m.d2 }) s.err.merged
    else s.err.merged ++ [m]
  { s with err := { s.err with merged := l } }

/-- HBM stacks of one memory-side die (R1). -/
def stacksPerDie (a : Assembly) : Nat := asmStacks a / 4

/-- Symbols of a line that its code corrects and detects: HBM3E, or the Siding (R513). -/
def symbolLimits (hbm : Bool) : Nat × Nat := if hbm then (1, 3) else (3, 5)

/-- Does the line of an address lie in HBM; with no page mapped there, it does? -/
def State.inHbm (s : State) (a : Nat) : Bool := (s.page (pageOf a)).all fun g => decide (g.place ≠ .siding)

/-- Where the line of an address lies, as the SOURCE of its records, and its DRAM location (R524). -/
def State.dramSite (s : State) (a : Nat) : (Bool × Nat × Nat) × State :=
  let hbm := s.inHbm a
  let (x, s) := s.drawNat
  let (y, s) := s.drawNat
  let per := if hbm then stacksPerDie s.assy else 6
  ((hbm, srcOf (if hbm then 12 else 13) (homeOf a * per + x % per), y), s)

/-- A corrected DRAM error, of no more symbols than the code corrects (R513, R515, R517, R523). scrub tells that a scrub read found it. -/
def State.noteCe (s : State) (a symbols : Nat) (scrub : Bool) : State :=
  let ((hbm, src, loc), s) := s.dramSite a
  let s := s.bump64 (if hbm then rErrCeHbmLo else rErrCeSidLo) 1
  s.merge { code := 0x0800, part := (s.page (pageOf a)).map (fun _ => addrPart a), src := src, count := 1, d0 := loc, d1 := min symbols (symbolLimits hbm).1,
            d2 := if scrub then 1 else 0, d3 := 0 }

/-- An uncorrectable line found for the first time: it is written back poisoned and MEM_UE is written (R515, R517, R521).
kind: 0 engine read, 1 scrub, 2 move. -/
def State.noteUe (s : State) (a kind ring : Nat) : State :=
  if s.poisoned a then s
  else
    let ((hbm, src, loc), s) := s.dramSite a
    let s := (s.mark (a / 64) true).bump (if hbm then rErrUeHbm else rErrUeSid) 1
    s.emit (ev 0x0801 lvBlock ((s.page (pageOf a)).map fun _ => addrPart a) src
      [loc, if (s.page (pageOf a)).isSome then a / 64 * 64 else 0xFFFFFFFFFFFFFFFF, kind, ring])

/-- An SRAM word with an error: corrected, or marked poisoned and passed on (R517). src: the block or die. -/
def State.noteSram (s : State) (src : Nat) (part : Option Nat) (ring : Nat) (x : Nat × Nat × Bool) : State :=
  if x.2.2 then
    (s.bump64 rErrCeSramLo 1).merge { code := 0x0802, part := part, src := src, count := 1, d0 := x.1, d1 := x.2.1, d2 := 0, d3 := 0 }
  else (s.bump rErrUeSram 1).emit (ev 0x0803 lvBlock part src [x.1, x.2.1, ring])

/-- Act on the errors that a step's reads of memory met. -/
def State.noteMarks (s : State) (m : Marks) (kind ring src : Nat) (part : Option Nat) : State :=
  let s := m.ce.foldl (fun s a => let (n, s) := s.drawNat; s.noteCe a (1 + n % 3) false) s
  let new := (m.ue.filter fun a => !s.poisoned a).map (· / 64)
  let s := m.ue.foldl (fun s a => s.noteUe a kind ring) s
  let s := { s with err := { s.err with fresh := new } }
  m.sram.foldl (fun s x => s.noteSram src part ring x) s

/-- Does a step's list of SRAM errors hold one that stays uncorrectable? -/
def Marks.sramUe (m : Marks) : Bool := m.sram.any fun x => !x.2.2

/-- Reads of lines that were already marked are counted; the read that first found a line's error is not (R521). -/
def State.countPoison (s : State) (a n : Nat) : State :=
  let lines := (linesOf a n).filter fun l => sget markReset s.marks l
  let old := lines.filter fun l => !s.err.fresh.contains l
  { (s.bump rErrPoisonRead old.length) with err := { s.err with fresh := s.err.fresh.filter (fun l => !lines.contains l) } }

/-- The end of a step that read memory: what it found is no longer new. -/
def State.seen (s : State) : State := { s with err := { s.err with fresh := [] } }

end Sys2Proof.Machine
end

