-- ==== Sys2Proof/Machine/Hash.lean ====
section
/-! DEFINITION. SHAKE256 (named by R83, R226, R503 and defined by FIPS 202) and CRC-32C (named by the fabric and
collective chapters). Log entry 8. -/

namespace Sys2Proof.Machine

/-- Round constants of Keccak-f[1600] (FIPS 202). -/
def keccakRC : List DWord :=
  [0x0000000000000001, 0x0000000000008082, 0x800000000000808A, 0x8000000080008000, 0x000000000000808B,
   0x0000000080000001, 0x8000000080008081, 0x8000000000008009, 0x000000000000008A, 0x0000000000000088,
   0x0000000080008009, 0x000000008000000A] ++
  [0x000000008000808B, 0x800000000000008B, 0x8000000000008089, 0x8000000000008003, 0x8000000000008002,
   0x8000000000000080, 0x000000000000800A, 0x800000008000000A, 0x8000000080008081, 0x8000000000008080,
   0x0000000080000001, 0x8000000080008008]

/-- Rotation offsets of lane x + 5y (FIPS 202). -/
def keccakRot : List Nat :=
  [0, 1, 62, 28, 27, 36, 44, 6, 55, 20, 3, 10, 43, 25, 39, 41, 45, 15, 21, 8, 18, 2, 61, 56, 14]

/-- Lane x + 5y of a state. -/
def lane (a : List DWord) (x y : Nat) : DWord := a.getD (x % 5 + 5 * (y % 5)) 0

/-- One round of Keccak-f[1600]. -/
def keccakRound (a : List DWord) (rc : DWord) : List DWord :=
  let c := (List.range 5).map fun x => lane a x 0 ^^^ lane a x 1 ^^^ lane a x 2 ^^^ lane a x 3 ^^^ lane a x 4
  let d := (List.range 5).map fun x => c.getD ((x + 4) % 5) 0 ^^^ (c.getD ((x + 1) % 5) 0).rotateLeft 1
  let t := a.zipIdx.map fun p => p.1 ^^^ d.getD (p.2 % 5) 0
  -- rho and pi: the lane at (X, Y) comes from (x, y) with X = y and Y = 2x + 3y
  let b := (List.range 25).map fun i =>
    let x := (i % 5 + 3 * (i / 5)) % 5
    let y := i % 5
    (lane t x y).rotateLeft (keccakRot.getD (x + 5 * y) 0)
  let e := (List.range 25).map fun i =>
    let x := i % 5
    let y := i / 5
    lane b x y ^^^ ((~~~ lane b (x + 1) y) &&& lane b (x + 2) y)
  match e with
  | h :: r => (h ^^^ rc) :: r
  | [] => []

/-- Keccak-f[1600]. -/
def keccakF (a : List DWord) : List DWord := keccakRC.foldl keccakRound a

/-- A 136-byte block added to the state. -/
def keccakAbsorb (a : List DWord) (blk : List Byte) : List DWord :=
  a.zipIdx.map fun p => p.1 ^^^ (if p.2 < 17 then BitVec.ofNat 64 (leNat ((blk.drop (8 * p.2)).take 8)) else 0)

/-- The message cut into 136-byte blocks with SHAKE's padding (fuel: the number of blocks). -/
def shakeBlocks : Nat → List Byte → List (List Byte)
  | 0, _ => []
  | k + 1, m =>
    if m.length < 136 then
      let body := m ++ List.replicate (136 - m.length) 0
      [body.zipIdx.map fun p =>
        p.1 ^^^ (if p.2 = m.length then 0x1F else 0) ^^^ (if p.2 = 135 then 0x80 else 0)]
    else m.take 136 :: shakeBlocks k (m.drop 136)

/-- Squeeze n bytes, 136 at a time (fuel: the number of blocks). -/
def shakeSqueeze : Nat → Nat → List DWord → List Byte
  | 0, _, _ => []
  | k + 1, n, a =>
    let out := ((a.take 17).map fun v => leBytes 8 v.toNat).flatten
    if n ≤ 136 then out.take n else out ++ shakeSqueeze k (n - 136) (keccakF a)

/-- SHAKE256 with n output bytes. -/
def shake256 (n : Nat) (m : List Byte) : List Byte :=
  let a := (shakeBlocks (m.length / 136 + 1) m).foldl (fun s b => keccakF (keccakAbsorb s b)) (List.replicate 25 0)
  shakeSqueeze (n / 136 + 1) n a

/-- One bit step of the reflected CRC-32C division. -/
def crcBit (c : Word) : Word := if c.getLsbD 0 then (c >>> 1) ^^^ 0x82F63B78#32 else c >>> 1

/-- One byte of CRC-32C. -/
def crcByte (c : Word) (b : Byte) : Word :=
  (List.range 8).foldl (fun x _ => crcBit x) (c ^^^ b.setWidth 32)

/-- CRC-32C of a list of bytes (Castagnoli polynomial, reflected, initial value and final inversion of ones). -/
def crc32c (bs : List Byte) : Word := ~~~ (bs.foldl crcByte 0xFFFFFFFF#32)

end Sys2Proof.Machine
end

