-- ==== Sys2Proof/Machine/Narrow.lean ====
section
/-! DEFINITION. Narrow formats: element encodings, storage units, the quantisers, the Turntable's rotation and its sign
generator (R148 to R169). -/

namespace Sys2Proof.Machine

/-- Insert into a list kept in order by a strict order. -/
def insertBy {α : Type} (lt : α → α → Bool) (x : α) : List α → List α
  | [] => [x]
  | y :: ys => if lt y x then y :: insertBy lt x ys else x :: y :: ys

/-- A list put in order (insertion sort). -/
def sortBy {α : Type} (lt : α → α → Bool) (l : List α) : List α := l.foldr (insertBy lt) []

/-- E2M1 (R148, R149). -/
def e2m1 (c : Nat) : FNum :=
  let s := decide (c / 8 % 2 = 1)
  let x := c / 2 % 4
  let f := c % 2
  if x = 0 then .fin s f (-1) else .fin s (2 + f) ((x : Int) - 2)

/-- E4M3: only 0x7F and 0xFF are NaN (R148). -/
def e4m3 (c : Nat) : FNum :=
  let s := decide (c / 128 % 2 = 1)
  let x := c / 8 % 16
  let f := c % 8
  if x = 15 && f = 7 then .nan
  else if x = 0 then .fin s f (-9) else .fin s (8 + f) ((x : Int) - 10)

/-- E5M2 (R148). -/
def e5m2 (c : Nat) : FNum := ndecode 5 2 (c % 256)

/-- E8M0 (R148, R149). -/
def e8m0 (c : Nat) : FNum := if c % 256 = 255 then .nan else npow2 ((c % 256 : Nat) - 127)

/-- INT4 (R148). -/
def int4 (c : Nat) : FNum := nofInt (signed 4 (c % 16))
/-- INT2 (R148). -/
def int2 (c : Nat) : FNum := nofInt (signed 2 (c % 4))
/-- Ternary; 0b10 decodes as 0 (R148). -/
def ternary (c : Nat) : FNum := match c % 4 with
  | 1 => none1
  | 3 => .fin true 1 0
  | _ => nzero

/-- Elements per unit (R151). -/
def unitElems (fmt : Nat) : Nat := match fmt with
  | 2 => 32 | 3 => 32 | 4 => 256 | 5 => 16 | 6 => 16 | 7 => 16 | 8 => 16 | _ => 1

/-- Bytes per unit (R151). -/
def unitBytes (fmt : Nat) : Nat := match fmt with
  | 1 => 2 | 2 => 33 | 3 => 33 | 4 => 148 | 5 => 9 | 6 => 9 | 7 => 5 | 8 => 5 | 9 => 4 | _ => 0

/-- Operand-buffer bytes per 256 elements (R100). -/
def footprint (fmt : Nat) : Nat := match fmt with
  | 1 => 512 | 2 => 264 | 3 => 264 | 4 => 148 | 5 => 144 | 6 => 144 | 7 => 80 | 8 => 80 | 9 => 1024 | _ => 0

/-- One element as a reader sees it: its own value, the scale of its group, and the outlier value that replaces it. -/
structure Elem where
  v  : FNum
  sc : FNum
  ol : Option FNum
  deriving DecidableEq, Repr

/-- A masked element (R97, R154). -/
def elemMasked : Elem := { v := nzero, sc := none1, ol := none }

/-- The dequantised value (R154). -/
def elemVal (x : Elem) : FNum := match x.ol with
  | some o => o
  | none => nmul x.v x.sc

/-- The four outlier entries of a code-4 unit: INDEX and VALUE (R152). -/
def laneEntries (u : List Byte) : List (Nat × Nat) :=
  (List.range 4).map fun k => (leNat ((u.drop (136 + 3 * k)).take 1), leNat ((u.drop (137 + 3 * k)).take 2))

/-- The used entries and the number of ignored ones (R152 to R154); masked tells the masked indices. -/
def laneUsed (masked : Nat → Bool) : List (Nat × Nat) → Option Nat → List (Nat × Nat) × Nat
  | [], _ => ([], 0)
  | (i, v) :: r, last =>
    if v % 32768 = 0 || masked i then laneUsed masked r last
    else
      let ok := match last with
        | none => true
        | some l => decide (l < i)
      if ok then let (us, n) := laneUsed masked r (some i); ((i, v) :: us, n)
      else let (us, n) := laneUsed masked r last; (us, n + 1)

/-- Byte i of a unit. -/
def ubyte (u : List Byte) (i : Nat) : Nat := (u.getD i 0).toNat

/-- The elements of one stored unit and the number of ignored lane entries (R151 to R154). -/
def decodeUnit (fmt : Nat) (masked : Nat → Bool) (u : List Byte) : List Elem × Nat :=
  let mk (v sc : FNum) : Elem := { v := v, sc := sc, ol := none }
  let es : List Elem × Nat := match fmt with
    | 1 => ([mk (ofBf16 (leNat (u.take 2))) none1], 0)
    | 2 => ((List.range 32).map fun k => mk (e4m3 (ubyte u k)) (e8m0 (ubyte u 32)), 0)
    | 3 => ((List.range 32).map fun k => mk (e5m2 (ubyte u k)) (e8m0 (ubyte u 32)), 0)
    | 4 =>
      let (used, bad) := laneUsed masked (laneEntries u) none
      ((List.range 256).map fun k =>
        let sc := e8m0 (ubyte u (128 + k / 32))
        match used.find? (fun p => p.1 == k) with
        | some p => { v := nzero, sc := sc, ol := some (ofBf16 p.2) }
        | none => mk (e2m1 (ubyte u (k / 2) / (if k % 2 = 0 then 1 else 16) % 16)) sc, bad)
    | 5 => ((List.range 16).map fun k => mk (e2m1 (ubyte u (k / 2) / (if k % 2 = 0 then 1 else 16) % 16)) (e4m3 (ubyte u 8)), 0)
    | 6 => ((List.range 16).map fun k => mk (int4 (ubyte u (k / 2) / (if k % 2 = 0 then 1 else 16) % 16)) (e4m3 (ubyte u 8)), 0)
    | 7 => ((List.range 16).map fun k => mk (int2 (ubyte u (k / 4) / 4 ^ (k % 4))) (e4m3 (ubyte u 4)), 0)
    | 8 => ((List.range 16).map fun k => mk (ternary (ubyte u (k / 4) / 4 ^ (k % 4))) (e4m3 (ubyte u 4)), 0)
    | 9 => ([mk (ofF32 (BitVec.ofNat 32 (leNat (u.take 4)))) none1], 0)
    | _ => ([], 0)
  (es.1.zipIdx.map fun p => if masked p.2 then elemMasked else p.1, es.2)

/-- The bytes of a stored unit that element k is decoded from: its own, its scale's, and the outlier lane's (R151, R152). -/
def elemBytes (fmt k : Nat) : List Nat := match fmt with
  | 1 => [0, 1]
  | 2 => [k, 32]
  | 3 => [k, 32]
  | 4 => k / 2 :: (128 + k / 32) :: (List.range 12).map (136 + ·)
  | 5 => [k / 2, 8]
  | 6 => [k / 2, 8]
  | 7 => [k / 4, 4]
  | 8 => [k / 4, 4]
  | 9 => [0, 1, 2, 3]
  | _ => []

/-- What a quantiser counted: saturations and overflows (R158, R159). -/
structure QCount where
  sat : Nat
  ovf : Nat
  deriving DecidableEq, Repr

/-- The smallest e with amax at most top times 2^e, clamped to -127 to 127 (R156, R157). -/
def scaleExp (top amax : FNum) : Int :=
  let e0 := nexp amax - nexp top
  let e := if nle amax (nmul top (npow2 e0)) then e0 else e0 + 1
  max (-127) (min 127 e)

/-- The largest magnitude among finite numbers of a list, zero if there is none. -/
def namax (l : List FNum) : FNum := (l.filter nisFin).foldl (fun a x => if nlt a (nabs x) then nabs x else a) nzero

/-- The element code of one value at scale exponent e (R150, R156). -/
def elemCode8 (fmt : Nat) (e : Int) : FNum → Nat
  | .nan => 0x7F
  | .inf s => (if s then 128 else 0) + (if fmt = 3 then 0x7C else 0x7E)
  | x =>
    let y := nmul x (npow2 (-e))
    if fmt = 3 then nencode 5 2 (nround 3 (-16) 16 y) else nencode 4 3 (nround 4 (-9) 100 y)

/-- One group of 32 values quantised to format 2 or 3 (R156): its 33 bytes and the values counted as saturated (R159). -/
def quantGroup8 (fmt : Nat) (ys : List FNum) : List Byte × QCount :=
  let amax := namax ys
  let infs := (ys.filter fun y => decide (y = .inf false) || decide (y = .inf true)).length
  let (e, code) : Int × Nat :=
    if nisZero amax then (0, if infs > 0 && fmt = 2 then 0xFE else 0x00)
    else let e := scaleExp (if fmt = 3 then .fin false 57344 0 else .fin false 448 0) amax; (e, (e + 127).toNat)
  (ys.map (fun y => BitVec.ofNat 8 (elemCode8 fmt e y)) ++ [BitVec.ofNat 8 code],
    { sat := if fmt = 2 then infs else 0, ovf := 0 })

/-- Rank order of candidates (R157): NaN, then infinities, then descending magnitude, ties to the lower index. -/
def candBefore (a b : Nat × FNum) : Bool :=
  let cls : FNum → Nat := fun x => match x with
    | .nan => 0
    | .inf _ => 1
    | .fin _ _ _ => 2
  if cls a.2 < cls b.2 then true else if cls b.2 < cls a.2 then false
  else if cls a.2 = 2 && nlt (nabs b.2) (nabs a.2) then true
  else if cls a.2 = 2 && nlt (nabs a.2) (nabs b.2) then false
  else decide (a.1 < b.1)

/-- Two values of four bits packed into bytes, lower index in the lower bits (R151). -/
def packNibbles : List Nat → List Byte
  | a :: b :: r => BitVec.ofNat 8 (a % 16 + 16 * (b % 16)) :: packNibbles r
  | _ => []

/-- One unit of 256 values quantised to format 4 (R157): its 148 bytes and what was counted (R158, R159). -/
def quantUnit4 (outShift : Nat) (ys : List FNum) : List Byte × QCount :=
  let iy := ys.zipIdx.map fun p => (p.2, p.1)
  let s := nsum ((ys.filter nisFin).map nabs)
  let isCand : FNum → Bool := fun y =>
    !nisFin y || (nlt (nmul (npow2 outShift) s) (nmul (nabs y) (npow2 8)) && !nisZero (rneBf16 y))
  let ranked := sortBy candBefore (iy.filter fun p => isCand p.2)
  let lane := sortByKey (fun p => p.1) (ranked.take 4)
  let ovs := ranked.drop 4
  let groups := chunksOf 32 8 iy
  let scales : List (Int × Nat) := groups.map fun g =>
    let amax := namax ((g.filter fun p => !isCand p.2).map (·.2))
    let ov := g.filter fun p => ovs.any fun q => q.1 == p.1
    if nisZero amax then (0, if ov.any (fun p => nisNan p.2) then 0xFF else if ov.isEmpty then 0x00 else 0xFE)
    else let e := scaleExp (.fin false 6 0) amax; (e, (e + 127).toNat)
  let code : Nat × FNum → Nat := fun p =>
    if lane.any fun q => q.1 == p.1 then 0
    else if ovs.any fun q => q.1 == p.1 then (if nneg p.2 then 0xF else 0x7)
    else nencode 2 1 (nround 2 (-1) 100 (nmul p.2 (npow2 (-((scales.getD (p.1 / 32) (0, 0)).1)))))
  let laneBytes := (lane.map fun p => BitVec.ofNat 8 p.1 :: leBytes 2 (toBf16 p.2)).flatten
  (packNibbles (iy.map code) ++ scales.map (fun x => BitVec.ofNat 8 x.2) ++ laneBytes
      ++ List.replicate (12 - laneBytes.length) 0,
    { sat := ovs.length, ovf := ovs.length })

/-- The sign generator's hash (R166). -/
def mix (seed u : Word) : Word :=
  let x := seed ^^^ (u * 0x9E3779B9#32)
  let x := x ^^^ (x >>> 16)
  let x := x * 0x85EBCA6B#32
  let x := x ^^^ (x >>> 13)
  let x := x * 0xC2B2AE35#32
  x ^^^ (x >>> 16)

/-- The sign s(u): true for -1 (R166). -/
def rotNeg (seed : Word) (u : Nat) : Bool := (mix seed (BitVec.ofNat 32 u)).msb

/-- The rotation size a ROT code names (R99). -/
def rotSize (rot : Nat) : Nat := match rot with
  | 1 => 32 | 2 => 64 | 3 => 128 | 4 => 256 | _ => 0

/-- The constant c_n (R164). -/
def rotConst (n : Nat) : Word :=
  if n = 32 then 0x3E3504F3#32 else if n = 64 then 0x3E000000#32 else if n = 128 then 0x3DB504F3#32 else 0x3D800000#32

/-- One stage of the Hadamard transform: pairs 2^t apart (R164). -/
def hadStage (t : Nat) (x : List Word) : List Word :=
  (List.range x.length).map fun i =>
    if (i / 2 ^ t) % 2 = 0 then addF (x.getD i 0) (x.getD (i + 2 ^ t) 0)
    else subF (x.getD (i - 2 ^ t) 0) (x.getD i 0)

/-- The stages 0 to k-1 in order. -/
def hadStages (k : Nat) (x : List Word) : List Word := (List.range k).foldl (fun a t => hadStage t a) x

/-- A block's elements multiplied by their signs; u is the index of the first. -/
def rotSigns (seed : Word) (u : Nat) (x : List Word) : List Word :=
  x.zipIdx.map fun p => if rotNeg seed (u + p.2) then mulF p.1 0xBF800000#32 else mulF p.1 0x3F800000#32

/-- The forward rotation of one block of n values starting at element index u (R164). -/
def rotFwd (n : Nat) (seed : Word) (u : Nat) (x : List Word) : List Word :=
  (hadStages (Nat.log2 n) (rotSigns seed u x)).map fun v => mulF v (rotConst n)

/-- The inverse rotation of one block (R165). -/
def rotInv (n : Nat) (seed : Word) (u : Nat) (x : List Word) : List Word :=
  rotSigns seed u ((hadStages (Nat.log2 n) x).map fun v => mulF v (rotConst n))

/-- A row rotated block by block; u is the element index of its first value. -/
def rotRow (f : Nat → Word → Nat → List Word → List Word) (rot : Nat) (seed : Word) (u : Nat) (x : List Word) : List Word :=
  let n := rotSize rot
  if n = 0 then x
  else ((chunksOf n x.length x).zipIdx.map fun p => f n seed (u + n * p.2) p.1).flatten

/-- A row of FP32 values written in format fmt (R131, R155): bytes and counts. u is the index of the first element. -/
def quantRow (fmt outShift rot : Nat) (seed : Word) (u : Nat) (x : List Word) : List Byte × QCount :=
  match fmt with
  | 9 => ((x.map fun v => leBytes 4 v.toNat).flatten, ⟨0, 0⟩)
  | 1 => ((x.map fun v => leBytes 2 (toBf16 (ofF32 v))).flatten, ⟨0, 0⟩)
  | 4 =>
    let r := (chunksOf 256 x.length (rotRow rotFwd rot seed u x)).map fun c => quantUnit4 outShift (c.map ofF32)
    ((r.map (·.1)).flatten, ⟨(r.map (·.2.sat)).sum, (r.map (·.2.ovf)).sum⟩)
  | _ =>
    let r := (chunksOf 32 x.length x).map fun c => quantGroup8 fmt (c.map ofF32)
    ((r.map (·.1)).flatten, ⟨(r.map (·.2.sat)).sum, 0⟩)

/-- A stored row dequantised: its elements and the number of ignored lane entries. -/
def decodeRow (fmt : Nat) (masked : Nat → Bool) (bs : List Byte) : List Elem × Nat :=
  let us := chunksOf (unitBytes fmt) bs.length bs
  let r := us.zipIdx.map fun p => decodeUnit fmt (fun k => masked (unitElems fmt * p.2 + k)) p.1
  ((r.map (·.1)).flatten, (r.map (·.2)).sum)

/-- The cell mode's group width for a pair of formats (R115); none for a pair that is not listed. -/
def cellGroup (fa rotA fb : Nat) : Option Nat :=
  if fa = 4 then (if fb = 5 || fb = 7 || fb = 8 then some 32 else if fb = 2 || fb = 3 || fb = 6 then some 16 else none)
  else if fa = 2 || fa = 3 then (if fb = 2 || fb = 3 || fb = 5 || fb = 6 || fb = 7 || fb = 8 then some 16 else none)
  else if fa = 1 && rotA ≠ 0 then
    (if fb = 5 || fb = 7 || fb = 8 then some 32 else if fb = 2 || fb = 3 || fb = 6 then some 16 else none)
  else if fa = 1 then (if fb = 1 || fb = 2 || fb = 3 || fb = 5 || fb = 6 || fb = 7 || fb = 8 then some 8 else none)
  else none

/-- A half sum: an exact zero is +0.0, whatever the signs of its products (R120, R124). -/
def halfSum (l : List FNum) : FNum := let x := nsum l; if nisZero x then nzero else x

/-- One dot product term over elements that share a pair of scales: sa times sw times the exact sum (R120). -/
def dotTerm (ps : List (Elem × Elem)) : FNum :=
  match ps with
  | [] => nzero
  | p :: _ => nmul (nmul p.1.sc p.2.sc)
      (halfSum (ps.map fun q => nmul (match q.1.ol with | some _ => nzero | none => q.1.v) q.2.v))

/-- The outliers of a cell-cycle in ascending index order, each added with its own rounding (R122). -/
def addOutliers (c : Word) : List (Elem × Elem) → Word
  | [] => c
  | (a, w) :: r =>
    match a.ol with
    | some v => addOutliers (toF32 (nadd (rne32 (nmul (nmul v w.v) w.sc)) (ofF32 c))) r
    | none => addOutliers c r

/-- One cell-cycle over g element pairs (R120 to R122). -/
def cellCycle (g : Nat) (c : Word) (ps : List (Elem × Elem)) : Word :=
  let terms :=
    if g = 32 then [dotTerm (ps.take 16), dotTerm (ps.drop 16)]
    else if g = 16 then [dotTerm ps]
    else ps.map fun p => nmul (nmul p.1.v p.2.v) p.2.sc
  addOutliers (accUpdate c terms) ps

/-- One output element over the K elements of a step, in ascending K order (R113). -/
def cellDot (g : Nat) (c : Word) (a w : List Elem) : Word :=
  (chunksOf g a.length (a.zip w)).foldl (cellCycle g) c

/-- Outlier terms that one output element's dot product adds (counted in MXE_OUTLIERS). -/
def outlierTerms (a : List Elem) : Nat := (a.filter fun x => x.ol.isSome).length

end Sys2Proof.Machine
end

