-- ==== Sys2Proof/Machine/Timetable.lean ====
section
/-! DEFINITION. The Timetable: its layout, the ten checks of R84 that need nothing but its bytes and the shape values,
trip counts, positions and digits, masks and element addresses (R80 to R111, R125 to R131, R182 to R188, R366 to R370,
R555). Engine roles: 1 M, 2 N, 3 K, 4 BATCH, 8 OD, 9 OH, 10 OW, 11 OC, 12 IC. -/

namespace Sys2Proof.Machine

/-- n little-endian bytes at an offset, as a number. -/
def rdN (bs : List Byte) (off n : Nat) : Nat := leNat ((bs.drop off).take n)
/-- Bits [hi:lo] of the 64-bit word at an offset. -/
def rdBits (bs : List Byte) (off hi lo : Nat) : Nat := bitsN hi lo (rdN bs off 8)
/-- A signed 64-bit word. -/
def rdS (bs : List Byte) (off : Nat) : Int := signed 64 (rdN bs off 8)
/-- Are n bytes at an offset all zero? -/
def zerosAt (bs : List Byte) (off n : Nat) : Bool := ((bs.drop off).take n).all (· == 0)

/-- The header fields of R81. -/
structure TtHead where
  engine : Nat
  size : Nat
  tm : Nat
  tn : Nat
  tk : Nat
  nlev : Nat
  noper : Nat
  nshape : Nat
  nbucket : Nat
  depth : Nat
  lap : Nat
  spread : Nat
  levelOff : Nat
  operOff : Nat
  bucketOff : Nat
  epiOff : Nat
  epiSize : Nat
  power : Nat
  deriving DecidableEq, Repr

/-- Read the header (R81). -/
def ttHead (t : List Byte) : TtHead where
  engine := rdN t 6 1
  size := rdN t 8 4
  tm := rdN t 0x10 2
  tn := rdN t 0x12 2
  tk := rdN t 0x14 2
  nlev := rdBits t 0x18 2 0
  noper := rdBits t 0x18 10 8
  nshape := rdBits t 0x18 18 16
  nbucket := rdBits t 0x18 28 24
  depth := rdBits t 0x18 34 32
  lap := rdBits t 0x18 35 35
  spread := rdBits t 0x18 44 40
  levelOff := rdN t 0x20 4
  operOff := rdN t 0x24 4
  bucketOff := rdN t 0x28 4
  epiOff := rdN t 0x2C 4
  epiSize := rdN t 0x30 4
  power := rdN t 0x40 8

/-- A loop level (R88). -/
structure TtLevel where
  off : Nat
  bound : Nat
  role : Nat
  sel : Nat
  sparse : Bool
  strideA : Int
  strideB : Int
  strideC : Int
  strideD : Int
  fold : Nat
  foldIn : Int
  foldOut : Int
  deriving DecidableEq, Repr

/-- Read level entry i. -/
def ttLevel (t : List Byte) (h : TtHead) (i : Nat) : TtLevel :=
  let o := h.levelOff + 64 * i
  { off := o, bound := rdN t o 4, role := rdBits t o 35 32, sel := rdBits t o 38 36, sparse := rdBits t o 39 39 = 1,
    strideA := rdS t (o + 8), strideB := rdS t (o + 0x10), strideC := rdS t (o + 0x18), strideD := rdS t (o + 0x20),
    fold := rdN t (o + 0x28) 4, foldIn := rdS t (o + 0x30), foldOut := rdS t (o + 0x38) }

/-- Every level, outermost first. -/
def ttLevels (t : List Byte) (h : TtHead) : List TtLevel := (List.range h.nlev).map (ttLevel t h)

/-- An operand entry (R99). -/
structure TtOper where
  off : Nat
  base : Nat
  fmt : Nat
  panel : Nat
  rot : Nat
  seed : Word
  pitch : Nat
  deriving DecidableEq, Repr

/-- Read operand entry j: 0 A, 1 B, 2 C, 3 D; an absent entry reads as zeros. -/
def ttOper (t : List Byte) (h : TtHead) (j : Nat) : TtOper :=
  let o := h.operOff + 32 * j
  if j < h.noper then
    { off := o, base := rdN t o 8, fmt := rdBits t (o + 8) 3 0, panel := rdBits t (o + 8) 4 4,
      rot := rdBits t (o + 8) 7 5, seed := BitVec.ofNat 32 (rdN t (o + 12) 4), pitch := rdN t (o + 0x10) 8 }
  else { off := o, base := 0, fmt := 0, panel := 0, rot := 0, seed := 0, pitch := 0 }

/-- CAPk of bucket b (R95). -/
def ttCap (t : List Byte) (h : TtHead) (b k : Nat) : Nat := rdN t (h.bucketOff + 64 * b + 4 * k) 4
/-- PF_OFF, PF_COUNT, BL_OFF, BL_SIZE of bucket b (R95). -/
def ttPf (t : List Byte) (h : TtHead) (b : Nat) : Nat × Nat :=
  (rdN t (h.bucketOff + 64 * b + 0x18) 4, rdN t (h.bucketOff + 64 * b + 0x1C) 4)
/-- Block list place of bucket b. -/
def ttBl (t : List Byte) (h : TtHead) (b : Nat) : Nat × Nat :=
  (rdN t (h.bucketOff + 64 * b + 0x20) 4, rdN t (h.bucketOff + 64 * b + 0x24) 4)

/-- Prefetch entries of bucket b with LENGTH not 0: entry offset, ADDR, LENGTH, DUE (R107). -/
def ttPrefetch (t : List Byte) (h : TtHead) (b : Nat) : List (Nat × Nat × Nat × Nat) :=
  let (o, n) := ttPf t h b
  ((List.range n).map fun e =>
    let a := o + 16 * e
    (a, rdN t a 8, rdN t (a + 8) 4, rdN t (a + 12) 4)).filter fun x => x.2.2.1 ≠ 0

/-- Check 2 of R84: the DETAIL of TT_SEAL, or none when the header passes. POWER[63:36], which R110 marks reserved, counts among the
header's reserved fields (log entry 89). -/
def ttCheckHeader (t : List Byte) : Option Nat :=
  if rdN t 0 4 ≠ 0x54545842 then some 1
  else if rdN t 4 2 ≠ 1 then some 2
  else
    let size := rdN t 8 4
    if size < 256 || size > 262144 || size % 64 ≠ 0 then some 3
    else if rdN t 7 1 ≠ 0 || rdN t 0x0C 4 ≠ 0 || rdN t 0x16 2 ≠ 0 || rdBits t 0x18 7 3 ≠ 0 || rdBits t 0x18 15 11 ≠ 0
        || rdBits t 0x18 23 19 ≠ 0 || rdBits t 0x18 31 29 ≠ 0 || rdBits t 0x18 39 36 ≠ 0 || rdBits t 0x18 63 45 ≠ 0
        || rdN t 0x34 4 ≠ 0 || rdN t 0x38 8 ≠ 0 || rdBits t 0x40 63 36 ≠ 0 || !zerosAt t 0x48 0x78 then some 4
    else none

/-- Check 3 of R84: does the digest of the bytes equal SEAL (R83)? -/
def ttSealOk (t : List Byte) : Bool :=
  decide (shake256 64 (t.take 0xC0 ++ List.replicate 64 0 ++ t.drop 0x100) = (t.drop 0xC0).take 64)

/-- Failing fields of a block list (R212), by offset in the list: NQ or NKEY where the list does not fit its size bytes, the reserved
word, and OFFSET of each query block that reaches past NKEY (log entry 89). -/
def blockListFails (bs : List Byte) : List Nat :=
  let nq := rdN bs 0 4
  let nk := rdN bs 4 4
  (if rdN bs 8 8 ≠ 0 then [8] else []) ++
  (if bs.length < 16 + 8 * nq then [0] else if bs.length < 16 + 8 * nq + 4 * nk then [4]
   else (List.range nq).filterMap fun q =>
    if nk < rdN bs (16 + 8 * q) 4 + rdN bs (20 + 8 * q) 4 then some (16 + 8 * q) else none)

/-- A block list (R212): NQ, NKEY, then (OFFSET, COUNT) of each query block; none when it breaks R212 within size bytes. -/
def blockList (bs : List Byte) : Option (List (Nat × Nat)) :=
  if (blockListFails bs).isEmpty then
    some ((List.range (rdN bs 0 4)).map fun q => (rdN bs (16 + 8 * q) 4, rdN bs (20 + 8 * q) 4))
  else none

/-- Key number of entry e of a block list (R212). -/
def blockKey (bs : List Byte) (e : Nat) : Nat := rdN bs (16 + 8 * rdN bs 0 4 + 4 * e) 4

/-- Product of a list. -/
def prodN (l : List Nat) : Nat := l.foldl (· * ·) 1

/-- The tile extent along a role (R89, R367). -/
def roleExt (h : TtHead) (role : Nat) : Nat :=
  match role with
  | 1 => h.tm | 2 => h.tn | 3 => h.tk | 10 => h.tm | 11 => h.tn | 12 => h.tk | _ => 1

/-- One dimension of a convolution (R369): K, STRIDE, DIL, UPS, PAD_LO, PAD_HI, PAD_MODE. -/
structure ConvDim where
  k : Nat
  stride : Nat
  dil : Nat
  ups : Nat
  lo : Nat
  hi : Nat
  mode : Nat
  inFix : Nat
  deriving DecidableEq, Repr

/-- The three dimensions of a CVE Timetable: 0 depth, 1 height, 2 width. -/
def convDim (t : List Byte) (h : TtHead) (x : Nat) : ConvDim :=
  let o := h.epiOff + 0x10 + 8 * x
  { k := rdBits t o 4 0, stride := rdBits t o 15 8, dil := rdBits t o 27 16, ups := rdBits t o 31 28,
    lo := rdBits t o 43 32, hi := rdBits t o 55 44, mode := rdBits t o 57 56, inFix := rdN t (h.epiOff + 8 + 2 * x) 2 }

/-- The output extent for an input extent (R370). -/
def convOut (c : ConvDim) (i : Nat) : Nat :=
  let num : Int := (i * c.ups + c.lo + c.hi : Nat) - (c.dil * (c.k - 1) : Nat) - 1
  if num < 0 then 0 else num.toNat / c.stride + 1

/-- The dimension that a CVE role runs along (OD 0, OH 1, OW 2). -/
def convDimOfRole (role : Nat) : Nat := role - 8

/-- C_IN and C_OUT (R369). -/
def convCin (t : List Byte) (h : TtHead) : Nat := rdN t (h.epiOff + 2) 2
/-- C_OUT -/
def convCout (t : List Byte) (h : TtHead) : Nat := rdN t (h.epiOff + 4) 2
/-- MODE: 0 CONV, 1 POOL_MAX, 2 POOL_AVG, 3 RELAYOUT -/
def convMode (t : List Byte) (h : TtHead) : Nat := rdBits t h.epiOff 1 0

/-- The trip count of level i for bucket capacities caps (R97, R370), inner trips given. -/
def ttTrip (t : List Byte) (h : TtHead) (caps : List Nat) (inner : List (TtLevel × Nat)) (l : TtLevel) : Nat :=
  if l.sel = 0 then l.bound
  else
    let cap := caps.getD (l.sel - 1) 0
    if l.role = 4 then cap
    else if l.role = 8 || l.role = 9 || l.role = 10 then
      ceilDiv (convOut (convDim t h (convDimOfRole l.role)) cap) (roleExt h l.role)
    else ceilDiv cap (roleExt h l.role * prodN ((inner.filter fun p => p.1.role = l.role).map (·.2)))

/-- Every level with its trip count. -/
def ttTripsOf (t : List Byte) (h : TtHead) (caps : List Nat) : List TtLevel → List (TtLevel × Nat)
  | [] => []
  | l :: r => let inner := ttTripsOf t h caps r; (l, ttTrip t h caps inner l) :: inner

/-- The levels of a Timetable with the trip counts of bucket b. -/
def ttTrips (t : List Byte) (h : TtHead) (b : Nat) : List (TtLevel × Nat) :=
  ttTripsOf t h ((List.range 6).map (ttCap t h b)) (ttLevels t h)

/-- Is there a SPARSE level? -/
def ttSparse (ls : List (TtLevel × Nat)) : Bool := ls.any fun p => p.1.sparse

/-- Digits of the levels for index n of their mixed-radix order, outermost first (R90). -/
def mixDigits (trips : List Nat) (n : Nat) : List Nat :=
  match trips with
  | [] => []
  | _ :: r => (n / prodN r) % max 1 (trips.headD 1) :: mixDigits r (n % max 1 (prodN r))

/-- The digit value over all levels of a role (R89): outer levels more significant. A SPARSE K level weighs on outer K levels with its
BOUND (DESIGN CHOICE, log entry 94). -/
def roleDigit (ls : List (TtLevel × Nat)) (ds : List Nat) (role : Nat) : Nat :=
  ((ls.zip ds).filter fun p => p.1.1.role = role).foldl (fun a p => a * p.1.2 + p.2) 0

/-- The query block of a step (R213): BATCH digits more significant than M digits. -/
def queryBlock (ls : List (TtLevel × Nat)) (ds : List Nat) : Nat :=
  roleDigit ls ds 4 * prodN ((ls.filter fun p => p.1.role = 1).map (·.2)) + roleDigit ls ds 1

/-- Steps per outer index when the innermost level is SPARSE: COUNT of the query block (R90, R213). -/
def sparseCounts (ls : List (TtLevel × Nat)) (qs : List (Nat × Nat)) : List Nat :=
  let outer := ls.dropLast
  (List.range (prodN (outer.map (·.2)))).map fun n =>
    (qs.getD (queryBlock outer (mixDigits (outer.map (·.2)) n)) (0, 0)).2

/-- Number of positions P (R90). -/
def ttPositions (ls : List (TtLevel × Nat)) (counts : List Nat) : Nat :=
  if ttSparse ls then counts.sum else prodN (ls.map (·.2))

/-- Outer index and ordinal of a position under a SPARSE level. -/
def sparseAt : List Nat → Nat → Nat → Nat × Nat
  | [], n, p => (n, p)
  | c :: r, n, p => if p < c then (n, p) else sparseAt r (n + 1) (p - c)

/-- The digits of a position (R90, R213). -/
def posDigits (ls : List (TtLevel × Nat)) (counts : List Nat) (pos : Nat) : List Nat :=
  if ttSparse ls then
    let (n, v) := sparseAt counts 0 pos
    mixDigits (ls.dropLast.map (·.2)) n ++ [v]
  else mixDigits (ls.map (·.2)) pos

/-- The trip count of level 0: that of a SPARSE level comes from the block list (R88, R91). -/
def level0Trip (ls : List (TtLevel × Nat)) (counts : List Nat) : Nat :=
  match ls with
  | [] => 0
  | p :: _ => if p.1.sparse then counts.headD 0 else p.2

/-- The first position whose level-0 digit is i (R91). -/
def level0Start (ls : List (TtLevel × Nat)) (counts : List Nat) (i : Nat) : Nat :=
  if ttSparse ls then
    let per := prodN ((ls.dropLast.drop 1).map (·.2))
    if ls.length ≤ 1 then (counts.take i).sum else (counts.take (i * per)).sum
  else i * prodN ((ls.drop 1).map (·.2))

/-- The bound of an element index along a role: the shape value that masks it, if any (R97, R370). -/
def roleMask (t : List Byte) (h : TtHead) (shapes : List Nat) (role : Nat) : Option Nat :=
  match (ttLevels t h).find? fun l => decide (l.role = role ∧ l.sel ≠ 0) with
  | none =>
    if role = 8 || role = 9 || role = 10 then
      let c := convDim t h (convDimOfRole role)
      some (convOut c c.inFix)
    else if role = 11 then some (convCout t h)
    else if role = 12 then some (convCin t h)
    else none
  | some l =>
    let s := shapes.getD (l.sel - 1) 0
    if role = 8 || role = 9 || role = 10 then some (convOut (convDim t h (convDimOfRole role)) s)
    else if role = 11 then some (min s (convCout t h))
    else if role = 12 then some (min s (convCin t h))
    else some s

/-- Is an element index masked? -/
def isMasked (m : Option Nat) (i : Nat) : Bool := match m with
  | some s => decide (s ≤ i)
  | none => false

/-- Shape values S0 to S5 of a Waybill's ARG1 to ARG3 (R94). -/
def shapeVals (a1 a2 a3 : Nat) : List Nat :=
  [a1 % 2 ^ 32, a1 / 2 ^ 32 % 2 ^ 32, a2 % 2 ^ 32, a2 / 2 ^ 32 % 2 ^ 32, a3 % 2 ^ 32, a3 / 2 ^ 32 % 2 ^ 32]

/-- The first failing offsets of a list of tests: (offset, test passes). -/
def failsOf (l : List (Nat × Bool)) : List Nat := (l.filter fun p => !p.2).map (·.1)

/-- The smallest element of a list. -/
def minOf (l : List Nat) : Option Nat := l.foldl (fun a x => match a with | none => some x | some y => some (min x y)) none

/-- Sections of a Timetable: offset, length, the field that places it, and a kind shared by prefetch or block lists (R82). BL_OFF is
ignored with BL_SIZE 0, as PF_OFF is with PF_COUNT 0 (DESIGN CHOICE, log entry 94). -/
def ttSections (t : List Byte) (h : TtHead) : List (Nat × Nat × Nat × Nat) :=
  [(h.levelOff, 64 * h.nlev, 0x20, 0), (h.operOff, 32 * h.noper, 0x24, 1), (h.bucketOff, 64 * h.nbucket, 0x28, 2)]
  ++ (if h.epiSize ≠ 0 then [(h.epiOff, h.epiSize, 0x2C, 3)] else [])
  ++ ((List.range h.nbucket).map fun b =>
      let o := h.bucketOff + 64 * b
      let (po, pn) := ttPf t h b
      let (bo, bn) := ttBl t h b
      (if pn ≠ 0 then [(po, 16 * pn, o + 0x18, 4)] else []) ++ (if bn ≠ 0 then [(bo, bn, o + 0x20, 5)] else [])).flatten

/-- Is a section aligned, past the header and within the Timetable (R82)? -/
def secPlaced (h : TtHead) (s : Nat × Nat × Nat × Nat) : Bool :=
  decide (s.1 % 64 = 0 ∧ 0x100 ≤ s.1 ∧ s.1 + s.2.1 ≤ h.size)

/-- Placement failures of R82: misplaced sections, and of two overlapping sections the field placed later. -/
def ttPlaceFails (h : TtHead) (ss : List (Nat × Nat × Nat × Nat)) : List Nat :=
  ((ss.filter fun s => !secPlaced h s).map fun s => s.2.2.1)
  ++ (ss.zipIdx.map fun p =>
      (ss.take p.2).filterMap fun q =>
        let same := q.1 = p.1.1 && q.2.1 = p.1.2.1 && q.2.2.2 = p.1.2.2.2 && (q.2.2.2 = 4 || q.2.2.2 = 5)
        if !same && decide (q.1 < p.1.1 + p.1.2.1) && decide (p.1.1 < q.1 + q.2.1) then some (max q.2.2.1 p.1.2.2.1)
        else none).flatten

/-- Tests of the header fields at check 4 (R81, R110, R111). The offset of a failing field is that of the byte that holds its lowest
bit: 0x06 for ENGINE, 0x19 for NOPER, 0x44 for CLASS (R85 speaks of a byte offset; log entry 89). -/
def ttHeadFails (h : TtHead) : List Nat :=
  failsOf [(0x06, decide (1 ≤ h.engine ∧ h.engine ≤ 3)), (0x10, decide (h.tm ≠ 0)), (0x12, decide (h.tn ≠ 0)),
    (0x14, decide (h.tk ≠ 0)), (0x18, decide (1 ≤ h.nlev ∧ h.nlev ≤ 6)), (0x19, decide (h.noper = 3 ∨ h.noper = 4)),
    (0x1A, decide (h.nshape ≤ 6)), (0x1B, decide (1 ≤ h.nbucket ∧ h.nbucket ≤ 16)),
    (0x1C, decide (1 ≤ h.depth ∧ h.depth ≤ 4)), (0x1D, decide (1 ≤ h.spread ∧ h.spread ≤ 16)),
    (0x44, decide (bitsN 35 32 h.power ≤ 2))]

/-- Does a level fold any operand? -/
def foldedOps (role : Nat) (l : TtLevel) : Bool :=
  if role = 1 then l.strideA = 0 && l.strideC = 0 && l.strideD = 0
  else l.strideB = 0 && l.strideC = 0 && l.strideD = 0

/-- The block unit that C's format asks of TN, folds and N shape values (R131). -/
def cUnit (fmt : Nat) : Nat := if fmt = 4 then 256 else if fmt = 2 || fmt = 3 then 32 else 1

/-- Tests of one loop level at check 4 (R88, R89, R93, R182, R367). -/
def levelFails (t : List Byte) (h : TtHead) (merge : Bool) (i : Nat) : List Nat :=
  let ls := ttLevels t h
  let l := ttLevel t h i
  let o := l.off
  let cve := h.engine = 3
  let roleOk :=
    if cve then decide (l.role = 4 ∨ (8 ≤ l.role ∧ l.role ≤ 12)) && (l.role ≠ 12 || convMode t h = 0)
    else if h.engine = 2 then l.role = 1 || l.role = 4 || (l.role = 3 && merge)
    else decide (1 ≤ l.role ∧ l.role ≤ 4)
  let outerSame := (ls.take i).any fun x => decide (x.role = l.role)
  failsOf
    [ (o, decide (l.sel = 0 ∨ l.bound = 0)),
      (o + 4, roleOk && decide (l.sel ≤ h.nshape) && !(decide (l.sel ≠ 0) && outerSame)
        && !(l.sparse && (cve || l.role ≠ 3 || i + 1 ≠ h.nlev))
        && !(cve && l.role ≠ 4 && outerSame)),
      (o + 5, decide (rdBits t o 63 40 = 0)),
      (o + 8, !cve || l.role = 4 || l.strideA = 0),
      (o + 0x10, !cve || l.role = 4 || l.strideB = 0),
      (o + 0x18, !cve || l.role = 4 || l.strideC = 0),
      (o + 0x20, !cve || l.role = 4 || l.strideD = 0 || h.noper = 3),
      (o + 0x28, decide (l.fold = 0) || (!cve && (l.role = 1 || l.role = 2)
        && !((ls.take i).any fun x => decide (x.fold ≠ 0))
        && !(l.role = 2 && l.fold % cUnit (ttOper t h 2).fmt ≠ 0))),
      (o + 0x2C, decide (rdN t (o + 0x2C) 4 = 0)) ]
  ++ (if l.fold ≠ 0 && !cve then
      failsOf (if l.role = 1 then [(o + 8, decide (l.strideA = 0)), (o + 0x18, decide (l.strideC = 0)),
                  (o + 0x20, l.strideD = 0 || h.noper = 3)]
               else if l.role = 2 then [(o + 0x10, decide (l.strideB = 0)), (o + 0x18, decide (l.strideC = 0)),
                  (o + 0x20, l.strideD = 0 || h.noper = 3)] else [])
    else [])

/-- Formats an engine admits for operand j (R100, R183, R368). -/
def fmtOk (t : List Byte) (h : TtHead) (j fmt : Nat) : Bool :=
  if h.engine = 1 then match j with
    | 0 => fmt = 1 || fmt = 2 || fmt = 3 || fmt = 4
    | 1 => fmt = 1 || fmt = 2 || fmt = 3 || fmt = 5 || fmt = 6 || fmt = 7 || fmt = 8
    | 2 => fmt = 1 || fmt = 2 || fmt = 3 || fmt = 4 || fmt = 9
    | _ => fmt = 1 || fmt = 9
  else if h.engine = 2 then match j with
    | 0 => fmt = 1 || fmt = 2 || fmt = 3 || fmt = 4 || fmt = 9
    | 1 => fmt = 0 || fmt = 1 || fmt = 2 || fmt = 3 || fmt = 4 || fmt = 9
    | 2 => fmt = 1 || fmt = 2 || fmt = 3 || fmt = 4 || fmt = 9
    | _ => fmt = 0 || fmt = 1 || fmt = 9
  else
    let conv := convMode t h = 0
    let relayout := convMode t h = 3
    let plainA := rdBits t h.epiOff 3 2 ≠ 0
    let plainC := rdBits t h.epiOff 5 4 ≠ 0
    match j with
    | 0 => if conv then fmt = 1 || fmt = 2 || fmt = 3
           else (fmt = 1 || fmt = 9 || ((fmt = 2 || fmt = 3) && !(relayout && plainA)))
    | 1 => if conv then fmt = 2 || fmt = 3 || fmt = 6 else fmt = 0
    | 2 => fmt = 1 || fmt = 9 || ((fmt = 2 || fmt = 3) && !(relayout && plainC))
    | _ => fmt = 0 || fmt = 1 || fmt = 9

/-- Tests of operand entry j at check 4 (R99, R100, R115, R130, R183, R367, R368). A pair of formats that R115 does not list fails at
B's FORMAT (DESIGN CHOICE, log entry 94). -/
def operFails (t : List Byte) (h : TtHead) (j : Nat) : List Nat :=
  let x := ttOper t h j
  let rotOk :=
    if h.engine = 1 then decide (x.rot ≤ 4) && (x.rot = 0 || j = 0 || j = 3)
    else if h.engine = 2 then decide (x.rot ≤ 4) &&
      (x.rot = 0 || ((j = 0 || j = 1) && (x.fmt = 2 || x.fmt = 3 || x.fmt = 4)))
    else x.rot = 0
  let panelOk := x.panel = 0 || (h.engine ≠ 3 && j < 2)
  failsOf
    [ (x.off, decide (x.base < 2 ^ 57)),
      (x.off + 8, fmtOk t h j x.fmt && rotOk && panelOk
        && !(h.engine = 1 && j = 1 && (cellGroup (ttOper t h 0).fmt (ttOper t h 0).rot x.fmt).isNone)
        && !(h.engine = 1 && j = 3 && x.rot ≠ 0 && h.tn % max 1 (rotSize x.rot) ≠ 0)
        && !(h.engine = 2 && j < 2 && x.rot ≠ 0 && h.tn % max 1 (rotSize x.rot) ≠ 0)
        && !(h.engine = 1 && j < 2 && x.panel = 1 && ((ttLevels t h).any fun l => l.sparse))),
      (x.off + 9, decide (rdBits t (x.off + 8) 31 8 = 0)),
      (x.off + 0x18, decide (rdN t (x.off + 0x18) 8 = 0)) ]

/-- Tests of bucket entry b at check 4 (R95). -/
def bucketFails (t : List Byte) (h : TtHead) (b : Nat) : List Nat :=
  let o := h.bucketOff + 64 * b
  let sparse := (ttLevels t h).any fun l => l.sparse
  failsOf (((List.range 6).map fun k => (o + 4 * k, decide (k < h.nshape) || decide (ttCap t h b k = 0)))
    ++ [(o + 0x24, decide ((ttBl t h b).2 ≠ 0) == sparse), (o + 0x28, zerosAt t (o + 0x28) 24)])

/-- One operation of a program (R126): OP, ARG, IMM0, IMM1. -/
structure EpiOp where
  off : Nat
  op : Nat
  arg : Nat
  imm0 : Word
  imm1 : Word
  deriving DecidableEq, Repr

/-- Where the operations of the Timetable's program begin and how many there are. -/
def epiOpsAt (t : List Byte) (h : TtHead) : Nat × Nat :=
  if h.epiSize = 0 then (0, 0)
  else if h.engine = 3 then (h.epiOff + 0x80, rdBits t h.epiOff 13 8)
  else (h.epiOff + 64, rdBits t h.epiOff 5 0)

/-- The operations of the program. -/
def epiOps (t : List Byte) (h : TtHead) : List EpiOp :=
  let (o, n) := epiOpsAt t h
  (List.range n).map fun i =>
    let a := o + 16 * i
    { off := a, op := rdN t a 1, arg := rdBits t a 13 8, imm0 := BitVec.ofNat 32 (rdN t (a + 8) 4),
      imm1 := BitVec.ofNat 32 (rdN t (a + 12) 4) }

/-- CLAMP's immediates in order, with +0.0 above -0.0, and neither NaN (R127). -/
def clampOk (a b : Word) : Bool :=
  let x := ofF32 a
  let y := ofF32 b
  !nisNan x && !nisNan y && !nlt y x && !(nisZero x && nisZero y && nneg y && !nneg x)

/-- Does an operation code name statistics? -/
def isStatOp (op : Nat) : Bool := op = 7 || op = 9

/-- Tests of operation i (R127, R187, R188, R377, R378). slotOk tells whether a table slot holds a table for the run; ocTrips is the
product of the OC trip counts. -/
def opFails (t : List Byte) (h : TtHead) (slotOk : Nat → Bool) (ocTrips : Nat) (ops : List EpiOp) (i : Nat) : List Nat :=
  match ops[i]? with
  | none => []
  | some x =>
    let before := ops.take i
    let dAbsent := (ttOper t h 3).fmt = 0
    let bAbsent := (ttOper t h 1).fmt = 0
    let legal :=
      (x.op ≤ 6) || (h.engine ≠ 3 && x.op ≤ 9)
      || (h.engine = 2 && (x.op = 0x10 || x.op = 0x11 || x.op = 0x20 || x.op = 0x21 || x.op = 0x22 || x.op = 0x30))
      || (h.engine = 3 && x.op = 0x40)
    let ctx :=
      !((x.op = 3 || x.op = 4 || x.op = 0x22) && dAbsent)
      && !((x.op = 0x10 || x.op = 0x11) && bAbsent)
      && !(x.op = 8 && !(before.any fun y => decide (y.op = 7)))
      && !(x.op = 0x21 && !(before.any fun y => decide (y.op = 0x20)))
      && !(x.op = 0x30 && (i ≠ 0 || before.any fun y => decide (y.op = 0x30)))
      && !(x.op = 0x40 && ((before.any fun y => decide (y.op = 0x40)) || h.tn < convCout t h || convMode t h = 3
          || ocTrips ≠ 1))
    let argOk :=
      if x.op = 5 || x.op = 0x30 then slotOk x.arg
      else if isStatOp x.op then decide (x.arg ≤ 1)
      else if x.op = 0x20 then decide (x.arg ≤ 1)
      else decide (x.arg = 0)
    failsOf
      [ (x.off, legal && ctx), (x.off + 1, argOk && decide (rdBits t x.off 63 14 = 0)),
        (x.off + 8, x.op ≠ 6 || (!nisNan (ofF32 x.imm0) && (nisNan (ofF32 x.imm1) || clampOk x.imm0 x.imm1))),
        (x.off + 12, x.op ≠ 6 || !nisNan (ofF32 x.imm1)) ]

/-- Is EPI_SIZE legal (R125, R185, R366)? A CVE Timetable has a program. -/
def epiSizeOk (h : TtHead) : Bool :=
  (h.engine ≠ 3 && h.epiSize = 0) || decide (h.epiSize % 64 = 0 ∧ (if h.engine = 3 then 128 else 64) ≤ h.epiSize ∧ h.epiSize ≤ 1024)

/-- Tests of the program header and operations at check 4, in a program of a legal size (R125, R127, R131, R185, R188, R366, R369). -/
def epiFails (t : List Byte) (h : TtHead) (slotOk : Nat → Bool) (ocTrips : Nat) : List Nat :=
  let o := h.epiOff
  if h.epiSize = 0 then []
  else
    let (oo, n) := epiOpsAt t h
    let hdr := if h.engine = 3 then 128 else 64
    let maxOps := if h.engine = 3 then 56 else 60
    let fits := decide (n ≤ maxOps ∧ hdr + 16 * n ≤ h.epiSize)
    let ops := epiOps t h
    let stats := ops.any fun x => isStatOp x.op || (h.engine = 2 && (x.op = 0x30 || (x.op = 0x20 && x.arg = 1)))
    failsOf [(if h.engine = 3 then o + 1 else o, fits)]
    ++ (if !fits then [] else
        ((List.range n).map (opFails t h slotOk ocTrips ops)).flatten
        ++ failsOf [(oo + 16 * n, zerosAt t (oo + 16 * n) (h.epiSize - hdr - 16 * n))])
    ++ (if h.engine = 1 then
        failsOf [ (o, decide (rdBits t o 7 6 = 0)), (o + 1, decide (rdBits t o 15 9 = 0)),
          (o + 4, decide (rdBits t o 34 32 ≤ 4) && (rdBits t o 34 32 = 0 || (ttOper t h 2).fmt = 4)
            && decide (rdBits t o 63 35 = 0)),
          (o + 12, decide (rdN t (o + 12) 4 = 0)), (o + 0x10, !stats || rdN t (o + 0x10) 8 % 8 = 0),
          (o + 0x28, zerosAt t (o + 0x28) 24) ]
      else if h.engine = 2 then
        failsOf [ (o, decide (rdBits t o 7 6 = 0)),
          (o + 1, decide (rdBits t o 10 8 ≤ 4) && (rdBits t o 10 8 = 0 || (ttOper t h 2).fmt = 4)
            && decide (rdBits t o 63 11 = 0)),
          (o + 0x10, !stats || rdN t (o + 0x10) 8 % 8 = 0), (o + 0x28, zerosAt t (o + 0x28) 24) ]
        ++ (if (ttLevels t h).any fun l => decide (l.role = 3) then []
            else (ops.filter fun x => decide (x.op = 0x30)).map (·.off))
      else
        let mode := convMode t h
        let dims := (List.range 3).map fun x =>
          let c := convDim t h x
          let a := o + 0x10 + 8 * x
          let hasSel := (ttLevels t h).any fun l => decide (l.role = 8 + x ∧ l.sel ≠ 0)
          failsOf [ (o + 8 + 2 * x, decide (c.inFix = 0) == hasSel),
            (a, decide (1 ≤ c.k) && decide (rdBits t a 7 5 = 0) && (mode ≠ 3 || c.k = 1)),
            (a + 1, decide (1 ≤ c.stride ∧ c.stride ≤ 64) && (mode ≠ 3 || c.stride = 1)),
            (a + 2, decide (1 ≤ c.dil) && (mode ≠ 3 || c.dil = 1)),
            (a + 3, decide (1 ≤ c.ups ∧ c.ups ≤ 8) && (mode ≠ 3 || c.ups = 1)),
            (a + 4, mode ≠ 3 || c.lo = 0), (a + 5, mode ≠ 3 || c.hi = 0),
            (a + 7, decide (c.mode ≤ 2) && decide (rdBits t a 63 58 = 0)) ]
        let argmax := ops.any fun x => decide (x.op = 0x40)
        dims.flatten ++ failsOf [
          (o, (decide (rdBits t o 3 2 ≤ 2 ∧ rdBits t o 5 4 ≤ 2) && (rdBits t o 6 6 = 0 || mode = 2)
            && decide (rdBits t o 7 7 = 0) && (mode = 3 || (rdBits t o 3 2 = 0 && rdBits t o 5 4 = 0)))),
          (o + 1, decide (rdBits t o 15 14 = 0)),
          (o + 2, decide (convCin t h ≠ 0)),
          (o + 4, decide (convCout t h ≠ 0) && (mode = 0 || convCout t h = convCin t h)),
          (o + 6, decide (rdN t (o + 6) 2 = 0)), (o + 14, decide (rdN t (o + 14) 2 = 0)),
          (o + 0x28, if argmax then rdN t (o + 0x28) 8 ≠ 0 && rdN t (o + 0x28) 8 % 4 = 0 else rdN t (o + 0x28) 8 = 0),
          (o + 0x38, zerosAt t (o + 0x38) 0x48) ])

/-- Tests at check 4 of header fields that sections of the Timetable decide (R131, R366). -/
def ttTileFails (t : List Byte) (h : TtHead) (opers prog : Bool) : List Nat :=
  if h.engine = 3 then
    failsOf [(0x10, decide (h.tm % 64 = 0 ∧ 64 ≤ h.tm ∧ h.tm ≤ 1024)), (0x12, decide (h.tn % 32 = 0 ∧ 32 ≤ h.tn ∧ h.tn ≤ 512)),
      (0x14, decide (h.tk % 32 = 0 ∧ 32 ≤ h.tk ∧ h.tk ≤ 512) && (!prog || convMode t h = 0 || h.tk = h.tn)),
      (0x19, !opers || h.noper ≠ 4 || (ttOper t h 3).fmt ≠ 0)]
  else failsOf [(0x12, !opers || h.tn % cUnit (ttOper t h 2).fmt = 0)]

/-- Does bucket b fit (R96)? -/
def bucketFits (t : List Byte) (h : TtHead) (shapes : List Nat) (n b : Nat) : Bool :=
  (List.range n).all fun k => decide (shapes.getD k 0 ≤ ttCap t h b k)

/-- The block list bytes of bucket b. -/
def ttBlBytes (t : List Byte) (h : TtHead) (b : Nat) : List Byte :=
  let (o, n) := ttBl t h b
  (t.drop o).take n

/-- Counts of the selected bucket's block list, empty when there is none or it is malformed. -/
def ttCounts (t : List Byte) (h : TtHead) (b : Nat) : List Nat :=
  let ls := ttTrips t h b
  if ttSparse ls then match blockList (ttBlBytes t h b) with
    | some qs => sparseCounts ls qs
    | none => []
  else []

/-- Check 6 of R84: the selected bucket, or the DETAIL of TT_BUCKET (R85, R96). A bucket whose block list breaks R212 counts no
steps, so it is selected and fails check 7 (log entry 89). -/
def ttBucket (t : List Byte) (shapes : List Nat) : Nat ⊕ Nat :=
  let h := ttHead t
  if h.nshape = 0 then .inl 0
  else
    let fit := (List.range h.nbucket).filter fun b => bucketFits t h shapes h.nshape b
    let ps := fit.map fun b => [ttPositions (ttTrips t h b) (ttCounts t h b), b]
    match pickMin lexLt ps with
    | some [_, b] => .inl b
    | _ =>
      let k := (List.range h.nshape).find? fun k =>
        !((List.range h.nbucket).any fun b => bucketFits t h shapes (k + 1) b)
      .inr (k.getD 0)

/-- The product of the OC trip counts in the bucket that the shape values select; where none fits, of the levels that no shape value
rules (R378). -/
def ocTripsOf (t : List Byte) (h : TtHead) (shapes : List Nat) : Nat :=
  match ttBucket t shapes with
  | .inl b => prodN (((ttTrips t h b).filter fun p => p.1.role = 11).map (·.2))
  | .inr _ => prodN ((ttLevels t h).filterMap fun l => if l.role = 11 && l.sel = 0 then some l.bound else none)

/-- Check 4 of R84: the lowest failing offset of all its tests, else the lowest failing shape value (R85, R94, R131). A section that is
misplaced fails by the field that places it, and what would stand in it is not tested (log entry 89). -/
def ttCheck4 (t : List Byte) (shapes : List Nat) (slotOk : Nat → Bool) : Option Nat :=
  let h := ttHead t
  let secs := ttSections t h
  let fixed := secs.take (if h.epiSize ≠ 0 then 4 else 3)
  let placed (k : Nat) : Bool := fixed.any fun s => decide (s.2.2.2 = k) && secPlaced h s
  let prog := placed 3 && epiSizeOk h
  let merge := decide (((epiOps t h).head?.map (·.op)) = some 0x30)
  let each (k n : Nat) (f : Nat → List Nat) : List Nat := if placed k then ((List.range n).map f).flatten else []
  let bad := ttHeadFails h ++ failsOf [(0x30, epiSizeOk h)] ++ ttPlaceFails h (if placed 2 then secs else fixed)
    ++ ttTileFails t h (placed 1) prog
    ++ each 0 h.nlev (levelFails t h merge) ++ each 1 h.noper (operFails t h) ++ each 2 h.nbucket (bucketFails t h)
    ++ (if prog then epiFails t h slotOk (ocTripsOf t h shapes) else [])
  let nsel := (ttLevels t h).filterMap fun l =>
    if l.role = 2 && l.sel ≠ 0 && shapes.getD (l.sel - 1) 0 % cUnit (ttOper t h 2).fmt ≠ 0 then some (l.sel - 1) else none
  let sbad := ((List.range 6).filter fun k => decide (h.nshape ≤ k ∧ shapes.getD k 0 ≠ 0)) ++ nsel
  match minOf bad with
  | some o => some o
  | none => (minOf sbad).map fun k => 0xFFFF0000 + k

/-- Check 5 of R84: DETAIL of OK_EMPTY (R85). -/
def ttCheck5 (t : List Byte) (shapes : List Nat) : Option Nat :=
  let h := ttHead t
  match (List.range h.nshape).find? fun k => decide (shapes.getD k 0 = 0) with
  | some k => some k
  | none => ((ttLevels t h).zipIdx.find? fun p => decide (p.1.sel = 0 ∧ p.1.bound = 0)).map
      fun p => 0x80000000 + p.2

/-- Check 7 of R84 for bucket b, with n instances of the kind in the partition (R90, R91, R101, R107, R167, R182, R213,
R363, R367, R370): the lowest failing offset, else the lowest failing shape value. A P that is too large fails by BOUND of level 0, and
an extent that no level runs along by NLEVELS (log entry 89). -/
def ttCheck7 (t : List Byte) (shapes : List Nat) (b n : Nat) : Option Nat :=
  let h := ttHead t
  let ls := ttTrips t h b
  let counts := ttCounts t h b
  let p := ttPositions ls counts
  let a := ttOper t h 0
  let tile :=
    if h.engine = 1 then failsOf
      [ (0x10, decide (h.tm % 128 = 0 ∧ 128 ≤ h.tm ∧ h.tm ≤ 4096 ∧ h.tm * h.tn ≤ 524288)),
        (0x12, decide (h.tn % 128 = 0 ∧ 128 ≤ h.tn ∧ h.tn ≤ 4096)),
        (0x14, decide (h.tk % 256 = 0 ∧ 256 ≤ h.tk ∧ h.tk ≤ 16384) && (a.rot = 0 || h.tk % max 1 (rotSize a.rot) = 0)) ]
    else if h.engine = 2 then failsOf
      [ (0x10, decide (h.tm % 8 = 0 ∧ 8 ≤ h.tm ∧ h.tm ≤ 4096 ∧ h.tm * h.tn ≤ 524288)),
        (0x12, decide (h.tn % 32 = 0 ∧ 32 ≤ h.tn ∧ h.tn ≤ 65536)), (0x14, decide (h.tk = 1)) ]
    else []
  let u := min h.spread (min (level0Trip ls counts) n)
  let l0 := (ls.headD (ttLevel t h 0, 0)).1
  let bl := ttBl t h b
  let sparse := ttSparse ls
  let nq := prodN ((ls.filter fun x => x.1.role = 1 || x.1.role = 4).map (·.2))
  let blBad := if sparse then
      let bs := ttBlBytes t h b
      (if rdN bs 0 4 < nq then [bl.1] else []) ++ (blockListFails bs).map (bl.1 + ·)
    else []
  let pf := ttPrefetch t h b
  let pfBad := (pf.zipIdx.map fun x =>
    let (o, ad, _, due) := x.1
    let prev := (pf.take x.2).foldl (fun m y => max m y.2.2.2) 0
    failsOf [(o + 7, decide (ad < 2 ^ 57)), (o + 12, decide (prev ≤ due ∧ due < p))]).flatten
  let cve := if h.engine ≠ 3 then [] else
    let ext (caps : List Nat) (x : Nat) : Nat :=
      match (ttLevels t h).find? fun l => decide (l.role = 8 + x ∧ l.sel ≠ 0) with
      | some l => caps.getD (l.sel - 1) 0
      | none => (convDim t h x).inFix
    let inE := (List.range 3).map (ext shapes)
    let outE := (List.range 3).map fun x => convOut (convDim t h x) (ext shapes x)
    let c := ttOper t h 2
    let bo := ttOper t h 1
    let unitB (f : Nat) := if f = 2 || f = 3 then 33 else if f = 1 then 64 else 128
    let ub := if bo.fmt = 6 then 18 else 33
    let taps := prodN ((List.range 3).map fun x => (convDim t h x).k)
    let reach := ([8, 9, 10, 11, 12].map fun role =>
      let need :=
        if role = 11 then convCout t h
        else if role = 12 then (if convMode t h = 0 then 32 * ceilDiv (convCin t h) 32 else 0)
        else convOut (convDim t h (role - 8)) (ext ((List.range 6).map (ttCap t h b)) (role - 8))
      let l := ls.find? fun q => decide (q.1.role = role)
      failsOf [((l.map fun q => q.1.off).getD 0x18, decide (need ≤ (l.map (·.2)).getD 1 * roleExt h role))]).flatten
    reach ++ failsOf
      [ (a.off + 0x10, rdBits t h.epiOff 3 2 ≠ 0 || decide (prodN inE * unitB a.fmt ≤ a.pitch)),
        (c.off + 0x10, rdBits t h.epiOff 5 4 ≠ 0 || decide (prodN outE * unitB c.fmt ≤ c.pitch)),
        (bo.off + 0x10, bo.fmt = 0 || decide (taps * ceilDiv (convCin t h) 32 * ub ≤ bo.pitch)) ]
  let bad := tile
    ++ failsOf [(h.levelOff, decide (p < 2 ^ 32)),
        (h.levelOff + 4, !(decide (1 < u) && (l0.role = 3 || l0.role = 12)))]
    ++ blBad ++ pfBad ++ cve
  let sbad := (ttLevels t h).filterMap fun l =>
    if l.sel = 0 then none
    else if h.engine = 1 && a.fmt = 1 && a.rot ≠ 0 && l.role = 3 && shapes.getD (l.sel - 1) 0 % 256 ≠ 0 then some (l.sel - 1)
    else if h.engine = 3 && shapes.getD (l.sel - 1) 0 > 65535 then some (l.sel - 1)
    else none
  match minOf bad with
  | some o => some o
  | none => (minOf sbad).map fun k => 0xFFFF0000 + k

/-- Live output tiles L (R103): M, N, BATCH (OD to OC for the CVE) trips inside the outermost K (IC) level. -/
def ttLive (h : TtHead) (ls : List (TtLevel × Nat)) : Nat :=
  let isK (l : TtLevel) : Bool := if h.engine = 3 then l.role = 12 else l.role = 3
  match ls.dropWhile fun p => !isK p.1 with
  | [] => 1
  | _ :: r => prodN ((r.filter fun p => !isK p.1).map (·.2))

/-- Accumulator entries needed and the limit (R103, R184, R379). -/
def ttAccDemand (t : List Byte) (b : Nat) : Nat × Nat :=
  let h := ttHead t
  let l := ttLive h (ttTrips t h b)
  if h.engine = 2 then
    if (epiOps t h).any fun x => decide (x.op = 0x30) then ((l + h.lap) * h.tm * (h.tn + 2), 1048576)
    else ((1 + h.lap) * h.tm * h.tn, 1048576)
  else ((l + h.lap) * h.tm * h.tn, if h.engine = 3 then 524288 else 1048576)

/-- Bytes of n elements of a format (R100). -/
def fmtBytes (fmt n : Nat) : Nat := n * footprint fmt / 256

/-- Operand-buffer demands and their limits, in the order they are checked (R102, R184, R379). -/
def ttOpbDemand (t : List Byte) (b : Nat) : List (Nat × Nat) :=
  let h := ttHead t
  let ls := ttTrips t h b
  let a := ttOper t h 0
  let bo := ttOper t h 1
  let d := ttOper t h 3
  if h.engine = 1 then
    let kb := prodN ((ls.filter fun p => p.1.role = 3).map (·.2))
    let part (o : TtOper) (n : Nat) := (if o.panel = 1 then kb + h.depth else h.depth) * fmtBytes o.fmt n
    [(part a (h.tm * h.tk) + part bo (h.tn * h.tk) + (if h.noper = 4 then fmtBytes d.fmt (h.tm * h.tn) else 0), 12582912)]
  else if h.engine = 2 then
    [(h.depth * (fmtBytes a.fmt (h.tm * h.tn) + fmtBytes bo.fmt (h.tm * h.tn)) + fmtBytes d.fmt (2 * h.tn), 8388608)]
  else
    let dd := convDim t h 0
    let dh := convDim t h 1
    let dw := convDim t h 2
    let iw := match (ttLevels t h).find? fun l => decide (l.role = 10 ∧ l.sel ≠ 0) with
      | some l => ttCap t h b (l.sel - 1)
      | none => dw.inFix
    let span := min iw (((h.tm - 1) * dw.stride + dw.dil * (dw.k - 1)) / max 1 dw.ups + 2)
    let ua := if a.fmt = 1 then 64 else if a.fmt = 9 then 128 else 33
    let ub := if bo.fmt = 6 then 18 else 33
    [ (h.depth * dd.k * dh.k * span * (h.tk / 32) * ua, 6291456),
      (if bo.fmt = 0 then 0 else 2 * h.tn * dd.k * dh.k * dw.k * (h.tk / 32) * ub, 4194304) ]

/-- The address of an element row (R555): base, digits and the row r within the tile. j: 0 A, 1 B, 2 C, 3 D. Under an M fold a VXE's B
folds as A does, and its D does not fold (DESIGN CHOICE, log entry 94). -/
def rowAddr (t : List Byte) (h : TtHead) (ls : List (TtLevel × Nat)) (ds : List Nat) (j r : Nat) : Int :=
  let x := ttOper t h j
  let strides : Int := ((ls.zip ds).map fun p =>
    (p.2 : Int) * (match j with | 0 => p.1.1.strideA | 1 => p.1.1.strideB | 2 => p.1.1.strideC | _ => p.1.1.strideD)).foldl (· + ·) 0
  let role := if j = 1 && h.engine = 1 then 2 else 1
  let row : Int := match ls.find? fun p => decide (p.1.fold ≠ 0 ∧ p.1.role = role) with
    | some p =>
      if h.engine = 2 && j = 3 then (r * x.pitch : Nat)
      else
        let i := roleDigit ls ds role * roleExt h role + r
        let fs := if j = 2 || j = 3 then p.1.foldOut else p.1.foldIn
        ((i / p.1.fold : Nat) : Int) * fs + ((i % p.1.fold) * x.pitch : Nat)
    | none => (r * x.pitch : Nat)
  x.base + strides + row

/-- The offset of unit u within a row of C or D: a fold along N moves it (R93, R555). -/
def unitOff (h : TtHead) (ls : List (TtLevel × Nat)) (ds : List Nat) (fmt u : Nat) : Int :=
  match ls.find? fun p => decide (p.1.fold ≠ 0 ∧ p.1.role = 2) with
  | some p =>
    let i := roleDigit ls ds 2 * h.tn + u * unitElems fmt
    ((i / p.1.fold : Nat) : Int) * p.1.foldOut + ((i % p.1.fold) / unitElems fmt * unitBytes fmt : Nat)
  | none => (u * unitBytes fmt : Nat)

/-- Rows of an operand's tile that are unmasked (R97). -/
def liveRows (t : List Byte) (h : TtHead) (shapes : List Nat) (ls : List (TtLevel × Nat)) (ds : List Nat) (role : Nat) : List Nat :=
  let m := roleMask t h shapes role
  (List.range (roleExt h role)).filter fun r => !isMasked m (roleDigit ls ds role * roleExt h role + r)

/-- Unmasked elements along a packed role of a tile: how many of its ext elements lie below the mask. -/
def liveCount (t : List Byte) (h : TtHead) (shapes : List Nat) (ls : List (TtLevel × Nat)) (ds : List Nat) (role : Nat) : Nat :=
  match roleMask t h shapes role with
  | none => roleExt h role
  | some s => min (roleExt h role) (s - roleDigit ls ds role * roleExt h role)

/-- Is the tile of a step wholly masked along a role? -/
def roleDead (t : List Byte) (h : TtHead) (shapes : List Nat) (ls : List (TtLevel × Nat)) (ds : List Nat) (role : Nat) : Bool :=
  isMasked (roleMask t h shapes role) (roleDigit ls ds role * roleExt h role)

/-- Is the step skipped (R98)? -/
def stepSkipped (t : List Byte) (h : TtHead) (shapes : List Nat) (ls : List (TtLevel × Nat)) (ds : List Nat) : Bool :=
  ((if h.engine = 3 then [4, 8, 9, 10, 11, 12] else if h.engine = 2 then [4, 1, 3] else [4, 1, 2, 3]).any
    fun role => roleDead t h shapes ls ds role)

/-- Is the output tile of a step wholly masked (R98, R105)? -/
def tileDead (t : List Byte) (h : TtHead) (shapes : List Nat) (ls : List (TtLevel × Nat)) (ds : List Nat) : Bool :=
  ((if h.engine = 3 then [4, 8, 9, 10, 11] else if h.engine = 2 then [4, 1] else [4, 1, 2]).any
    fun role => roleDead t h shapes ls ds role)

/-- Is this the step that finishes its tile (R105): every K (IC) digit at its last value? -/
def finishesTile (h : TtHead) (ls : List (TtLevel × Nat)) (counts : List Nat) (ds : List Nat) : Bool :=
  let k := if h.engine = 3 then 12 else 3
  ((ls.zip ds).all fun p =>
    if p.1.1.role = k then
      if p.1.1.sparse then
        let n := (ls.dropLast.zip ds).foldl (fun a q => a * q.1.2 + q.2) 0
        decide (p.2 + 1 = counts.getD n 0)
      else decide (p.2 + 1 = p.1.2)
    else true)

/-- Is this the first K step of its tile? -/
def firstOfTile (h : TtHead) (ls : List (TtLevel × Nat)) (ds : List Nat) : Bool :=
  let k := if h.engine = 3 then 12 else 3
  (ls.zip ds).all fun p => if p.1.1.role = k then decide (p.2 = 0) else true

/-- The key of a step's output tile: its digits outside K (IC). -/
def tileKey (h : TtHead) (ls : List (TtLevel × Nat)) (ds : List Nat) : List Nat :=
  let k := if h.engine = 3 then 12 else 3
  ((ls.zip ds).filter fun p => decide (p.1.1.role ≠ k)).map (·.2)

/-- The U ranges of R91: iterations of level 0 given to instance x of u. -/
def splitRange (trip u x : Nat) : Nat × Nat :=
  let q := trip / max 1 u
  let e := trip % max 1 u
  let start := x * q + min x e
  (start, start + q + (if x < e then 1 else 0))

end Sys2Proof.Machine
end

