-- ==== Sys2Proof/Machine/Views.lean ====
section
/-! DEFINITION. Views of the latent key-value store: the view spec, the window's geometry, and what each 33-byte unit of a
window delivers (R206 to R221). Reads of the pages go through two functions given by the caller: the bytes of a range, and
whether any of it is poisoned. -/

namespace Sys2Proof.Machine

open Sys2Proof

/-- ORIENT: 1 KEY, 2 VALUE, 3 EXP_K, 4 EXP_V (R215). -/
def vOrient (sp : List Byte) : Nat := rdN sp 0 1
/-- FORMAT -/
def vFmt (sp : List Byte) : Nat := rdN sp 1 1
/-- ROT -/
def vRot (sp : List Byte) : Nat := rdBits sp 0 18 16
/-- KBP -/
def vKbp (sp : List Byte) : Nat := rdBits sp 0 27 24
/-- NSLICE -/
def vSlices (sp : List Byte) : Nat := rdBits sp 0 31 28
/-- LATENT -/
def vLatent (sp : List Byte) : Nat := rdBits sp 0 47 32
/-- W, the latent elements of a slice (R207). -/
def vWidth (sp : List Byte) : Nat := vLatent sp / max 1 (vSlices sp)
/-- The page seed of the view's layer and group (R209). -/
def vSeed (sp : List Byte) : Word :=
  mix (BitVec.ofNat 32 (rdN sp 8 4)) (BitVec.ofNat 32 (rdN sp 12 2 * 65536 + rdN sp 14 2))
/-- NGROUPS -/
def vGroups (sp : List Byte) : Nat := rdN sp 0x10 2
/-- SEQ_TABLE -/
def vSeqTable (sp : List Byte) : Nat := rdN sp 0x18 8
/-- SEQ_BLOCKS -/
def vSeqBlocks (sp : List Byte) : Nat := rdN sp 0x20 4
/-- LIST -/
def vList (sp : List Byte) : Nat := rdN sp 0x28 8
/-- LIST_SIZE -/
def vListSize (sp : List Byte) : Nat := rdN sp 0x30 4
/-- CAP -/
def vCap (sp : List Byte) : Nat := rdN sp 0x34 4
/-- WEIGHTS -/
def vWeights (sp : List Byte) : Nat := rdN sp 0x38 8
/-- HEADS -/
def vHeads (sp : List Byte) : Nat := rdN sp 0x40 2
/-- HEAD_DIM -/
def vHeadDim (sp : List Byte) : Nat := rdN sp 0x42 2
/-- Is the view one that multiplies by up-projections? -/
def vExpanded (sp : List Byte) : Bool := decide (3 ≤ vOrient sp)

/-- Is a view spec well formed (R207, R215)? -/
def specOk (sp : List Byte) : Bool :=
  let w := vWidth sp
  decide (1 ≤ vOrient sp ∧ vOrient sp ≤ 4)
  && ((vFmt sp = 2 && vRot sp = 0 && w % 32 = 0 && decide (w ≤ 480))
      || (vFmt sp = 4 && decide (1 ≤ vRot sp ∧ vRot sp ≤ 4) && (w = 256 || w = 512 || w = 768)))
  && [1, 2, 4, 8].contains (vKbp sp) && decide (1 ≤ vSlices sp ∧ vSlices sp ≤ 4)
  && decide (128 ≤ vLatent sp ∧ vLatent sp ≤ 1024) && vLatent sp % max 1 (vSlices sp) = 0
  && decide (1 ≤ vGroups sp) && decide (1 ≤ rdN sp 0x12 2)
  && rdBits sp 0 23 19 = 0 && rdBits sp 0 63 48 = 0 && rdN sp 0x14 4 = 0 && rdN sp 0x24 4 = 0 && rdN sp 0x44 4 = 0
  && zerosAt sp 0x48 0x38
  && (vList sp ≠ 0 || vListSize sp = 0)
  && (if vExpanded sp then decide (vHeadDim sp % 32 = 0 ∧ 32 ≤ vHeadDim sp ∧ vHeadDim sp ≤ 512)
      else vWeights sp = 0 && vHeads sp = 0 && vHeadDim sp = 0)

/-- Tokens of a key block (R216). -/
def vTokens (sp : List Byte) : Nat := 256 * vKbp sp

/-- SLOT_BYTES (R216). -/
def slotSize (sp : List Byte) : Nat :=
  if vExpanded sp then vHeads sp * vTokens sp * vHeadDim sp * 33 / 32 else vTokens sp * vLatent sp * 33 / 32

/-- Query blocks of a view (R215). -/
def vQueries (sp list : List Byte) : Nat := if vList sp = 0 then 1 else rdN list 0 4

/-- Bytes of a view's window (R216). -/
def windowSize (sp list : List Byte) : Nat := ceilDiv (vQueries sp list * vCap sp * slotSize sp) 2097152 * 2097152

/-- Does a view's window hold an address? -/
def View.covers (v : View) (a : Nat) : Bool := decide (v.base ≤ a ∧ a < v.base + windowSize v.spec v.list)

/-- Do a view's window and a range meet? -/
def View.crosses (v : View) (a n : Nat) : Bool :=
  decide (0 < n ∧ a < v.base + windowSize v.spec v.list ∧ v.base < a + n)

/-- What a slot of a query block names: zero units, poisoned rows, or a key block (R220). -/
inductive SlotIs where
  | zeros
  | hole (key : Nat)
  | key (k : Nat)
  deriving DecidableEq, Repr

/-- Slot v of query block q (R216, R220). -/
def slotIs (sp list : List Byte) (q v : Nat) : SlotIs :=
  let named : Option Nat :=
    if vCap sp ≤ v || vQueries sp list ≤ q then none
    else if vList sp = 0 then some v
    else if rdN list (20 + 8 * q) 4 ≤ v then none
    else some (blockKey list (rdN list (16 + 8 * q) 4 + v))
  match named with
  | none => .zeros
  | some k => if ceilDiv (vSeqBlocks sp) (vKbp sp) ≤ k then .hole k else .key k

/-- Address of the sequence-table entry of a token block (R211). -/
def seqEntry (sp : List Byte) (b : Nat) : Nat := vSeqTable sp + 8 * b

/-- Address of the row of token t of a page set's slice (R206, R208). -/
def rowOf (sp : List Byte) (handle slice t : Nat) : Nat :=
  handle + ((rdN sp 12 2 * vGroups sp + rdN sp 14 2) * vSlices sp + slice) * 131072 + 512 * (t % 256)

/-- Bytes of a stored slice row (R207). -/
def rowBytes (sp : List Byte) : Nat := if vFmt sp = 2 then vWidth sp / 32 * 33 else vWidth sp / 256 * 148

/-- The page set of token t of key block k: none for a hole, or a handle outside the partition (R220). -/
def pageSet (rd : Nat → Nat → List Byte) (part : Nat) (sp : List Byte) (k t : Nat) : Option Nat :=
  let b := k * vKbp sp + t / 256
  if vSeqBlocks sp ≤ b then none
  else
    let h := leNat (rd (seqEntry sp b) 8)
    if h = 0 || h / 2 ^ 52 ≠ part then none else some h

/-- The latent elements of one slice of a token (R217). -/
def latentSlice (rd : Nat → Nat → List Byte) (sp : List Byte) (handle slice t : Nat) : List Word :=
  let xs := ((decodeRow (vFmt sp) (fun _ => false) (rd (rowOf sp handle slice t) (rowBytes sp))).1).map fun e => toF32 (elemVal e)
  if vFmt sp = 4 then rotRow rotInv (vRot sp) (vSeed sp) (slice * vWidth sp) xs else xs

/-- Unit j of a token's row in orientation KEY (R217). -/
def keyUnit (rd : Nat → Nat → List Byte) (sp : List Byte) (handle t j : Nat) : List Byte :=
  let per := vWidth sp / 32
  let slice := j / max 1 per
  if vFmt sp = 2 then rd (rowOf sp handle slice t + 33 * (j % max 1 per)) 33
  else (quantGroup8 2 (((((latentSlice rd sp handle slice t).drop (32 * (j % max 1 per))).take 32)).map ofF32)).1

/-- The latent of a token quantised along the latent, as an MXE operand (R218). -/
def latentElems (rd : Nat → Nat → List Byte) (sp : List Byte) (handle t : Nat) : List Elem :=
  ((List.range (vLatent sp / 32)).map fun j => (decodeUnit 2 (fun _ => false) (keyUnit rd sp handle t j)).1).flatten

/-- Column c of WEIGHTS (R218). -/
def weightCol (rd : Nat → Nat → List Byte) (sp : List Byte) (c : Nat) : List Elem :=
  (decodeRow 2 (fun _ => false) (rd (vWeights sp + c * (vLatent sp * 33 / 32)) (vLatent sp * 33 / 32))).1

/-- Element c of the expanded keys or values of a token (R218). -/
def expandedVal (rd : Nat → Nat → List Byte) (sp : List Byte) (handle t c : Nat) : Word :=
  cellDot 16 f32Zero (latentElems rd sp handle t) (weightCol rd sp c)

/-- The tokens, the latent elements (or expanded columns) and the slices that unit u of a slot is made of: first token,
number of tokens, first element (R216). -/
def unitShape (sp : List Byte) (u : Nat) : Nat × Nat × Nat :=
  let t := vTokens sp
  if vOrient sp = 1 then (u / (vLatent sp / 32), 1, 32 * (u % (vLatent sp / 32)))
  else if vOrient sp = 2 then (32 * (u % (t / 32)), 32, u / (t / 32))
  else if vOrient sp = 3 then
    let per := vHeadDim sp / 32
    let h := u / max 1 (t * per)
    (u / max 1 per % t, 1, h * vHeadDim sp + 32 * (u % max 1 per))
  else
    let h := u / max 1 (vHeadDim sp * (t / 32))
    (32 * (u % (t / 32)), 32, h * vHeadDim sp + u / (t / 32) % max 1 (vHeadDim sp))

/-- Slices of a token that a unit needs. -/
def unitSlices (sp : List Byte) (e : Nat) : List Nat :=
  if vExpanded sp then List.range (vSlices sp) else [e / max 1 (vWidth sp)]

/-- Token blocks of the tokens of unit u of key block k, those beyond the sequence table left out (R211, R220). -/
def unitBlocks (sp : List Byte) (k u : Nat) : List Nat :=
  let (t, n, _) := unitShape sp u
  (((List.range n).map fun i => k * vKbp sp + (t + i) / 256).eraseDups).filter fun b => decide (b < vSeqBlocks sp)

/-- Rows of latent pages that unit u of key block k needs (R217, R221). -/
def unitRows (rd : Nat → Nat → List Byte) (part : Nat) (sp : List Byte) (k u : Nat) : List (Nat × Nat) :=
  let (t, n, e) := unitShape sp u
  ((List.range n).map fun i => match pageSet rd part sp k (t + i) with
    | none => []
    | some h => (unitSlices sp e).map fun sl => (rowOf sp h sl (t + i), rowBytes sp)).flatten

/-- Columns of WEIGHTS that a unit needs (R218). -/
def unitCols (sp : List Byte) (u : Nat) : List (Nat × Nat) :=
  let (_, n, e) := unitShape sp u
  let pitch := vLatent sp * 33 / 32
  if vExpanded sp then [(vWeights sp + e * pitch, (if n = 1 then 32 else 1) * pitch)] else []

/-- Memory that unit u of key block k needs: sequence-table entries, then page rows (R221), with the columns of WEIGHTS. -/
def unitTouches (rd : Nat → Nat → List Byte) (part : Nat) (sp : List Byte) (k u : Nat) : List (Nat × Nat) :=
  (unitBlocks sp k u).map (fun b => (seqEntry sp b, 8)) ++ unitRows rd part sp k u ++ unitCols sp u

/-- The bytes of a row that n latent elements from i of its slice derive from: their rotation blocks' codes, scales and outlier lanes
(R151, R209, R217). -/
def latentBytes (sp : List Byte) (row i n : Nat) : List (Nat × Nat) :=
  if vFmt sp = 2 then ((List.range n).map (i + ·)).flatMap fun j => (elemBytes 2 (j % 32)).map fun b => (row + 33 * (j / 32) + b, 1)
  else
    let g := max 1 (rotSize (vRot sp))
    let lo := i / g * g
    ((List.range (ceilDiv (i + n - lo) g)).map fun q => lo + g * q).flatMap fun j =>
      let a := row + 148 * (j / 256)
      [(a + j % 256 / 2, g / 2), (a + 128 + j % 256 / 32, ceilDiv g 32), (a + 136, 12)]

/-- The bytes that bytes lo to hi - 1 of unit u of key block k derive from (R217, R218, R221). A format-2 key is copied byte by byte. -/
def unitDerives (rd : Nat → Nat → List Byte) (part : Nat) (sp : List Byte) (k u lo hi : Nat) : List (Nat × Nat) :=
  let (_, _, e) := unitShape sp u
  let rows := unitRows rd part sp k u
  let i := e % max 1 (vWidth sp)
  if vExpanded sp then rows ++ unitCols sp u
  else if vOrient sp = 1 then
    if vFmt sp = 2 then rows.map fun r => (r.1 + i / 32 * 33 + lo, hi - lo) else rows.flatMap fun r => latentBytes sp r.1 i 32
  else rows.flatMap fun r => latentBytes sp r.1 i 1

/-- Does unit u of key block k name a hole (R220)? -/
def unitHole (rd : Nat → Nat → List Byte) (part : Nat) (sp : List Byte) (k u : Nat) : Bool :=
  let (t, n, _) := unitShape sp u
  (List.range n).any fun i => (pageSet rd part sp k (t + i)).isNone

/-- The 33 bytes of unit u of key block k (R216 to R218). -/
def unitData (rd : Nat → Nat → List Byte) (part : Nat) (sp : List Byte) (k u : Nat) : List Byte :=
  let (t, n, e) := unitShape sp u
  let handle (x : Nat) : Nat := (pageSet rd part sp k x).getD 0
  if vOrient sp = 1 then keyUnit rd sp (handle t) t (e / 32)
  else if vOrient sp = 2 then
    (quantGroup8 2 ((List.range n).map fun i =>
      ofF32 ((latentSlice rd sp (handle (t + i)) (e / max 1 (vWidth sp)) (t + i)).getD (e % max 1 (vWidth sp)) 0))).1
  else if vOrient sp = 3 then
    (quantGroup8 2 ((List.range 32).map fun i => ofF32 (expandedVal rd sp (handle t) t (e + i)))).1
  else (quantGroup8 2 ((List.range n).map fun i => ofF32 (expandedVal rd sp (handle (t + i)) (t + i) e))).1

/-- Multiply-accumulates that unit u takes in expanded mode (R245). -/
def unitMacs (sp : List Byte) : Nat := if vExpanded sp then 32 * vLatent sp else 0

/-- First addresses of the latent pages of a view's layer and group in a token block's page set (R208). -/
def blockFrames (sp : List Byte) (handle : Nat) : List Nat := (List.range (vSlices sp)).map fun sl => rowOf sp handle sl 0

/-- Where an offset within a view's window falls: query block, slot, unit and byte within the unit (R216). -/
def windowAt (sp : List Byte) (off : Nat) : Nat × Nat × Nat × Nat :=
  let sb := max 1 (slotSize sp)
  let x := off / sb
  (x / max 1 (vCap sp), x % max 1 (vCap sp), off % sb / 33, off % sb % 33)

end Sys2Proof.Machine
end

