-- ==== Sys2Proof/Machine/WbOps.lean ====
section
/-! DEFINITION. Shared operations on Waybills and partitions: the checks of R53 and R509, readiness (R54, R71), the rank of
R418, charging (R419, R421), the start and the end of a Waybill's work, and the release of engines. -/

namespace Sys2Proof.Machine

open Sys2Proof

/-- PRT_CFG.PRIO -/
def State.prio (s : State) (p : Nat) : Nat := s.fld (rPrtCfg p) 3 2
/-- PRT_CFG.GRAIN -/
def State.grain (s : State) (p : Nat) : Nat := s.fld (rPrtCfg p) 1 1
/-- PRT_CFG.MODE is swap. -/
def State.swapMode (s : State) (p : Nat) : Bool := decide (s.fld (rPrtCfg p) 0 0 = 1)
/-- MAX_OPEN as it applies (R420, R432). -/
def State.maxOpen (s : State) (p : Nat) : Nat := if s.swapMode p then 1 else s.fld (rPrtCfg p) 14 8

/-- An accepted Consist. -/
def State.consist (s : State) (cid : Nat) : Option Consist := s.sched.consists.find? fun c => c.cid = cid

/-- Change a Consist's entry. -/
def State.updConsist (s : State) (cid : Nat) (f : Consist → Consist) : State :=
  { s with sched := { s.sched with consists := updIf (fun c => decide (c.cid = cid)) f s.sched.consists } }

/-- The open Consists of a partition (R413). -/
def State.openOf (s : State) (p : Nat) : List Consist := s.sched.consists.filter fun c => decide (c.part = p) && !c.split

/-- Is a partition suspended on an engine? -/
def State.suspOn (s : State) (p : Nat) (k : EngKind) (i : Nat) : Bool :=
  s.sched.susps.any fun x => decide (x.part = p ∧ x.kind = k ∧ x.inst = i)

/-- Is a partition suspended anywhere? -/
def State.suspAny (s : State) (p : Nat) : Bool := s.sched.susps.any fun x => decide (x.part = p)

/-- Is a command of PRT_CMD that names a partition in progress? -/
def State.prtNamed (s : State) (p op : Nat) : Bool :=
  bit 0 (s.reg rPrtCmdStatus) && bits 4 0 (s.reg rPrtCmd) = p && bits 10 8 (s.reg rPrtCmd) = op

/-- STATE of a partition (R413). -/
def State.partState (s : State) (p : Nat) : Nat :=
  match s.part p with
  | none => 0
  | some x =>
    if s.prtNamed p 2 then 5
    else if x.evict.isSome || s.prtNamed p 3 then 4
    else if (s.openOf p).isEmpty then 1
    else if s.suspAny p then 3
    else 2

/-- Does a started Consist of a victim at grain 0 keep an engine from the partition that preempts it (R423, R424)? -/
def State.heldBack (s : State) (p : Nat) (k : EngKind) (i : Nat) : Bool :=
  s.sched.susps.any fun x => decide (x.taker = some p ∧ x.kind = k ∧ x.inst = i) && decide (s.grain x.part = 0)
    && ((s.openOf x.part).any fun c => c.started) && s.inMask x.part k i

/-- May a Waybill begin or go on with work on an engine: no victim of its partition keeps it, its partition is not suspended there, or grain 0 lets a started
Consist go on, or an EVICT lets what is started run to its end (R423, R427)? -/
def State.canWork (s : State) (w : Wb) (k : EngKind) (i : Nat) : Bool :=
  (decide (w.phase = .running) || !s.heldBack w.part k i)
  && (!s.suspOn w.part k i
      || (match s.consist w.cid with
          | none => true
          | some c => (c.started && s.grain w.part = 0) || (c.evicted && decide (w.phase = .running))))

/-- Has a Waybill been given its fence condition: every earlier Waybill of its ring has completed (R50, R71)? -/
def State.fenceMet (s : State) (w : Wb) : Bool :=
  !wFence w.slot || s.sched.wbs.all fun x => decide (x.ring ≠ w.ring) || decide (w.wid ≤ x.wid)
    || decide (x.phase = .recorded) || decide (x.phase = .endHeld)

/-- Is a Waybill's semaphore wait met? An index outside the range is never waited on (R54, R429). -/
def State.waitMet (s : State) (w : Wb) : Bool :=
  !wWaitEn w.slot || (match s.semIndex w.part (wWaitSem w.slot) with
    | none => true
    | some i => decide (wWaitValue w.slot ≤ (s.sem i).toNat))

/-- May a Waybill that has not begun do so (R418)? -/
def State.mayBegin (s : State) (w : Wb) : Bool := decide (w.phase = .waiting) && s.fenceMet w && s.waitMet w

/-- Does an address range of a space pass step 5 of R53 for a partition (R52, R284, R310)? -/
def State.spaceOk (s : State) (p space a n : Nat) : Bool :=
  if space = 0 then rangeInPart p a n
  else if space = 1 then
    let lo := s.reg64 (rXfeHostwinLo p)
    let sz := s.reg64 (rXfeHostsizeLo p)
    decide (a + n ≤ 2 ^ 52 ∧ lo ≤ a ∧ a + n ≤ lo + sz)
  else if space = 2 then
    let ep := a / 2 ^ 48
    let lim := s.reg (rVrlPartFab p)
    decide (ep ≠ 0 ∧ ep ≠ 0xFFFF ∧ a % 2 ^ 48 + n ≤ 2 ^ 48 ∧ bits 15 0 lim ≤ ep ∧ ep ≤ bits 31 16 lim)
  else false

/-- Step 5 of R53: do the addresses and the semaphore indices of a Waybill lie in its partition (R52, R254, R284, R428)? -/
def State.boundsOk (s : State) (p : Nat) (w : Slot) : Bool :=
  let op := wOpcode w
  let a := wArg w 0
  let n := s.fld (rPrtSemCount p) 16 0
  decide (wWaitSem w < n ∧ wSignalSem w < n)
  && (if op = opStamp then s.spaceOk p (wDstSpace w) a 8
      else if op = opXfer then
        decide (wArg w 2 ≤ 2 ^ 40) && s.spaceOk p (wSrcSpace w) a (wArg w 2) && s.spaceOk p (wDstSpace w) (wArg w 1) (wArg w 2)
      else if op = opFill then decide (wArg w 2 ≤ 2 ^ 40) && s.spaceOk p (wDstSpace w) a (wArg w 2)
      else if op = opPlace then
        rangeInPart p a (wArg w 1)
        && (bitsN 7 0 (wArg w 2) ≠ 4 || decide (wArg w 2 / 65536 + wArg w 1 ≤ 2 ^ 40))
        && (bitsN 7 0 (wArg w 2) ≠ 5 || decide (wArg w 2 / 65536 + wArg w 1 ≤ 2 ^ 48))
      else if op = opKv then rangeInPart p a (64 * wArg w 1)
      else if op = opRunTt then rangeInPart p a 1
      else if op = opCodec then rangeInPart p a 256
      else if op = opColl then rangeInPart p a 128
      else true)

/-- The checks of R53 in their order: the status at which a Waybill ends, or none when every check passes. -/
def State.r53 (s : State) (p : Nat) (w : Slot) : Option Nat :=
  if wbReservedBad w then some stWbFormat
  else if !opKnown (wOpcode w) then some stWbOpcode
  else if wbZeroWork w then some stOkEmpty
  else match wbAlignBad w with
    | some st => some st
    | none => if s.boundsOk p w then none else some stWbBounds

/-- The security check that follows R53 for every opcode but NOP and TIMESTAMP (R509). -/
def State.secCheck (s : State) (p : Nat) : Option Nat :=
  if s.fld rSecDbg 1 0 = 3 && s.sealed p then some stSecDenied
  else if bit 0 (s.reg rSecPolicy) && !s.sealed p then some stSecUnsealed
  else none

/-- Leases end; a read that started in a page's copy phase and ends after its switch counts in EXP_OLD_COPY (R222, R223). -/
def State.endLeases (s : State) (f : Lease → Bool) : State :=
  let s := (s.place.leases.filter fun l => f l && l.copy && l.before).foldl (fun s l => s.bump (rExpOldCopy (l.page % 4)) 1) s
  { s with place := { s.place with leases := s.place.leases.filter (fun l => !f l) } }

/-- A Waybill's work is over with a status, a DETAIL and the place that did it; its record is still to be made (R73), and its reads
have ended (R222, R256). One that met a die fenced while it ran is lost with it (R483). -/
def State.endWb (s : State) (wid st detail src : Nat) : State :=
  let s := s.endLeases fun l => decide (l.wid = wid)
  ({ s with place := { s.place with begun := s.place.begun.filter (fun x => x.1 ≠ wid) } }).updWb wid fun w =>
    let (st, detail) := match w.lost with
      | some d => if st = stDevFatal then (st, detail) else (stDieLost, d)
      | none => (st, detail)
    { w with phase := .ended, status := st, detail := detailSat detail, src := src, held := [] }

/-- The Waybill that a command names, when it may begin and asks for an opcode (R54, R71). A Waybill that an EVICT or a
split has already given its status is not begun. -/
def State.begin? (s : State) (wid op : Nat) : Option Wb :=
  match s.wb wid with
  | some w => if s.mayBegin w && w.preset.isNone && decide (wOpcode w.slot = op) then some w else none
  | none => none

/-- Apply the checks that come before an opcode's own: R53, then R509. A Waybill that fails ends at once. -/
def State.checked (s : State) (w : Wb) (f : State → State) : State :=
  match s.r53 w.part w.slot with
  | some st => s.endWb w.wid st 0 0
  | none => match s.secCheck w.part with
    | some st => s.endWb w.wid st 0 0
    | none => f s

/-- Drop the predicted rise of a Consist (R448). -/
def State.dropPredict (s : State) (cid : Nat) : State :=
  let ps := updIf (fun x => decide (x.cid = cid)) (fun x => { x with live := false }) s.pwr.predicts
  { s with pwr := { s.pwr with predicts := ps } }

/-- A Waybill of a Consist has started (R423, R448). -/
def State.startWb (s : State) (w : Wb) : State :=
  ((s.updWb w.wid fun w => { w with phase := .running }).updConsist w.cid fun c => { c with started := true })

/-- Charge engine-nanoseconds to a partition: V rises by 65,536 / SHARE for each microsecond, exactly (R419, R421). -/
def State.charge (s : State) (p ns : Nat) : State :=
  let unit := 1000 * max 1 (s.fld (rPrtShare p) 15 0)
  s.updPart p fun x =>
    let r := x.rem + ns * 65536
    { x with useNs := x.useNs + ns, rem := r % unit, v := x.v + BitVec.ofNat 64 (r / unit) }

/-- Charge engine-nanoseconds to a Waybill and its partition (R421). -/
def State.chargeWb (s : State) (wid ns : Nat) : State :=
  match s.wb wid with
  | none => s
  | some w => (s.updWb wid fun w => { w with ns := w.ns + ns }).charge w.part ns

/-- Order of Waybills that are ready (R418): PRIO, V, partition, Consist, place in it. -/
def State.readyKey (s : State) (w : Wb) : List Nat :=
  [s.prio w.part, ((s.part w.part).map fun x => x.v.toNat).getD 0, w.part, w.cid, w.wid]

/-- Order of ready and reserving Waybills that may take one engine (R418). -/
def State.takeKey (s : State) (w : Wb) : List Nat :=
  match w.resSince with
  | some n => [s.prio w.part, 0, n, w.part, w.wid]
  | none => [s.prio w.part, 1] ++ (s.readyKey w).drop 1

/-- Ballast stops on an engine that a run takes (R449). -/
def State.dropBallast (s : State) (i : Nat) : State :=
  { s with pwr := { s.pwr with ballast := s.pwr.ballast.filter (fun b => b.mxe ≠ i) } }

/-- Let go of the engines that a Waybill holds in reserve. -/
def State.unreserve (s : State) (wid : Nat) : State :=
  ({ s with sched := { s.sched with insts := s.sched.insts.filter (fun x => x.2 ≠ Use.reserved wid) } }).updWb wid
    fun w => { w with held := [], resSince := none }

/-- The engine kind of a Waybill by its opcode; a RUN_TIMETABLE's is the one read when its Consist was accepted, if that read gave one,
and from its issue on the one it runs on (R86, R447). -/
def kindOf (w : Wb) : Option EngKind :=
  let op := wOpcode w.slot
  if op = opXfer || op = opFill then some .xfe
  else if op = opKv then some .gaz
  else if op = opCodec then some .cde
  else if op = opColl then some .cle
  else if op = opRunTt then
    w.kind
  else none

/-- Record that a wait began: each Waybill counts once in a list of waiters (R143). -/
def addOnce (n : Nat) (l : List Nat) : List Nat := if l.contains n then l else l ++ [n]

end Sys2Proof.Machine
end

