-- ==== Sys2Proof/Machine/MemOps.lean ====
section
/-! DEFINITION. Shared operations of the Surveyors: placement pages, quotas and admission, victims, the choice of moves,
and what an access to device memory meets (R246 to R274). -/

namespace Sys2Proof.Machine

open Sys2Proof

/-- Partition of a placement page. -/
def Page.part (g : Page) : Nat := g.num / 2 ^ 31
/-- Home die of a placement page (R250). -/
def Page.die (g : Page) : Nat := g.num % 4
/-- First address of a placement page. -/
def Page.addr (g : Page) : Nat := g.num * 2 ^ 21

/-- Change a placement page's entry. -/
def State.updPage (s : State) (n : Nat) (f : Page → Page) : State :=
  { s with place := { s.place with pages := updIf (fun g => decide (g.num = n)) f s.place.pages } }

/-- The move under way on a page. -/
def State.moveOf (s : State) (n : Nat) : Option Move := s.place.moves.find? fun m => m.page = n

/-- Is the place HBM? -/
def Place.isHbm : Place → Bool
  | .hbm => true
  | _ => false
/-- Is the place the Siding? -/
def Place.isSid : Place → Bool
  | .siding => true
  | _ => false
/-- Is the page in place (R252)? -/
def Place.isLocal (p : Place) : Bool := p.isHbm || p.isSid
/-- The pool that holds the page: 0 host, 1 + k fabric pool k. -/
def Place.pool : Place → Option Nat
  | .host _ => Option.some 0
  | .fabric k _ => Option.some (1 + k)
  | _ => Option.none
/-- Is the place a pool? -/
def Place.isPool (p : Place) : Bool := p.pool.isSome

/-- Does a page count against a place: resident there, moving in since its copy started, or moving out and not drained
(R262)? -/
def State.occupies (s : State) (t : Place → Bool) (g : Page) : Bool :=
  t g.place || (match s.moveOf g.num with
    | some m => t (if m.switched then m.src else m.dst)
    | none => false)

/-- Pages of a partition homed on a die that count against a place. -/
def State.tierUse (s : State) (p d : Nat) (t : Place → Bool) : Nat :=
  (s.place.pages.filter fun g => decide (g.part = p ∧ g.die = d) && s.occupies t g).length

/-- HBM quota that applies to a partition on a die (R262, R433). -/
def State.quotaHbm (s : State) (p d : Nat) : Nat :=
  if s.swapMode p then (if s.sched.swapOwner = some p then s.fld (rPrtSwapHbm d) 19 0 else 0)
  else s.fld (rSrvQuotaHbm d p) 19 0
/-- Siding quota that applies to a partition on a die (R262, R433). -/
def State.quotaSid (s : State) (p d : Nat) : Nat :=
  if s.swapMode p then (if s.sched.swapOwner = some p then s.fld (rPrtSwapSid d) 19 0 else 0)
  else s.fld (rSrvQuotaSid d p) 19 0

/-- PAGES of a partition's pool: 0 host, 1 + k fabric pool k. -/
def State.poolPages (s : State) (p i : Nat) : Nat :=
  if i = 0 then s.fld (rSrvHostpoolPages p) 20 0 else s.fld (rSrvFabpoolPages p (i - 1)) 20 0
/-- Is a pool marked faulted (R274)? -/
def State.poolFaulted (s : State) (p i : Nat) : Bool := bit i (s.reg (rSrvPoolFault p))
/-- Pages of a partition that count against a pool. -/
def State.poolUse (s : State) (p i : Nat) : Nat :=
  (s.place.pages.filter fun g => decide (g.part = p) && s.occupies (fun x => decide (x.pool = some i)) g).length
/-- The order in which a partition's pools are used (R266). -/
def State.poolOrder (s : State) (p : Nat) : List Nat :=
  if bit 0 (s.reg (rSrvHostpoolCfg p)) then [1, 2, 3, 4, 0] else [0, 1, 2, 3, 4]

/-- Slot of a place in a pool. -/
def Place.slot : Place → Nat
  | .host j => j
  | .fabric _ j => j
  | _ => 0

/-- Slots of a pool that no page holds or is moving from or to. -/
def State.freeSlots (s : State) (p i : Nat) : List Nat :=
  let used := (s.place.pages.filter fun g => decide (g.part = p)).flatMap fun g =>
    (if g.place.pool = some i then [g.place.slot] else []) ++ (match s.moveOf g.num with
      | some m => (if m.dst.pool = some i then [m.dst.slot] else []) ++ (if m.src.pool = some i then [m.src.slot] else [])
      | none => [])
  (List.range (s.poolPages p i)).filter fun j => !used.contains j

/-- A slot of the first pool that has room; which slot is not specified, and is a free value (R266, log entry 5). -/
def State.poolPlace (s : State) (p : Nat) : Option Place :=
  ((s.poolOrder p).find? fun i => !s.poolFaulted p i && decide (s.poolUse p i < s.poolPages p i)).map fun i =>
    let l := s.freeSlots p i
    let j := l.getD ((Config.freeWord s.free).toNat % max 1 l.length) 0
    if i = 0 then .host j else .fabric (i - 1) j

/-- Does a prefetch intent whose DUE has not been passed name a page (R224, R267)? -/
def State.intended (s : State) (n : Nat) : Bool := s.place.intents.any fun x => x.page = n

/-- Is a PLACE in progress on a page, or a lending not yet resident (R258, R275)? -/
def Page.busy (g : Page) : Bool :=
  g.gone.isSome || g.taking.isSome || (match g.lent with
    | .no => false
    | .host _ => !g.place.isSid
    | .fabric _ t => if t = 1 then !g.place.isHbm else !g.place.isSid)

/-- Placement pages of latent pages that an open view reaches: those of its layer and group in the token blocks that its slots name
(R208, R220, R224). -/
def State.viewPages (s : State) (v : View) : List Nat :=
  let keys := ((List.range (vQueries v.spec v.list)).flatMap fun q => (List.range (vCap v.spec)).filterMap fun sl =>
    match slotIs v.spec v.list q sl with
    | .key k => some k
    | _ => none).eraseDups
  ((keys.flatMap fun k => (List.range (vKbp v.spec)).filterMap fun b => pageSet s.memRead v.part v.spec k (256 * b)).flatMap
    fun h => (blockFrames v.spec h).map pageOf).eraseDups

/-- The page that a tier must give up for a partition; pages that an open view reaches count their last view read, others their last
engine access (R224, R267). -/
def State.victim (s : State) (p d : Nat) (t : Place → Bool) (hbm : Bool) : Option Page :=
  let l := s.place.pages.filter fun g => decide (g.part = p ∧ g.die = d) && t g.place && decide (g.lent = .no)
    && (s.moveOf g.num).isNone && !s.intended g.num && !g.busy
  let reached := if l.isEmpty then [] else (s.kv.views.filter fun v => v.part = p).flatMap s.viewPages
  let key (g : Page) : List Nat :=
    [if hbm && g.cold then 0 else 1, if reached.contains g.num then g.lastView else g.last, g.num]
  pickMin (fun a b => lexLt (key a) (key b)) l

/-- What a page that needs room in a tier finds: a free quota page; the move that must start first; one already under way
that it waits for; or nothing (R262, R266, R267). -/
inductive Room where
  | free
  | start (page : Nat) (dst : Place)
  | wait
  | none
  deriving DecidableEq, Repr

/-- Is a victim of a partition on its way out of a place on a die? -/
def State.leaving (s : State) (p d : Nat) (t : Place → Bool) : Bool :=
  s.place.moves.any fun m => decide (m.die = d ∧ m.page / 2 ^ 31 = p ∧ m.cause = .victim) && t m.src

/-- Room in the Siding. -/
def State.sidRoom (s : State) (p d : Nat) : Room :=
  if s.tierUse p d Place.isSid < s.quotaSid p d then .free
  else if s.leaving p d Place.isSid then .wait
  else match s.victim p d Place.isSid false with
    | none => .none
    | some v => match s.poolPlace p with
      | some x => .start v.num x
      | none => .none

/-- Room in the HBM. In a chain of victims the far end goes first. -/
def State.hbmRoom (s : State) (p d : Nat) : Room :=
  if s.tierUse p d Place.isHbm < s.quotaHbm p d then .free
  else if s.leaving p d Place.isHbm then .wait
  else match s.victim p d Place.isHbm true with
    | none => .none
    | some v => match s.sidRoom p d with
      | .free => .start v.num .siding
      | r => r

/-- The highest local tier up to a page's target that has or can make room (R266). -/
def State.localRoom (s : State) (g : Page) : Place × Room :=
  let sid := (Place.siding, s.sidRoom g.part g.die)
  if g.cold then sid
  else match s.hbmRoom g.part g.die with
    | .none => sid
    | r => (.hbm, r)

/-- How a page takes backing at its first write (R266): at a place now, after a move, or not at all. -/
def State.backing (s : State) (g : Page) : Option Place × Bool :=
  match s.localRoom g with
  | (t, .free) => (some t, false)
  | (_, .none) => (s.poolPlace g.part, false)
  | _ => (none, true)

/-- What an access to one placement page meets: a translation fault; the page as it is; nothing it can use, so that a read
is poisoned and a write dropped (R265, R481); or a wait (R252, R266). -/
inductive Acc where
  | fault | ok | lost | wait
  deriving DecidableEq, Repr

/-- An access that has found no room waits for some, unless a pool of the partition has faulted (R265). -/
def State.noneLeft (s : State) (p : Nat) : Acc := if (List.range 5).any (s.poolFaulted p) then .lost else .wait

/-- Is the HBM of a memory-side die out of self-refresh (R465, R466)? -/
def State.hbmAwake (s : State) (die : Nat) : Bool := bit (17 + die) (s.reg rClkRun)

/-- An access to a placement page; one that began before an UNMAP of the page is still served (R256). A first write whose page takes
backing in a pool is then a demand return (R252, R266). One to HBM that sleeps waits for it (R466). -/
def State.accPage (s : State) (wr : Bool) (n : Nat) : Acc :=
  match s.page n with
  | none => .fault
  | some g =>
    if g.gone.isSome && !s.place.serving.contains n then .fault
    else if s.unreached g.die then .lost
    else match g.place with
      | .hbm => if s.hbmAwake g.die then .ok else .wait
      | .siding => .ok
      | .none =>
        if !wr then .ok
        else match s.backing g with
          | (some t, _) => if t.isPool then s.noneLeft g.part else .ok
          | (none, w) => if w then .wait else s.noneLeft g.part
      | _ => if (s.moveOf n).isSome then .wait
        else match (s.localRoom g).2 with
        | .none => s.noneLeft g.part
        | _ => .wait

/-- A range cut at placement pages. -/
def pageSlices (a n : Nat) : List (Nat × Nat) :=
  (pagesOf a n).map fun p =>
    let lo := max a (p * 2 ^ 21)
    (lo, min (a + n) ((p + 1) * 2 ^ 21) - lo)

/-- Does a read of placed memory meet poison: a fault, no room, a fenced home die, or a marked line? -/
def State.rawBad (s : State) (a n : Nat) : Bool :=
  (pagesOf a n).any (fun p => match s.accPage false p with
    | .fault => true
    | .lost => true
    | _ => false) || s.poisonedIn a n

/-- The open view whose window holds an address (R241). -/
def State.viewAt (s : State) (a : Nat) : Option View := s.kv.views.find? fun v => v.closing.isNone && v.covers a

/-- What a read of one range would touch: the range itself, or through a view the memory behind it. -/
def State.viewUnits (v : View) (a n : Nat) : List (Nat × Nat × Nat) :=
  let o := a - v.base
  if n = 0 then []
  else (List.range ((o + n - 1) / 33 + 1 - o / 33)).map fun i =>
    let (q, sl, u, _) := windowAt v.spec (33 * (o / 33 + i))
    (q, sl, u)

/-- Slices of ranges that lie in the windows of open views. -/
def State.viewSlices (s : State) (l : List (Nat × Nat)) : List (View × Nat × Nat) :=
  l.flatMap fun r => (pageSlices r.1 r.2).filterMap fun x => (s.viewAt x.1).map fun v => (v, x)

/-- Units of key blocks that a range of a window reaches: key, unit, and the bytes of the unit within the range. -/
def State.viewKeys (v : View) (a n : Nat) : List (Nat × Nat × Nat × Nat) :=
  let o := a - v.base
  ((State.viewUnits v a n).zipIdx).filterMap fun x => match slotIs v.spec v.list x.1.1 x.1.2.1 with
    | .key k =>
      let at0 := 33 * (o / 33 + x.2)
      some (k, x.1.2.2, max o at0 - at0, min (o + n) (at0 + 33) - at0)
    | _ => none

/-- Memory ranges that a read through a view needs. -/
def State.viewTouches (s : State) (v : View) (a n : Nat) : List (Nat × Nat) :=
  ((State.viewKeys v a n).flatMap fun x => unitTouches s.memRead v.part v.spec x.1 x.2.1).eraseDups

/-- Rows of latent pages that a range of a window reaches. -/
def State.viewRows (s : State) (v : View) (a n : Nat) : List (Nat × Nat) :=
  ((State.viewKeys v a n).flatMap fun x => unitRows s.memRead v.part v.spec x.1 x.2.1).eraseDups

/-- Placement pages of every token block that a range of a window reaches, for the view's layer and group (R225). -/
def State.viewBlocks (s : State) (v : View) (a n : Nat) : List Nat :=
  let bs := ((State.viewKeys v a n).flatMap fun x => unitBlocks v.spec x.1 x.2.1).eraseDups
  ((bs.filterMap fun b => pageSet s.memRead v.part v.spec (b / vKbp v.spec) (256 * (b % vKbp v.spec))).flatMap
    fun h => (blockFrames v.spec h).map pageOf).eraseDups

/-- The bytes that a view delivers for a range (R216 to R220). -/
def State.viewBytes (s : State) (v : View) (a n : Nat) : List Byte :=
  let us := (State.viewUnits v a n).map fun x => match slotIs v.spec v.list x.1 x.2.1 with
    | .key k => unitData s.memRead v.part v.spec k x.2.2
    | _ => List.replicate 33 0
  (us.flatten.drop ((a - v.base) % 33)).take n

/-- The first unit of a range that is a hole: query block, slot, key number, sequence entry (R220, R242). -/
def State.viewHole (s : State) (v : View) (a n : Nat) : Option (Nat × Nat × Nat × Nat) :=
  (State.viewUnits v a n).findSome? fun x => match slotIs v.spec v.list x.1 x.2.1 with
    | .zeros => none
    | .hole k => some (x.1, x.2.1, k, seqEntry v.spec (k * vKbp v.spec))
    | .key k =>
      if unitHole s.memRead v.part v.spec k x.2.2 then
        let t := (unitShape v.spec x.2.2).1
        some (x.1, x.2.1, k, seqEntry v.spec (k * vKbp v.spec + t / 256))
      else none

/-- The bytes that an engine's read of device addresses delivers. -/
def State.readBytes (s : State) (a n : Nat) : List Byte :=
  ((pageSlices a n).map fun x => match s.viewAt x.1 with
    | some v => s.viewBytes v x.1 x.2
    | none => s.memRead x.1 x.2).flatten

/-- Does a read through a view need an Expander that has failed (R221, R518)? -/
def State.expBad (s : State) (v : View) (a n : Nat) : Bool :=
  (s.viewRows v a n).any fun t => s.err.badUnits.contains (1, homeOf t.1)

/-- Is any of what an engine's read delivers poisoned? -/
def State.readBad (s : State) (a n : Nat) : Bool :=
  (pageSlices a n).any fun x => match s.viewAt x.1 with
    | some v => (s.viewHole v x.1 x.2).isSome || s.expBad v x.1 x.2 || (s.viewTouches v x.1 x.2).any fun t => s.rawBad t.1 t.2
    | none => s.rawBad x.1 x.2

/-- The memory that what engine reads deliver derives from: the ranges themselves, or behind a view the bytes of its pages (R139,
R221). -/
def State.derives (s : State) (l : List (Nat × Nat)) : List (Nat × Nat) :=
  l.flatMap fun r => (pageSlices r.1 r.2).flatMap fun x => match s.viewAt x.1 with
    | some v => (State.viewKeys v x.1 x.2).flatMap fun k => unitDerives s.memRead v.part v.spec k.1 k.2.1 k.2.2.1 k.2.2.2
    | none => [x]

/-- The placed memory that an engine's reads touch. -/
def State.touches (s : State) (l : List (Nat × Nat)) : List (Nat × Nat) :=
  l.flatMap fun r => (pageSlices r.1 r.2).flatMap fun x => match s.viewAt x.1 with
    | some v => s.viewTouches v x.1 x.2
    | none => [x]

/-- Ask for a page that is not yet on its way: a demand return, or room for its first write (R252, R266, R269); for one in HBM that
sleeps, its die's HBM wakes (R466). -/
def State.ask (s : State) (n : Nat) : State :=
  if (s.page n).any fun g => decide (g.place = .hbm) then s.wake (17 + n % 4)
  else if (s.moveOf n).isSome then s else { s with place := { s.place with demand := addOnce n s.place.demand } }

/-- ACTION of a PLACE Waybill (R253). -/
def placeAct (w : Slot) : Nat := bitsN 7 0 (wArg w 2)
/-- OFFSET -/
def placeOff (w : Slot) : Nat := wArg w 2 / 65536
/-- The placement pages of a PLACE Waybill, by number, in order. -/
def placePages (w : Slot) : List Nat := pagesOf (wArg w 0) (wArg w 1)

/-- LEND Waybills whose pages are all resident in their tier are over (R275, R278). -/
def State.lendsDone (s : State) : State :=
  s.sched.wbs.foldl (fun s w =>
    if decide (w.phase = .running ∧ wOpcode w.slot = opPlace) && (placeAct w.slot = 4 || placeAct w.slot = 5)
        && (placePages w.slot).all fun n => (s.page n).any fun g => decide (g.lent ≠ .no) && !g.busy then
      s.endWb w.wid stOk 0 0
    else s) s

/-- A page is at a place: a local one ends the demand for it, and a LEND may be over with it. -/
def State.pageAt (s : State) (n : Nat) (t : Place) : State :=
  let s := s.updPage n fun g => { g with place := t }
  if t.isLocal then ({ s with place := { s.place with demand := s.place.demand.filter (· ≠ n) } }).lendsDone else s

/-- A page takes backing (R255, R266). -/
def State.takeBacking (s : State) (n : Nat) : State :=
  match s.page n with
  | none => s
  | some g =>
    if g.place ≠ .none then s
    else match s.backing g with
      | (some t, _) =>
        (if t.isPool then { s with free := s.free + 1 } else s).pageAt n t
      | _ => s

/-- Placement pages that accesses reach: of the reads, and of the writes that reach no view. -/
def State.accPages (s : State) (reads writes : List (Nat × Nat)) : List Nat × List Nat :=
  (((s.touches reads).flatMap fun x => pagesOf x.1 x.2).eraseDups,
   (writes.flatMap fun x => pagesOf x.1 x.2).eraseDups.filter fun n => (s.viewAt (n * 2 ^ 21)).isNone)

/-- Make ready for accesses: pages first written take backing, pages that must come are asked for; true when nothing has
to be waited for (R28, R252, R266). -/
def State.prepare (s : State) (reads writes : List (Nat × Nat)) : Bool × State :=
  let (rp, wp) := s.accPages reads writes
  let rw := rp.filter fun n => s.accPage false n = .wait
  let s := if rw.isEmpty then wp.foldl (fun s n => if s.accPage true n = .fault then s else s.takeBacking n) s else s
  let ww := wp.filter fun n => s.accPage true n = .wait
  (rw.isEmpty && ww.isEmpty, (rw ++ ww).foldl (fun s n => s.ask n) s)

/-- The die that makes an access of a Waybill (R17): an engine's of its run, whose accesses have twice its number, or one more, as
their place; the receiving die's before engines are taken; else that of the Waybill's SOURCE. A table load, known by 2^64 and its die's
number, is its die's. -/
def State.accDie (s : State) (wid key : Nat) : Option (Nat × Nat) :=
  let bySrc := (s.wb wid).bind fun w => dieOfSrc w.src
  if 2 ^ 64 ≤ wid then some (1, wid - 2 ^ 64)
  else match s.eng.runs.find? fun r => r.wid = wid with
    | none => bySrc
    | some r =>
      if r.insts.isEmpty then some (1, r.recv)
      else if r.insts.any fun x => x.inst = key / 2 then some (dieOf r.kind (key / 2))
      else bySrc

/-- As prepare, for an access of a Waybill that waits as begun: the pages it began on serve it though an UNMAP takes them meanwhile
(R256). key: the place of the access in its Waybill. The accesses that follow are those of the die that works for it (R17). -/
def State.prepareFor (s : State) (wid key : Nat) (reads writes : List (Nat × Nat)) : Bool × State :=
  let same (x : Nat × Nat × List Nat) : Bool := decide (x.1 = wid ∧ x.2.1 = key)
  let held := ((s.place.begun.find? same).map (·.2.2)).getD []
  let (rp, wp) := s.accPages reads writes
  let now := (rp ++ wp).eraseDups.filter fun n => (s.page n).any fun g => g.gone.isNone || held.contains n || s.place.serving.contains n
  let (ok, s) := ({ s with place := { s.place with serving := s.place.serving ++ held, via := s.accDie wid key } }).prepare reads writes
  let rest := s.place.begun.filter fun x => !same x
  (ok, { s with place := { s.place with begun := if ok then rest else rest ++ [(wid, key, now)] } })

/-- The end of a command that made accesses: nothing of it is new, and none is being served. -/
def State.served (s : State) : State := { s.seen with place := { s.place with serving := [], via := none } }

/-- An access of an engine to a page: its heat rises and its last access is set (R267, R268). A view read counts as both (DEDUCED, log
entry 90). -/
def State.touchPage (s : State) (a n : Nat) (view : Bool) : State :=
  s.updPage (pageOf a) fun g =>
    { g with heat := min 65535 (g.heat + ceilDiv n 4096), last := s.aon, lastView := if view then s.aon else g.lastView }

/-- A Waybill's access faults (R259). -/
def State.noteFault (s : State) (wid a : Nat) (wr : Bool) : State :=
  s.updWb wid fun w => { w with faults := w.faults + 1, firstAt := match w.firstAt with
    | some x => some x
    | none => some (a, wr) }

/-- A Waybill's access found no room (R265). -/
def State.noteQuota (s : State) (wid : Nat) : State := s.updWb wid fun w => { w with quota := true }

/-- A Waybill has consumed poisoned data (R137, R260). -/
def State.notePoison (s : State) (wid : Nat) : State := s.updWb wid fun w => { w with poison := true }

/-- Act on the errors that the reads of a Waybill's command meet; an SRAM word that stays uncorrectable is data that came to it poisoned
(R515, R517). -/
def State.meetsErr (s : State) (wid : Nat) (m : Marks) : State :=
  match s.wb wid with
  | none => s
  | some w =>
    let s := s.noteMarks m 0 w.ring w.src (some w.part)
    if Marks.sramUe m then s.notePoison wid else s

/-- A Waybill's request over some dies meets one that is fenced: it completes with poison, and the Waybill is lost with a die fenced
while it ran (R23, R483, R519). -/
def State.noteWay (s : State) (wid : Nat) (way : List (Nat × Nat)) : State :=
  s.updWb wid fun w => { w with poison := true, lost := w.lost <|> (way.map fun d => srcOf d.1 d.2).find? w.cut.contains }

/-- A Waybill's access meets a memory-side die that is fenced, or whose route passes through a fenced die (R483, R519). -/
def State.noteCut (s : State) (wid die : Nat) : State :=
  s.noteWay wid ((2, die) :: ((s.place.via.map fun a => relays a (2, die)).getD []))

/-- One access of a Waybill reads ranges of placed memory: a fault is counted once, lack of room and poison are noted (R259, R265,
R483). -/
def State.noteAccess (s : State) (wid : Nat) (l : List (Nat × Nat)) : State :=
  let sl := l.flatMap fun x => (pageSlices x.1 x.2).map fun y => (y, s.accPage false (pageOf y.1))
  let t := match sl.find? fun x => decide (x.2 = .fault) with
    | some x => s.noteFault wid x.1.1 false
    | none => s
  let t := (sl.filter fun x => decide (x.2 = .lost)).foldl (fun t x =>
    if s.unreached (homeOf x.1.1) then t.noteCut wid (homeOf x.1.1) else t.noteQuota wid) t
  if l.any fun x => s.rawBad x.1 x.2 then t.notePoison wid else t

/-- Memory is read: poisoned lines are counted, and the pages count the access (R267, R268, R521). -/
def State.readRaw (s : State) (a n : Nat) (view : Bool) : State :=
  (pageSlices a n).foldl (fun s x => s.touchPage x.1 x.2 view) (s.countPoison a n)

/-- A read of a hole: the rows are poisoned, counted, and reported once for the view (R220, R242). -/
def State.readHole (s : State) (wid : Nat) (v : View) (h : Nat × Nat × Nat × Nat) : State :=
  let d := homeOf h.2.2.2
  let s := (s.notePoison wid).bump (rExpHoles d) 1
  let said := (s.kv.views.find? fun x => x.base = v.base).any fun x => x.holeSaid
  if said then s
  else
    let s := { s with kv := { s.kv with views := updIf (fun x => decide (x.base = v.base)) (fun x => { x with holeSaid := true }) s.kv.views } }
    if bit 0 (s.reg (rExpCfg d)) then
      s.emitFor wid (ev 0x0281 lvBlock (some v.part) (srcOf 2 d) [v.base, h.1, h.2.1, h.2.2.1, h.2.2.2])
    else s

/-- What a range of a window has delivered, by unit: the die whose Expander serves it, the bytes, and the multiply-accumulates. A unit
is served where its first row lies, one without rows where its window address would have its home (DESIGN CHOICE, log entry 90; R219). -/
def State.viewServed (s : State) (v : View) (a n : Nat) : List (Nat × Nat × Nat) :=
  let o := a - v.base
  (State.viewUnits v a n).zipIdx.map fun x =>
    let at0 := 33 * (o / 33 + x.2)
    let bytes := min (o + n) (at0 + 33) - max o at0
    match slotIs v.spec v.list x.1.1 x.1.2.1 with
    | .key k => match unitRows s.memRead v.part v.spec k x.1.2.2 with
      | r :: _ => (homeOf r.1, bytes, if unitHole s.memRead v.part v.spec k x.1.2.2 then 0 else unitMacs v.spec)
      | [] => (homeOf (v.base + at0), bytes, 0)
    | _ => (homeOf (v.base + at0), bytes, 0)

/-- A Waybill's reads of device addresses at one time; their bytes are State.readBytes of the state before. Each range is one access.
The Expanders read a row once for all of them, and count what they read, deliver and multiply (R219, R220, R245, log entry 90). -/
def State.noteReads (s : State) (wid : Nat) (l : List (Nat × Nat)) : State :=
  let vs := s.viewSlices l
  let plain := l.flatMap fun r => (pageSlices r.1 r.2).filter fun x => (s.viewAt x.1).isNone
  let rows := (vs.flatMap fun x => s.viewRows x.1 x.2.1 x.2.2).eraseDups
  let behind := (vs.flatMap fun x => s.viewTouches x.1 x.2.1 x.2.2).eraseDups
  let dlv := vs.flatMap fun x => s.viewServed x.1 x.2.1 x.2.2
  let holes := vs.filterMap fun x => (s.viewHole x.1 x.2.1 x.2.2).map fun h => (x.1, h)
  let t := l.foldl (fun t x => t.noteAccess wid (s.touches [x])) s
  let t := plain.foldl (fun t x => t.readRaw x.1 x.2 false) t
  let t := behind.foldl (fun t x => t.readRaw x.1 x.2 true) t
  let t := rows.foldl (fun t x => t.bump64 (rExpReadLo (homeOf x.1)) x.2) t
  let t := dlv.foldl (fun t x => (t.bump64 (rExpDlvLo x.1) x.2.1).bump64 (rExpMacLo x.1) x.2.2) t
  holes.foldl (fun t x => t.readHole wid x.1 x.2) t

/-- A Waybill's read of one range of device addresses. -/
def State.noteRead (s : State) (wid a n : Nat) : State := s.noteReads wid [(a, n)]

/-- Take host copies of lines away before an engine writes them (R276). -/
def State.invalidate (s : State) (a n : Nat) : State :=
  let hit := s.place.snoop.filter fun l => (linesOf a n).contains l
  let s := { s with place := { s.place with snoop := s.place.snoop.filter (fun l => !hit.contains l) } }
  hit.foldl (fun s l => s.put (.backInvalidate l)) s

/-- The transaction that carries 256 bytes of a Surveyor's move to (WRITE) or from (READ) a fabric pool: o is their offset in the page
(R266, R291, R311). The data of a WRITE is the page's when it is sent. -/
def State.moveTxn (s : State) (m : Move) (op o : Nat) : Txn :=
  let p := m.page / 2 ^ 31
  let x := if m.dst.isPool then m.dst else m.src
  let k := (x.pool.getD 1) - 1
  let hi := s.reg (rSrvFabpoolHi p k)
  { tag := none, op := op, dst := bits 31 16 hi, inc := none,
    off := (s.reg (rSrvFabpoolLo p k)).toNat + 2 ^ 32 * bits 15 0 hi + x.slot * 2 ^ 21 + o, len := 256, data := [], poison := 0,
    owner := .move m.page, place := o, sent := false, again := false, port := none, full := false }

/-- Does a place lie in a fabric pool? -/
def Place.isFabric : Place → Bool
  | .fabric _ _ => true
  | _ => false

/-- A write to a page under its copy to a fabric pool goes to the pool too: blocks that the copy has passed are written there again
(R222, R273). -/
def State.copyWrite (s : State) (a n : Nat) : State :=
  match s.moveOf (pageOf a) with
  | none => s
  | some m =>
    if m.switched || !m.dst.isFabric then s
    else
      let lo := a % 2 ^ 21 / 256
      let l := ((List.range ((a % 2 ^ 21 + n - 1) / 256 + 1 - lo)).map fun i => 256 * (lo + i)).filter fun o =>
        !s.vrl.txns.any fun t => decide (t.owner = .move m.page ∧ t.place = o) && !t.sent
      { s with vrl := { s.vrl with txns := s.vrl.txns ++ l.map fun o => s.moveTxn m 2 o } }

/-- Store one slice of a write that reaches its page. -/
def State.writeSlice (s : State) (a : Nat) (bs : List Byte) (poison : Bool) : State :=
  let s := (s.takeBacking (pageOf a)).invalidate a bs.length
  let s := if poison then s.memWritePoison a bs else s.memWrite a bs
  (s.copyWrite a bs.length).touchPage a bs.length false

/-- A Waybill has written memory: the runs of other Waybills that have started read it no more as it was (R139). -/
def State.noteDirty (s : State) (wid a n : Nat) : State :=
  if n = 0 then s
  else
    let l := updIf (fun (r : Run) => decide (r.wid ≠ wid) && !r.insts.isEmpty)
      (fun (r : Run) => { r with dirty := r.dirty ++ [(a, n)] }) s.eng.runs
    { s with eng := { s.eng with runs := l } }

/-- A Waybill writes device memory; bytes of pages that fault or find no room are dropped (R220, R259, R265). The write may
itself be poisoned (R137, R521). The result tells whether every byte was written. -/
def State.writeBytes (s : State) (wid a : Nat) (bs : List Byte) (poison : Bool) : Bool × State :=
  let r := (pageSlices a bs.length).foldl (fun (r : Bool × Bool × State) x =>
    let (ok, said, s) := r
    let part := (bs.drop (x.1 - a)).take x.2
    match (if (s.viewAt x.1).isSome then Acc.fault else s.accPage true (pageOf x.1)) with
    | .fault => (false, true, if said then s else s.noteFault wid x.1 true)
    | .lost => (false, said, if s.unreached (homeOf x.1) then s.noteCut wid (homeOf x.1) else s.noteQuota wid)
    | _ => (ok, said, (s.writeSlice x.1 part poison).noteDirty wid x.1 part.length)) (true, false, s)
  (r.1, r.2.2)

/-- Bytes of device memory that a Waybill leaves unspecified: those of pages in place take free values (log entry 5). -/
def State.freeRange (s : State) (wid a n : Nat) : State :=
  (pageSlices a n).foldl (fun s x =>
    if (s.viewAt x.1).isSome || s.accPage true (pageOf x.1) ≠ .ok then s
    else
      let (bs, s) := s.freeBytes x.2
      (s.writeSlice x.1 bs false).noteDirty wid x.1 x.2) s

/-- The status of work that ended, from what its accesses met (R259, R265, R285). -/
def accStatus (w : Wb) (clean : Nat) : Nat :=
  if w.faults ≠ 0 || w.linkBad then stMemFault
  else if w.quota then stMemQuota
  else if w.fabGone then stFabGone
  else if w.fabTime then stFabTimeout
  else if w.poison then stMemPoison
  else clean

/-- XLATE_FAULT of a Waybill with faulting accesses, when its work has ended (R259). -/
def State.faultEvent (s : State) (w : Wb) : State :=
  match w.firstAt with
  | some (a, wr) => s.emitFor w.wid (ev 0x0200 lvBlock (some w.part) w.src [a, if wr then 1 else 0, w.faults, w.ring])
  | none => s

/-- Usable HBM pages of a die (R247). -/
def State.hbmPages (s : State) (d : Nat) : Nat :=
  (if asmStacks s.assy = 12 then 108 else 72) * 512 - 16
  - (if bit 0 (s.reg (rGazCfg d)) then ceilDiv (64 * 2 ^ s.fld (rGazCfg d) 12 8) 2097152 else 0)

/-- Q_d at admission: a swap partition's is 0 (R263, R432). -/
def State.admitQ (s : State) (p d : Nat) : Nat × Nat :=
  if s.swapMode p then (0, 0) else (s.fld (rSrvQuotaHbm d p) 19 0, s.fld (rSrvQuotaSid d p) 19 0)

/-- Pages of a partition mapped on a die. -/
def State.mappedOn (s : State) (p d : Nat) : Nat :=
  (s.place.pages.filter fun g => decide (g.part = p ∧ g.die = d)).length

/-- Pages of a partition on a die lent in HBM, and in the Siding. -/
def State.lentOn (s : State) (p d : Nat) : Nat × Nat :=
  let l := s.place.pages.filter fun g => decide (g.part = p ∧ g.die = d)
  ((l.filter fun g => match g.lent with | .fabric _ 1 => true | _ => false).length,
   (l.filter fun g => match g.lent with | .host _ => true | .fabric _ 2 => true | _ => false).length)

/-- By how many placement pages a state breaks R263 for a partition: the largest of the three shortfalls (DEDUCED: the
rule names one shortfall for three conditions; log entry 16). -/
def State.shortfall (s : State) (p : Nat) : Nat :=
  let dies := List.range 4
  let q (d : Nat) : Nat := (s.admitQ p d).1 + (s.admitQ p d).2
  let x := (((List.range 5).filter fun i => !s.poolFaulted p i).map (s.poolPages p)).sum
  let a := (dies.map fun d => s.mappedOn p d - q d).sum - x
  let b := (dies.map fun d => ((s.lentOn p d).1 - (s.admitQ p d).1) + ((s.lentOn p d).2 - (s.admitQ p d).2)).sum
  let c := (dies.map fun d =>
    let n := (s.lentOn p d).1 + (s.lentOn p d).2
    if n = 0 then 0 else n + 32 - q d).sum
  max a (max b c)

/-- By how many pages a state breaks R251, over the four dies. -/
def State.tableExcess (s : State) : Nat :=
  ((List.range 4).map fun d => (s.place.pages.filter fun g => g.die = d).length - 1048576).sum

/-- Device virtual ranges that a piece reads. -/
def Xfer.reads (x : Xfer) (q : Piece) : List (Nat × Nat) := if !x.fill && x.srcSpace = 0 then [(x.src + q.off, q.len)] else []
/-- Device virtual ranges that a piece writes. -/
def Xfer.writes (x : Xfer) (q : Piece) : List (Nat × Nat) := if x.dstSpace = 0 then [(x.dst + q.off, q.len)] else []
/-- Placement pages that a piece uses. -/
def Xfer.pages (x : Xfer) (q : Piece) : List Nat := (x.reads q ++ x.writes q).flatMap fun r => pagesOf r.1 r.2

/-- Placement pages that a running piece began on: those that an UNMAP had not taken before it started (R256). -/
def Xfer.began (x : Xfer) (q : Piece) : List Nat := if q.run then (x.pages q).filter fun n => !q.late.contains n else []

/-- Does an access that waits, or a running XFER or FILL piece, still use a page (R256)? -/
def State.pageHeld (s : State) (n : Nat) : Bool :=
  (s.place.begun.any fun x => x.2.2.contains n) || s.place.xfers.any fun x => x.pieces.any fun q => (x.began q).contains n

/-- Does an access begun before now, a read under a lease among them, still use a page (R222, R256)? -/
def State.pageInUse (s : State) (n : Nat) : Bool := (s.place.leases.any fun l => l.page = n) || s.pageHeld n

/-- Act for accesses that began on pages: an UNMAP that takes them meanwhile does not stop them (R256). -/
def State.serving (s : State) (l : List Nat) (f : State → State) : State :=
  let t := f { s with place := { s.place with serving := s.place.serving ++ l } }
  { t with place := { t.place with serving := s.place.serving } }

/-- One access of a Waybill that comes about inside a command: it is made ready as by prepareFor, and made when nothing has to be waited
for (R252, R256, R266). -/
def State.accessing (s : State) (wid key : Nat) (reads writes : List (Nat × Nat)) (f : State → State) : State :=
  let (ok, t) := s.prepareFor wid key reads writes
  let t := if ok then f t else t
  { t with place := { t.place with serving := s.place.serving, via := s.place.via } }

end Sys2Proof.Machine
end

