-- ==== Sys2Proof/Machine/FabOps.lean ====
section
/-! DEFINITION. Shared operations of the Vrela fabric port: messages and flits, credits, replay, port selection, the peer
table, transactions and their ends, and inbound service (R293 to R327). Where the manual gives a first sequence number no
value the model counts from 0: the first DATA flit after link-up has SEQ 1 (DESIGN CHOICE, log entry 19). -/

namespace Sys2Proof.Machine

open Sys2Proof

/-- A message read from its header (R306). -/
structure Msg where
  dst    : Nat
  src    : Nat
  tag    : Nat
  op     : Nat
  vc     : Nat
  len    : Nat
  inc    : Nat
  poison : Nat
  status : Nat
  off    : Nat
  mdata  : Nat
  body   : List Byte
  deriving DecidableEq, Repr

/-- Read a message (R306). -/
def msgOf (b : List Byte) : Msg :=
  { dst := rdN b 0 2, src := rdN b 2 2, tag := rdN b 4 2, op := rdBits b 0 53 48, vc := rdBits b 0 55 54, len := rdBits b 8 8 0,
    inc := rdN b 10 2, poison := rdBits b 8 35 32, status := rdN b 13 1, off := rdN b 0x10 6, mdata := rdN b 0x18 8,
    body := b.drop 32 }

/-- The bytes of a message, its data padded to whole slots (R306). -/
def msgBytes (m : Msg) : List Byte :=
  leBytes 2 m.dst ++ leBytes 2 m.src ++ leBytes 2 m.tag ++ leBytes 2 (m.op % 64 + m.vc % 4 * 64)
  ++ leBytes 2 (m.len % 512) ++ leBytes 2 m.inc ++ leBytes 1 (m.poison % 16) ++ leBytes 1 m.status ++ leBytes 2 0
  ++ leBytes 6 m.off ++ leBytes 2 0 ++ leBytes 8 m.mdata
  ++ m.body ++ List.replicate (ceilDiv m.body.length 16 * 16 - m.body.length) 0

/-- VC that an OP requires (R307); none for a reserved code. -/
def opVc (op : Nat) : Option Nat :=
  if 1 ≤ op ∧ op ≤ 5 then some 0
  else if 8 ≤ op ∧ op ≤ 10 then some 1
  else if op = 0x10 then some 2
  else if 0x20 ≤ op ∧ op ≤ 0x26 then some 3
  else none

/-- Data slots of a message (R307). -/
def dataSlots (op len status : Nat) : Nat :=
  if op = 2 || op = 0x10 then ceilDiv len 16
  else if 3 ≤ op ∧ op ≤ 5 then 1
  else if op = 8 then (if status = 0 then ceilDiv len 16 else 0)
  else if op = 10 then (if status = 0 then 1 else 0)
  else 0

/-- Slots of a message whose header is given. -/
def msgSlots (b : List Byte) : Nat :=
  let m := msgOf (b.take 32)
  2 + dataSlots m.op m.len m.status

/-- Messages taken from a slot stream, with what is left of it; pad slots carry nothing (R300). -/
def takeMsgs : Nat → List Byte → List (List Byte) × List Byte
  | 0, b => ([], b)
  | n + 1, b =>
    if b.length < 16 then ([], b)
    else if zerosAt b 0 8 then takeMsgs n (b.drop 16)
    else if b.length < 32 || b.length < 16 * msgSlots b then ([], b)
    else
      let k := 16 * msgSlots b
      let (ms, r) := takeMsgs n (b.drop k)
      (b.take k :: ms, r)

/-- A flit's bytes with its CRC (R298). -/
def flitBytes (seq ack kind : Nat) (cr : List Nat) (slots : List Byte) : List Byte :=
  let b := leBytes 4 (seq % 4096 + ack % 4096 * 4096 + kind % 4 * 2 ^ 24) ++ (cr.map fun c => leBytes 1 c).flatten ++ slots
  b ++ leBytes 4 (crc32c b).toNat ++ leBytes 4 0

/-- Is a flit's CRC right (R298)? -/
def crcGood (f : Flit) : Bool :=
  f.bytes.length = 256 && decide ((crc32c (f.bytes.take 0xF8)).toNat = rdN f.bytes 0xF8 4)

/-- Is a flit good: its codewords decoded and its CRC right (R297)? -/
def flitGood (f : Flit) : Bool := !f.hit && f.uncorr = 0 && crcGood f

/-- A port that is enabled or has been. -/
def State.port (s : State) (n : Nat) : Option Port := s.vrl.ports.find? fun p => p.n = n

/-- Change a port. -/
def State.updPort (s : State) (n : Nat) (f : Port → Port) : State :=
  { s with vrl := { s.vrl with ports := updIf (fun p => decide (p.n = n)) f s.vrl.ports } }

/-- Does the assembly have a port (R14)? -/
def State.hasPort (s : State) (n : Nat) : Bool := decide (n < 25 * asmIoDies s.assy)

/-- Ports in service, in rising order. -/
def State.upPorts (s : State) : List Nat := (s.vrl.ports.filter fun p => p.state = 2).map (·.n)

/-- Add to an element of a list of four. -/
def addAt (l : List Nat) (i k : Nat) : List Nat := l.zipIdx.map fun x => if x.2 = i then x.1 + k else x.1

/-- The credit totals after another flit has been sent: each advances by at most 255 of what is owed (R298, R299, R303). -/
def Port.credit (p : Port) : Port :=
  let freed := (p.freed.zip p.owed).map fun (x : Nat × Nat) => (x.1 + min x.2 255) % 256
  { p with freed := freed, owed := p.owed.map (fun x => x - min x 255) }

/-- Send one DATA flit. -/
def State.sendData (s : State) (n seq : Nat) (slots : List Byte) : State :=
  let s := s.updPort n Port.credit
  match s.port n with
  | none => s
  | some p => (s.put (.flit n (flitBytes seq p.rxSeq 1 p.freed slots))).bump64 (rVrlTxFlitsLo n) 1

/-- Send an IDLE (kind 0) or NAK (kind 2) flit. -/
def State.sendOther (s : State) (n kind : Nat) : State :=
  let s := s.updPort n Port.credit
  match s.port n with
  | none => s
  | some p => s.put (.flit n (flitBytes (p.nextSeq + 4095) p.rxSeq kind p.freed (List.replicate 240 0)))

/-- IDLE flits until nothing more is owed (R303). -/
def State.sendIdle (s : State) (n : Nat) : Nat → State
  | 0 => s
  | k + 1 =>
    let s := s.sendOther n 0
    match s.port n with
    | none => s
    | some p => if p.owed.any (· ≠ 0) then s.sendIdle n k else s

/-- The message that a port would start next: its place in the queue, or none (R304). -/
def Port.nextMsg (p : Port) : Option Nat :=
  let fits (x : Nat × List Byte × QMark) : Bool := decide (x.2.1.length / 16 ≤ p.held.getD x.1 0)
  let first (vc : Nat) : Option Nat :=
    match p.queue.zipIdx.find? fun x => x.1.1 = vc with
    | some x => if fits x.1 then some x.2 else none
    | none => none
  match first 3 with
  | some i => some i
  | none => match first 1 with
    | some i => some i
    | none =>
      let (a, b) := if p.colNext then (first 2, first 0) else (first 0, first 2)
      match a with
      | some i => some i
      | none => b

/-- Messages that a port starts while it has room for slots, as slot bytes with what the messages are; credits are taken (R304). -/
def Port.collect (room : Nat) : Nat → Port → List Byte × List (QMark × Nat) × Port
  | 0, p => ([], [], p)
  | k + 1, p =>
    match if room = 0 then none else p.nextMsg with
    | none => ([], [], p)
    | some i =>
      match p.queue[i]? with
      | none => ([], [], p)
      | some (vc, b, tag) =>
        let n := b.length / 16
        let held := p.held.zipIdx.map fun (x : Nat × Nat) => if x.2 = vc then x.1 - n else x.1
        let p := { p with
          queue := p.queue.eraseIdx i, held := held,
          colNext := if vc = 0 then true else if vc = 2 then false else p.colNext }
        let (bs, tags, p) := p.collect (room - n) k
        (b ++ bs, (tag, n) :: tags, p)

/-- The tag of a request's mark. -/
def QMark.tag : QMark → Option Nat
  | .req t => some t
  | _ => Option.none

/-- Tags of the requests that lie, in whole or in part, in slots [lo, lo + 15) of a run of messages. -/
def tagsIn (lo : Nat) : List (QMark × Nat) → Nat → List Nat
  | [], _ => []
  | (t, n) :: r, o =>
    let rest := tagsIn lo r (o + n)
    if o < lo + 15 ∧ lo < o + n then t.tag.toList ++ rest else rest

/-- What is left of a run of messages, by what each is and its slots, once n slots have been sent. -/
def tagsLeft (n : Nat) : List (QMark × Nat) → List (QMark × Nat)
  | [] => []
  | (t, k) :: r => if k ≤ n then tagsLeft (n - k) r else (t, k - n) :: r

/-- Send what a port can send: DATA flits within the replay buffer's 1,024, the last one padded when no message goes on; else what is
owed (R300, R301, R304). -/
def State.pumpPort (s : State) (n : Nat) : State :=
  match s.port n with
  | none => s
  | some p =>
    if !p.locked then s
    else
      let room := (1024 - p.unacked.length) * 15
      let (new, tags0, q) := p.collect (room - p.txPart.length / 16) p.queue.length
      let all := p.txPart ++ new
      let tags := p.txTags ++ tags0
      let bs := all.take (16 * room)
      let q := { q with txPart := all.drop (16 * room), txTags := tagsLeft room tags }
      let k := ceilDiv bs.length 240
      let flits := (chunksOf 240 k bs).map fun c => c ++ List.replicate (240 - c.length) 0
      let sent := flits.zipIdx.map fun (x : List Byte × Nat) =>
        ({ seq := (q.nextSeq + x.2) % 4096, bytes := x.1, tags := tagsIn (15 * x.2) tags 0, replays := 0 } : TxFlit)
      let s := s.updPort n fun _ => { q with nextSeq := (q.nextSeq + k) % 4096, unacked := q.unacked ++ sent }
      let s := flits.zipIdx.foldl (fun s x => s.sendData n ((p.nextSeq + x.2) % 4096) x.1) s
      match s.port n with
      | none => s
      | some p => if p.owed.any (· ≠ 0) then s.sendIdle n 20 else s

/-- Queue a message at a port (R304). -/
def State.queueMsg (s : State) (n vc : Nat) (b : List Byte) (tag : QMark) : State :=
  (s.updPort n fun p => { p with queue := p.queue ++ [(vc, b, tag)] }).pumpPort n

/-- The port on which a request from a die leaves: none while none is in service (R315). -/
def State.routePort (s : State) (die : Option Nat) (dst off : Nat) : Option Nat :=
  let up := s.upPorts
  let near := match die with
    | some d => up.filter fun n => (linkedIo 2 d).contains (n / 25)
    | none => []
  let l := sortByKey id (if near.isEmpty then up else near)
  let h := (mix (BitVec.ofNat 32 dst) (BitVec.ofNat 32 (off / 4096))).toNat
  l[h % max 1 l.length]?

/-- Ports that a CLE sends on: those of its I/O die in service, or all in service (R344). -/
def State.clePorts (s : State) (cle : Nat) : List Nat :=
  let up := sortByKey id s.upPorts
  let near := up.filter fun n => n / 25 = cle
  if near.isEmpty then up else near

/-- The port on which a collective message leaves (R344); none while none is in service. -/
def State.collPort (s : State) (o : OwedMsg) : Option Nat :=
  let ps := s.clePorts o.cle
  let h := (mix (BitVec.ofNat 32 o.dst) (BitVec.ofNat 32 (o.off / 2 ^ 16))).toNat
  ps[(h + o.place) % max 1 ps.length]?

/-- Do messages of a collective still wait to leave the module: at a port, or, once it has ended well, a VERDICT for one (R73, R347)? -/
def State.collWaits (s : State) (w : Wb) : Bool :=
  let mine : QMark → Bool
    | .coll o => o.wid = w.wid
    | _ => false
  (s.vrl.ports.any fun p => (p.queue.any fun x => mine x.2.2) || p.txTags.any fun x => mine x.1)
  || (w.status ≠ stCollStall && w.status ≠ stCollPoison && s.colls.owed.any fun o => o.wid = w.wid && o.off % 16 = 5)

/-- A management message to the switch (R326). -/
def mgtMsg (ep op mdata : Nat) : Msg :=
  { dst := 0xFFFF, src := ep, tag := 0, op := op, vc := 3, len := 0, inc := 0, poison := 0, status := 0, off := 0,
    mdata := mdata, body := [] }

/-- Send a management message on the lowest port in service; without one it is not sent, and the timeout ends the wait
(DESIGN CHOICE: R326 names no port; log entry 19). -/
def State.sendMgt (s : State) (op mdata : Nat) : State :=
  match s.upPorts with
  | n :: _ => s.queueMsg n 3 (msgBytes (mgtMsg s.vrl.ep op mdata)) .none
  | [] => s

/-- A peer table entry. -/
def State.peer (s : State) (ep : Nat) : Option Peer := s.vrl.peers.find? fun p => p.ep = ep

/-- Change a peer table entry. -/
def State.updPeer (s : State) (ep : Nat) (f : Peer → Peer) : State :=
  { s with vrl := { s.vrl with peers := updIf (fun p => decide (p.ep = ep)) f s.vrl.peers } }

/-- Send RESOLVE for an entry, when a port is in service (R321). -/
def State.sendResolve (s : State) (ep : Nat) : State :=
  if s.upPorts.isEmpty then s
  else ((s.updPeer ep fun p => { p with asked := p.asked + 1 }).sendMgt 0x22 ep).bump64 rVrlResolvesLo 1

/-- Take an entry in RESOLVING for an endpoint without a live one: a free place, or the oldest entry with nothing outstanding
(R321, R322). -/
def State.resolve (s : State) (ep : Nat) : State :=
  let fresh : Peer := { ep := ep, inc := 0, st := .resolving, out := 0, used := s.aon, asked := 0, stale := 0 }
  match s.peer ep with
  | some p =>
    if p.st = .gone then (s.updPeer ep fun p => { p with st := .resolving }).sendResolve ep else s
  | none =>
    if s.vrl.peers.length < 4096 then
      ({ s with vrl := { s.vrl with peers := s.vrl.peers ++ [fresh] } }).sendResolve ep
    else
      match pickMin (fun a b => decide (a.used < b.used)) (s.vrl.peers.filter fun p => decide (p.out = 0 ∧ p.st ≠ .resolving)) with
      | none => s
      | some o =>
        let rest := s.vrl.peers.filter fun p => p.ep ≠ o.ep
        let s := { s with vrl := { s.vrl with peers := rest ++ [fresh] } }
        let s := if o.st = .present then s.sendMgt 0x25 o.ep else s
        s.sendResolve ep

/-! ### Pieces -/

/-- An XFER or FILL in progress. -/
def State.xferOf (s : State) (wid : Nat) : Option Xfer := s.place.xfers.find? fun x => x.wid = wid

/-- Change an XFER or FILL. -/
def State.updXfer (s : State) (wid : Nat) (f : Xfer → Xfer) : State :=
  { s with place := { s.place with xfers := updIf (fun x => decide (x.wid = wid)) f s.place.xfers } }

/-- Change one piece. -/
def State.updPiece (s : State) (wid idx : Nat) (f : Piece → Piece) : State :=
  s.updXfer wid fun x => { x with pieces := updIf (fun q => decide (q.idx = idx)) f x.pieces }

/-- A piece of an XFER or FILL. -/
def Xfer.piece (x : Xfer) (idx : Nat) : Option Piece := x.pieces.find? fun q => q.idx = idx

/-- Act for a piece that has started: pages that an UNMAP took afterwards still serve it (R256). -/
def State.asBegun (s : State) (x : Xfer) (q : Piece) (f : State → State) : State := s.serving (x.began q) f

/-- Count bytes that a piece did not write (R285). -/
def State.unmoved (s : State) (q : Piece) (n : Nat) : State := s.updPiece q.wid q.idx fun q => { q with lost := q.lost + n }

/-- Bytes of a piece's destination that it did not write: unspecified in device memory (R285). What host or peer memory then holds the
block does not put out. -/
def State.leftOut (s : State) (x : Xfer) (q : Piece) (off n : Nat) : State :=
  let s := s.unmoved q n
  if x.dstSpace ≠ 0 then s else s.asBegun x q fun s => s.freeRange x.wid (x.dst + off) n

/-! ### Transactions -/

/-- What a transaction's owner is known by: its Waybill, or for a move a number that no Waybill has. -/
def TxnOwner.wid : TxnOwner → Nat
  | .piece w _ => w
  | .stamp w => w
  | .move n => 2 ^ 64 + n

/-- The XFE that makes a transaction: its piece's or its move's; none for a TIMESTAMP. -/
def State.txnXfe (s : State) (o : TxnOwner) : Option Nat :=
  match o with
  | .piece w i => ((s.xferOf w).bind fun x => x.piece i).bind (·.xfe)
  | .stamp _ => none
  | .move n => (s.moveOf n).bind (·.xfe)

/-- The memory-side die that makes a transaction: its XFE's, or MS0 for a TIMESTAMP (DEDUCED, log entry 20). -/
def State.txnDie (s : State) (o : TxnOwner) : Option Nat :=
  match o with
  | .stamp _ => some 0
  | _ => (s.txnXfe o).map (· / 2)

/-- A transaction's SOURCE (R330): the XFE of its piece, the memory-side die of a move, or for a TIMESTAMP MS0 (DEDUCED, log entry
20). -/
def State.txnSource (s : State) (o : TxnOwner) : Nat :=
  match o with
  | .piece _ _ => ((s.txnXfe o).map (engSrc .xfe)).getD (srcOf 2 0)
  | .stamp _ => srcOf 2 0
  | .move n => srcOf 2 (n % 4)

/-- How a transaction ended: a response STATUS of R317, or 0x1FF for a timeout, or 0x1FE for a peer that is gone. -/
def fabStatus (st : Nat) : Nat :=
  if st = 0x1FF then stFabTimeout else if st = 3 || st = 5 || st = 0x1FE then stFabGone else stMemFault

/-- Forget a transaction: its message, if a port has not begun to send it, is not sent (R324); its tag is quarantined when asked for
(R325). -/
def State.dropTxn (s : State) (t : Txn) (quarantine : Bool) : State :=
  match t.tag with
  | none => { s with vrl := { s.vrl with txns := s.vrl.txns.filter (fun u => u ≠ t) } }
  | some k =>
    let ports := s.vrl.ports.map fun p => { p with queue := p.queue.filter fun x => x.2.2 ≠ .req k }
    ({ s with vrl := { s.vrl with
        txns := s.vrl.txns.filter (fun u => u ≠ t), quar := if quarantine then s.vrl.quar ++ [k] else s.vrl.quar,
        ports := ports } }).updPeer t.dst fun p => { p with out := p.out - 1, used := s.aon }

/-- The first failed transaction of a Waybill or move writes FAB_XACT_FAIL (R318, R330). st: as in fabStatus. -/
def State.xactFail (s : State) (key src : Nat) (part : Option Nat) (ring addr st : Nat) : State :=
  let s := if fabStatus st = stFabGone then s.bump rVrlPeerGone 1 else if fabStatus st = stFabTimeout then s.bump rVrlTimeouts 1 else s
  let n : Nat := ((s.vrl.failed.find? fun x => x.1 = key).map (·.2)).getD 0
  let rest := s.vrl.failed.filter fun x => x.1 ≠ key
  let s := { s with vrl := { s.vrl with failed := rest ++ [(key, n + 1)] } }
  if n = 0 then s.emitFor key (ev 0x0305 lvBlock part src [addr, if st = 0x1FE then 5 else if st = 0x1FF then 0xFF else st, ring, 1]) else s

/-- Bytes that a piece's transaction did not bring to their destination: on the fabric all bytes of the piece count, for what its WRITEs
did to them is not known (R285, R325; DEDUCED from the worked example of chapter 09, log entry 49). -/
def State.txnLost (s : State) (wid idx : Nat) (u : Txn) : State :=
  match s.xferOf wid with
  | none => s
  | some x => match x.piece idx with
    | none => s
    | some q => if x.dstSpace = 2 then s.updPiece wid idx fun q => { q with lost := q.len } else s.leftOut x q u.place u.len

/-- A Surveyor's move has failed with a transaction; the first one counts (R274, R311). -/
def State.moveFailed (s : State) (n st : Nat) : State :=
  let ms := updIf (fun (m : Move) => decide (m.page = n)) (fun m => { m with failed := some (m.failed.getD st) }) s.place.moves
  { s with place := { s.place with moves := ms } }

/-- The owner of a failed transaction notes the failure: a Waybill ends with it, and a move fails (R274, R285, R317, R318). -/
def State.txnFailed (s : State) (t : Txn) (st : Nat) : State :=
  let wid := t.owner.wid
  match t.owner with
  | .move n =>
    (s.xactFail wid (s.txnSource t.owner) (some (n / 2 ^ 31)) 0xFFFFFFFF (t.dst * 2 ^ 48 + t.off) st).moveFailed n st
  | .stamp w =>
    match s.wb w with
    | none => s
    | some x =>
      let s := s.xactFail wid (s.txnSource t.owner) (some x.part) x.ring (t.dst * 2 ^ 48 + t.off) st
      s.endWb w (fabStatus st) 0 0
  | .piece w i =>
    match s.wb w with
    | none => s
    | some x =>
      let s := s.xactFail wid (s.txnSource t.owner) (some x.part) x.ring (t.dst * 2 ^ 48 + t.off) st
      let s := s.updWb wid fun w =>
        if fabStatus st = stFabGone then { w with fabGone := true }
        else if fabStatus st = stFabTimeout then { w with fabTime := true }
        else { w with linkBad := true }
      (s.updPiece w i fun q => { q with failed := true }).txnLost w i t

/-- A transaction that waits ends unsent with its failed owner: with FAB_PEER_GONE when its peer is gone or came up anew, which counts;
else it is forgotten (R324, R333; DESIGN CHOICE: log entry 49). -/
def State.endUnsent (s : State) (u : Txn) : State :=
  let fixed := (s.vrl.incs.find? fun x => x.1 = u.owner.wid ∧ x.2.1 = u.dst).map (·.2.2)
  let gone := (s.peer u.dst).any fun p => p.st = .gone || (p.st = .present && fixed.any (· ≠ p.inc))
  let s := s.dropTxn u false
  if gone then s.txnFailed u 0x1FE
  else match u.owner with
    | .piece w i => s.txnLost w i u
    | _ => s

/-- Transactions end without a good answer, each for itself; what their owners have not sent yet is not sent (R302, R321). One that has
ended with those before it is left. -/
def State.failTxns (s : State) (l : List Txn) (st : Nat) : State :=
  let s := l.foldl (fun s t =>
    if s.vrl.txns.contains t then (s.dropTxn t (st = 0x1FF || fabStatus st = stFabGone)).txnFailed t st else s) s
  let owners := (l.map (·.owner)).eraseDups
  (s.vrl.txns.filter fun u => !u.sent && owners.contains u.owner).foldl (fun s u => if s.vrl.txns.contains u then s.endUnsent u else s) s

/-- A transaction ends without a good answer. -/
def State.failTxn (s : State) (t : Txn) (st : Nat) : State := s.failTxns [t] st

/-- Transactions and collectives' peers: an entry becomes GONE or takes a new INC, and PEER_CHANGE is written (R321, R330). -/
def State.peerEvent (s : State) (ep kind old new ended : Nat) : State :=
  if bit 1 (s.reg rVrlMgtCfg) then s.emit (ev 0x0303 lvChip none 0 [ep, kind, old, new, ended]) else s

/-- An entry becomes GONE: transactions to it end, all that are outstanding or the one that was answered so (R321, R330). -/
def State.peerGone (s : State) (ep : Nat) (l : List Txn) (st : Nat) : State :=
  match s.peer ep with
  | none => s.failTxns l st
  | some p =>
    let s := s.updPeer ep fun p => { p with st := .gone }
    let s := if p.st = .present then s.peerEvent ep 1 p.inc 0 l.length else s
    s.failTxns l st

/-- Transactions outstanding to an endpoint. -/
def State.txnsTo (s : State) (ep : Nat) : List Txn := s.vrl.txns.filter fun t => decide (t.dst = ep) && t.tag.isSome

/-- The message of a request (R306, R307). -/
def State.txnMsg (s : State) (t : Txn) : Msg :=
  { dst := t.dst, src := s.vrl.ep, tag := t.tag.getD 0, op := t.op, vc := 0, len := t.len, inc := t.inc.getD 0,
    poison := t.poison, status := 0, off := t.off, mdata := 0, body := t.data }

/-- Change one transaction. -/
def State.updTxn (s : State) (t : Txn) (f : Txn → Txn) : State :=
  { s with vrl := { s.vrl with txns := updIf (fun u => decide (u = t)) f s.vrl.txns } }

/-- A tag that is neither in use nor quarantined, counting on from the last one taken (R311). -/
def State.freeTag (s : State) : Option Nat :=
  ((List.range 65536).map fun i => (s.vrl.nextTag + i) % 65536).find? fun k =>
    !s.vrl.quar.contains k && !s.vrl.txns.any fun t => t.tag = some k

/-- Has the XFE of a transaction as many outstanding as it may (R311)? -/
def State.xfeFull (s : State) (t : Txn) : Bool :=
  let x := s.txnXfe t.owner
  x.isSome && decide (4096 ≤ (s.vrl.txns.filter fun u => u.tag.isSome && decide (s.txnXfe u.owner = x)).length)

/-- A transaction has its endpoint resolved; when no entry can be had its wait is counted, once (R321, R322). -/
def State.resolveFor (s : State) (t : Txn) : State :=
  let s := s.resolve t.dst
  if (s.peer t.dst).isSome || t.full then s else (s.bump rVrlPeerFull 1).updTxn t fun t => { t with full := true }

/-- Give a transaction its INC and tag, when its peer is present and the limits leave room (R311, R321, R324). One that a Surveyor's pool
sends to an endpoint that none can have ends as one whose peer is gone (R309; DESIGN CHOICE: log entry 95). -/
def State.armTxn (s : State) (t : Txn) : State :=
  let wid := t.owner.wid
  let fixed := (s.vrl.incs.find? fun x => x.1 = wid ∧ x.2.1 = t.dst).map (·.2.2)
  if t.dst = s.vrl.ep && s.vrl.ep ≠ 0 then
    match if s.xfeFull t then none else s.freeTag with
    | none => s
    | some k =>
      let s := { s with vrl := { s.vrl with nextTag := (k + 1) % 65536 } }
      s.updTxn t fun t => { t with tag := some k, inc := some s.vrl.inc }
  else if t.dst = 0 || t.dst = 0xFFFF then s.failTxn t 0x1FE
  else match s.peer t.dst with
    | some p =>
      match p.st with
      | .resolving => s
      | .gone => if fixed.isSome then s.failTxn t 0x1FE else s.resolveFor t
      | .present =>
        if fixed.any (· ≠ p.inc) then s.failTxn t 0x1FE
        else if s.xfeFull t then s
        else match s.freeTag with
          | none => s
          | some k =>
            let incs := if fixed.isSome then s.vrl.incs else s.vrl.incs ++ [(wid, t.dst, p.inc)]
            let s := { s with vrl := { s.vrl with nextTag := (k + 1) % 65536, incs := incs } }
            let s := s.updPeer t.dst fun p => { p with out := p.out + 1, used := s.aon }
            s.updTxn t fun t => { t with tag := some k, inc := some p.inc }
    | none => s.resolveFor t

/-- POISON bits of n bytes of device memory at an address (R306, R320). -/
def State.poisonBits (s : State) (a n : Nat) : Nat :=
  ((List.range 4).map fun i => if 64 * i < n && s.poisonedIn (a + 64 * i) (min 64 (n - 64 * i)) then 2 ^ i else 0).sum

/-- Slots of the whole response to a request (R305, R307). -/
def rspSlots (t : Txn) : Nat := 2 + (if t.op = 1 then ceilDiv t.len 16 else if t.op = 2 then 0 else 1)

/-- Has a port's response buffer room for the whole response to one more request (R303, R305)? -/
def State.rspRoom (s : State) (n : Nat) (t : Txn) : Bool :=
  decide (((s.vrl.txns.filter fun u => decide (u.port = some n)).map rspSlots).sum + rspSlots t ≤ 4096)

/-- A transaction as it is sent: a WRITE of a Surveyor's move takes the page's bytes and marks as they are (R222, R260). -/
def State.txnFilled (s : State) (t : Txn) : Txn :=
  match t.owner with
  | .move n => if t.op = 2 then
      { t with data := s.memRead (n * 2 ^ 21 + t.place) t.len, poison := s.poisonBits (n * 2 ^ 21 + t.place) t.len } else t
  | _ => t

/-- The route of a transaction to its port passes through a fenced die: it completes with poison, and a move fails (R519; DESIGN
CHOICE: log entry 83). -/
def State.txnCut (s : State) (t : Txn) (way : List (Nat × Nat)) : State :=
  let s := s.dropTxn t t.sent
  match t.owner with
  | .stamp w => s.noteWay w way
  | .piece w i => (if t.op = 1 then s.txnLost w i t else s).noteWay w way
  | .move n => s.moveFailed n 0x1FF

/-- Whose turn it is at an XFE: the Surveyor's moves' or the pieces', with the bytes left of the turn. The pieces begin (R287; DESIGN
CHOICE: log entry 96). -/
def State.turnOf (s : State) (i : Nat) : Bool × Nat := ((s.vrl.turns.find? fun x => x.1 = i).map (·.2)).getD (false, 65536)

/-- Is a transaction one of a Surveyor's move; of a demand return (R287)? -/
def State.ofMove (s : State) (t : Txn) : Option Bool :=
  match t.owner with
  | .move n => some ((s.moveOf n).any fun m => m.cause = .demand)
  | _ => none

/-- Transactions of pieces and of moves, alternating 64 KiB of each (R287). -/
def mergeTurns : Nat → Bool → Nat → List Txn → List Txn → List Txn
  | 0, _, _, p, m => p ++ m
  | _ + 1, _, _, [], m => m
  | _ + 1, _, _, p, [] => p
  | k + 1, turn, left, a :: p, b :: m =>
    if left = 0 then mergeTurns k (!turn) 65536 (a :: p) (b :: m)
    else if turn then b :: mergeTurns k turn (left - b.len) (a :: p) m
    else a :: mergeTurns k turn (left - a.len) p (b :: m)

/-- Transactions in the order in which the XFEs serve them: the Surveyor's demand returns first, then turns of 64 KiB (R287). How two
XFEs share a port is the list's order (DESIGN CHOICE: log entry 96). -/
def State.inTurn (s : State) (l : List Txn) : List Txn :=
  if l.all fun t => (s.ofMove t).isNone then l
  else ((l.map fun t => s.txnXfe t.owner).eraseDups).flatMap fun x =>
    let mine := l.filter fun t => s.txnXfe t.owner = x
    let moves := mine.filter fun t => s.ofMove t = some false
    let pieces := mine.filter fun t => s.ofMove t = none
    let (turn, left) := (x.map s.turnOf).getD (false, 65536)
    (mine.filter fun t => s.ofMove t = some true) ++ mergeTurns (2 * mine.length + 2) turn left pieces moves

/-- A transaction that is sent takes its bytes of its XFE's turn; when the others have nothing to send, the turn is its own (R287). -/
def State.takeTurn (s : State) (t : Txn) : State :=
  match s.txnXfe t.owner, s.ofMove t with
  | some i, k =>
    if k = some true then s
    else
      let (turn, left) := s.turnOf i
      let now := if k.isSome = turn && decide (0 < left) then (turn, left - t.len) else (k.isSome, 65536 - t.len)
      { s with vrl := { s.vrl with turns := (s.vrl.turns.filter fun x => x.1 ≠ i) ++ [(i, now)] } }
  | none, _ => s

/-- Send a transaction that has a tag: back to the module itself, or on a port with room for its response (R305, R312, R315). One whose
peer no longer has the INC it was to carry ends unsent (R324). -/
def State.sendTxn (s : State) (t : Txn) : State :=
  let u := s.txnFilled t
  if t.dst = s.vrl.ep then
    (({ s with vrl := { s.vrl with loop := s.vrl.loop ++ [msgBytes (s.txnMsg u)] } }).updTxn t fun _ => { u with sent := true }).takeTurn t
  else if !((s.peer t.dst).any fun p => decide (p.st = .present ∧ t.inc = some p.inc)) then s.failTxn t 0x1FE
  else match s.routePort (s.txnDie t.owner) t.dst t.off with
    | none => s
    | some n =>
      let way := ((s.txnDie t.owner).map fun d => relays (2, d) (3, n / 25)).getD []
      if way.any fun d => s.fenced d.1 d.2 then s.txnCut t way
      else if !s.rspRoom n t then s
      else ((s.updTxn t fun _ => { u with sent := true, port := some n }).takeTurn t).queueMsg n 0 (msgBytes (s.txnMsg u))
        (match t.tag with
         | some k => .req k
         | none => .none)

/-- Move every transaction on that can move (R287, R305, R311, R315, R321, R324). -/
def State.pump (s : State) : State :=
  let s := (s.inTurn (s.vrl.txns.filter fun t => t.tag.isNone)).foldl (fun s t => if s.vrl.txns.contains t then s.armTxn t else s) s
  (s.inTurn (s.vrl.txns.filter fun t => t.tag.isSome && !t.sent)).foldl (fun s t => if s.vrl.txns.contains t then s.sendTxn t else s) s

/-- Cut a fabric range into transactions of at most 256 bytes within 4 KiB blocks: offsets from its start and lengths
(R311). -/
def cutFabric (off : Nat) : Nat → Nat → Nat → List (Nat × Nat)
  | 0, _, _ => []
  | k + 1, o, n =>
    if n = 0 then []
    else
      let l := min n (min 256 (4096 - (off + o) % 4096))
      (o, l) :: cutFabric off k (o + l) (n - l)

/-- Take a message out of the first inbox that holds one: of a port, or what the module turned back to itself. -/
def takeFirst (f : List Byte → Bool) : List (List Byte) → Option (List Byte × List (List Byte))
  | [] => none
  | b :: r => if f b then some (b, r) else (takeFirst f r).map fun x => (x.1, b :: x.2)

/-- Take the first message of an OP that has arrived at a port (or been turned back); its slots are freed for the sender
(R299, R303). A collective message of KIND k is picked by its KIND as well. -/
def State.takeMsg (s : State) (port : Option Nat) (f : Msg → Bool) : Option (Msg × State) :=
  match port with
  | none =>
    (takeFirst (fun b => f (msgOf b)) s.vrl.loop).map fun x => (msgOf x.1, { s with vrl := { s.vrl with loop := x.2 } })
  | some n =>
    match s.port n with
    | none => none
    | some p => (takeFirst (fun b => f (msgOf b)) p.inbox).map fun x =>
        let m := msgOf x.1
        (m, s.updPort n fun p => { p with inbox := x.2, owed := addAt p.owed ((opVc m.op).getD m.vc) (x.1.length / 16) })

/-- Take a request or a response by its OP; management messages are taken in the order in which they came (R323). -/
def State.takeOp (s : State) (port : Option Nat) (op : Nat) : Option (Msg × State) := s.takeMsg port fun m => m.op = op

/-- Is a message a RESOLVE_RSP or a NOTICE? They tell of the endpoint in the low half-word of MDATA (R326). -/
def aboutPeer (m : Msg) : Bool := m.op = 0x23 || m.op = 0x24

/-- Take the oldest management message of a port, when it has an OP. Those about one endpoint are taken in the order in which they
arrived, on whatever ports (R323). -/
def State.takeMgt (s : State) (port : Option Nat) (op : Nat) : Option (Msg × State) :=
  match s.takeMsg port fun m => decide (0x20 ≤ m.op ∧ m.op ≤ 0x26) with
  | some (m, t) =>
    if m.op ≠ op then none
    else if !aboutPeer m then some (m, t)
    else match t.vrl.mgtOrder.find? fun x => x.2 = m.mdata % 65536 with
      | none => some (m, t)
      | some x =>
        if some x.1 ≠ port then none
        else some (m, { t with vrl := { t.vrl with mgtOrder := t.vrl.mgtOrder.erase x } })
  | none => none

/-- What waits in a port's inbox is lost. -/
def State.dropInbox (s : State) (n : Nat) : State :=
  let s := s.updPort n fun p => { p with inbox := [], rxPart := [] }
  { s with vrl := { s.vrl with mgtOrder := s.vrl.mgtOrder.filter (fun x => x.1 ≠ n) } }

/-- The I/O die at which a message arrives; what the module turned back to itself is taken to arrive at IO0 (DESIGN CHOICE: log
entry 83). -/
def portDie (port : Option Nat) : Nat × Nat := (3, (port.map (· / 25)).getD 0)

/-- An inbound message is dropped and counted (R319, R326, R327). -/
def State.misroute (s : State) : State := s.bump rVrlMisroute 1

/-- Does a request breach R306 to R308? -/
def malformed (m : Msg) : Bool :=
  let atomic := decide (3 ≤ m.op ∧ m.op ≤ 5)
  opVc m.op ≠ some m.vc || m.len = 0 || decide (256 < m.len) || m.off % 4096 + m.len > 4096
    || (atomic && (m.len ≠ 8 || m.off % 8 ≠ 0)) || m.status ≠ 0 || m.mdata ≠ 0

/-- The enabled window that permits a request (R319). -/
def State.windowFor (s : State) (m : Msg) : Option Nat :=
  (List.range 64).find? fun k =>
    let hi := s.reg (rVrlWinHi k)
    let off := (s.reg (rVrlWinLo k)).toNat + 2 ^ 32 * bits 15 0 hi
    let n := s.fld (rVrlWinPages k) 19 0 * 2 ^ 21
    let eps := s.reg (rVrlWinEps k)
    bit 31 hi && decide (off ≤ m.off ∧ m.off + m.len ≤ off + n) && decide (bits 15 0 eps ≤ m.src ∧ m.src ≤ bits 31 16 eps)
      && (if m.op = 1 then bit 24 hi else if m.op = 2 then bit 25 hi else bit 26 hi)

/-- The fabric-lent page at a module fabric offset (R278, R279). -/
def State.fabPage (s : State) (off : Nat) : Option Page :=
  s.place.pages.find? fun g => (match g.lent with
    | .fabric o _ => decide (o = off / 2 ^ 21 * 2 ^ 21)
    | _ => false) && !g.busy

/-- A denied request is counted, with what INBOUND_DENIED reports of it (R319, R330). -/
def State.deny (s : State) (m : Msg) : State :=
  let s := s.bump rVrlDenied 1
  { s with vrl := { s.vrl with denied := s.vrl.denied + 1, lastSrc := m.src, lastOff := m.off } }

/-- The checks of an inbound request, in order: the STATUS that answers it, or the device address of its page's range
(R319). -/
def State.inbound (s : State) (m : Msg) : (Nat ⊕ Nat) × State :=
  if m.inc ≠ s.vrl.inc then (.inl 3, s)
  else if malformed m then (.inl 4, s)
  else match s.windowFor m with
    | none => (.inl 2, s.deny m)
    | some k => match s.fabPage m.off with
      | none => (.inl 1, s)
      | some g =>
        if g.part ≠ s.fld (rVrlWinHi k) 20 16 then (.inl 2, s.deny m)
        else (.inr (g.addr + m.off % 2 ^ 21), s)

/-- An answer leaves on the port on which its request came while that is in service, else by the hash; one to the module itself
is turned back (R312, R315). OFFSET of a response is written as 0 (DESIGN CHOICE, log entry 19). -/
def State.answer (s : State) (port : Option Nat) (m : Msg) (op status poison : Nat) (body : List Byte) : State :=
  let r : Msg := { dst := m.src, src := s.vrl.ep, tag := m.tag, op := op, vc := 1,
                   len := if op = 9 then 0 else if op = 10 then 8 else m.len, inc := s.vrl.inc, poison := poison, status := status, off := 0, mdata := 0, body := body }
  match port with
  | none => { s with vrl := { s.vrl with loop := s.vrl.loop ++ [msgBytes r] } }
  | some n =>
    if s.upPorts.contains n then s.queueMsg n 1 (msgBytes r) .none
    else match s.routePort none r.dst r.off with
      | some k => s.queueMsg k 1 (msgBytes r) .none
      | none => s

/-- Write data whose 64-byte chunks may be poisoned (R320). -/
def State.writeChunks (s : State) (a : Nat) (bs : List Byte) (poison : Nat) : State :=
  let s := s.memWrite a bs
  (List.range 4).foldl (fun s i =>
    if 64 * i < bs.length ∧ poison.testBit i then s.markAll (linesOf (a + 64 * i) (min 64 (bs.length - 64 * i))) true else s) s

/-- A port leaves service for a state: its DATA flits are dropped and the transactions whose requests lay in them sent again or
ended, and what was queued leaves by other ports (R302). -/
def State.portDrop (s : State) (n state : Nat) : State :=
  match s.port n with
  | none => s
  | some p =>
    let lost := p.unacked.flatMap (·.tags) ++ p.txTags.filterMap fun x => x.1.tag
    let s := s.updPort n fun p => { p with
      state := state, locked := false, lanes := 0, unacked := [], queue := [], txPart := [], txTags := [], rxPart := [],
      nakOut := false, badRun := 0, replays := 0, uncorr := 0 }
    let s := lost.eraseDups.foldl (fun s k =>
      match s.vrl.txns.find? fun t => t.tag = some k with
      | none => s
      | some t =>
        if t.op = 1 && !t.again then
          let s := s.updPeer t.dst fun q => { q with out := q.out - 1 }
          ({ s with vrl := { s.vrl with quar := s.vrl.quar ++ [k] } }).updTxn t
            fun t => { t with tag := none, inc := none, sent := false, again := true, port := none }
        else s.failTxn t 0x1FF) s
    let s := p.queue.foldl (fun s x => match x.2.2 with
      | .req k => match s.vrl.txns.find? fun t => t.tag = some k with
        | some t => s.updTxn t fun t => { t with sent := false, port := none }
        | none => s
      | .coll o => match s.collPort o with
        | some q => if s.routeOut (3, o.cle) (3, q / 25) then s else s.queueMsg q x.1 x.2.1 x.2.2
        | none => { s with colls := { s.colls with owed := s.colls.owed ++ [o] } }
      | .none =>
        let m := msgOf x.2.1
        match s.routePort none m.dst m.off with
        | some q => if m.op = 0x20 then s else s.queueMsg q x.1 x.2.1 .none
        | none => s) s
    s.pump

/-- A port goes down with a cause, and trains again while it is enabled (R328). -/
def State.portDown (s : State) (n cause : Nat) : State :=
  match s.port n with
  | none => s
  | some p =>
    let s := (s.bump (rVrlDowns n) 1).emit (ev 0x0300 lvBlock none (srcOf 10 n) [cause, p.replays, p.uncorr])
    (s.updPort n fun p => { p with cause := cause }).portDrop n (if p.en then 3 else 0)

/-- Start the replay of everything not acknowledged; when a flit has had its 16 replays the port goes down (R301). -/
def State.replay (s : State) (n : Nat) : State :=
  match s.port n with
  | none => s
  | some p =>
    if p.unacked.isEmpty then s
    else if p.unacked.any fun f => 16 ≤ f.replays then s.portDown n 3
    else
      let again := p.unacked.map fun (f : TxFlit) => { f with replays := f.replays + 1 }
      let s := s.updPort n fun p => { p with replays := p.replays + 1, unacked := again }
      p.unacked.foldl (fun s f => s.sendData n f.seq f.bytes) (s.bump (rVrlReplays n) 1)

/-- ACK and credit totals of a good flit are taken (R299, R301). -/
def State.takeAck (s : State) (n : Nat) (f : List Byte) : State :=
  let ack := rdBits f 0 23 12
  s.updPort n fun p =>
    let now := (List.range 4).map fun i => rdN f (4 + i) 1
    let held := (p.held.zip (now.zip p.seen)).map fun (x : Nat × Nat × Nat) => x.1 + (x.2.1 + 256 - x.2.2) % 256
    { p with unacked := p.unacked.filter (fun x => decide (2048 ≤ (ack + 4096 - x.seq) % 4096)), held := held, seen := now }

/-- Is a message one that the module sends to the switch and never takes (R326)? -/
def outOnly (m : Msg) : Bool := m.op = 0x20 || m.op = 0x22 || m.op = 0x25

/-- Receive a flit of one kind at a port: ACK and credits are taken where the CRC is good; a bad one is counted, and a DATA flit that is
bad or out of order is answered with one NAK; eight bad ones in a row take the port down (R297 to R301). -/
def State.flitIn (s : State) (n : Nat) (f : Flit) (kind : Nat) : State :=
  match s.port n with
  | none => s
  | some p =>
    if !p.locked then s
    else
      let s := (s.bump64 (rVrlFecCorrLo n) f.corr).bump (rVrlFecUncorr n) f.uncorr
      let s := s.updPort n fun p => { p with uncorr := p.uncorr + f.uncorr }
      let nak (s : State) : State := if p.nakOut then s else (s.updPort n fun p => { p with nakOut := true }).sendOther n 2
      let s := if crcGood f then s.takeAck n f.bytes else s.bump (rVrlCrcErr n) 1
      if !flitGood f then
        let s := s.updPort n fun p => { p with badRun := p.badRun + 1 }
        if 8 ≤ p.badRun + 1 then s.portDown n 2 else (if kind = 1 then nak s else s).pumpPort n
      else if rdBits f.bytes 0 25 24 ≠ kind then s
      else
        let s := s.updPort n fun p => { p with badRun := 0 }
        if kind = 1 then
          if rdBits f.bytes 0 11 0 = (p.rxSeq + 1) % 4096 then
            let (ms, rest) := takeMsgs 1024 (p.rxPart ++ (f.bytes.drop 8).take 240)
            let known := ms.filter fun b => (opVc (msgOf b).op).isSome && !outOnly (msgOf b)
            let lost := ms.filter fun b => (opVc (msgOf b).op).isNone || outOnly (msgOf b)
            let s := (ms.filter fun b => outOnly (msgOf b)).foldl (fun s _ => s.misroute) s
            let s := s.updPort n fun p => { p with
              rxSeq := (p.rxSeq + 1) % 4096, nakOut := false, rxPart := rest, inbox := p.inbox ++ known,
              owed := lost.foldl (fun o b => addAt o (msgOf b).vc (b.length / 16)) p.owed }
            let told := (known.map msgOf).filter aboutPeer
            let s := { s with vrl := { s.vrl with mgtOrder := s.vrl.mgtOrder ++ told.map fun (m : Msg) => (n, m.mdata % 65536) } }
            ((s.bump64 (rVrlRxFlitsLo n) 1).sendOther n 0).pumpPort n
          else nak s
        else if kind = 2 then (s.replay n).pumpPort n
        else s.pumpPort n

end Sys2Proof.Machine
end

