-- ==== Sys2Proof/Machine/CollDesc.lean ====
section
/-! DEFINITION. The fields of a collective descriptor (R334), the size of its groups (R336), and the staging that a collective demands
(R346). -/

namespace Sys2Proof.Machine

open Sys2Proof

/-- OP of a collective descriptor (R334). -/
def cdOp (d : List Byte) : Nat := rdBits d 0 3 0
/-- REDOP -/
def cdRedop (d : List Byte) : Nat := rdBits d 0 7 4
/-- DTYPE -/
def cdDtype (d : List Byte) : Nat := rdBits d 0 11 8
/-- WIRE1 -/
def cdWire1 (d : List Byte) : Nat := rdBits d 0 13 12
/-- CONSUME is eager. -/
def cdEager (d : List Byte) : Bool := decide (rdBits d 0 14 14 = 1)
/-- STREAM -/
def cdStream (d : List Byte) : Bool := decide (rdBits d 0 15 15 = 1)
/-- CLE_SEL -/
def cdSel (d : List Byte) : Nat := rdBits d 0 18 16
/-- NLOCAL -/
def cdLocals (d : List Byte) : Nat := rdBits d 0 21 19
/-- COLL_ID -/
def cdId (d : List Byte) : Nat := rdBits d 0 47 32
/-- WIRE_ID -/
def cdWireId (d : List Byte) : Nat := rdBits d 0 63 48
/-- COUNT -/
def cdCount (d : List Byte) : Nat := rdN d 8 4
/-- SEQ -/
def cdSeq (d : List Byte) : Nat := rdN d 12 4
/-- NMEM -/
def cdMembers (d : List Byte) : Nat := rdN d 0x10 2
/-- CHUNK, in units of 256 elements -/
def cdChunk (d : List Byte) : Nat := rdN d 0x14 2
/-- GRANTS -/
def cdGrants (d : List Byte) : Nat := rdBits d 0x10 51 48
/-- MEMBERS -/
def cdTable (d : List Byte) : Nat := rdN d 0x18 8
/-- IN k -/
def cdIn (d : List Byte) (k : Nat) : Nat := rdN d (0x20 + 8 * k) 8
/-- OUT -/
def cdOut (d : List Byte) : Nat := rdN d 0x40 8
/-- COUNTS -/
def cdCounts (d : List Byte) : Nat := rdN d 0x48 8
/-- OPEN_SEM, OUT_SEM and READY_SEM with their enables: index when enabled. -/
def cdSem (d : List Byte) (en lo : Nat) : Option Nat :=
  if rdBits d 0x50 en en = 1 then some (rdBits d 0x50 (lo + 15) lo) else none
/-- READY_VALUE -/
def cdReadyValue (d : List Byte) : Nat := rdN d 0x58 8
/-- OUT_ADD -/
def cdOutAdd (d : List Byte) : Nat := rdN d 0x60 4

/-- Members of one group. -/
def groupSize (t : List (Nat × Nat)) : Nat := (t.filter fun x => x.2 = 0).length

/-- Wire bytes of one full chunk in the widest format that a collective carries between modules (R337, R342, R346); none are carried
with one member (DEDUCED: log entry 91). -/
def widestOf (d : List Byte) (t : List (Nat × Nat)) : Nat :=
  let ch := 256 * cdChunk d
  let s := groupSize t
  -- members of one group exchange data in the format WIRE1: not of an ALL_GATHER over several groups
  let near := decide (1 < s) && !(cdOp d = 3 && decide (s < t.length))
  if t.length ≤ 1 then 0
  else if cdDtype d ≠ 2 && cdWire1 d = 1 && near then 2 * ch
  else 33 * ch / 32

/-- Staging demand in bytes (R346). -/
def stagingOf (d : List Byte) (t : List (Nat × Nat)) : Nat := cdGrants d * widestOf d t * (if cdOp d = 4 then 16 else 2)

/-- Free staging bytes of a CLE (R346). -/
def State.stageFree (s : State) (i : Nat) : Nat :=
  67108864 - ((s.colls.list.filter fun c => c.cle = i && c.opened).map fun c => stagingOf c.desc c.table).sum

/-- Has a CLE room to open a collective: fewer than 32 open, and its staging free (R346)? -/
def State.cleRoom (s : State) (c : Coll) (i : Nat) : Bool :=
  decide ((s.colls.list.filter fun x => x.cle = i && x.opened).length < 32) && decide (stagingOf c.desc c.table ≤ s.stageFree i)

end Sys2Proof.Machine
end

