-- ==== Sys2Proof/Machine/PowerOps.lean ====
section
/-! DEFINITION. The power governor: what each source requests, throttle steps, the ramp's allowance and ballast (R443 to R450,
R453). Currents in mA, voltages in mV. -/

namespace Sys2Proof.Machine

open Sys2Proof

/-- The step that the protective sources request for the C domain of a compute die (R445, R450). -/
def State.protReq (s : State) (d : Nat) : Nat :=
  let p := s.pwr
  let b := if p.brown.isSome then 4 else 0
  let i := if p.ilim.isSome then 4 else 0
  let h := ((p.hot.find? fun x => x.die = d).map (·.step)).getD 0
  let f := if p.flowAct then 4 else 0
  let l := if p.leakIn && bit 1 (s.eff rPwrCfg) then 7 else 0
  let c := if p.sensor.contains d then 4 else 0
  [b, i, p.limit, h, f, l, c].foldl max 0

/-- The highest step requested for a die, the driver's cap included (R31, R445, R453). -/
def State.target (s : State) (d : Nat) : Nat := max (s.protReq d) (s.effFld rPwrCap 2 0)

/-- Does a protective source hold a step above 0? -/
def State.protecting (s : State) : Bool := (List.range 4).any fun d => decide (0 < s.protReq d)

/-- The step index of a die. -/
def State.stepOf (s : State) (d : Nat) : Nat := s.pwr.steps.getD d 0

/-- Current in mA that a power in mW takes at the input's voltage. -/
def State.amps (s : State) (mw : Nat) : Nat := ceilDiv (mw * 1000) s.pwr.vin

/-- Rise when n C domains take one step lower: 305 W of dynamic power times 2/16 each (R442, R444). -/
def State.stepRise (s : State) (n : Nat) : Nat := s.amps (n * 38125)

/-- Requests that have risen take effect at once; after a protective rise the allowances restart at zero and ballast is off
(R445, R446, R449). -/
def State.raiseSteps (s : State) : State :=
  let up := (List.range 4).any fun d => !s.fenced 1 d && decide (s.stepOf d < s.protReq d)
  let steps := (List.range 4).map fun d => if s.fenced 1 d then 0 else max (s.stepOf d) (s.target d)
  let p := { s.pwr with steps := steps }
  let p := if up then { p with up := 0, down := 0 } else p
  let p := if s.protecting then { p with ballast := [] } else p
  { s with pwr := p }

/-- Is there ballast on an MXE? -/
def State.ballastOn (s : State) (i : Nat) : Bool := s.pwr.ballast.any fun b => b.mxe = i

/-- May ballast run on an MXE: BALLAST is 1, no protective source acts, the instance is idle, available, not fenced, and its
die's C domain runs (R449)? -/
def State.mayBallast (s : State) (i : Nat) : Bool :=
  bit 0 (s.eff rPwrCfg) && !s.protecting && (s.useOf .mxe i).isNone && s.avail .mxe i && !s.fenced 1 (i / 4)
  && bit (5 + i / 4) (s.reg rClkRun)

/-- Ballast is held on an instance whose work has ended, to be lowered at the ramp's rate (R449). -/
def State.holdBallast (s : State) (i : Nat) : State :=
  if s.mayBallast i && !s.ballastOn i then
    { s with pwr := { s.pwr with ballast := s.pwr.ballast ++ [{ mxe := i, since := s.aon, lower := true }] } }
  else s

/-- Draw of ballast on one MXE, in mW (R449). -/
def State.ballastWatts (s : State) : Nat := 1000 * s.effFld rPwrDefaultW 7 0

/-- The lowest step from st on at which a rise of a full-rate current fits the allowance (R449). -/
def rampStep (full up : Nat) : Nat → Nat → Nat
  | 0, st => st
  | n + 1, st => if full * (16 - 2 * st) / 16 ≤ up then st else rampStep full up n (st + 1)

/-- Runs start on instances that carry no ballast, at the step that the allowance permits (R446, R449). -/
def State.rampStart (s : State) (k : EngKind) (insts : List Nat) (hint : Nat) : State :=
  let w := if hint ≠ 0 then hint else
    match k with
    | .mxe => s.effFld rPwrDefaultW 7 0 | .vxe => s.effFld rPwrDefaultW 15 8 | _ => s.effFld rPwrDefaultW 23 16
  (List.range 4).foldl (fun s d =>
    let n := (insts.filter fun i => decide ((dieOf k i).2 = d)).length
    let full := s.amps (1000 * w * n)
    let st := rampStep full s.pwr.up (7 - s.stepOf d) (s.stepOf d)
    { s with pwr := { s.pwr with steps := s.pwr.steps.set d st, up := s.pwr.up - full * (16 - 2 * st) / 16 } }) s

/-- A brown-out whose ramp is over is reported (R446, R453, R460). -/
def State.brownReport (s : State) : State :=
  match s.pwr.brownEnd with
  | none => s
  | some (lowest, cycles, restarts) =>
    if (List.range 4).any fun d => decide (s.target d < s.stepOf d) then s
    else
      let p := { s.pwr with brownEnd := none }
      ({ s with pwr := p }).emit (ev 0x0501 lvChip none 0 [lowest, cycles, restarts])

/-- The input's voltage and current are measured (R450, R462). -/
def State.measure (s : State) (iin vin : Nat) : State :=
  let br := s.pwr.brown.map fun (b : Brown) => { b with lowest := min b.lowest vin }
  let low (e : IlimEp) : Option Nat := if iin * 10 < 9000 * s.effFld rPwrIlim 6 0 then e.low <|> some s.aon else none
  let il := s.pwr.ilim.map fun (e : IlimEp) =>
    if e.peak < iin then { e with peak := iin, vin := vin, low := low e } else { e with low := low e }
  let s := { s with pwr := { s.pwr with iin := iin, vin := vin, brown := br, ilim := il } }
  let v := min (vin / 10) 0xFFFF
  let i := min (iin / 10) 0xFFFF
  let s := s.setFld rPwrVin 15 0 v
  let s := if v < s.fld rPwrVin 31 16 then s.setFld rPwrVin 31 16 v else s
  let s := s.setFld rPwrIin 15 0 i
  if s.fld rPwrIin 31 16 < i then s.setFld rPwrIin 31 16 i else s

/-- The field of PWR_DEFAULT_W for a kind. -/
def State.defaultW (s : State) : EngKind → Nat
  | .mxe => s.effFld rPwrDefaultW 7 0 | .vxe => s.effFld rPwrDefaultW 15 8 | .cve => s.effFld rPwrDefaultW 23 16 | _ => 0

/-- The rise that a Consist's hints predict, before the cap: the sum of N_K × W_K (R448). -/
def State.riseOf (s : State) (x : Predict) : Nat :=
  (x.terms.map fun t =>
    let us := s.usable x.part t.1
    let idle := us.filter fun i => match s.useOf t.1 i with | some (.running _) => false | _ => true
    min t.2.1 idle.length * (t.2.2.map fun w => if w = 0 then s.defaultW t.1 else w).foldl max 0).sum

/-- Sum of the predicted rises in W: those of the Consists still predicted, in order of acceptance, each capped so that the
measured draw plus all stays within PWR_LIMIT.W (R448). -/
def State.predicted (s : State) : Nat :=
  (s.pwr.predicts.filter (·.live)).foldl (fun n x => n + min (s.riseOf x) (s.effFld rPwrLimit 15 0 - (s.pwr.pMeas + n))) 0

end Sys2Proof.Machine
end

