-- ==== Sys2Proof/Machine/SchedOps.lean ====
section
/-! DEFINITION. Shared operations of the Consist scheduler: giving engines to runs, reservation, preemption and the end of
suspensions, semaphore signals, and BLK_BUSY (R281 to R283, R418, R422 to R429, R435, R436). -/

namespace Sys2Proof.Machine

open Sys2Proof

/-- A run. -/
def State.run (s : State) (wid : Nat) : Option Run := s.eng.runs.find? fun r => r.wid = wid

/-- Change a run's entry. -/
def State.updRun (s : State) (wid : Nat) (f : Run → Run) : State :=
  { s with eng := { s.eng with runs := updIf (fun r => decide (r.wid = wid)) f s.eng.runs } }

/-- Forget a run, and its prefetch intents and position reports (R272). -/
def State.dropRun (s : State) (wid : Nat) : State :=
  { s with eng := { s.eng with runs := s.eng.runs.filter (fun r => r.wid ≠ wid) },
           place := { s.place with intents := s.place.intents.filter (fun x => x.wid ≠ wid),
                                   reports := s.place.reports.filter (fun x => x.wid ≠ wid) } }

/-- Has a die's Timetable store room for a copy (R141, R143)? -/
def State.storeRoom (s : State) (die size : Nat) : Bool :=
  let l := s.eng.copies.filter fun c => c.die = die
  decide (l.length < 32 ∧ (l.map (·.size)).sum + size ≤ 8388608)

/-- Put a Timetable copy in a die's store. -/
def State.addCopy (s : State) (die wid size : Nat) : State :=
  { s with eng := { s.eng with copies := s.eng.copies ++ [{ die := die, wid := wid, size := size }] } }

/-- Release the copies of a run on a die (R143). -/
def State.dropCopy (s : State) (die wid : Nat) : State :=
  { s with eng := { s.eng with copies := s.eng.copies.filter (fun c => !(decide (c.die = die ∧ c.wid = wid))) } }

/-- Release every copy of a run. -/
def State.dropCopies (s : State) (wid : Nat) : State :=
  { s with eng := { s.eng with copies := s.eng.copies.filter (fun c => c.wid ≠ wid) } }

/-- Take a copy on a die for a run's engines there, or wait for room, counted once (R86, R143). -/
def State.copyFor (s : State) (die wid : Nat) : State :=
  match s.run wid with
  | none => s
  | some r =>
    if r.tt.isEmpty || s.eng.copies.any fun c => decide (c.die = die ∧ c.wid = wid) then s
    else if s.storeRoom die r.tt.length then s.addCopy die wid r.tt.length
    else if r.storeWait.contains die then s
    else (s.updRun wid fun r => { r with storeWait := r.storeWait ++ [die] }).bump (rMxeTstoreWaits die) 1

/-- Has a die a copy of a run's Timetable? -/
def State.hasCopy (s : State) (die wid : Nat) : Bool := s.eng.copies.any fun c => decide (c.die = die ∧ c.wid = wid)

/-- Mean power in W that a run's Timetable hints for an instance (R81, R447). -/
def runWatts (r : Run) : Nat := rdN r.tt 0x40 2

/-- The engines of a run whose die holds a copy begin; the others wait reserved. When all have begun, the receiving die's copy goes
unless an engine runs from it (R86, R143). -/
def State.beginInsts (s : State) (wid : Nat) : State :=
  match s.run wid with
  | none => s
  | some r =>
    let fresh := (r.insts.filter fun x => !x.started && s.hasCopy (dieOf r.kind x.inst).2 wid).map (·.inst)
    let s := fresh.foldl (fun s i => s.setUse r.kind i (some (.running wid))) s
    let s := s.rampStart r.kind (fresh.filter fun i => !(decide (r.kind = .mxe) && s.ballastOn i)) (runWatts r)
    let s := if r.kind = .mxe then fresh.foldl (fun s i => s.dropBallast i) s else s
    let l := r.insts.map fun x => { x with started := x.started || fresh.contains x.inst }
    let s := s.updRun wid fun r => { r with insts := l }
    if !l.isEmpty && r.unplaced.isEmpty && (l.all fun x => x.started) && !(l.any fun x => decide ((dieOf r.kind x.inst).2 = r.recv)) then
      s.dropCopy r.recv wid
    else s

/-- Iterations of level 0; a SPARSE level 0 is one range (R91, R213). -/
def ttTrip0 (ls : List (TtLevel × Nat)) : Nat :=
  match ls with
  | [] => 1
  | x :: _ => if x.1.sparse then 1 else x.2

/-- Outer indices per level-0 iteration of a SPARSE Timetable. -/
def outerPer (ls : List (TtLevel × Nat)) : Nat :=
  if ttSparse ls then (if ls.length ≤ 1 then 1 else prodN ((ls.dropLast.drop 1).map (·.2))) else 0

/-- The estimated time to due of an intent in ns, as a fraction: the slack times the time per position (R270). -/
def State.estimate (s : State) (x : Intent) : Nat × Nat :=
  match s.place.reports.find? fun r => decide (r.wid = x.wid ∧ r.inst = x.inst) with
  | none => (0, 1)
  | some r =>
    let (ns, positions) := r.nsPer.getD (s.fld (rSrvTiming x.die) 31 16, 1)
    ((x.due - r.pos) * ns, max 1 positions)

/-- Is a prefetch intent due soon enough to be queued for a move (R271, R289)? -/
def State.dueSoon (s : State) (x : Intent) : Bool :=
  let horizon := s.fld (rSrvTiming x.die) 15 0
  let e := s.estimate x
  (s.place.reports.any fun r => decide (r.wid = x.wid ∧ r.inst = x.inst)) && decide (horizon ≠ 0 ∧ e.1 ≤ 1000 * horizon * e.2)

/-- Queue the intents of an instance that are due soon enough (R271). -/
def State.requeue (s : State) (wid inst : Nat) : State :=
  let l := s.place.intents.map fun (x : Intent) =>
    if decide (x.wid = wid ∧ x.inst = inst) then { x with queued := s.dueSoon x } else x
  { s with place := { s.place with intents := l } }

/-- An instance reaches a position: the intents due there are dropped, and pages of them that are not in place are counted
(R272). -/
def State.arrive (s : State) (wid inst pos : Nat) : State :=
  let due := s.place.intents.filter fun x => decide (x.wid = wid ∧ x.inst = inst ∧ x.due ≤ pos)
  if due.isEmpty then s
  else
    let s := due.foldl (fun s (x : Intent) =>
      let inPlace := s.place.pages.any fun g => decide (g.num = x.page) && (match g.place with
        | .hbm => true
        | .siding => true
        | _ => false)
      if inPlace then s else s.bump (rSrvLate x.die) 1) s
    { s with place := { s.place with
        intents := s.place.intents.filter (fun x => !(decide (x.wid = wid ∧ x.inst = inst ∧ x.due ≤ pos))) } }

/-- The selected bucket's prefetch list goes to the Surveyors, each entry under the instance whose range holds its DUE; a
Surveyor that holds 65,536 intents drops further ones (R107, R270 to R272). The Expander translates a range in a view (R225). -/
def State.handIntents (s : State) (r : Run) : State :=
  let es := ttPrefetch r.tt (ttHead r.tt) r.bucket
  let all : List Intent := es.flatMap fun (e : Nat × Nat × Nat × Nat) =>
    match r.insts.find? fun x => decide (x.lo ≤ e.2.2.2 ∧ e.2.2.2 < x.hi) with
    | none => []
    | some x => (((pageSlices e.2.1 e.2.2.1).flatMap fun y => match s.viewAt y.1 with
        | some v => s.viewBlocks v y.1 y.2
        | none => pagesOf y.1 y.2).eraseDups).map fun n =>
        { page := n, die := n % 4, due := e.2.2.2, wid := r.wid, inst := x.inst, queued := false }
  let (s, drops) := all.foldl (fun (p : State × List Nat) x =>
    let (s, ds) := p
    if (s.place.intents.filter fun y => y.die = x.die).length < 65536 then
      ({ s with place := { s.place with intents := s.place.intents ++ [x] } }, ds)
    else (s, ds ++ [x.die])) (s, [])
  let s := (List.range 4).foldl (fun s d =>
    let n := (drops.filter (· = d)).length
    if n = 0 then s
    else (s.bump (rSrvIntentDrop d) n).emitFor r.wid (ev 0x0202 lvBlock (some r.part) (srcOf 2 d) [r.addr, n])) s
  let reps := r.insts.map fun x => ({ wid := r.wid, inst := x.inst, pos := x.lo, nsPer := none } : Report)
  let s := { s with place := { s.place with reports := s.place.reports ++ reps } }
  r.insts.foldl (fun s x => (s.requeue r.wid x.inst).arrive r.wid x.inst x.lo) s

/-- A run has all the engines it needs: their ranges are set, its prefetch intents go out, and the engines start; a domain that
sleeps wakes (R91, R107, R283, R418, R466). -/
def State.startRun (s : State) (wid : Nat) : State :=
  match s.wb wid, s.run wid with
  | some w, some r =>
    let h := ttHead r.tt
    let ls := ttTrips r.tt h r.bucket
    let counts := ttCounts r.tt h r.bucket
    let per := outerPer ls
    let insts := sortByKey id w.held
    let u := insts.length
    let mk (x : Nat × Nat) : RunInst :=
      let (a, b) := splitRange (ttTrip0 ls) u x.2
      { inst := x.1, lo := level0Start ls counts a, hi := level0Start ls counts b, pos := level0Start ls counts a,
        outer := a * per, outerEnd := b * per, tiles := [], missed := false, noticed := false, waited := [],
        started := false, done := false }
    let r2 : Run := { r with insts := insts.zipIdx.map mk }
    let s := s.updRun wid fun _ => r2
    let s := ((s.startWb w).updWb wid fun w => { w with resSince := none, src := engSrc r.kind (insts.headD 0) }).dropPredict w.cid
    let s := s.handIntents r2
    let s := insts.foldl (fun s i => (s.wake (5 + (dieOf r.kind i).2)).wake (9 + (dieOf r.kind i).2)) s
    let s := (insts.map fun i => (dieOf r.kind i).2).eraseDups.foldl (fun s d => s.copyFor d wid) s
    s.beginInsts wid
  | _, _ => s

/-- A Waybill begins to reserve, unless it does already (R418). -/
def State.reserving (s : State) (wid : Nat) : State :=
  if (s.wb wid).any fun w => w.resSince.isSome then s
  else
    let n := s.sched.nextRes
    let s := s.updWb wid fun w => { w with resSince := some n }
    { s with sched := { s.sched with nextRes := n + 1 } }

/-- Do periodic slices run: BST_CFG.EN and BST_STATUS.AVAIL, while the device serves (R530, R532)? -/
def State.bstOn (s : State) : Bool := bit 0 (s.reg rBstCfg) && bit 0 (s.reg rBstStatus) && s.ready

/-- Does an overdue slice take an engine ahead of every ready Waybill, now that it is idle: one slice runs on a die at a time (R527)? -/
def State.sliceFirst (s : State) (k : EngKind) (i : Nat) : Bool :=
  s.bstOn && (s.err.due.any fun d => decide (d.kind = k ∧ d.inst = i) && d.overdue)
    && !s.err.slices.any fun x => decide (dieOf x.kind x.inst = dieOf k i)

/-- A running Waybill one of whose engines passed on while it waited for a copy gets another for that range, and the range's intents go
with it (R143, R270, R272, R418). -/
def State.placeInst (s : State) (wid i : Nat) : State :=
  match s.run wid with
  | none => s
  | some r => match r.unplaced with
    | [] => s
    | x :: rest =>
      let s := s.updRun wid fun r => { r with insts := r.insts ++ [{ x with inst := i }], unplaced := rest }
      let s := if rest.isEmpty then s.updWb wid fun w => { w with resSince := none } else s
      let rep : Report := { wid := wid, inst := i, pos := x.lo, nsPer := none }
      let intents := updIf (fun (y : Intent) => decide (y.wid = wid ∧ x.lo ≤ y.due ∧ y.due < x.hi)) (fun y => { y with inst := i }) s.place.intents
      let s := { s with place := { s.place with reports := s.place.reports ++ [rep], intents := intents } }
      ((((s.requeue wid i).arrive wid i x.lo).wake (5 + (dieOf r.kind i).2)).wake (9 + (dieOf r.kind i).2)).copyFor (dieOf r.kind i).2 wid
        |>.beginInsts wid

/-- Give an engine to a Waybill that is ready or reserves; with the last one the run starts (R418). -/
def State.giveInst (s : State) (wid : Nat) (k : EngKind) (i : Nat) : State :=
  let s := (s.setUse k i (some (.reserved wid))).updWb wid fun w => { w with held := w.held ++ [i] }
  match s.wb wid with
  | none => s
  | some w =>
    if w.phase = .running then s.placeInst wid i
    else if w.need ≤ w.held.length then s.startRun wid
    else s.reserving wid

/-- A Waybill loses an engine that it reserves (R418, R518); the range of a running one waits for another engine (R143). -/
def State.loseInst (s : State) (wid i : Nat) : State :=
  let s := s.updWb wid fun w => { w with held := w.held.filter (· ≠ i) }
  match s.run wid with
  | none => s
  | some r =>
    let gone := r.insts.filter fun x => decide (x.inst = i) && !x.started
    if gone.isEmpty then s
    else
      let s := s.updRun wid fun r => { r with insts := r.insts.filter (fun x => !gone.contains x), unplaced := r.unplaced ++ gone }
      let reps := s.place.reports.filter fun p => !decide (p.wid = wid ∧ p.inst = i)
      ({ s with place := { s.place with reports := reps } }).reserving wid

/-- Does a Waybill lack an engine: a ready one that needs more, or a running one whose engine passed on (R143, R418)? -/
def State.lacks (s : State) (w : Wb) : Bool :=
  decide (w.phase = .ready ∧ w.held.length < w.need)
    || (decide (w.phase = .running) && (s.run w.wid).any fun r => !r.unplaced.isEmpty)

/-- Could a Waybill take an engine of its kind (R418, R423)? -/
def State.wants (s : State) (k : EngKind) (i : Nat) (w : Wb) : Bool :=
  decide (w.kind = some k) && s.lacks w && s.mayUse w.part k i && s.canWork w k i

/-- Who takes an engine that is free (R418). -/
def State.taker (s : State) (k : EngKind) (i : Nat) : Option Wb :=
  pickMin (fun a b => lexLt (s.takeKey a) (s.takeKey b)) (s.sched.wbs.filter (s.wants k i))

/-- A free engine passes to the Waybill that R418 ranks first. -/
def State.passInst (s : State) (k : EngKind) (i : Nat) : State :=
  if (s.useOf k i).isSome || s.sliceFirst k i then s
  else match s.taker k i with
    | none => s
    | some w => s.giveInst w.wid k i

/-- Idle engines that a ready Waybill may take at once, in the order of R282: the die with the most idle ones first. An
engine that a reserving Waybill of the same or more urgent PRIO awaits is not among them. -/
def State.idleFor (s : State) (w : Wb) (k : EngKind) : List Nat :=
  let free := (s.usable w.part k).filter fun i =>
    (s.useOf k i).isNone && !s.sliceFirst k i && s.canWork w k i
      && !(s.sched.wbs.any fun x => x.resSince.isSome && decide (x.wid ≠ w.wid) && s.wants k i x && decide (s.prio x.part ≤ s.prio w.part))
  let dies := ((List.range 4).map fun d => (d, (free.filter fun i => (dieOf k i).2 = d).length))
  let order := (sortByKey (fun x => (16 - x.2) * 4 + x.1) dies).map (·.1)
  (order.map fun d => free.filter fun i => (dieOf k i).2 = d).flatten

/-- Engines that lower-ranked reserving Waybills hold pass to a higher-ranked one that may use them (R418). -/
def State.steal (s : State) (wid : Nat) (k : EngKind) : State :=
    let held := s.sched.insts.filterMap fun x => match decide (x.1.1 = k), x.2 with
      | true, .reserved o => if o ≠ wid then some (x.1.2, o) else none
      | _, _ => none
    held.foldl (fun s x =>
      match s.wb wid, s.wb x.2 with
      | some w, some o =>
        if s.lacks w && s.mayUse w.part k x.1 && s.canWork w k x.1 && lexLt (s.takeKey w) (s.takeKey o) then
          (s.loseInst o.wid x.1).giveInst wid k x.1
        else s
      | _, _ => s) s

/-- Has a partition work on an engine: a run or a reservation, an open collective, a picture set aside there, pieces parked there, or
descriptors left of a KV Waybill that has started (R422, R423)? -/
def State.holdsOn (s : State) (p : Nat) (k : EngKind) (i : Nat) : Bool :=
  (match s.useOf k i with
   | some (.running wid) => (s.wb wid).any fun w => decide (w.part = p)
   | some (.reserved wid) => (s.wb wid).any fun w => decide (w.part = p)
   | _ => false)
  || (match k with
      | .cle => s.colls.list.any fun c => c.opened && decide (c.part = p ∧ c.cle = i)
      | .cde => s.codec.cdes.any fun c => decide (c.n = i) && c.asides.any fun r => (s.wb r.wid).any fun w => decide (w.part = p)
      | .xfe => s.place.xfers.any fun x => x.pieces.any fun q => decide (q.xfe = some i) && s.suspOn p .xfe i && (s.wb q.wid).any fun w => decide (w.part = p ∧ w.phase = .running)
      | .gaz => s.kv.jobs.any fun j => decide (j.gaz = i) && (s.wb j.wid).any fun w => decide (w.part = p ∧ w.phase = .running)
      | _ => false)

/-- Does a partition still use an engine that is being taken from it (R423, R424)? At grain 0 a started Consist keeps every
engine of its masks until it completes. -/
def State.stillUses (s : State) (p : Nat) (k : EngKind) (i : Nat) : Bool :=
  if s.grain p = 0 then
    ((s.openOf p).any fun c => c.started) && s.inMask p k i
  else match k with
    | .cle => s.colls.list.any fun c => decide (c.part = p ∧ c.cle = i) && c.opened && !c.parked
    | _ => match s.useOf k i with
      | some (.running wid) => (s.wb wid).any fun w => decide (w.part = p)
      | _ => false

/-- Started Waybills of a partition whose remaining work waits on the engines taken (R436). -/
def State.parkedCount (s : State) (p : Nat) (taken : List (EngKind × Nat)) : Nat :=
  (s.colls.list.filter fun c => c.parked && decide (c.part = p) && taken.contains (.cle, c.cle)).length
  + ((s.codec.cdes.map fun c => (c.asides.filter fun r => r.parked && taken.contains (.cde, c.n)
      && (s.wb r.wid).any fun w => decide (w.part = p)).length).sum)
  + (s.place.xfers.filter fun x => (s.wb x.wid).any (fun w => decide (w.part = p ∧ w.phase = .running))
      && x.pieces.any fun q => taken.any fun t => decide (t.1 = .xfe ∧ q.xfe = some t.2)).length
  + (s.kv.jobs.filter fun j => (s.wb j.wid).any (fun w => decide (w.part = p ∧ w.phase = .running)) && taken.contains (.gaz, j.gaz)).length

/-- Mark the engines that have passed, and report a taking whose last engine has passed (R424, R436). -/
def State.settleTakings (s : State) : State :=
  let susps := s.sched.susps.map fun x => if x.passed then x else { x with passed := !s.stillUses x.part x.kind x.inst }
  let s := { s with sched := { s.sched with susps := susps } }
  s.sched.takings.foldl (fun s t =>
    let mine := s.sched.susps.filter fun x => decide (x.part = t.part ∧ x.taker = t.taker ∧ x.since = t.since)
    if t.reported || mine.isEmpty || mine.any (fun x => !x.passed) then s
    else
      let lat := s.aon - t.since
      let s := { s with sched := { s.sched with takings := s.sched.takings.map fun u =>
        if u = t then { u with reported := true } else u } }
      let s := if lat ≤ (s.reg (rPrtPreemptMax t.part)).toNat then s else s.setReg (rPrtPreemptMax t.part) (w32 (satAdd 32 lat 0))
      s.emit (ev 0x0A00 lvChip (some t.part) 0
        [t.taker.getD 0xFF, lat, s.parkedCount t.part (mine.map fun x => (x.kind, x.inst)), t.kinds])) s

/-- A partition's collectives on engines it is suspended on park, and those it may run again resume (R355, R423, R425). -/
def State.parkColls (s : State) : State :=
  s.colls.list.foldl (fun s c =>
    match s.wb c.wid with
    | none => s
    | some w =>
      let park := c.opened && s.suspOn c.part .cle c.cle && !s.canWork w .cle c.cle
      if park = c.parked then s
      else
        let s := if park then s.bump (rCleParks c.cle) 1 else s
        { s with colls := { s.colls with list := updIf (fun d => decide (d.wid = c.wid)) (fun d => { d with parked := park }) s.colls.list } }) s

/-- Engines that Waybills of a suspended partition reserve, and may not work on now, pass to others (R418, R423). -/
def State.letGo (s : State) (p : Nat) : State :=
  let held := s.sched.insts.filterMap fun x => match x.2 with
    | .reserved wid => (s.wb wid).bind fun w => if w.part = p && !s.canWork w x.1.1 x.1.2 then some (x.1.1, x.1.2, wid) else none
    | _ => none
  let s := held.foldl (fun s x => (s.setUse x.1 x.2.1 none).loseInst x.2.2 x.2.1) s
  held.foldl (fun s x => s.passInst x.1 x.2.1) s

/-- Suspend a partition on engines, for a taker (none: the driver), at the present AON count (R422). -/
def State.suspendOn (s : State) (p : Nat) (taker : Option Nat) (l : List (EngKind × Nat)) : State :=
  let fresh := l.filter fun x => !(s.sched.susps.any fun y =>
    decide (y.part = p ∧ y.kind = x.1 ∧ y.inst = x.2 ∧ y.taker = taker))
  if fresh.isEmpty then s
  else
    let kinds := (allKinds.filter fun k => fresh.any fun x => x.1 = k).map kindBit
    let s := { s with sched := { s.sched with
      susps := s.sched.susps ++ fresh.map (fun (x : EngKind × Nat) =>
        (⟨p, x.1, x.2, taker, s.aon, false⟩ : Susp)),
      takings := s.sched.takings ++ [(⟨p, taker, s.aon, kinds.sum, false⟩ : Taking)] } }
    let s := if taker.isSome then s.bump (rPrtPreempts p) 1 else s
    (s.letGo p).parkColls.settleTakings

/-- Every engine of every kind in a partition's masks, with the Gazetteers when one of them is what is wanted (R422). -/
def State.maskedInsts (s : State) (p : Nat) (k : EngKind) : List (EngKind × Nat) :=
  (allKinds.map fun j =>
    if j = .gaz && k ≠ .gaz then [] else ((List.range (kindCount s.assy j)).filter fun i => s.inMask p j i).map fun i => (j, i)).flatten

/-- Is an engine free for a ready Waybill: idle; a CLE with room for its collective; a Gazetteer with no other KV Waybill (R346, R422)? -/
def State.freeFor (s : State) (w : Wb) (k : EngKind) (i : Nat) : Bool :=
  (s.useOf k i).isNone && !s.sliceFirst k i && !s.suspOn w.part k i
    && (match k with
        | .gaz => !(s.kv.jobs.any fun j => decide (j.gaz = i ∧ j.wid ≠ w.wid))
        | .cle => (s.colls.list.find? fun c => c.wid = w.wid).all fun c => s.cleRoom c i
        | _ => true)

/-- The preemption decision for a ready Waybill of a kind (R422). -/
def State.preemptFor (s : State) (w : Wb) (k : EngKind) : State :=
  let mine := s.usable w.part k
  if mine.isEmpty || mine.any (s.freeFor w k) then s
  else
    let masked := (List.range (kindCount s.assy k)).filter (s.inMask w.part k)
    let victims := (s.sched.parts.map (·.p)).filter fun p =>
      decide (s.prio w.part < s.prio p) && masked.any fun i => s.holdsOn p k i
    victims.foldl (fun s p => s.suspendOn p (some w.part) (s.maskedInsts w.part k)) s

/-- Look at every Waybill that is ready, as after an acceptance, a completion or a change of a semaphore (R418, R422,
R429). -/
def State.examine (s : State) : State :=
  s.sched.wbs.foldl (fun s w =>
    match s.wb w.wid with
    | none => s
    | some w =>
      if (s.mayBegin w && w.preset.isNone) || decide (w.phase = .ready) then
        match kindOf w with
        | some k => s.preemptFor w k
        | none => s
      else s) s

/-- Signal a semaphore of a partition: its value rises modulo 2^64, and nothing happens for an index outside the range
(R54, R428, R429). -/
def State.signal (s : State) (p idx add : Nat) : State :=
  match s.semIndex p idx with
  | none => s
  | some i => s.setSem i (s.sem i + BitVec.ofNat 64 add)

/-- A run that passed its checks takes engines: all it needs and it starts; fewer and it reserves them, takes over those of
lower-ranked reservers, and preempts (R282, R283, R418, R422). -/
def State.schedule (s : State) (wid : Nat) (k : EngKind) (u : Nat) : State :=
  let s := s.updWb wid fun w => { w with phase := .ready, kind := some k, need := u }
  match s.wb wid with
  | none => s
  | some w =>
    let s := ((s.idleFor w k).take u).foldl (fun s i => s.giveInst wid k i) s
    let s := s.steal wid k
    match s.wb wid with
    | none => s
    | some w => if w.phase = .ready then s.preemptFor w k else s

/-- A Waybill that has not begun its work leaves whatever it was queued in, and ends with a status. -/
def State.cancelWb (s : State) (wid st : Nat) : State :=
  let s := ((s.unreserve wid).dropCopies wid).dropRun wid
  let xs := s.place.xfers.filter fun x => x.wid ≠ wid
  let js := s.kv.jobs.filter fun j => j.wid ≠ wid
  let cs := s.colls.list.filter fun c => c.wid ≠ wid
  let ds := s.codec.cdes.map fun c => { c with queue := c.queue.filter (fun q => q.wid ≠ wid) }
  let s := { s with place := { s.place with xfers := xs }, kv := { s.kv with jobs := js }, colls := { s.colls with list := cs },
                    codec := { s.codec with cdes := ds } }
  s.endWb wid st 0 0

/-- No ballast is left on an instance that is fenced or has AVAIL 0 (R449). -/
def State.trimBallast (s : State) : State :=
  { s with pwr := { s.pwr with ballast := s.pwr.ballast.filter fun b => s.avail .mxe b.mxe && !s.fenced 1 (b.mxe / 4) } }

/-- What becomes of ballast and of ready Waybills when engines may no longer be used: Waybills that are ready for a kind of which their
partition may use nothing any more, or not the CLE that they name, complete with BLK_BUSY; a run that asks for
more engines than are left asks for those, and one that reserves an engine it may no longer use lets it go (R91, R140, R417, R435). -/
def State.sweepBusy (s : State) : State :=
  (s.sched.wbs.foldl (fun s x =>
    match s.wb x.wid with
    | none => s
    | some w =>
      match w.kind with
      | some k =>
        let named := if k = .cle then ((s.colls.list.find? fun c => c.wid = w.wid).map fun c => cdSel c.desc).getD 0 else 0
        let left := ((s.usable w.part k).filter fun i => named = 0 || i + 1 = named).length
        let gone := w.held.filter fun i => !(s.usable w.part k).contains i
        let none2 := if k = .cde then !((List.range 4).any fun i => s.inMask w.part .cde i && !s.fenced 2 i) else left = 0
        if w.phase ≠ .ready then s
        else if none2 then s.cancelWb w.wid stBlkBusy
        else
          let s := gone.foldl (fun s i => (s.setUse k i none).loseInst w.wid i) s
          let s := s.updWb w.wid fun w => { w with need := min w.need left }
          let s := match s.wb w.wid with
            | some w => if w.need ≤ w.held.length && decide (0 < w.need) then s.startRun w.wid else s
            | none => s
          gone.foldl (fun s i => s.passInst k i) s
      | none => s) s).trimBallast

/-- Suspensions that partition a caused end, and PART_RESUMED is written for each partition they held (R425, R436). -/
def State.endSusps (s : State) (taker : Option Nat) (p : Option Nat) : State :=
  let sel (x : Nat) (t : Option Nat) : Bool := decide (t = taker) && (match p with | none => true | some q => decide (x = q))
  let held := (s.sched.susps.filter fun x => sel x.part x.taker)
  let parts := (held.map (·.part)).eraseDups
  let s := { s with sched := { s.sched with
    susps := s.sched.susps.filter (fun x => !sel x.part x.taker),
    takings := s.sched.takings.filter (fun x => !sel x.part x.taker) } }
  let s := parts.foldl (fun s q =>
    let since := ((held.filter fun x => x.part = q).map (·.since)).foldl min s.aon
    s.emit (ev 0x0A01 lvChip (some q) 0 [taker.getD 0xFF, s.aon - since])) s
  s.parkColls

end Sys2Proof.Machine
end

