-- ==== Sys2Proof/Machine/XferOps.lean ====
section
/-! DEFINITION. Shared operations of the Transfer Engines: the cutting of an XFER or FILL, the engine of each piece, the
start of a piece with its fabric transactions, and the bytes that a piece reads and writes (R282 to R287, R311, R554). -/

namespace Sys2Proof.Machine

open Sys2Proof

/-- The address on which an XFER or FILL is cut: the device virtual side, the source when both or neither is; a FILL has a
destination only (R285). -/
def cutAddr (fill : Bool) (srcSpace dstSpace src dst : Nat) : Nat :=
  if fill then dst else if srcSpace = 0 then src else if dstSpace = 0 then dst else src

/-- Pieces of a range cut at 2 MiB boundaries, as offsets and lengths (R285). -/
def cutPieces (a n : Nat) : List (Nat × Nat) := (pageSlices a n).map fun x => (x.1 - a, x.2)

/-- The Transfer Engine of a piece with a home die: of the first die from there on that has one the partition may use, the
one with fewer bytes queued, then the lower number (R282, R289). -/
def State.pieceXfe (s : State) (p home : Nat) (queued : Nat → Nat) : Option Nat :=
  let dies := (List.range 4).map fun k => (home + k) % 4
  match (dies.map fun d => [2 * d, 2 * d + 1].filter (s.mayUse p .xfe)).find? fun l => !l.isEmpty with
  | none => none
  | some l => pickMin (fun a b => decide (queued a < queued b)) l

/-- The Surveyor moves that an XFE carries: those to or from pools whose copy has not ended (R282). -/
def State.xfeMoves (s : State) (i : Nat) : List Move := s.place.moves.filter fun m => decide (m.xfe = some i) && !m.switched

/-- Bytes still queued at an XFE, those of Surveyor moves among them. -/
def State.xfeQueued (s : State) (i : Nat) : Nat :=
  ((s.place.xfers.flatMap fun x => x.pieces).filter fun q => q.xfe = some i).foldl (fun n q => n + q.len) 0
    + 2097152 * (s.xfeMoves i).length

/-- A demand return goes before the pieces of an XFE (R287). -/
def State.xfeReturns (s : State) (i : Nat) : Bool := (s.xfeMoves i).any fun m => m.cause = .demand

/-- The XFE of a Surveyor move of a page to or from a pool (R282, R289). -/
def State.moveXfe (s : State) (n : Nat) : Option Nat := s.pieceXfe (n / 2 ^ 31) (n % 4) s.xfeQueued

/-- Give each piece its engine, in order; none when a piece finds none (R282, R289). -/
def State.placePieces (s : State) (p : Nat) : List Piece → List Piece → Option (List Piece)
  | done, [] => some done
  | done, q :: r =>
    let queued (i : Nat) : Nat := s.xfeQueued i + ((done.filter fun x => x.xfe = some i).map (·.len)).sum
    match s.pieceXfe p q.home queued with
    | none => none
    | some i => s.placePieces p (done ++ [{ q with xfe := some i }]) r

/-- The bytes a FILL writes at an address (R286). -/
def fillBytes (pattern a n : Nat) : List Byte := (List.range n).map fun i => BitVec.ofNat 8 (pattern / 256 ^ ((a + i) % 8))

/-- Bytes that both ranges share in one address space take unspecified values (R284). -/
def State.blur (s : State) (x : Xfer) (a : Nat) (bs : List Byte) : List Byte × State :=
  let hit (i : Nat) : Bool := !x.fill && x.srcSpace = x.dstSpace && decide (x.src ≤ a + i ∧ a + i < x.src + x.len)
  if bs.zipIdx.any fun b => hit b.2 then
    (bs.zipIdx.map fun b => if hit b.2 then Config.freeByte (s.free + b.2) else b.1, { s with free := s.free + bs.length })
  else (bs, s)

/-- A source range cut where its poison can change: at 64-byte lines (R260, R285). -/
def lineSlices (a n : Nat) : List (Nat × Nat) :=
  (linesOf a n).map fun l => (max a (64 * l), min (a + n) (64 * l + 64) - max a (64 * l))

/-- The source of part of a piece: runs of bytes, in order, each poisoned or not. Host bytes come with the command. -/
def State.sourceRuns (s : State) (x : Xfer) (pattern off n : Nat) (host : BytesRead) : List (List Byte × Bool) :=
  if x.fill then [(fillBytes pattern (x.dst + off) n, false)]
  else if x.srcSpace = 0 then
    let a := x.src + off
    if s.readBad a n then (lineSlices a n).map fun l => (s.readBytes l.1 l.2, s.readBad l.1 l.2)
    else [(s.readBytes a n, false)]
  else
    let fit (bs : List Byte) : List Byte := (bs ++ List.replicate n 0).take n
    match host with
    | .ok bs => [(fit bs, false)]
    | .poisoned bs bad => (lineSlices (x.src + off) n).map fun l => (((fit bs).drop (l.1 - (x.src + off))).take l.2, bad.contains (l.1 / 64))
    | .failed => [(List.replicate n 0, true)]

/-- Bytes of a write to device memory that are dropped: their page faults or has no room (R259, R265). -/
def State.droppedBytes (s : State) (a n : Nat) : Nat :=
  ((pageSlices a n).map fun x =>
    if (s.viewAt x.1).isSome then x.2
    else match s.accPage true (pageOf x.1) with
      | .fault => x.2
      | .lost => if s.unreached (homeOf x.1) then 0 else x.2
      | _ => 0).sum

/-- The memory-side die of a piece's XFE (R14). -/
def Piece.die (q : Piece) : Option (Nat × Nat) := q.xfe.map fun i => dieOf .xfe i

/-- Relay dies of a piece's route to the host port on IO0 (R17). -/
def Piece.hostWay (q : Piece) : List (Nat × Nat) := (q.die.map fun d => relays d (3, 0)).getD []

/-- Does a piece's route to the host port pass through a fenced die (R519)? -/
def State.hostOut (s : State) (q : Piece) : Bool := q.hostWay.any fun d => s.fenced d.1 d.2

/-- Write runs of bytes at a destination in device or host memory; the dropped bytes are counted (R284, R285, R554). Behind a fenced
relay die host memory is not written (R519). -/
def State.deliver (s : State) (x : Xfer) (q : Piece) (off : Nat) (runs : List (List Byte × Bool)) : State :=
  let a := x.dst + off
  (runs.foldl (fun (r : Nat × State) b =>
    let (bs, s) := r.2.blur x r.1 b.1
    let s := if x.dstSpace = 0 then
        let lost := s.droppedBytes r.1 bs.length
        ((s.writeBytes x.wid r.1 bs b.2).2).unmoved q lost
      else if s.hostOut q then s.noteWay x.wid q.hostWay
      else s.put (if b.2 then .hostPoison r.1 bs else .hostWrite r.1 bs)
    (r.1 + bs.length, s)) (a, s)).2

/-- POISON bits of runs of bytes: one for each 64-byte chunk that holds a poisoned byte (R306). -/
def runPoison (runs : List (List Byte × Bool)) : Nat :=
  let flags := runs.flatMap fun r => r.1.map fun _ => r.2
  ((List.range 4).map fun i => if ((flags.drop (64 * i)).take 64).any id then 2 ^ i else 0).sum

/-- Add the transactions of a piece's fabric side (R311). -/
def State.addTxns (s : State) (x : Xfer) (q : Piece) (op base pattern : Nat) (host : Nat → Nat → BytesRead) : State :=
  let a := base + q.off
  (cutFabric (a % 2 ^ 48) (q.len + 1) 0 q.len).foldl (fun s c =>
    let runs := if op = 2 then s.sourceRuns x pattern (q.off + c.1) c.2 (host c.1 c.2) else []
    let (bs, s) := s.blur x (a + c.1) (runs.flatMap (·.1))
    let t : Txn := { tag := none, op := op, dst := a / 2 ^ 48, inc := none, off := a % 2 ^ 48 + c.1, len := c.2, data := bs,
                     poison := runPoison runs, owner := .piece x.wid q.idx, place := q.off + c.1, sent := false, again := false,
                     port := none, full := false }
    { s with vrl := { s.vrl with txns := s.vrl.txns ++ [t] } }) s

/-- Make ready for the accesses of a piece by its XFE; the pages that it began on serve it (R252, R256). -/
def State.readyFor (s : State) (x : Xfer) (q : Piece) : Bool × State :=
  let p := { s.place with via := q.die, serving := s.place.serving ++ x.began q }
  let (ok, t) := ({ s with place := p }).prepare (x.reads q) (x.writes q)
  (ok, { t with place := { t.place with via := s.place.via, serving := s.place.serving } })

/-- What the running piece of an XFE sends on the fabric at once: READs of a fabric source, WRITEs of device data or of a
FILL. It waits for pages that must come (R252, R311). -/
def State.launch (s : State) (wid idx : Nat) : State :=
  match s.wb wid, s.xferOf wid with
  | some w, some x =>
    match x.piece idx with
    | none => s
    | some q =>
      if q.sent || !q.run then s
      else
        let (ok, s) := s.readyFor x q
        if !ok then s
        else if !x.fill && x.srcSpace = 1 && x.dstSpace = 2 then s
        else s.asDie q.die fun s => s.asBegun x q fun s =>
          let s := s.updPiece wid idx fun q => { q with sent := true }
          let none2 : Nat → Nat → BytesRead := fun _ _ => .failed
          if !x.fill && x.srcSpace = 2 then (s.addTxns x q 1 x.src 0 none2).pump
          else if x.dstSpace = 2 then
            let s := (x.reads q).foldl (fun s r => s.noteRead wid r.1 r.2) s
            (s.addTxns x q 2 x.dst (wArg w.slot 1) none2).pump
          else s
  | _, _ => s

/-- Rank of a queued piece (R418, R285): its Waybill's place, then ascending addresses. -/
def State.pieceKey (s : State) (q : Piece) : List Nat :=
  match s.wb q.wid with
  | some w => s.readyKey w ++ [q.idx]
  | none => [q.idx]

/-- An idle XFE starts the piece that ranks first among those queued there whose partition may work on it (R287, R418,
R423). -/
def State.serveXfe (s : State) (i : Nat) : State :=
  if (s.useOf .xfe i).isSome || s.fenced 2 (i / 2) || !s.avail .xfe i || s.xfeReturns i then s
  else
    let l := (s.place.xfers.flatMap fun x => x.pieces).filter fun q => decide (q.xfe = some i) && !q.run &&
      (match s.wb q.wid with
       | some w => s.canWork w .xfe i
       | none => false)
    match pickMin (fun a b => lexLt (s.pieceKey a) (s.pieceKey b)) l with
    | none => s
    | some q =>
      match s.wb q.wid, s.xferOf q.wid with
      | some w, some x =>
        let s := if w.phase = .ready then
            ((s.updWb w.wid fun w => { w with src := engSrc .xfe i }).startWb w) else s
        let late := (x.pages q).filter fun n => (s.page n).any fun g => g.gone.isSome
        let s := s.updPiece q.wid q.idx fun q => { q with run := true, late := late }
        (s.setUse .xfe i (some (.running q.wid))).launch q.wid q.idx
      | _, _ => s

/-- Every XFE that is idle takes up queued work. -/
def State.serveXfes (s : State) : State := (List.range (kindCount s.assy .xfe)).foldl (fun s i => s.serveXfe i) s

/-- Pieces that wait at an XFE which their partition may use no more go to others; those that find none wait for one (R289; log entry
90). -/
def State.rePlace (s : State) : State :=
  s.place.xfers.foldl (fun s x =>
    match s.wb x.wid with
    | none => s
    | some w =>
      let out (q : Piece) : Bool := !q.run && !(q.xfe.any fun i => s.mayUse w.part .xfe i)
      if !x.pieces.any out then s
      else match s.placePieces w.part (x.pieces.filter fun q => !out q) ((x.pieces.filter out).map fun q => { q with xfe := none }) with
        | some ps => s.updXfer x.wid fun x => { x with pieces := sortByKey (·.idx) ps }
        | none => s) s

/-- A piece is over: it leaves its engine, and with the last one the Waybill's work ends (R285). -/
def State.endPiece (s : State) (wid idx : Nat) : State :=
  match s.xferOf wid with
  | none => s
  | some x =>
    match x.piece idx with
    | none => s
    | some q =>
      let left := x.pieces.filter fun y => y.idx ≠ idx
      let x := { x with pieces := left, unmoved := x.unmoved + q.lost }
      let s := s.updXfer wid fun _ => x
      let s := match q.xfe with
        | some i => s.setUse .xfe i none
        | none => s
      let s := if left.isEmpty then
          match s.wb wid with
          | none => s
          | some w =>
            let s := { s with place := { s.place with xfers := s.place.xfers.filter (fun y => y.wid ≠ wid) } }
            s.endWb wid (accStatus w stOk) x.unmoved w.src
        else s
      s.serveXfes.settleTakings

end Sys2Proof.Machine
end

