-- ==== Sys2Proof/Machine/CodecOps.lean ====
section
/-! DEFINITION. Shared operations of the Codec Engines: parameter blocks, frame buffers and marks, the order of pictures,
displacement and parking (R387 to R392, R398, R407 to R409). -/

namespace Sys2Proof.Machine

open Sys2Proof

/-- A registered context. -/
def State.ctx (s : State) (n : Nat) : Option Ctx := s.codec.ctxs.find? fun c => c.id = n
/-- Change a context. -/
def State.updCtx (s : State) (n : Nat) (f : Ctx → Ctx) : State :=
  { s with codec := { s.codec with ctxs := updIf (fun c => decide (c.id = n)) f s.codec.ctxs } }
/-- A CDE's queue and pictures. -/
def State.cde (s : State) (n : Nat) : Cde :=
  (s.codec.cdes.find? fun c => c.n = n).getD { n := n, queue := [], run := none, asides := [] }
/-- Change a CDE's queue and pictures. -/
def State.setCde (s : State) (c : Cde) : State :=
  let rest := s.codec.cdes.filter fun x => x.n ≠ c.n
  let l := if c.queue.isEmpty && c.run.isNone && c.asides.isEmpty then rest else insertByKey (·.n) c rest
  { s with codec := { s.codec with cdes := l } }

/-- CODEC of a parameter block: 1 AV1, 2 HEVC (R389). -/
def cpCodec (b : List Byte) : Nat := rdBits b 0 1 0
/-- Is it an encode context? -/
def cpEncode (b : List Byte) : Bool := decide (rdBits b 0 2 2 = 1)
/-- Bytes of a sample. -/
def cpSample (b : List Byte) : Nat := 1 + rdBits b 0 3 3
/-- b: bits of a sample. -/
def cpDepth (b : List Byte) : Nat := 8 + 2 * rdBits b 0 3 3
/-- CLASS -/
def cpClass (b : List Byte) : Nat := rdBits b 0 5 4
/-- CDE_SEL -/
def cpSel (b : List Byte) : Nat := rdBits b 0 8 6
/-- MAX_W -/
def cpW (b : List Byte) : Nat := rdN b 2 2
/-- MAX_H -/
def cpH (b : List Byte) : Nat := rdN b 4 2
/-- W8 -/
def cpW8 (b : List Byte) : Nat := 8 * ceilDiv (cpW b) 8
/-- H8 -/
def cpH8 (b : List Byte) : Nat := 8 * ceilDiv (cpH b) 8

/-- Does a parameter block break R384 or R389: a reserved field or a range? Level 6.3 is AV1's seq_level_idx 19, level 6.2 HEVC's
general_level_idc 186 (PRESUMED: log entry 22). -/
def paramsBad (b : List Byte) : Bool :=
  let c := cpCodec b
  let w := cpW b
  let h := cpH b
  let rc := rdBits b 8 1 0
  rdBits b 0 15 10 ≠ 0 || rdBits b 0 63 48 ≠ 0 || c = 0 || c = 3 || decide (4 < cpSel b) || (c = 2 && rdBits b 0 9 9 = 1)
  || w = 0 || h = 0
  || (if cpEncode b then
        w % 8 ≠ 0 || h % 8 ≠ 0 || decide (w < 64 ∨ 8192 < w ∨ h < 64 ∨ 4352 < h)
        || rdBits b 8 7 2 ≠ 0 || rdN b 12 4 ≠ 0 || rc = 3
        || (c = 2 && decide ((if cpDepth b = 10 then 63 else 51) < rdN b 9 1))
        || rdN b 10 1 = 0 || decide (64 < rdN b 10 1)
        || rdN b 0x10 2 % 8 ≠ 0 || decide (rdN b 0x10 2 < 8 ∨ 256 < rdN b 0x10 2)
        || rdN b 0x12 2 % 8 ≠ 0 || decide (rdN b 0x12 2 < 8 ∨ 128 < rdN b 0x12 2)
        || (c = 2 && rdBits b 0x10 32 32 = 1) || rdBits b 0x10 63 33 ≠ 0
        || decide ((if c = 1 then 19 else 186) < rdN b 11 1)
        || (rc ≠ 0 && (rdN b 0x18 4 = 0 || rdN b 0x20 4 = 0 || rdN b 0x24 4 = 0)) || !zerosAt b 0x28 24
      else
        !zerosAt b 8 56 || decide (35651584 < w * h)
        || (if c = 1 then decide (w < 16 ∨ 16384 < w ∨ h < 16 ∨ 8704 < h) else decide (w < 16 ∨ 16888 < w ∨ h < 16 ∨ 16888 < h)))

/-- The frame-buffer table: BASE, PITCH, CHROMA_OFF of each entry (R390). -/
def bufTable (b : List Byte) : List (Nat × Nat × Nat) :=
  (List.range 64).map fun i => (rdN b (16 * i) 8, rdN b (16 * i + 8) 3, rdN b (16 * i + 12) 4)

/-- Extent of a present frame buffer: address and bytes (R390). -/
def bufExtent (p : List Byte) (e : Nat × Nat × Nat) : Nat × Nat := (e.1, e.2.2 + e.2.1 * cpH8 p / 2)

/-- Do two ranges meet? -/
def rangesMeet (a b : Nat × Nat) : Bool := decide (a.1 < b.1 + b.2 ∧ b.1 < a.1 + a.2)

/-- A pitch and chroma offset against R390. -/
def pitchBad (p : List Byte) (pitch chroma sample : Nat) : Bool :=
  pitch % 256 ≠ 0 || decide (pitch < cpW8 p * sample) || chroma % 256 ≠ 0 || decide (chroma < pitch * cpH8 p)

/-- Does a frame-buffer table break R390 (cause 4)? -/
def tableBufBad (p : List Byte) (t : List (Nat × Nat × Nat)) (save : Nat × Nat) : Bool :=
  let l := (t.filter fun e => e.1 ≠ 0)
  let ex := l.map (bufExtent p)
  l.isEmpty || l.any (fun e => pitchBad p e.2.1 e.2.2 (cpSample p))
  || ex.any (rangesMeet save) || ex.zipIdx.any fun x => (ex.drop (x.2 + 1)).any (rangesMeet x.1)

/-- Least size of a save area (R391). -/
def saveNeed (p : List Byte) : Nat := 2097152 + 1024 * ceilDiv (cpW p) 16 * ceilDiv (cpH p) 16

/-- REF of a mark (R398). -/
def markRef (m : Nat) : Nat := bitsN 1 0 m
/-- OUT of a mark. -/
def markOut (m : Nat) : Bool := m.testBit 2
/-- CONC of a mark. -/
def markConc (m : Nat) : Bool := m.testBit 3
/-- A mark of its fields. -/
def mkMark (ref : Nat) (out conc : Bool) (seq : Nat) : Nat :=
  ref % 4 + (if out then 4 else 0) + (if conc then 8 else 0) + seq % 4096 * 16
/-- Change one mark of a context. -/
def Ctx.setMark (c : Ctx) (i : Nat) (f : Nat → Nat) : Ctx :=
  { c with marks := c.marks.zipIdx.map fun x => if x.2 = i then f x.1 else x.1 }
/-- The mark with another REF. -/
def withRef (ref m : Nat) : Nat := mkMark ref (markOut m) (markConc m) (m / 16)

/-- Is a frame buffer of a context present? -/
def Ctx.has (c : Ctx) (i : Nat) : Bool := (c.bufs.getD i (0, 0, 0)).1 ≠ 0
/-- Is a frame buffer free (R399)? -/
def Ctx.isFree (c : Ctx) (i : Nat) : Bool := let m := c.marks.getD i 0; markRef m = 0 && !markOut m

/-- Has a context a command before that of a Waybill: one that runs, is set aside, or came to the queue earlier (R388)? -/
def State.ctxBusy (s : State) (wid n : Nat) : Bool :=
  s.codec.cdes.any fun c => (c.run.any fun r => r.ctx = n) || (c.asides.any fun r => r.ctx = n)
    || (c.queue.takeWhile fun q => q.wid ≠ wid).any fun q => q.ctx = n

/-- A Waybill's command leaves the queue that it waits in. -/
def State.unqueue (s : State) (wid : Nat) : State :=
  if s.codec.cdes.any fun c => c.queue.any fun q => q.wid = wid then
    s.codec.cdes.foldl (fun s c => s.setCde { c with queue := c.queue.filter (fun q => q.wid ≠ wid) }) s
  else s

/-- A Waybill's command waits in the queue of its context's CDE, if it does not yet (R388, R407). -/
def State.enqueue (s : State) (w : Wb) (c : Ctx) : State :=
  let x := s.cde c.cde
  if x.queue.any fun q => q.wid = w.wid then s
  else
    let q : CdCmd := { wid := w.wid, ctx := c.id, cls := cpClass c.params, aged := false, order := s.codec.nextOrder, checked := false }
    let s := s.setCde { x with queue := x.queue ++ [q] }
    let s := { s with codec := { s.codec with nextOrder := s.codec.nextOrder + 1 } }
    s.updWb w.wid fun w => { w with phase := .ready, kind := some .cde, need := 0, src := engSrc .cde c.cde }

/-- May a Waybill's picture run on a CDE now; to start one its partition's mask must hold the CDE (R409, R417, R423)? -/
def State.cdeMay (s : State) (wid n : Nat) : Bool :=
  match s.wb wid with
  | some w => s.canWork w .cde n && (decide (w.phase = .running) || s.inMask w.part .cde n)
  | none => false

/-- Class at which a queued command is ranked: one of class 2 or 3 that has aged counts as 1 (R407). -/
def CdCmd.rank (q : CdCmd) : Nat := if q.aged && decide (2 ≤ q.cls) then 1 else q.cls

/-- At a picture boundary a CDE starts: a queued class-0 picture; else a displaced picture, else a parked one that may run
again; else the oldest of the most urgent class (R407 to R409). -/
def State.serveCde (s : State) (n : Nat) : State :=
  let c := s.cde n
  if c.run.isSome || s.fenced 2 n || (s.useOf .cde n).isSome then s
  else
    let q := c.queue.filter fun q => q.checked && s.cdeMay q.wid n
    let best := pickMin (fun a b => lexLt [a.rank, a.order] [b.rank, b.order]) q
    let live := best.filter fun b => b.cls = 0
    let aside := (c.asides.find? fun r => !r.parked && s.cdeMay r.wid n).or (c.asides.find? fun r => s.cdeMay r.wid n)
    let start (q : CdCmd) : State :=
      let r : CdRun := { wid := q.wid, ctx := q.ctx, cls := q.cls, order := q.order, rows := 0, saves := 0, aged := q.aged, parked := false }
      let s := s.setCde { c with queue := c.queue.filter (fun x => x.wid ≠ q.wid), run := some r }
      let s := match s.wb q.wid with
        | some w => s.startWb w
        | none => s
      s.setUse .cde n (some (.running q.wid))
    match live, aside, best with
    | some b, _, _ => start b
    | none, some r, _ =>
      let back : CdRun := { r with parked := false }
      (s.setCde { c with asides := c.asides.filter (fun x => x.wid ≠ r.wid), run := some back }).setUse .cde n (some (.running r.wid))
    | none, none, some b => start b
    | none, none, none => s

/-- Every CDE that is idle takes up work. -/
def State.serveCdes (s : State) : State := (List.range 4).foldl (fun s n => s.serveCde n) s

/-- The state that a CDE keeps in a save area is not specified (R391, log entry 5). -/
def State.spoilSave (s : State) (wid : Nat) (c : Ctx) : State :=
  let (bs, s) := s.freeBytes c.saveSize
  (s.writeBytes wid c.save bs false).2

/-- The running picture of a CDE is set aside at a tile-row boundary: displaced or parked (R408, R409). -/
def State.setAside (s : State) (n rows : Nat) (parked : Bool) : State :=
  let c := s.cde n
  match c.run with
  | none => s
  | some r =>
    let s := if parked then s else s.bump (rCdeDisplaced n) 1
    let r : CdRun := { r with rows := rows, saves := r.saves + 1, parked := parked }
    let s := (s.setCde { c with run := none, asides := c.asides ++ [r] }).setUse .cde n none
    let s := match s.ctx r.ctx with
      | some x => s.spoilSave r.wid x
      | none => s
    s.serveCde n

/-- CTX_LOST for a context that is closed by a fence or a removal (R409, R416). -/
def State.loseCtx (s : State) (c : Ctx) (cause ended : Nat) : State :=
  ({ s with codec := { s.codec with ctxs := s.codec.ctxs.filter (fun x => x.id ≠ c.id) } }).emit
    (ev 0x0901 lvBlock (some c.part) (engSrc .cde c.cde) [c.id, cause, ended])

end Sys2Proof.Machine
end

