-- ==== Sys2Proof/Machine/Motion.lean ====
section
/-! DEFINITION. Samples of pictures, and motion search: integer search, refinement at half, quarter and eighth samples, its cost and
its ties (R392, R393, R406). Vectors are in eighths of a luma sample. The interpolation filters are those of the HEVC and AV1
standards (PRESUMED: log entry 91); what the cost takes of the quantiser and the estimated bits is open (Config). -/

namespace Sys2Proof.Machine

open Sys2Proof

/-! ### Samples -/

/-- A stored sample of one or two bytes; bits [15:10] of two are ignored (R392). -/
def State.sampleAt (s : State) (size a : Nat) : Nat :=
  if size = 1 then leNat (s.memRead a 1) else bitsN 9 0 (leNat (s.memRead a 2))

/-- The middle value of a bit depth (R384, R400, R402). -/
def midSample (p : List Byte) : Nat := 2 ^ (cpDepth p - 1)

/-- The sample of b bits that a normalised BF16 value becomes (R393). -/
def sampleOfBf16 (b c : Nat) : Nat :=
  let top := 2 ^ b - 1
  match ofBf16 c with
  | .nan => 0
  | .inf neg => if neg then 0 else top
  | x => min (nscaled 0 (nround 64 0 1024 (nmul x (nofInt top)))).toNat top

/-- Luma sample (x, y) of a picture buffer: BASE, PITCH, CHROMA_OFF (R392). -/
def State.lumaOf (s : State) (p : List Byte) (e : Nat × Nat × Nat) (x y : Nat) : Nat :=
  s.sampleAt (cpSample p) (e.1 + y * e.2.1 + x * cpSample p)

/-- Sample k of chroma row y: Cb of column x is sample 2x, Cr the next (R392). -/
def State.chromaOf (s : State) (p : List Byte) (e : Nat × Nat × Nat) (k y : Nat) : Nat :=
  s.sampleAt (cpSample p) (e.1 + e.2.2 + y * e.2.1 + k * cpSample p)

/-- The sample at an address of an ENCODE source, which may hold BF16 values (R393). -/
def State.sourceAt (s : State) (p : List Byte) (bf16 : Bool) (a i : Nat) : Nat :=
  if bf16 then sampleOfBf16 (cpDepth p) (leNat (s.memRead (a + 2 * i) 2)) else s.sampleAt (cpSample p) (a + cpSample p * i)

/-- Runs of bytes, by offset from BASE, that hold a rectangle of luma samples (x, y, width, height) and the chroma that lies in it
(R392). -/
def rectRuns (p : List Byte) (e : Nat × Nat × Nat) (r : Nat × Nat × Nat × Nat) (luma chroma : Nat → Nat → Nat) : List (Nat × List Byte) :=
  let (x, y, w, h) := r
  let size := cpSample p
  let row (f : Nat → Nat) (i n : Nat) : List Byte := (List.range n).flatMap fun k => leBytes size (f (i + k))
  let x2 := 2 * (x / 2)
  let y2 := y / 2
  ((List.range h).map fun j => ((y + j) * e.2.1 + x * size, row (luma · (y + j)) x w))
  ++ (List.range (ceilDiv (y + h) 2 - y2)).map fun j =>
    (e.2.2 + (y2 + j) * e.2.1 + x2 * size, row (chroma · (y2 + j)) x2 (2 * ceilDiv (x + w) 2 - x2))

/-! ### Interpolation -/

/-- A motion vector or predictor, in eighths of a luma sample. -/
abbrev Mv := Int × Int

/-- Luma samples by position; positions beyond the picture take its edge samples (R406). -/
def edged (w h : Nat) (f : Nat → Nat → Nat) (x y : Int) : Int :=
  f (min (max x 0).toNat (w - 1)) (min (max y 0).toNat (h - 1))

/-- The HEVC luma filter at a quarter-sample position. -/
def hevcTaps : Nat → List Int
  | 1 => [-1, 4, -10, 58, 17, -5, 1, 0]
  | 2 => [-1, 4, -11, 40, 40, -11, 4, -1]
  | 3 => [0, 1, -5, 17, 58, -10, 4, -1]
  | _ => [0, 0, 0, 64, 0, 0, 0, 0]

/-- The AV1 REGULAR filter at an eighth-sample position. -/
def av1Taps : Nat → List Int
  | 1 => [0, 2, -10, 122, 18, -4, 0, 0]
  | 2 => [0, 2, -14, 110, 38, -10, 2, 0]
  | 3 => [0, 2, -16, 94, 58, -12, 2, 0]
  | 4 => [0, 2, -14, 76, 76, -14, 2, 0]
  | 5 => [0, 2, -12, 58, 94, -16, 2, 0]
  | 6 => [0, 2, -10, 38, 110, -14, 2, 0]
  | 7 => [0, 0, -4, 18, 122, -10, 2, 0]
  | _ => [0, 0, 0, 128, 0, 0, 0, 0]

/-- The sum of eight samples around a position, weighted by a filter. -/
def tapSum (taps : List Int) (f : Int → Int) (x : Int) : Int :=
  (taps.zipIdx.map fun t => t.1 * f (x + (t.2 : Int) - 3)).sum

/-- An integer divided by 2^n, rounded half up. -/
def round2 (n : Nat) (x : Int) : Int := if n = 0 then x else (x + 2 ^ (n - 1)) / 2 ^ n

/-- The predicted luma sample at (x, y) for a vector, of b bits: HEVC. -/
def hevcPred (b : Nat) (f : Int → Int → Int) (v : Mv) (x y : Int) : Int :=
  let fx := ((v.1 / 2) % 4).toNat
  let fy := ((v.2 / 2) % 4).toNat
  let (px, py) := (x + v.1 / 8, y + v.2 / 8)
  let across (j : Int) : Int := tapSum (hevcTaps fx) (f · j) px / 2 ^ (b - 8)
  let mid := if fx = 0 && fy = 0 then f px py * 2 ^ (14 - b)
    else if fy = 0 then across py
    else if fx = 0 then tapSum (hevcTaps fy) (f px) py / 2 ^ (b - 8)
    else tapSum (hevcTaps fy) across py / 64
  min (max (round2 (14 - b) mid) 0) (2 ^ b - 1)

/-- The predicted luma sample at (x, y) for a vector, of b bits: AV1. -/
def av1Pred (b : Nat) (f : Int → Int → Int) (v : Mv) (x y : Int) : Int :=
  let (px, py) := (x + v.1 / 8, y + v.2 / 8)
  let across (j : Int) : Int := round2 3 (tapSum (av1Taps (v.1 % 8).toNat) (f · j) px)
  min (max (round2 11 (tapSum (av1Taps (v.2 % 8).toNat) across py)) 0) (2 ^ b - 1)

/-! ### Cost -/

/-- The Hadamard transform of a list of 2^n values. -/
def hadamard : Nat → List Int → List Int
  | 0, l => l
  | n + 1, l =>
    let a := l.take (2 ^ n)
    let b := l.drop (2 ^ n)
    hadamard n (List.zipWith (· + ·) a b) ++ hadamard n (List.zipWith (· - ·) a b)

/-- The sum of absolute transformed differences of a block of w × h errors, by 8 × 8 blocks, or 4 × 4 where a side is no multiple of 8
(DESIGN CHOICE: log entry 91). -/
def satd (w h : Nat) (d : Nat → Nat → Int) : Nat :=
  let n := if w % 8 = 0 && h % 8 = 0 then 3 else 2
  let k := 2 ^ n
  let tile (bi bj : Nat) : Nat :=
    let rows := (List.range k).map fun j => hadamard n ((List.range k).map fun i => d (bi * k + i) (bj * k + j))
    ((List.range k).flatMap fun i => (hadamard n (rows.map (·.getD i 0))).map Int.natAbs).sum
  ((List.range (h / k)).flatMap fun j => (List.range (w / k)).map fun i => tile i j).sum

/-- One block to be searched: its rectangle (x, y, width, height), the predictor candidate, and the quantiser. -/
structure SearchJob where
  rect  : Nat × Nat × Nat × Nat
  pred  : Mv
  quant : Nat
  deriving DecidableEq, Repr

/-- The cost of a vector: SATD of the luma prediction error and λ times the estimated bits (R406). -/
def mvCost (codec : Nat) (j : SearchJob) (src : Int → Int → Int) (pred : Mv → Int → Int → Int) (v : Mv) : Rat :=
  let (x, y, w, h) := j.rect
  let err (i k : Nat) : Int := src (x + i : Nat) (y + k : Nat) - pred v (x + i : Nat) (y + k : Nat)
  (satd w h err : Rat) + Config.motionLambda codec j.quant * Config.motionBits codec j.pred v

/-- Is vector a before b: a lower cost, then a smaller |Δy|, a smaller |Δx|, and raster order (R406)? Differences are from the
predictor (DEDUCED: log entry 91). -/
def mvBefore (cost : Mv → Rat) (p : Mv) (a b : Mv) : Bool :=
  let key (v : Mv) : List Int := [((v.2 - p.2).natAbs : Int), ((v.1 - p.1).natAbs : Int), v.2, v.1]
  if cost a = cost b then decide (key a < key b) else decide (cost a < cost b)

/-- The integer positions within a range of the predictor (R406). -/
def integerMvs (rx ry : Nat) (p : Mv) : List Mv :=
  let first (c : Int) (r : Nat) : Int := -((8 * r - c) / 8)
  let axis (c : Int) (r : Nat) : List Int :=
    ((List.range (2 * r + 1)).map fun (i : Nat) => 8 * (first c r + (i : Int))).filter fun x => decide ((x - c).natAbs ≤ 8 * r)
  (axis p.2 ry).flatMap fun y => (axis p.1 rx).map fun x => (x, y)

/-- The eight neighbours of a vector at a step. -/
def mvAround (step : Int) (v : Mv) : List Mv :=
  [(-step, -step), (0, -step), (step, -step), (-step, 0), (step, 0), (-step, step), (0, step), (step, step)].map
    fun d => (v.1 + d.1, v.2 + d.2)

/-- Motion search of one block in one reference: the integer positions, then stages at 1/2, 1/4 and, with HP, 1/8 sample, each over the
best so far and its eight neighbours (R406). -/
def motionSearch (cost : Mv → Rat) (hp : Bool) (rx ry : Nat) (p : Mv) : Mv :=
  let best (l : List Mv) (d : Mv) : Mv := (pickMin (mvBefore cost p) l).getD d
  (if hp then [4, 2, 1] else [4, 2]).foldl (fun v (k : Int) => best (v :: mvAround k v) v) (best (integerMvs rx ry p) p)

/-- The motion search of an ENCODE in reference k: the source against frame buffer ref, over W8 × H8 samples (R389, R406). -/
def State.searchIn (s : State) (p : List Byte) (src : Nat → Nat → Nat) (ref : Nat × Nat × Nat) (j : SearchJob) : Mv :=
  let codec := cpCodec p
  let b := cpDepth p
  let f := edged (cpW8 p) (cpH8 p) (s.lumaOf p ref)
  let g := edged (cpW8 p) (cpH8 p) src
  motionSearch (mvCost codec j g (if codec = 1 then av1Pred b f else hevcPred b f)) (codec = 1 && rdBits p 0x10 32 32 = 1)
    (rdN p 0x10 2) (rdN p 0x12 2) j.pred

end Sys2Proof.Machine
end

