-- ==== Sys2Proof/Machine/Decoding.lean ====
section
/-! DEFINITION. What becomes of the unit of a DECODE: its result, the units that are concealed, the samples that are written, the lines
that take poison, and the marks (R384, R385, R392, R397 to R404). The parsing and reconstruction of the AV1 and HEVC standards are
open functions (Config, log entry 22). -/

namespace Sys2Proof.Machine

open Sys2Proof

/-! ### What a unit holds -/

/-- Decoded size: the AV1 frame size rounded up to multiples of 8, the HEVC picture size (R392). -/
def decodedSize (b : List Byte) (p : Parsed) : Nat × Nat :=
  if cpCodec b = 1 then (8 * ceilDiv p.frame.1 8, 8 * ceilDiv p.frame.2 8) else p.frame

/-- Side of a unit of concealment: an AV1 superblock or an HEVC CTB (R402). -/
def unitSide (b : List Byte) (p : Parsed) : Nat := if cpCodec b = 1 then 64 * 2 ^ (p.unitLog % 2) else 16 * 2 ^ (p.unitLog % 3)

/-- Columns and rows of units. -/
def unitGrid (b : List Byte) (p : Parsed) : Nat × Nat :=
  (ceilDiv (decodedSize b p).1 (unitSide b p), ceilDiv (decodedSize b p).2 (unitSide b p))

/-- The pieces, as start and length, into which cuts part n units. -/
def cutsOf (n : Nat) (cuts : List Nat) : List (Nat × Nat) :=
  let starts := (List.range n).filter fun k => k = 0 || cuts.contains k
  starts.map fun k => (k, (starts.find? (k < ·)).getD n - k)

/-- Tile rows of a picture (R408). -/
def tileRowsOf (b : List Byte) (p : Parsed) : Nat := (cutsOf (unitGrid b p).2 p.rows).length

/-- The units of each tile, as column and row, in decoding order. -/
def tileUnits (b : List Byte) (p : Parsed) : List (List (Nat × Nat)) :=
  (cutsOf (unitGrid b p).2 p.rows).flatMap fun r => (cutsOf (unitGrid b p).1 p.cols).map fun c =>
    (List.range (c.2 * r.2)).map fun i => (c.1 + i % c.2, r.1 + i / c.2)

/-- Is a byte of a range of the unit poisoned or beyond its end (R400, R404)? -/
def spoilt (bits : List (Option Byte)) (a n : Nat) : Bool := (List.range n).any fun i => (bits[a + i]?).join.isNone

/-- The first of n units of a tile that is damaged: its syntax is, or it needs a byte that is beyond the end or poisoned (R400, R404). -/
def firstDamaged (bits : List (Option Byte)) (n : Nat) (t : Tile) : Nat :=
  ((List.range n).find? fun i => (t.damage.any fun k => decide (k ≤ i)) || spoilt bits t.start (t.needs.getD i 0 - t.start)).getD n

/-- The units that are concealed: from the first damaged one to the end of each tile, and those not yet decoded at the work limit
(R401, R402). -/
def concealedUnits (b : List Byte) (bits : List (Option Byte)) (p : Parsed) (decoded : Option Nat) : List (Nat × Nat) :=
  let tiles := tileUnits b p
  let all := tiles.flatten
  let gone := (tiles.zipIdx.flatMap fun x => x.1.drop (firstDamaged bits x.1.length (p.tiles.getD x.2 default)))
    ++ (match decoded with
        | some k => all.drop k
        | none => [])
  all.filter gone.contains

/-- What the unit holds, when bytes of its parameters or headers may be poisoned or missing (R400, R403, R404). -/
def foundUnit (bits : List (Option Byte)) (p : Parsed) : UnitKind :=
  if p.seqBytes.any fun r => spoilt bits r.1 r.2 then .unusable
  else if p.unit = .picture && p.headBytes.any fun r => spoilt bits r.1 r.2 then .headless
  else p.unit

/-- Does the CDE support what the sequence header states, and does the picture fit the context (R384, R385, R392, R403)? The numbers of
profiles and levels are those of the standards (PRESUMED: log entry 22). -/
def seqUsable (b : List Byte) (p : Parsed) : Bool :=
  let h := p.seq
  let (w, v) := p.frame
  decide ((decodedSize b p).1 ≤ cpW8 b ∧ (decodedSize b p).2 ≤ cpH8 b ∧ w * v ≤ 35651584 ∧ 16 ≤ w ∧ 16 ≤ v)
  && !h.tools && h.depth = cpDepth b
  && (if cpCodec b = 1 then decide (h.profile = 0 ∧ h.chroma ≤ 1 ∧ h.level ≤ 19 ∧ w ≤ 16384 ∧ v ≤ 8704)
      else decide ((h.profile = 1 ∨ h.profile = 2) ∧ h.chroma = 1 ∧ h.level ≤ 186 ∧ w ≤ 16888 ∧ v ≤ 16888) && !h.high)

/-- RESULT of a DECODE of a unit: 0 DONE, 1 CONCEALED, 2 CONCEALED_ALL, 3 NOT_DECODED, 4 NO_PICTURE (R397, R403, R411). bad: units are not
decoded until a usable sequence header comes with a key picture. -/
def decodeResult (bad : Bool) (b : List Byte) (bits : List (Option Byte)) (p : Parsed) (decoded : Option Nat) : Nat :=
  let k := foundUnit bits p
  if bits.isEmpty then 4
  else if k = .unusable then 3
  else if (p.newSeq || k ≠ .empty) && !seqUsable b p then 3
  else if k = .empty then 4
  else if bad && !(p.newSeq && p.key) then 3
  else if k = .headless then 2
  else if (concealedUnits b bits p decoded).isEmpty then 0 else 1

/-- The concealed units of a picture with a result (R402, R403). -/
def goneUnits (b : List Byte) (bits : List (Option Byte)) (p : Parsed) (decoded : Option Nat) (result : Nat) : List (Nat × Nat) :=
  if result = 2 then (tileUnits b p).flatten else if result = 1 then concealedUnits b bits p decoded else []

/-! ### Samples -/

/-- What the decoding process is given for a DECODE (R385, R400). -/
def State.decodeInput (s : State) (c : Ctx) (b : List Byte) : DecodeInput :=
  let (a, n) := (rdN b 8 8, rdN b 0x10 4)
  { params := c.params, marks := c.marks, slots := c.slots, pocs := c.pocs, motion := c.motion, past := c.past,
    bits := (s.readBytes a n).zipIdx.map fun x => if s.readBad (a + x.2) 1 then none else some x.1 }

/-- Is a frame buffer one that prediction may read (R400)? -/
def Ctx.mayRead (c : Ctx) (k : Nat) : Bool := c.has k && markRef (c.marks.getD k 0) ≠ 0

/-- The samples of a picture buffer: luma, then chroma, row by row (R392). -/
def pictureSamples (w h : Nat) (luma chroma : Nat → Nat → Nat) : List Nat :=
  let rows (h : Nat) (f : Nat → Nat → Nat) : List Nat := (List.range h).flatMap fun y => (List.range w).map fun x => f x y
  rows h luma ++ rows (h / 2) chroma

/-- The samples that prediction reads from frame buffer k; every sample of one that it may not read, or of a missing reference, is
2^(b-1) (R400). -/
def State.refSamples (s : State) (c : Ctx) (k : Nat) : List Nat :=
  let e := c.bufs.getD k (0, 0, 0)
  if c.mayRead k then pictureSamples (cpW8 c.params) (cpH8 c.params) (s.lumaOf c.params e) (s.chromaOf c.params e)
  else pictureSamples (cpW8 c.params) (cpH8 c.params) (fun _ _ => midSample c.params) (fun _ _ => midSample c.params)

/-- The conceal source: the buffer most recently written that has REF not 0, with the size of what it holds (R402). -/
def Ctx.concealFrom (c : Ctx) : Option (Nat × Nat × Nat) := c.recent.find? fun x => markRef (c.marks.getD x.1 0) ≠ 0

/-- The co-located luma sample of the conceal source, or 2^(b-1) where there is none (R402). -/
def State.concealLuma (s : State) (c : Ctx) (x y : Nat) : Nat :=
  match c.concealFrom with
  | some (k, w, h) => if x < w && decide (y < h) then s.lumaOf c.params (c.bufs.getD k (0, 0, 0)) x y else midSample c.params
  | none => midSample c.params

/-- The co-located chroma sample of the conceal source: a chroma row holds as many samples as a luma row, and there are half as many. -/
def State.concealChroma (s : State) (c : Ctx) (k y : Nat) : Nat :=
  match c.concealFrom with
  | some (i, w, h) => if k < w && decide (2 * y < h) then s.chromaOf c.params (c.bufs.getD i (0, 0, 0)) k y else midSample c.params
  | none => midSample c.params

/-- Runs of bytes, by offset from BASE, of a decoded picture: a concealed unit takes the conceal source's samples, every other what the
standard reconstructs; chroma of a monochrome picture is 2^(b-1) (R384, R385, R392, R402). -/
def State.decodedRuns (s : State) (c : Ctx) (inp : DecodeInput) (p : Parsed) (gone : List (Nat × Nat)) (e : Nat × Nat × Nat) :
    List (Nat × List Byte) :=
  let b := c.params
  let (w, h) := decodedSize b p
  let side := unitSide b p
  let lost (x y : Nat) : Bool := gone.contains (x / side, y / side)
  let co := pictureSamples w h (s.concealLuma c) (s.concealChroma c)
  let rec' := Config.reconstruct inp gone ((List.range 65).map (s.refSamples c)) co
  let sample (i : Nat) : Nat := rec'.getD i 0 % 2 ^ cpDepth b
  rectRuns b e (0, 0, w, h) (fun x y => if lost x y then s.concealLuma c x y else sample (y * w + x))
    (fun k y => if p.seq.chroma = 0 then midSample b else if lost k (2 * y) then s.concealChroma c k y else sample ((h + y) * w + k))

/-! ### What a picture reads of frame buffers -/

/-- A rectangle cut to a picture's size. -/
def clipRect (size : Nat × Nat) (r : Nat × Nat × Nat × Nat) : Nat × Nat × Nat × Nat :=
  (r.1, r.2.1, min r.2.2.1 (size.1 - r.1), min r.2.2.2 (size.2 - r.2.1))

/-- Where the samples of a rectangle lie in a picture buffer: addresses and bytes (R392). -/
def rectSpans (b : List Byte) (e : Nat × Nat × Nat) (r : Nat × Nat × Nat × Nat) : List (Nat × Nat) :=
  (rectRuns b e r (fun _ _ => 0) fun _ _ => 0).map fun x => (e.1 + x.1, x.2.length)

/-- What a picture copies or predicts from frame buffers: where to, and which bytes it reads (R400, R402). -/
def predictions (c : Ctx) (p : Parsed) (gone : List (Nat × Nat)) : List ((Nat × Nat × Nat × Nat) × Nat × List (Nat × Nat)) :=
  let b := c.params
  let side := unitSide b p
  let size := decodedSize b p
  let live := p.preds.filter fun q => !gone.contains (q.dst.1 / side, q.dst.2.1 / side) && c.mayRead q.buf
  let copies := match c.concealFrom with
    | none => []
    | some (k, w, h) => gone.map fun u =>
        let r := clipRect size (u.1 * side, u.2 * side, side, side)
        (r, k, rectSpans b (c.bufs.getD k (0, 0, 0)) (clipRect (w, h) r))
  (live.map fun q => (clipRect size q.dst, q.buf, rectSpans b (c.bufs.getD q.buf (0, 0, 0)) (clipRect (cpW8 b, cpH8 b) q.src))) ++ copies

/-- The bytes that a picture reads of frame buffers. -/
def predictReads (c : Ctx) (p : Parsed) (gone : List (Nat × Nat)) : List (Nat × Nat) := (predictions c p gone).flatMap fun q => q.2.2

/-- The bytes of the frame buffer written whose samples come from poisoned lines of a frame buffer (R404). -/
def State.predictedBad (s : State) (c : Ctx) (p : Parsed) (gone : List (Nat × Nat)) (e : Nat × Nat × Nat) : List (Nat × Nat) :=
  ((predictions c p gone).filter fun q => q.2.2.any fun r => s.readBad r.1 r.2).flatMap fun q => rectSpans c.params e q.1

/-! ### Marks -/

/-- OUT is set on buffers, in this order: each takes the next OUT_SEQ (R399). -/
def Ctx.showAll (c : Ctx) (l : List Nat) : Ctx :=
  l.foldl (fun (c : Ctx) k =>
    let seq := c.outSeq
    let c := c.setMark k fun m => mkMark (markRef m) true (markConc m) seq
    { c with outSeq := (seq + 1) % 4096 }) c

/-- REF of every buffer anew. -/
def Ctx.setRefs (c : Ctx) (f : Nat → Nat) : Ctx := { c with marks := c.marks.zipIdx.map fun x => withRef (f x.2) x.1 }

/-- AV1: the picture takes its reference slots, or a shown one those it refreshes; a buffer in any slot is short-term; a picture that is shown
is to be put out (R399). pic: the buffer decoded. -/
def Ctx.markAv1 (c : Ctx) (m : UnitMarks) (pic : Option Nat) : Ctx :=
  let old := (m.existing.map fun k => c.slots.getD k 64).filter (· < 64)
  let slots := match pic <|> old with
    | some t => c.slots.zipIdx.map fun x => if m.refresh.contains x.2 then t else x.1
    | none => c.slots
  let c : Ctx := { c with slots := slots }
  (c.setRefs fun i => if slots.contains i then 1 else 0).showAll ((if m.shown then pic.toList else []) ++ old.toList)

/-- Pictures leave the bumping process, the first in output order first, while a condition holds. -/
def bumpWhile (more : List (Nat × Nat × Nat) → Bool) : List (Nat × Nat × Nat) → List Nat × List (Nat × Nat × Nat)
  | [] => ([], [])
  | d :: l =>
    if more (d :: l) then
      let r := bumpWhile more l
      (d.2.1 :: r.1, r.2)
    else ([], d :: l)

/-- HEVC: REFs follow the reference picture sets, and pictures are put out by the bumping process (R399): before the picture those
that its start forces out, then the picture itself, then those that its end does. PRESUMED: the standard's C.5.2 (log entry 22). -/
def Ctx.markHevc (c : Ctx) (m : UnitMarks) (pic : Option Nat) : Ctx :=
  match pic with
  | none => c
  | some t =>
    let poc (i : Nat) : Option Nat := (c.pocs.find? fun x => x.1 = i).map (·.2)
    let ref (i : Nat) : Nat :=
      if i = t || markRef (c.marks.getD i 0) = 0 || m.newSeq then 0
      else if (poc i).any m.longs.contains then 2 else if (poc i).any m.shorts.contains then 1 else 0
    let late (l : List (Nat × Nat × Nat)) : Bool :=
      decide (m.reorder < l.length) || m.latency.any fun n => l.any fun d => decide (n ≤ d.2.2)
    let full (l : List (Nat × Nat × Nat)) : Bool :=
      decide (m.dpb ≤ ((List.range 64).filter fun i => ref i ≠ 0 || l.any fun d => d.2.1 = i).length)
    let due := c.due.filter fun d => d.2.1 ≠ t
    let (first, due) := if m.newSeq then (if m.noPrior then ([], []) else (due.map (·.2.1), []))
      else bumpWhile (fun l => late l || full l) due
    let due := if m.shown then
        insertByKey (·.1) (m.poc, t, 0) (due.map fun d => if m.poc < d.1 then (d.1, d.2.1, d.2.2 + 1) else d) else due
    let (last, due) := bumpWhile late due
    let c := ((c.setRefs ref).showAll first).setMark t (withRef 1)
    let c := c.showAll last
    { c with due := due, pocs := (t, m.poc) :: c.pocs.filter fun x => x.1 ≠ t }

/-- Marks after a DECODE with a result: REFs and OUT as the stream says, CONC on TARGET; when no header of a picture yields them TARGET alone
is short-term and to be put out (R399, R402, R403). With FLUSH, or when the sequence ends, every picture still to be output is, in
output order (R395). -/
def decodeMarks (p : Parsed) (result target : Nat) (conc flush : Bool) (c : Ctx) : Ctx :=
  let wrote := decide (result ≤ 2)
  let told := result ≠ 2 || p.headMarks
  let c := if wrote then c.setMark target fun m => mkMark (markRef m) (markOut m) conc (m / 16) else c
  let pic := if wrote then some target else none
  let c := if !told then { (c.setMark target (withRef 1)).showAll [target] with due := c.due.filter fun d => d.2.1 ≠ target }
    else if cpCodec c.params = 1 then c.markAv1 p.marks pic else c.markHevc p.marks pic
  if flush || (told && p.marks.endSeq) then { c.showAll (c.due.map (·.2.1)) with due := [] } else c

/-- A context after a DECODE of a unit: marks, picture number, what was written last, motion, and what later units need (R398 to R403). An
empty unit leaves all but what FLUSH puts out (R411). -/
def Ctx.decoded (c : Ctx) (b : List Byte) (inp : DecodeInput) (p : Parsed) (gone : List (Nat × Nat)) (result : Nat) : Ctx :=
  let t := rdN b 0x18 1
  let flush := rdBits b 0x18 8 8 = 1
  let conc := !gone.isEmpty || (predictions c p gone).any fun q => markConc (c.marks.getD q.2.1 0)
  let c1 : Ctx :=
    if inp.bits.isEmpty then (if flush then { c.showAll (c.due.map (·.2.1)) with due := [] } else c)
    else if result = 3 then { c with seqBad := true, past := p.past }
    else { decodeMarks p result t conc flush c with past := p.past }
  if 2 < result then c1
  else
    let still := (tileUnits c.params p).flatten.zipIdx.map fun x => if gone.contains x.1 then 0 else p.motion.getD x.2 0
    let (w, h) := decodedSize c.params p
    { c1 with picNum := c.picNum + 1, seqBad := false, recent := (t, w, h) :: c.recent.filter (fun x => x.1 ≠ t),
              motion := (t, still) :: c.motion.filter fun x => x.1 ≠ t }

end Sys2Proof.Machine
end

