-- ==== Sys2Proof/Machine/Encoding.lean ====
section
/-! DEFINITION. What becomes of the picture of an ENCODE: its marks, the motion search of each block, and the stream that is written
(R384, R393, R399, R405, R406). The choice of modes, tiles and quantisers is the device's own, and the coding of the AV1 and HEVC standards is
outside the manual: open functions (Config, log entry 22). The framing of units is that of the standards (PRESUMED: log entry 22). -/

namespace Sys2Proof.Machine

open Sys2Proof

/-! ### Marks -/

/-- The buffer that REF k of an ENCODE names. -/
def encRef (b : List Byte) (k : Nat) : Option Nat := let n := rdN b (0x30 + k) 1; if n = 255 then none else some n

/-- The AV1 reference slots that the reconstruction takes: all for TYPE 0, none when it is not kept, else the first that holds no marked
buffer (R405; DESIGN CHOICE: log entry 22). -/
def encRefresh (b : List Byte) (c : Ctx) : List Nat :=
  if cpCodec c.params ≠ 1 then []
  else if rdBits b 0x28 11 10 = 0 then List.range 8
  else if rdBits b 0x28 9 8 = 0 then []
  else ((List.range 8).filter fun k => let n := c.slots.getD k 64; n = 64 || markRef (c.marks.getD n 0) = 0).take 1

/-- Marks after an ENCODE (R399), and the AV1 slots (R405). -/
def encodeMarks (b : List Byte) (c : Ctx) : Ctx :=
  let r := rdN b 0x28 1
  let slots := c.slots.zipIdx.map fun x => if (encRefresh b c).contains x.2 then r else x.1
  let c : Ctx := if rdBits b 0x28 11 10 = 0 then
      { c with marks := c.marks.zipIdx.map fun x => if x.2 = r then x.1 else withRef 0 x.1 } else c
  { c.setMark r (withRef (rdBits b 0x28 9 8)) with slots := slots }

/-! ### Motion search -/

/-- The reference names of an ENCODE, 0 to 6, that name a buffer. -/
def namedRefs (b : List Byte) : List Nat := (List.range 7).filter fun k => (encRef b k).isSome

/-- What the encoder is given for an ENCODE (R393, R405). -/
def State.encodeInput (s : State) (c : Ctx) (b : List Byte) : EncodeInput :=
  let p := c.params
  let bf16 := rdBits b 0x10 24 24 = 1
  let (base, pitch, chroma) := (rdN b 8 8, rdN b 0x10 3, rdN b 0x14 4)
  let slotOf (n : Nat) : Option Nat := (List.range 8).find? fun k => c.slots.getD k 64 = n
  { params := p, args := (b.take 64).drop 8, marks := c.marks, motion := c.motion, past := c.past,
    source := pictureSamples (cpW8 p) (cpH8 p) (fun x y => s.sourceAt p bf16 (base + y * pitch) x)
      (fun k y => s.sourceAt p bf16 (base + chroma + y * pitch) k),
    refs := (List.range 7).map fun k => match encRef b k with
      | some n => s.refSamples c n
      | none => [],
    refIdx := (List.range 7).map fun k => (encRef b k).bind slotOf, refresh := encRefresh b c,
    hp := cpCodec p = 1 && rdBits p 0x10 32 32 = 1 }

/-- The motion search of one block in every named reference: a block is of 8 × 8 luma samples or larger (R406). -/
def State.searchBlock (s : State) (c : Ctx) (b : List Byte) (x : EncBlock) : List Mv :=
  let bf16 := rdBits b 0x10 24 24 = 1
  let luma (i j : Nat) : Nat := s.sourceAt c.params bf16 (rdN b 8 8 + j * rdN b 0x10 3) i
  let rect := (x.rect.1, x.rect.2.1, max 8 x.rect.2.2.1, max 8 x.rect.2.2.2)
  (namedRefs b).map fun k =>
    s.searchIn c.params luma (c.bufs.getD ((encRef b k).getD 0) (0, 0, 0)) { rect := rect, pred := x.preds.getD k (0, 0), quant := x.quant }

/-- The search of every block that the encoder asks for, in its order; n bounds their number. -/
def State.searchAll (s : State) (c : Ctx) (b : List Byte) (inp : EncodeInput) :
    Nat → List (EncBlock × List Mv) → List (EncBlock × List Mv)
  | 0, l => l
  | n + 1, l => match Config.encodeNext inp l with
    | none => l
    | some x => s.searchAll c b inp n (l ++ [(x, s.searchBlock c b x)])

/-! ### The stream -/

/-- A number in groups of seven bits, the lowest first, as AV1 writes sizes; k bounds the groups. -/
def leb128 : Nat → Nat → List Byte
  | 0, _ => []
  | k + 1, n => if n < 128 then [BitVec.ofNat 8 n] else BitVec.ofNat 8 (n % 128 + 128) :: leb128 k (n / 128)

/-- An AV1 OBU of a type: with its size after the header, or with its length before it (Annex B). -/
def obu (annexB : Bool) (type : Nat) (bs : List Byte) : List Byte :=
  if annexB then leb128 8 (bs.length + 1) ++ BitVec.ofNat 8 (8 * type) :: bs
  else BitVec.ofNat 8 (8 * type + 2) :: leb128 8 bs.length ++ bs

/-- The payload of an AV1 sequence header states seq_profile 0, its first three bits (R384). -/
def profile0 (bs : List Byte) : List Byte :=
  match bs with
  | x :: l => (x &&& 0x1F) :: l
  | [] => [0]

/-- An AV1 temporal unit: a temporal delimiter, the sequence header with a key frame, and the frame (R405). -/
def temporalUnit (annexB key : Bool) (e : Encoded) : List Byte :=
  let obus := obu annexB 2 [] ++ (if key then obu annexB 1 (profile0 (e.heads.getD 0 [])) else []) ++ obu annexB 6 e.body.flatten
  if annexB then
    let frame := leb128 8 obus.length ++ obus
    leb128 8 frame.length ++ frame
  else obus

/-- Emulation prevention of a NAL unit: no two zero bytes are followed by a byte below 4; n counts the zeros just written. -/
def escaped : Nat → List Byte → List Byte
  | _, [] => []
  | n, x :: l =>
    if n = 2 && decide (x.toNat ≤ 3) then 3 :: x :: escaped (if x = 0 then 1 else 0) l
    else x :: escaped (if x = 0 then n + 1 else 0) l

/-- An HEVC NAL unit of a type in the byte-stream format. -/
def nalUnit (type : Nat) (bs : List Byte) : List Byte :=
  ([0, 0, 0, 1, BitVec.ofNat 8 (2 * type), 1] : List Byte) ++ escaped 0 bs

/-- A parameter set whose profile_tier_level begins at byte k: Main 10 (general_profile_idc 2), Main tier, and its level (R384). -/
def profiled (p : List Byte) (k : Nat) (bs : List Byte) : List Byte :=
  ((bs ++ List.replicate (k + 12 - bs.length) 0).set k 2).set (k + 11) (BitVec.ofNat 8 (rdN p 11 1))

/-- An HEVC access unit: the VPS, SPS and PPS with an IDR picture, and the slices (R405). -/
def accessUnit (p : List Byte) (key kept : Bool) (e : Encoded) : List Byte :=
  (if key then nalUnit 32 (profiled p 4 (e.heads.getD 0 [])) ++ nalUnit 33 (profiled p 1 (e.heads.getD 1 [])) ++ nalUnit 34 (e.heads.getD 2 [])
    else [])
  ++ e.body.flatMap (nalUnit (if key then 19 else if kept then 1 else 0))

/-- Largest encoded picture (R396, R405). -/
def encodeCap (p : List Byte) : Nat := 3 * cpW8 p * cpH8 p * cpDepth p / 16 + 8192

/-- What encoding makes of the picture of an ENCODE: the bytes of its unit, no more than the largest and than its capacity, runs
of bytes for the reconstruction, and the context after it (R393, R399, R405, R406). -/
def State.encoded (s : State) (c : Ctx) (b : List Byte) : List Byte × List (Nat × List Byte) × Ctx :=
  let p := c.params
  let (w, h) := (cpW8 p, cpH8 p)
  let r := rdN b 0x28 1
  let key := rdBits b 0x28 11 10 = 0
  let inp := s.encodeInput c b
  let e := Config.encodePicture inp (s.searchAll c b inp (w * h) [])
  let stream := if cpCodec p = 1 then temporalUnit (rdBits p 0 9 9 = 1) key e else accessUnit p key (rdBits b 0x28 9 8 ≠ 0) e
  let sample (i : Nat) : Nat := e.recon.getD i 0 % 2 ^ cpDepth p
  (stream.take (min (encodeCap p) (rdN b 0x20 4)),
    rectRuns p (c.bufs.getD r (0, 0, 0)) (0, 0, w, h) (fun x y => sample (y * w + x)) (fun k y => sample ((h + y) * w + k)),
    { encodeMarks b c with picNum := c.picNum + 1, recent := (r, w, h) :: c.recent.filter (fun x => x.1 ≠ r), past := e.past,
                           motion := (r, e.motion) :: c.motion.filter fun x => x.1 ≠ r })

end Sys2Proof.Machine
end

