-- ==== Sys2Proof/Machine/RegOps.lean ====
section
/-! DEFINITION. Shared operations on BAR0 registers: a write applied by the access codes of R9, and seals (R504, R505). -/

namespace Sys2Proof.Machine

open Sys2Proof

/-- First offsets of the RWL register arrays that carry a partition number as their index (R504). -/
def partitionBases : List Nat :=
  [rGazQuota 0 0, rSrvQuotaHbm 0 0, rSrvQuotaSid 0 0, rSrvHostpoolLo 0, rSrvHostpoolHi 0, rSrvHostpoolPages 0,
   rSrvHostpoolCfg 0, rSrvFabpoolLo 0 0, rSrvFabpoolHi 0 0, rSrvFabpoolPages 0 0, rXfeHostwinLo 0, rXfeHostwinHi 0,
   rXfeHostsizeLo 0, rXfeHostsizeHi 0, rVrlPartFab 0, rPrtCfg 0, rPrtShare 0, rPrtEngMxe 0, rPrtEngOther 0, rPrtSemBase 0,
   rPrtSemCount 0, rClkWarm 0]

/-- The partition whose seal covers the RWL fields of a register; none for those sealed with the device (R504, R333). -/
def State.sealScope (s : State) (off : Nat) : Option Nat :=
  match regAt off with
  | none => none
  | some (r, _, j, _) =>
    if partitionBases.contains r.base then some j
    else if rVrlWinLo 0 ≤ off ∧ off < rVrlWinLo 64 then some (s.fld (rVrlWinHi j) 20 16)
    else none

/-- Is the device sealed? -/
def State.devSealed (s : State) : Bool := s.sec.devSeal.isSome

/-- Are the RWL fields of a register sealed? -/
def State.isSealed (s : State) (off : Nat) : Bool :=
  match s.sealScope off with
  | some p => s.sealed p
  | none => s.devSealed

/-- A field after a write: RW and unsealed RWL take the value, each 1 clears a W1C bit, RO and WO keep (R9, R505). -/
def writeField (isSealed : Bool) (w old : Word) (f : RegField) : Word :=
  match f.acc with
  | .rw => setBits f.hi f.lo old (bits f.hi f.lo w)
  | .rwl => if isSealed then old else setBits f.hi f.lo old (bits f.hi f.lo w)
  | .w1c => setBits f.hi f.lo old (bits f.hi f.lo (old &&& ~~~w))
  | _ => old

/-- Does a write give a sealed RWL field bits that differ from its present value (R505)? -/
def breaksSeal (w old : Word) (f : RegField) : Bool :=
  match f.acc with
  | .rwl => decide (bits f.hi f.lo w ≠ bits f.hi f.lo old)
  | _ => false

/-- A word that reaches a register is counted when it differs from sealed fields (R505). -/
def State.noteBreak (s : State) (off : Nat) (w : Word) : State :=
  match regAt off with
  | none => s
  | some (r, _) =>
    if s.isSealed off && r.fields.any (breaksSeal w (s.reg off)) then (s.bump rSecRwlViol 1).setReg rSecRwlAddr (w32 off) else s

/-- A write of raw to a register of which w takes effect, by the access codes of its fields; a write to sealed fields is counted
(R9, R10, R505). -/
def State.writeRegAs (s : State) (off : Nat) (raw w : Word) : State :=
  match regAt off with
  | none => s
  | some (r, _) => (s.noteBreak off raw).setReg off (r.fields.foldl (writeField (s.isSealed off) w) (s.reg off))

/-- A write to a register that takes effect as it stands. -/
def State.writeReg (s : State) (off : Nat) (w : Word) : State := s.writeRegAs off w w

/-- The status register, with BUSY [0] and LOST [1], of a register whose writes are commands (R75, R205, R438, R488, R512, R534). -/
def cmdStatus (off : Nat) : Option Nat :=
  if off = rRngCmd then some rRngCmdStatus
  else if off = rPrtCmd then some rPrtCmdStatus
  else if off = rRstBlock then some rRstBlockStatus
  else if off = rRstDie then some rRstDieStatus
  else if off = rSecSealCmd then some rSecSealStatus
  else if off = rSecSvnCmd then some rSecSvnStatus
  else if off = rSecRcvCmd then some rSecRcvStatus
  else if off = rBstCmd then some rBstCmdStatus
  else ((List.range 4).find? fun d => off = rVxeTblCmd d).map rVxeTblStatus

/-- Does a word written to a command register name a command, or are its OP bits ignored? -/
def cmdNamed (off : Nat) (w : Word) : Bool :=
  if off = rRngCmd then bits 17 16 w = 1 || bits 17 16 w = 2
  else if off = rPrtCmd then decide (1 ≤ bits 10 8 w ∧ bits 10 8 w ≤ 5)
  else if off = rRstDie || off = rSecSealCmd || (List.range 4).any (fun d => off = rVxeTblCmd d) then bits 9 8 w = 1 || bits 9 8 w = 2
  else if off = rSecSvnCmd || off = rSecRcvCmd then bit 0 w
  else true

/-- A word is written to a command register: while BUSY it is lost; otherwise a command it names is in progress until the command of
its own row carries it out (log entry 32). ESCALATED returns to 0 at any write of RST_DIE (R482), and a START of a recovery
transfer that is lost also sets RESULT BUSY (R497). -/
def State.cmdWrite (s : State) (off st : Nat) (w : Word) : State :=
  if bit 0 (s.reg st) then
    let s := s.setFld st 1 1 1
    if off = rSecRcvCmd && bit 0 w then s.setFld st 7 4 8 else s
  else
    let s := if off = rRstDie && s.fld rRstDieStatus 7 4 = 3 then s.setFld rRstDieStatus 7 4 0 else s
    if cmdNamed off w then (s.setReg off w).setFld st 0 0 1 else s

/-- The command of a row is carried out: at once when none is in progress, or as the one that same says is in progress; with another
in progress it is lost. -/
def State.byCmd (s : State) (off st : Nat) (same : Word → Bool) (f : State → State) : State :=
  if !s.barOpen off then s
  else if !bit 0 (s.reg st) then f s
  else if same (s.reg off) then f ((s.setReg off 0).setFld st 0 0 0)
  else s.setFld st 1 1 1

/-- Counters of an engine's block (R146, R205, R244, R292, R361, R383, R412). -/
def engineCounters : EngKind → Nat → List Nat
  | .mxe, i => [rMxeCycLo i, rMxeCycHi i, rMxeStepsLo i, rMxeStepsHi i, rMxeSkipsLo i, rMxeSkipsHi i, rMxeWaits i, rMxeNonfinite i,
      rMxeOutliers i, rMxeStreamMiss i]
  | .vxe, i => [rVxeCycLo i, rVxeCycHi i, rVxeStepsLo i, rVxeStepsHi i, rVxeSkipsLo i, rVxeSkipsHi i, rVxeWaits i, rVxeNonfinite i,
      rVxeVarClamp i, rVxeEmptyRows i]
  | .cve, i => [rCveCycLo i, rCveCycHi i, rCveStepsLo i, rCveStepsHi i, rCveSkipsLo i, rCveSkipsHi i, rCveTapskipLo i, rCveTapskipHi i,
      rCveWaits i, rCveNonfinite i, rCveNfSat i]
  | .cde, i => [rCdeDecSamplesLo i, rCdeDecSamplesHi i, rCdeEncSamplesLo i, rCdeEncSamplesHi i, rCdeDisplaced i, rCdeDamaged i,
      rCdeConcealed i]
  | .xfe, i => [rXfeBytesLo i, rXfeBytesHi i, rXfeSrvBytesLo i, rXfeSrvBytesHi i]
  | .cle, i => [rCleTxLo i, rCleTxHi i, rCleRxLo i, rCleRxHi i, rCleChecksLo i, rCleChecksHi i, rCleStalls i, rClePoisons i,
      rCleDropped i, rCleStray i, rCleParks i, rCleNonfinite i]
  | .gaz, i => [rGazProbesLo i, rGazProbesHi i, rGazHitsLo i, rGazHitsHi i, rGazCreatesLo i, rGazCreatesHi i, rGazEvicts i]

/-- Counters of an Expander (R245). -/
def expCounters (i : Nat) : List Nat :=
  [rExpReadLo i, rExpReadHi i, rExpDlvLo i, rExpDlvHi i, rExpMacLo i, rExpMacHi i, rExpOldCopy i, rExpHoles i]
/-- Counters of a Surveyor (R290). -/
def srvCounters (i : Nat) : List Nat := [rSrvMovesLo i, rSrvMovesHi i, rSrvDemand i, rSrvLate i, rSrvIntentDrop i, rSrvPromoted i]

/-- ECC bits of an engine. -/
def engineEcc : EngKind → Nat → List Nat
  | .mxe, i => [rMxeEcc i]
  | .vxe, i => [rVxeEcc i]
  | .cve, i => [rCveEcc i]
  | .cde, i => [rCdeEcc i]
  | _, _ => []

end Sys2Proof.Machine
end

