-- ==== Sys2Proof/Machine/Codec.lean ====
section
/-! DEFINITION. The meanings of the codec commands (R384 to R412). -/

namespace Sys2Proof.Machine

open Sys2Proof

/-- Cause 1 of R396 for the arguments of a command, as far as they do not depend on the context (R395). -/
def cmdArgsBad (b : List Byte) : Bool :=
  let cmd := rdN b 0 1
  rdBits b 0 63 8 ≠ 0
  || (match cmd with
      | 1 => !zerosAt b 0x28 24
      | 2 => !zerosAt b 8 56
      | 3 => rdN b 0x14 4 ≠ 0 || decide (63 < rdN b 0x18 1) || rdBits b 0x18 63 9 ≠ 0 || !zerosAt b 0x20 32
      | 4 => rdBits b 0x10 31 25 ≠ 0 || rdN b 0x24 4 ≠ 0 || decide (63 < rdN b 0x28 1) || rdBits b 0x28 9 8 = 3
        || rdBits b 0x28 11 10 = 3 || rdBits b 0x28 63 13 ≠ 0 || rdN b 0x37 1 ≠ 0 || !zerosAt b 0x38 8
        || ((List.range 7).any fun k => decide (63 < rdN b (0x30 + k) 1) && rdN b (0x30 + k) 1 ≠ 255)
        || (let ty := rdBits b 0x28 11 10
            let ref (k : Nat) : Bool := rdN b (0x30 + k) 1 ≠ 255
            (ty = 0 && (List.range 7).any ref) || (ty = 1 && !ref 0) || (ty = 2 && !(ref 0 && ref 4)))
      | 5 => !zerosAt b 0x18 40
      | _ => true)

/-- Cause 1 of R396 for what depends on the context: pitches, RECON_MARK, REF_MASK (R395). -/
def cmdCtxBad (b : List Byte) (c : Ctx) : Bool :=
  match rdN b 0 1 with
  | 4 => pitchBad c.params (rdN b 0x10 3) (rdN b 0x14 4) (if rdBits b 0x10 24 24 = 1 then 2 else cpSample c.params)
      || (rdBits b 0x28 9 8 = 2 && cpCodec c.params = 1)
  | 5 => rdN b 0x10 8 ≠ 0 && !cpEncode c.params
  | _ => false

/-- The bytes of an ENCODE source's extent. -/
def srcExtent (b : List Byte) (c : Ctx) : Nat × Nat := bufExtent c.params (rdN b 8 8, rdN b 0x10 3, rdN b 0x14 4)

/-- Write the record and the 64 marks of an executed command (R397, R398). -/
def State.writeCmd (s : State) (wid a : Nat) (record : List Byte) (c : Ctx) : State :=
  (s.writeBytes wid (a + 0x40) (record ++ c.marks.flatMap (leBytes 2)) false).2

/-- What a record says of a picture: its decoded or encoded size, display size, crop offset and bit depth (R397). -/
structure PicHead where
  size  : Nat × Nat
  disp  : Nat × Nat
  crop  : Nat × Nat
  depth : Nat
  deriving DecidableEq, Repr

/-- The record of an executed command (R397). -/
def codecRecord (result pic units bytes : Nat) (p : PicHead) (picnum : Nat) : List Byte :=
  leBytes 8 (result % 256 + pic % 256 * 65536 + min units 0xFFFFFFFF * 2 ^ 32) ++ leBytes 8 (bytes % 2 ^ 32)
  ++ leBytes 2 p.size.1 ++ leBytes 2 p.size.2 ++ leBytes 2 p.disp.1 ++ leBytes 2 p.disp.2
  ++ leBytes 8 (p.crop.1 % 65536 + p.crop.2 % 65536 * 65536 + p.depth % 16 * 2 ^ 32) ++ leBytes 8 picnum ++ leBytes 24 0

/-- A command without a picture. -/
def noPicture : PicHead := { size := (0, 0), disp := (0, 0), crop := (0, 0), depth := 0 }

/-- The open context of a command, of the Waybill's partition (cause 2 of R396). -/
def State.ctxFor (s : State) (w : Wb) : Option Ctx := (s.ctx (wArg w.slot 1)).filter fun c => c.part = w.part

/-- Eligible CDEs of an OPEN (R387). -/
def State.openCdes (s : State) (p sel : Nat) : List Nat :=
  (s.usable p .cde).filter fun n => (sel = 0 || n + 1 = sel) && decide ((s.codec.ctxs.filter fun c => c.cde = n).length < 32)

/-- The registration of a new context (R387, R398). -/
def newCtx (id part cde : Nat) (p : List Byte) (t : List (Nat × Nat × Nat)) (save size : Nat) : Ctx :=
  { id := id, part := part, cde := cde, dir := if cpEncode p then 1 else 0, params := p, bufs := t, save := save, saveSize := size,
    marks := List.replicate 64 0, outSeq := 0, picNum := 0, seqBad := false, recent := [], due := [], slots := List.replicate 8 64,
    pocs := [], motion := [], past := 0 }

/-- An executed command without a picture ends: its record and the marks are written, and it leaves its queue (R397, R398). -/
def State.endCommand (s : State) (w : Wb) (c : Ctx) : State :=
  let s := ((s.startWb w).writeCmd w.wid (wArg w.slot 0) (codecRecord 0 255 0 0 noPicture c.picNum) c)
  match s.wb w.wid with
  | some w => s.endWb w.wid (accStatus w stOk) 0 (engSrc .cde c.cde)
  | none => s

/-- OPEN, its command block read: the parameter block and the table are read where they lie in the partition, then R396 is checked in its
order (what cannot be read breaks no cause that needs it), and a context is registered and bound to a CDE (R387, R389 to R391). -/
def State.openCtx (s : State) (w : Wb) (b : List Byte) : State :=
  let wid := w.wid
  let id := wArg w.slot 1
  let (pa, ta, sa, sn) := (rdN b 8 8, rdN b 0x10 8, rdN b 0x18 8, rdN b 0x20 8)
  let hasP := rangeInPart w.part pa 64
  let hasT := rangeInPart w.part ta 1024
  let (ok, s) := s.prepareFor wid 1 ((if hasP then [(pa, 64)] else []) ++ if hasT then [(ta, 1024)] else []) []
  if !ok then s
  else
    let p := s.readBytes pa 64
    let t := bufTable (s.readBytes ta 1024)
    let gaps := (List.range 64).any fun i => (s.readBytes (ta + 16 * i + 11) 1) ≠ [0]
    let s := if hasP then s.noteRead wid pa 64 else s
    let s := if hasT then s.noteRead wid ta 1024 else s
    match s.wb wid with
    | none => s
    | some w =>
      let bad (k : Nat) : State := s.endWb wid stWbFormat k 0
      let ex := if hasP && hasT then (t.filter fun e => e.1 ≠ 0).map (bufExtent p) else []
      let l := s.openCdes w.part (cpSel p)
      let held (n : Nat) : Nat := ((ex.flatMap fun r => pageSlices r.1 r.2).filter fun x => homeOf x.1 = n).foldl (fun k x => k + x.2) 0
      let pick := pickMin (fun x y => decide (held y < held x)) l
      if w.faults ≠ 0 || w.quota || w.poison then s.endWb wid (accStatus w stOk) 0 0
      else if cmdArgsBad b || (hasP && paramsBad p) || (hasT && gaps) then bad 1
      else if (s.ctx id).isSome then bad 2
      else if hasP && pick.isNone then bad 3
      else if hasP && hasT && tableBufBad p t (sa, sn) then bad 4
      else if hasP && decide (sn < saveNeed p) then bad 5
      else if pa % 64 ≠ 0 || ta % 64 ≠ 0 || sa % 4096 ≠ 0 || ex.any (fun r => r.1 % 256 ≠ 0) then s.endWb wid stWbAlign 0 0
      else match hasP && hasT && rangeInPart w.part sa sn && !ex.any (fun r => !rangeInPart w.part r.1 r.2), pick with
        | true, some n =>
          let c := newCtx id w.part n p t sa sn
          ({ s with codec := { s.codec with ctxs := insertByKey (·.id) c s.codec.ctxs } }).endCommand w c
        | _, _ => s.endWb wid stWbBounds 0 0

/-- CLOSE, its command block read: the context's registration ends (R391). -/
def State.closeCtx (s : State) (w : Wb) : State :=
  match s.ctxFor w with
  | none => s.endWb w.wid stWbFormat 2 0
  | some c =>
    let s := s.endCommand w c
    { s with codec := { s.codec with ctxs := s.codec.ctxs.filter (fun x => x.id ≠ c.id) } }

/-- Marks after a RELEASE (R399). -/
def releaseMarks (outM refM : Nat) (c : Ctx) : Ctx :=
  let clear (m i : Nat) : Nat :=
    let m := if outM.testBit i then mkMark (markRef m) false (markConc m) (m / 16) else m
    if refM.testBit i then withRef 0 m else m
  { c with marks := c.marks.zipIdx.map fun x => clear x.1 x.2 }

/-- RELEASE, its command block read: marks are cleared by the masks (R395, R399). -/
def State.releaseCtx (s : State) (w : Wb) (b : List Byte) : State :=
  match s.ctxFor w with
  | none => s.endWb w.wid stWbFormat 2 0
  | some c =>
    if cmdCtxBad b c then s.endWb w.wid stWbFormat 1 0
    else
      let c := releaseMarks (rdN b 8 8) (rdN b 0x10 8) c
      (s.updCtx c.id fun _ => c).endCommand w c

/-- A picture command that has passed R396 is queued at its context's CDE, which starts it at once when idle (R407). -/
def State.queuePicture (s : State) (w : Wb) (c : Ctx) : State :=
  if s.failed .cde c.cde then s.endWb w.wid stBlkBusy 0 0
  else
    let s := s.enqueue w c
    let x := s.cde c.cde
    let s := s.setCde { x with queue := updIf (fun q => decide (q.wid = w.wid)) (fun q => { q with checked := true }) x.queue }
    let s := s.serveCde c.cde
    match s.wb w.wid with
    | some w => if w.phase = .ready then s.preemptFor w .cde else s
    | none => s

/-- DECODE, its command block read: the checks of R396, then the picture is queued (R395, R399). -/
def State.beginDecode (s : State) (w : Wb) (b : List Byte) : State :=
  match s.ctxFor w with
  | none => s.endWb w.wid stWbFormat 2 0
  | some c =>
    let t := rdN b 0x18 1
    if cpEncode c.params then s.endWb w.wid stWbFormat 2 0
    else if !c.has t || !c.isFree t then s.endWb w.wid stWbFormat 6 0
    else if !rangeInPart w.part (rdN b 8 8) (rdN b 0x10 4) then s.endWb w.wid stWbBounds 0 0
    else if rdN b 0x10 4 = 0 && rdBits b 0x18 8 8 = 0 then s.endWb w.wid stOkEmpty 0 0
    else s.queuePicture w c

/-- ENCODE, its command block read: the checks of R396, then the picture is queued (R393, R395). In a decode context cause 2 is what is
wrong with it. -/
def State.beginEncode (s : State) (w : Wb) (b : List Byte) : State :=
  match s.ctxFor w with
  | none => s.endWb w.wid stWbFormat 2 0
  | some c =>
    let r := rdN b 0x28 1
    let refs := ((List.range 7).map fun k => rdN b (0x30 + k) 1).filter (· ≠ 255)
    let marked := ((encodeMarks b c).marks.filter fun m => markRef m ≠ 0).length
    let src := srcExtent b c
    if cmdCtxBad b c then s.endWb w.wid stWbFormat 1 0
    else if !cpEncode c.params then s.endWb w.wid stWbFormat 2 0
    else if !c.has r || !c.isFree r then s.endWb w.wid stWbFormat 6 0
    else if refs.any (fun k => !c.has k || markRef (c.marks.getD k 0) = 0) || (cpCodec c.params = 1 && decide (8 < marked)) then
      s.endWb w.wid stWbFormat 7 0
    else if rdN b 0x20 4 < encodeCap c.params then s.endWb w.wid stWbFormat 8 0
    else if src.1 % 256 ≠ 0 then s.endWb w.wid stWbAlign 0 0
    else if !rangeInPart w.part src.1 src.2 || !rangeInPart w.part (rdN b 0x18 8) (rdN b 0x20 4) then s.endWb w.wid stWbBounds 0 0
    else s.queuePicture w c

/-- A codec command whose turn has come: its block is read, where a fault or poison ends it, and it is checked and done by its CMD (R394,
R396). One that waits for a page keeps its place among the commands of its context (R252, R388). -/
def State.takeCommand (s : State) (w : Wb) : State :=
  let a := wArg w.slot 0
  let (ok, s) := s.prepareFor w.wid 0 [(a, 256)] [(a + 0x40, 192)]
  if !ok then
    match s.ctxFor w with
    | some c => s.enqueue w c
    | none => s
  else
    let b := s.readBytes a 64
    let s := s.noteRead w.wid a 64
    match s.wb w.wid with
    | none => s
    | some w =>
      let s :=
        if w.faults ≠ 0 || w.quota || w.poison then s.endWb w.wid (accStatus w stOk) 0 0
        else if rdN b 0 1 = 1 then s.openCtx w b
        else if cmdArgsBad b then s.endWb w.wid stWbFormat 1 0
        else match rdN b 0 1 with
          | 2 => s.closeCtx w
          | 3 => s.beginDecode w b
          | 4 => s.beginEncode w b
          | _ => s.releaseCtx w b
      if (s.wb w.wid).any fun w => w.phase = .ended then s.unqueue w.wid else s

/-- The commands of a context that wait for those before them are taken in turn, as far as each ends at once (R388); n bounds them. -/
def State.codecTurns (s : State) (ctx : Nat) : Nat → State
  | 0 => s
  | n + 1 =>
    match (s.codec.cdes.flatMap (·.queue)).find? fun q => q.ctx = ctx with
    | none => s
    | some q => match s.wb q.wid with
      | none => s
      | some w =>
        if q.checked || s.ctxBusy q.wid ctx then s
        else
          let t := s.takeCommand w
          if (t.wb q.wid).any fun w => w.phase = .ended then t.codecTurns ctx n else t

/-- The turns of a context's waiting commands. -/
def State.codecTurn (s : State) (ctx : Nat) : State := s.codecTurns ctx (s.codec.cdes.flatMap (·.queue)).length

/-- A CODEC Waybill's command comes to its CDE: the Waybill that a row names, when it may begin or waits for its turn, and its CMD is the
row's (one that is reserved is any row's). It passes R53; when its partition has no CDE it is BLK_BUSY (R435, R437); behind other
commands of its context it waits (R388); else it is taken, and then those that waited for it. -/
def State.beginCodec (s : State) (wid cmd : Nat) : State :=
  let waits := s.codec.cdes.any fun c => c.queue.any fun q => decide (q.wid = wid) && !q.checked
  match (if waits then s.wb wid else s.begin? wid opCodec) with
  | none => s
  | some w =>
    let ctx := wArg w.slot 1
    let o := (s.memByte (wArg w.slot 0)).toNat
    if o ≠ cmd && decide (1 ≤ o ∧ o ≤ 5) then s
    else if waits then (if s.ctxBusy wid ctx then s else (s.takeCommand w).codecTurn ctx)
    else s.checked w fun s =>
      if !((List.range 4).any fun i => s.inMask w.part .cde i && !s.fenced 2 i) then s.endWb wid stBlkBusy 0 0
      else match (s.ctxFor w).filter fun _ => s.ctxBusy wid ctx with
        | some c => s.enqueue w c
        | none => (s.takeCommand w).codecTurn ctx

/-- OPEN: a context is registered and bound to a CDE (R387, R389 to R391, R396). -/
def codecOpenStep (wid : Nat) (s : State) : State := s.beginCodec wid 1

/-- OPEN (R387). -/
def execCodecOpen (b : WbRead) (s : State) : Host.Outcome State Fault Refusal :=
  .next (codecOpenStep b.wid (s.meetsErr b.wid b.marks)).served

/-- CLOSE: a context's registration ends (R391). -/
def codecCloseStep (wid : Nat) (s : State) : State := s.beginCodec wid 2

/-- CLOSE (R391). -/
def execCodecClose (wid : Nat) (s : State) : Host.Outcome State Fault Refusal := .next (codecCloseStep wid s).served

/-- RELEASE: marks are cleared by the masks (R395, R399). -/
def codecReleaseStep (wid : Nat) (s : State) : State := s.beginCodec wid 5

/-- RELEASE of a codec context (R399). -/
def execCodecRelease (wid : Nat) (s : State) : Host.Outcome State Fault Refusal := .next (codecReleaseStep wid s).served

/-- DECODE: a unit is checked and queued (R395, R396). -/
def decodeStep (wid : Nat) (s : State) : State := s.beginCodec wid 3

/-- DECODE (R396). -/
def execDecode (wid : Nat) (s : State) : Host.Outcome State Fault Refusal := .next (decodeStep wid s).served

/-- ENCODE: a picture is checked and queued (R393, R395). -/
def encodeStep (wid : Nat) (s : State) : State := s.beginCodec wid 4

/-- ENCODE (R396). -/
def execEncode (wid : Nat) (s : State) : Host.Outcome State Fault Refusal := .next (encodeStep wid s).served

/-- CLASS_AGE: a queued command of class 2 or 3 has waited longer than AGE_MS (R407). -/
def classAgeStep (wid : Nat) (s : State) : State :=
  let age (q : CdCmd) : CdCmd := if q.wid = wid ∧ 2 ≤ q.cls ∧ s.fld (rCdeCfg (((s.ctx q.ctx).map (·.cde)).getD 0)) 31 16 ≠ 0
    then { q with aged := true } else q
  let l := s.codec.cdes.map fun c => { c with queue := c.queue.map age }
  { s with codec := { s.codec with cdes := l } }

/-- CLASS_AGE (R407). -/
def execClassAge (wid : Nat) (s : State) : Host.Outcome State Fault Refusal := .next (classAgeStep wid s)

/-- Tile rows of a picture that runs: TILE_ROWS of an ENCODE, those of the unit of a DECODE (R389, R408). -/
def State.tileRows (s : State) (r : CdRun) : Nat :=
  match s.wb r.wid, s.ctx r.ctx with
  | some w, some c =>
    if cpEncode c.params then rdN c.params 10 1
    else
      let inp := s.decodeInput c (s.readBytes (wArg w.slot 0) 64)
      let p := Config.parseUnit inp
      if decodeResult c.seqBad c.params inp.bits p none ≤ 1 then tileRowsOf c.params p else 1
  | _, _ => 1

/-- TILE_ROW_BOUNDARY: the running picture has reached the boundary before a tile row: it parks when its partition is suspended
there, and is displaced when a class-0 picture waits (R408, R409, R423). -/
def tileRowBoundaryStep (n row : Nat) (s : State) : State :=
  let c := s.cde n
  match c.run with
  | none => s
  | some r =>
    if row ≤ r.rows ∨ s.tileRows r ≤ row then s
    else
      let s := s.setCde { c with run := some { r with rows := row } }
      let live := r.cls ≠ 0 && (c.queue.any fun q => q.checked && decide (q.cls = 0) && s.cdeMay q.wid n)
        && !(c.asides.any fun x => !x.parked)
      if !s.cdeMay r.wid n then (s.setAside n row true).settleTakings
      else if live then s.setAside n row false
      else s

/-- TILE_ROW_BOUNDARY (R408). -/
def execTileRowBoundary (cde row : Nat) (s : State) : Host.Outcome State Fault Refusal := .next (tileRowBoundaryStep cde row s)

/-- Store runs of a picture in a frame buffer, inside its extent (R391); the lines of ranges whose samples come from poison are
marked (R404). -/
def State.writePicture (s : State) (wid : Nat) (e : Nat × Nat) (runs : List (Nat × List Byte)) (bad : List (Nat × Nat)) : State :=
  let s := runs.foldl (fun s r => (s.writeBytes wid (e.1 + r.1) (r.2.take (e.2 - r.1)) false).2) s
  if bad.isEmpty then s else (s.markAll (bad.flatMap fun r => linesOf r.1 r.2) true).notePoison wid

/-- The longest time that a DECODE takes, in ns (R401). -/
def decodeLimit (p : List Byte) : Nat := 2 * cpW8 p * cpH8 p * 1000000000 / 1990656000 + 200000

/-- What the end of a picture has come to: RESULT, units concealed, bitstream bytes consumed or written, what its record says of it, the
samples it counts, runs of bytes for its frame buffer, ranges of it that take poison, the bitstream of an ENCODE, and the context
after it. -/
structure PicEnd where
  result : Nat
  units  : Nat
  bytes  : Nat
  head   : PicHead
  count  : Nat
  runs   : List (Nat × List Byte)
  bad    : List (Nat × Nat)
  stream : List Byte
  after  : Ctx

/-- The end of a DECODE (R385, R397 to R404). -/
def State.decodeEnd (s : State) (c : Ctx) (b : List Byte) (decoded : Option Nat) : PicEnd :=
  let t := rdN b 0x18 1
  let e := c.bufs.getD t (0, 0, 0)
  let inp := s.decodeInput c b
  let p := Config.parseUnit inp
  let result := decodeResult c.seqBad c.params inp.bits p decoded
  let gone := goneUnits c.params inp.bits p decoded result
  let wrote := decide (result ≤ 2)
  let size := decodedSize c.params p
  { result := result, units := if wrote then gone.length else 0, bytes := min p.consumed inp.bits.length,
    head := { size := size, disp := p.disp, crop := p.crop, depth := p.seq.depth },
    count := if wrote then size.1 * size.2 else 0, runs := if wrote then s.decodedRuns c inp p gone e else [],
    bad := if wrote then s.predictedBad c p gone e else [], stream := [], after := c.decoded b inp p gone result }

/-- The end of an ENCODE (R397, R405). -/
def State.encodeEnd (s : State) (c : Ctx) (b : List Byte) : PicEnd :=
  let (stream, runs, after) := s.encoded c b
  { result := 0, units := 0, bytes := stream.length,
    head := { size := (cpW c.params, cpH c.params), disp := (cpW c.params, cpH c.params), crop := (0, 0), depth := cpDepth c.params },
    count := cpW8 c.params * cpH8 c.params, runs := runs, bad := [], stream := stream, after := after }

/-- The bytes of frame buffers that a picture reads: what a DECODE predicts or copies from, the references that an ENCODE names. -/
def State.pictureReads (s : State) (c : Ctx) (b : List Byte) (decoded : Option Nat) : List (Nat × Nat) :=
  if cpEncode c.params then (namedRefs b).map fun k => bufExtent c.params (c.bufs.getD ((encRef b k).getD 0) (0, 0, 0))
  else
    let inp := s.decodeInput c b
    let p := Config.parseUnit inp
    let result := decodeResult c.seqBad c.params inp.bits p decoded
    if result ≤ 2 then predictReads c p (goneUnits c.params inp.bits p decoded result) else []

/-- PICTURE_DONE: the running picture of a CDE ends: what the standard's process makes of it is written, with its marks and
record (R385, R397 to R406, R410). It waits for pages that must come (R252): first for its unit or source, then for the buffers that this
says it reads. -/
def pictureDoneStep (n : Nat) (pic : Picture) (m : Marks) (s : State) : State :=
  let q := s.cde n
  match q.run with
  | none => s
  | some r =>
    match s.wb r.wid, s.ctx r.ctx with
    | some w, some c =>
      let a := wArg w.slot 0
      let b := s.readBytes a 64
      let enc := cpEncode c.params
      let e := bufExtent c.params (c.bufs.getD (if enc then rdN b 0x28 1 else rdN b 0x18 1) (0, 0, 0))
      let src := if enc then srcExtent b c else (rdN b 8 8, rdN b 0x10 4)
      let (ok, s) := s.prepareFor w.wid 2 [(a, 64), src] [(a + 0x40, 192)]
      if !ok then s
      else
        let x := if enc then s.encodeEnd c b else s.decodeEnd c b pic.decoded
        let wrote := decide (x.result ≤ 2)
        let reads := s.pictureReads c b pic.decoded
        let (ok, s) := s.prepareFor w.wid 2 ((a, 64) :: src :: reads) ((a + 0x40, 192) :: (if wrote then [e] else []) ++ if enc then [(rdN b 0x18 8, x.stream.length)] else [])
        if !ok then s
        else
          let s := s.noteMarks m 0 w.ring (engSrc .cde n) (some w.part)
          let s := if Marks.sramUe m then (s.setFld (rCdeEcc n) 1 1 1).notePoison w.wid else s
          let s := if m.sram.any fun x => x.2.2 then s.setFld (rCdeEcc n) 0 0 1 else s
          let s := s.noteReads w.wid (src :: reads)
          let s := if wrote then s.writePicture w.wid e x.runs x.bad else s
          let s := if enc then (s.writeBytes w.wid (rdN b 0x18 8) x.stream false).2 else s
          let s := s.updCtx c.id fun _ => x.after
          let s := s.writeCmd w.wid a (codecRecord x.result (if wrote then (if enc then rdN b 0x28 1 else rdN b 0x18 1) else 255)
            x.units x.bytes x.head x.after.picNum) x.after
          let s := s.spoilSave w.wid x.after
          let s := if x.count = 0 then s else s.bump64 (if enc then rCdeEncSamplesLo n else rCdeDecSamplesLo n) x.count
          let damaged := decide (1 ≤ x.result ∧ x.result ≤ 3)
          let s := if damaged then (s.bump (rCdeDamaged n) 1).bump (rCdeConcealed n) x.units else s
          let s := if damaged && bit 1 (s.reg (rCdeCfg n)) then
              s.emitFor w.wid (ev 0x0900 lvBlock (some w.part) (engSrc .cde n) [c.id, x.result, x.units, x.after.picNum, w.ring]) else s
          let s := (s.setCde { q with run := none }).setUse .cde n none
          let limit := decodeLimit c.params
          let s := s.chargeWb w.wid (if enc then pic.ns else if pic.decoded.isSome then limit else min pic.ns limit)
          let s := match s.wb w.wid with
            | none => s
            | some w =>
              let st := accStatus w (if damaged then stOkConcealed else stOk)
              let d := if enc && st = stOk then x.bytes else if st = stOkConcealed then (if x.result = 3 then 0xFFFFFFFF else x.units) else 0
              s.endWb w.wid st d (engSrc .cde n)
          ((s.codecTurn c.id).serveCde n).settleTakings
    | _, _ => s

/-- PICTURE_DONE (R397). -/
def execPictureDone (cde : Nat) (pic : Picture) (m : Marks) (s : State) : Host.Outcome State Fault Refusal :=
  .next (pictureDoneStep cde pic m s).served

/-- CDE_CTR_CLR: the counters of a CDE block are set to 0 (R412). -/
def cdeCtrClrStep (i : Nat) (s : State) : State :=
  if i < 4 && s.barOpen (rCdeCtrClr i) then
    s.zeroRegs (engineCounters .cde i)
  else s

/-- CDE_CTR_CLR (R412). -/
def execCdeCtrClr (i : Nat) (s : State) : Host.Outcome State Fault Refusal := .next (cdeCtrClrStep i s)

end Sys2Proof.Machine
end

