-- ==== Sys2Proof/Machine/CollOps.lean ====
section
/-! DEFINITION. Shared operations of the Collective Engines: the descriptor and its checks, the parts and chunks of the ring
phases, what is sent and received, final bytes, signals, and the ends of a collective (R334 to R358). What a collective can
do at once it does; log entry 21. -/

namespace Sys2Proof.Machine

open Sys2Proof

/-- Is an operation one that reduces? -/
def cdReduces (d : List Byte) : Bool := decide (cdOp d ≤ 2)

/-- Bytes of n elements of a format, whole units (R151). -/
def wireLen (fmt n : Nat) : Nat := ceilDiv n (unitElems fmt) * unitBytes fmt

/-- Cause 1 of R335. -/
def cdBad (a : Assembly) (d : List Byte) : Bool :=
  let op := cdOp d
  let dt := cdDtype d
  rdBits d 0 31 22 ≠ 0 || rdBits d 0x10 63 52 ≠ 0 || rdBits d 0x50 31 19 ≠ 0 || rdN d 0x64 4 ≠ 0 || !zerosAt d 0x68 24
  || op = 0 || decide (4 < op) || decide (3 < cdRedop d) || !(dt = 1 || dt = 2 || dt = 9)
  || !(cdWire1 d = 1 || cdWire1 d = 2) || decide (4 < cdSel d) || cdLocals d = 0 || decide (4 < cdLocals d)
  || cdMembers d = 0 || decide (1024 < cdMembers d) || cdChunk d = 0 || decide (16384 < cdChunk d)
  || cdGrants d = 0 || decide (8 < cdGrants d)
  || ((List.range 4).any fun k => decide (cdLocals d ≤ k) && cdIn d k ≠ 0) || (op ≠ 4 && cdCounts d ≠ 0)
  || (if op ≤ 2 then cdRedop d = 0 || dt = 2 else cdRedop d ≠ 0 || cdLocals d ≠ 1)
  || decide (asmIoDies a < cdSel d) || (cdStream d && (cdSem d 18 48).isNone) || (dt = 2 && cdCount d % 32 ≠ 0)

/-- The entries of a member table: endpoint and group (R336). -/
def tableOf (n : Nat) (b : List Byte) : List (Nat × Nat) := (List.range n).map fun i => (rdN b (4 * i) 2, rdN b (4 * i + 2) 2)

/-- Does a member table breach R336? -/
def tableBad (t : List (Nat × Nat)) : Bool :=
  (t.zip (t.drop 1)).any (fun x => !(x.2.2 = x.1.2 || x.2.2 = x.1.2 + 1)) || (t.map (·.2)).headD 1 ≠ 0
  || (let g := (t.map (·.2)).getLastD 0 + 1
      (List.range g).any fun k => (t.filter fun x => x.2 = k).length ≠ groupSize t)
  || !decide ((t.map (·.1)).Nodup)

/-- S: ranks in a group. -/
def Coll.s (c : Coll) : Nat := groupSize c.table
/-- G: groups. -/
def Coll.g (c : Coll) : Nat := c.table.length / max 1 c.s
/-- The module's group and rank. -/
def Coll.pos (c : Coll) : Nat × Nat := (c.me / max 1 c.s, c.me % max 1 c.s)
/-- L: elements of a piece (R339). -/
def pieceLen (count n : Nat) : Nat := 256 * ceilDiv count (256 * n)
/-- L of a collective. -/
def Coll.len (c : Coll) : Nat := pieceLen (cdCount c.desc) c.table.length
/-- CH: elements of a chunk. -/
def Coll.ch (c : Coll) : Nat := 256 * cdChunk c.desc
/-- Chunks of a piece. -/
def Coll.perPiece (c : Coll) : Nat := ceilDiv c.len c.ch
/-- The piece that this member owns (R340). -/
def Coll.own (c : Coll) : Nat := c.pos.2 * c.g + c.pos.1
/-- Elements of an output chunk: piece, first element within the piece, number (R339). -/
def Coll.span (c : Coll) (k : Nat) : Nat × Nat × Nat :=
  let p := k / max 1 c.perPiece
  let o := k % max 1 c.perPiece * c.ch
  (p, o, min c.ch (c.len - o))
/-- Chunks of a piece, by number. -/
def Coll.chunks (c : Coll) (p : Nat) : List Nat := (List.range c.perPiece).map fun i => p * c.perPiece + i

/-- A phase's ring: participants, own position, member index of position j, and the pieces of part j (R340). -/
def Coll.ring (c : Coll) (ph : Nat) : Nat × Nat × (Nat → Nat) × (Nat → List Nat) :=
  let (g, r) := c.pos
  if ph = 1 || ph = 4 then (c.s, r, fun j => g * c.s + j, fun j => (List.range c.g).map fun i => j * c.g + i)
  else (c.g, g, fun j => j * c.s + r, fun j => [r * c.g + j])

/-- The ring phases of an operation that run (R338). -/
def Coll.phases (c : Coll) : List Nat :=
  let l := match cdOp c.desc with
    | 1 => [1, 2, 3, 4]
    | 2 => [1, 2]
    | 3 => [3, 4]
    | _ => []
  l.filter fun ph => decide (1 < (c.ring ph).1)

/-- Is a phase a reduce-scatter? -/
def isRs (ph : Nat) : Bool := decide (ph ≤ 2)

/-- Format in which final bytes are formed: the wire format of the last reduce phase that runs (R342); 0 when no phase above
level 0 runs. -/
def Coll.finalFmt (c : Coll) : Nat :=
  if cdDtype c.desc = 2 then 2 else if 1 < c.g then 2 else if 1 < c.s then cdWire1 c.desc else 0

/-- Format on the wire of a phase, or of a slot to or from member i (R337, R342, R357). -/
def Coll.wireFmt (c : Coll) (ph i : Nat) : Nat :=
  if cdDtype c.desc = 2 then 2
  else if ph = 1 then cdWire1 c.desc
  else if ph = 2 then 2
  else if ph = 5 then (if i / max 1 c.s = c.pos.1 then cdWire1 c.desc else 2)
  else c.finalFmt

/-- Elements that member i sends here, by its JOIN (R357). -/
def Coll.rcount (c : Coll) (i : Nat) : Option Nat := (c.joins.find? fun x => x.1 = i).map (·.2)

/-- Elements of a chunk on the wire: of an output chunk, or of chunk k of a slot of n elements. -/
def Coll.elems (c : Coll) (ph k n : Nat) : Nat := if ph = 5 then min c.ch (n - k * c.ch) else (c.span k).2.2

/-- What this member sends in the ring phases: phase, step, chunk, receiver (R340). -/
def Coll.sends (c : Coll) : List (Nat × Nat × Nat × Nat) :=
  c.phases.flatMap fun ph =>
    let (n, q, who, part) := c.ring ph
    (List.range (n - 1)).flatMap fun t =>
      let j := if isRs ph then (q + 2 * n - t - 1) % n else (q + n - t) % n
      ((part j).flatMap c.chunks).map fun k => (ph, t, k, who ((q + 1) % n))

/-- What this member receives in the ring phases: phase, step, chunk, sender (R340). -/
def Coll.recvs (c : Coll) : List (Nat × Nat × Nat × Nat) :=
  c.phases.flatMap fun ph =>
    let (n, q, who, part) := c.ring ph
    (List.range (n - 1)).flatMap fun t =>
      let j := if isRs ph then (q + 2 * n - t - 2) % n else (q + 2 * n - 1 - t) % n
      ((part j).flatMap c.chunks).map fun k => (ph, t, k, who ((q + n - 1) % n))

/-- The other members. -/
def Coll.others (c : Coll) : List Nat := (List.range c.table.length).filter (· ≠ c.me)
/-- Is the collective an ALL_TO_ALL_V? -/
def Coll.a2a (c : Coll) : Bool := decide (cdOp c.desc = 4)
/-- Endpoint of a member. -/
def Coll.ep (c : Coll) (i : Nat) : Nat := (c.table.getD i (0, 0)).1
/-- Index of the member with an endpoint. -/
def Coll.indexOf (c : Coll) (ep : Nat) : Option Nat := (c.table.zipIdx.find? fun x => x.1.1 = ep).map (·.2)

/-- Slots of ALL_TO_ALL_V that this member sends: phase 5, receiver as step, chunk, receiver. -/
def Coll.slotSends (c : Coll) : List (Nat × Nat × Nat × Nat) :=
  if !c.a2a then []
  else c.others.flatMap fun i => (List.range (ceilDiv (c.scount.getD i 0) c.ch)).map fun k => (5, 0, k, i)

/-- Slots of ALL_TO_ALL_V that this member receives, as far as JOINs tell. -/
def Coll.slotRecvs (c : Coll) : List (Nat × Nat × Nat × Nat) :=
  if !c.a2a then []
  else c.others.flatMap fun i => (List.range (ceilDiv ((c.rcount i).getD 0) c.ch)).map fun k => (5, 0, k, i)

/-- Everything received, in the order of use. -/
def Coll.expected (c : Coll) : List (Nat × Nat × Nat × Nat) := c.recvs ++ c.slotRecvs

/-- Output chunks that the member signals (R350). -/
def Coll.outputs (c : Coll) : List Nat :=
  if cdCount c.desc = 0 then []
  else match cdOp c.desc with
    | 2 => c.chunks c.own
    | 4 => List.range c.table.length
    | _ => List.range (c.table.length * c.perPiece)

/-- Shape word (R345). -/
def Coll.shape (c : Coll) : Word :=
  let d := c.desc
  crc32c (leBytes 1 (cdOp d) ++ leBytes 1 (cdRedop d) ++ leBytes 1 (cdDtype d) ++ leBytes 1 (cdWire1 d)
    ++ leBytes 4 (cdCount d) ++ leBytes 4 (cdSeq d) ++ leBytes 2 (cdMembers d) ++ leBytes 2 (cdChunk d)
    ++ c.table.flatMap fun x => leBytes 2 x.1 ++ leBytes 2 x.2)

/-- A collective. -/
def State.coll (s : State) (wid : Nat) : Option Coll := s.colls.list.find? fun c => c.wid = wid
/-- Change a collective. -/
def State.updColl (s : State) (wid : Nat) (f : Coll → Coll) : State :=
  { s with colls := { s.colls with list := updIf (fun c => decide (c.wid = wid)) f s.colls.list } }
/-- Forget a collective. -/
def State.dropColl (s : State) (wid : Nat) : State :=
  { s with colls := { s.colls with list := s.colls.list.filter (fun c => c.wid ≠ wid) } }

/-- The INC that a collective has fixed for an endpoint (R324, R354). -/
def Coll.incOf (c : Coll) (ep : Nat) : Option Nat := (c.incs.find? fun x => c.ep x.1 = ep).map (·.2)

/-- Send a collective message, if its peer is PRESENT with the INC fixed for it and a port is in service; on a route through a fenced
die it is lost (R321, R324, R344, R519). -/
def State.collOut (s : State) (o : OwedMsg) : Option State :=
  match s.collPort o, s.peer o.dst with
  | some n, some p =>
    let fixed := match o.inc, s.coll o.wid with
      | some v, _ => some v
      | none, some c => c.incOf o.dst
      | none, none => some p.inc
    if p.st = .present && fixed = some p.inc then
      let m : Msg := { dst := o.dst, src := s.vrl.ep, tag := o.tag, op := 0x10, vc := 2, len := o.body.length, inc := p.inc,
                       poison := o.poison, status := 0, off := o.off, mdata := o.mdata, body := o.body }
      let s := s.updPeer o.dst fun p => { p with used := s.aon }
      some (if s.routeOut (3, o.cle) (3, n / 25) then s else s.queueMsg n 2 (msgBytes m) (.coll o))
    else none
  | _, _ => none

/-- Send one collective message to member i, now or as soon as it can leave: kind, phase, step, chunk, its place j among the messages
of the chunk, the upper half of MDATA, data with POISON bits (R343, R344). -/
def State.collSend (s : State) (c : Coll) (i kind ph t k j hi : Nat) (data : List Byte) (poison : Nat) : State :=
  let o : OwedMsg := { wid := c.wid, cle := c.cle, dst := c.ep i, inc := c.incOf (c.ep i), place := j, tag := cdWireId c.desc,
                       off := kind + ph * 16 + t % 256 * 256 + k % 2 ^ 32 * 2 ^ 16, mdata := cdSeq c.desc + hi % 2 ^ 32 * 2 ^ 32,
                       body := data, poison := poison }
  (s.collOut o).getD { s with colls := { s.colls with owed := s.colls.owed ++ [o] } }

/-- Have an endpoint resolved for a collective; a wait for a place in the peer table counts once (R321, R322). -/
def State.collSeek (s : State) (wid ep : Nat) : State :=
  let s := s.resolve ep
  let others := s.colls.full.filter fun x => x ≠ (wid, ep)
  if (s.peer ep).isSome then { s with colls := { s.colls with full := others } }
  else if s.colls.full.contains (wid, ep) then s
  else ({ s with colls := { s.colls with full := others ++ [(wid, ep)] } }).bump rVrlPeerFull 1

/-- Send the messages that waited, as far as they can leave now. GRANT, DATA and CHECK of a parked collective wait on; those of one
that is poisoned or over are not sent, nor is what would reach another incarnation of its member (R324, R351, R355). -/
def State.sendOwed (s : State) : State :=
  s.colls.owed.foldl (fun s o =>
    let keep (s : State) : State := { s with colls := { s.colls with owed := s.colls.owed ++ [o] } }
    let kind := o.off % 16
    let live := s.coll o.wid
    if (kind = 2 || kind = 3 || kind = 4) && live.all (fun c => c.poisoned.isSome) then s
    else if (kind = 2 || kind = 3 || kind = 4) && live.any (·.parked) then keep s
    else match s.collOut o with
      | some s => s
      | none => match s.peer o.dst with
        | none => keep (s.collSeek o.wid o.dst)
        | some p =>
          if p.st = .resolving then keep s
          else if p.st = .gone then (if o.inc.isSome then s else keep (s.collSeek o.wid o.dst))
          else if o.inc.any (· ≠ p.inc) then s
          else keep s) { s with colls := { s.colls with owed := [] } }

/-- Fix the INC of a member, when its peer is present; else have it resolved (R321, R324, R354). -/
def State.collPeer (s : State) (wid i : Nat) : Bool × State :=
  match s.coll wid with
  | none => (false, s)
  | some c =>
    if c.incs.any fun x => x.1 = i then (true, s)
    else match s.peer (c.ep i) with
      | some p =>
        if p.st = .present then (true, s.updColl wid fun c => { c with incs := c.incs ++ [(i, p.inc)] })
        else if p.st = .gone then (false, s.collSeek wid (c.ep i))
        else (false, s)
      | none => (false, s.collSeek wid (c.ep i))

/-- JOIN to a member. -/
def State.sendJoin (s : State) (c : Coll) (i : Nat) : State :=
  s.collSend c i 1 0 0 (c.scount.getD i 0) 0 c.shape.toNat [] 0

/-- JOINs to the members that have not been sent one and can be reached (R345). -/
def State.sendJoins (s : State) (wid : Nat) : State :=
  match s.coll wid with
  | none => s
  | some c => c.others.foldl (fun s i =>
      if c.said.contains i then s
      else
        let (ok, s) := s.collPeer wid i
        match ok && !(s.clePorts c.cle).isEmpty, s.coll wid with
        | true, some c => (s.sendJoin c i).updColl wid fun c => { c with said := c.said ++ [i] }
        | _, _ => s) s

/-- Are byte ranges of the inputs ready (R348)? -/
def State.inputReady (s : State) (c : Coll) (ranges : List (Nat × Nat)) : Bool :=
  let bySem := match cdSem c.desc 18 48 with
    | none => !cdStream c.desc
    | some i => match s.semIndex c.part i with
      | none => true
      | some k => decide (cdReadyValue c.desc ≤ (s.sem k).toNat)
  bySem || cdStream c.desc && ranges.all fun r =>
    -- the notices' ranges cover every byte of the range
    ((sortByKey (·.1) c.ready).foldl (fun (p : Nat) (x : Nat × Nat) => if x.1 ≤ p then max p (x.1 + x.2) else p) r.1) ≥ r.1 + r.2

/-- Byte range of n elements from element i of a buffer. -/
def elemRange (fmt base i n : Nat) : Nat × Nat := (base + i / unitElems fmt * unitBytes fmt, wireLen fmt n)

/-- Where the real elements of output chunk k lie in the inputs: first element within the buffer, and how many are not
padding (R338, R339). -/
def Coll.inSpan (c : Coll) (k : Nat) : Nat × Nat :=
  let (p, o, n) := c.span k
  let first := p * c.len + o
  (if cdOp c.desc = 3 then o else first, min n (cdCount c.desc - first))

/-- Byte ranges of the inputs that hold output chunk k. -/
def Coll.inRanges (c : Coll) (k : Nat) : List (Nat × Nat) :=
  let (i, n) := c.inSpan k
  if n = 0 then [] else (List.range (cdLocals c.desc)).map fun j => elemRange (cdDtype c.desc) (cdIn c.desc j) i n

/-- Bytes with a poison flag each, read from device memory. -/
def State.flagged (s : State) (a n : Nat) : List (Byte × Bool) :=
  let bs := s.readBytes a n
  if s.readBad a n then
    (lineSlices a n).flatMap fun l => (s.readBytes l.1 l.2).map fun b => (b, s.readBad l.1 l.2)
  else bs.map fun b => (b, false)

/-- Values of stored bytes: one word for each element, with its poison flag (R151, R154). -/
def valuesOf (fmt : Nat) (bs : List (Byte × Bool)) : List (Word × Bool) :=
  (chunksOf (unitBytes fmt) bs.length bs).flatMap fun u =>
    let bad := u.any (·.2)
    let b := u.map (·.1)
    if fmt = 1 then [(BitVec.ofNat 32 (leNat b * 65536), bad)]
    else if fmt = 9 then [(BitVec.ofNat 32 (leNat b), bad)]
    else (decodeRow 2 (fun _ => false) b).1.map fun e => (toF32 (elemVal e), bad)

/-- Stored bytes of values, with a poison flag for each byte; groups of 32 are completed with +0.0 (R156, R342). -/
def bytesOf (fmt : Nat) (vs : List (Word × Bool)) : List (Byte × Bool) :=
  if fmt = 2 then
    (chunksOf 32 vs.length vs).flatMap fun g =>
      let bad := g.any (·.2)
      let full := g.map (·.1) ++ List.replicate (32 - g.length) f32Zero
      (quantGroup8 2 (full.map ofF32)).1.map fun b => (b, bad)
  else vs.flatMap fun v =>
    let b := if fmt = 1 then leBytes 2 (toBf16 (ofF32 v.1)) else leBytes 4 v.1.toNat
    b.map fun x => (x, v.2)

/-- The operator of REDOP on FP32 values (R341). -/
def combine (redop : Nat) (a b : Word × Bool) : Word × Bool :=
  let f := if redop = 2 then nmax else if redop = 3 then nmin else nadd
  (toF32 (f (ofF32 a.1) (ofF32 b.1)), a.2 || b.2)

/-- Level 0: the member's value of output chunk k, with padding as +0.0 (R339, R341). -/
def State.level0 (s : State) (c : Coll) (k : Nat) : List (Word × Bool) :=
  let (i, n) := c.inSpan k
  let pad := List.replicate ((c.span k).2.2 - n) (f32Zero, false)
  let ins := (List.range (cdLocals c.desc)).map fun j =>
    let r := elemRange (cdDtype c.desc) (cdIn c.desc j) i n
    (valuesOf (cdDtype c.desc) (s.flagged r.1 r.2)).take n
  (match ins with
   | [] => []
   | v :: r => r.foldl (fun a b => (a.zip b).map fun x => combine (cdRedop c.desc) x.1 x.2) v) ++ pad

/-- Count the reads of the inputs of a chunk. -/
def State.countInputs (s : State) (c : Coll) (k : Nat) : State :=
  (c.inRanges k).foldl (fun s r => s.noteRead c.wid r.1 r.2) s

/-- The member's partial of a chunk on entering a reduce phase: v, or for level 2 what level 1 made of it (R340). -/
def State.partial? (s : State) (c : Coll) (ph k : Nat) : Option (List (Word × Bool)) :=
  if ph = 2 && c.phases.contains 1 then
    (c.parts.find? fun x => x.1 = (1, k)).map (·.2)
  else if s.inputReady c (c.inRanges k) then some (s.level0 c k) else none

/-- Poison flags of the 64-byte chunks of a message's data (R306). -/
def flagBits (l : List Bool) : Nat :=
  ((List.range 4).map fun i => if ((l.drop (64 * i)).take 64).any id then 2 ^ i else 0).sum

/-- Send the DATA messages of one chunk and its CHECK (R343, R349). -/
def State.sendChunk (s : State) (c : Coll) (ph t k i : Nat) (bs : List (Byte × Bool)) (crc : Word) : State :=
  let ms := (chunksOf 256 bs.length bs).zipIdx
  let s := ms.foldl (fun s m =>
    s.collSend c i 3 ph t k m.2 (256 * m.2) (m.1.map (·.1)) (flagBits (m.1.map (·.2)))) s
  (s.collSend c i 4 ph t k ms.length crc.toNat [] 0).bump64 (rCleTxLo c.cle) bs.length

/-- Write an output range, counting non-finite elements and marking the lines that poison reaches (R342, R353). -/
def State.writeOut (s : State) (c : Coll) (a : Nat) (vs : List (Word × Bool)) (raw : List (Byte × Bool)) : State :=
  let n := (vs.filter fun v => nonFinite v.1).length
  let s := (s.updColl c.wid fun c => { c with nonfin := c.nonfin + n }).bump (rCleNonfinite c.cle) n
  let bad := raw.any (·.2)
  let s := if bad then s.notePoison c.wid else s
  if raw.isEmpty then s
  else if !bad then (s.writeBytes c.wid a (raw.map (·.1)) false).2
  else (lineSlices a raw.length).foldl (fun s l =>
    let part := (raw.drop (l.1 - a)).take l.2
    (s.writeBytes c.wid l.1 (part.map (·.1)) (part.any (·.2))).2) s

/-- The values written to an output, and their bytes, from wire values: FP32 exactly, or BF16 by RNE; DTYPE 2 as carried (R337, R342). -/
def outBytes (d : List Byte) (fmt n : Nat) (wire : List (Byte × Bool)) : List (Word × Bool) × List (Byte × Bool) :=
  let raw := if cdDtype d = 2 then wire.take (wireLen 2 n) else bytesOf (cdDtype d) ((valuesOf fmt wire).take n)
  ((valuesOf (cdDtype d) raw).take n, raw)

/-- Elements of output chunk k without padding, and the bytes of the output that hold them (R338, R342). -/
def Coll.outSpan (c : Coll) (k : Nat) : Nat × Nat × Nat :=
  let (p, o, n) := c.span k
  let real := min n (cdCount c.desc - (p * c.len + o))
  (real, elemRange (cdDtype c.desc) (cdOut c.desc) (if cdOp c.desc = 2 then o else p * c.len + o) real)

/-- Write output chunk k from its final bytes (or, with no phase above level 0, from v), without padding (R338, R342). -/
def State.writeChunk (s : State) (c : Coll) (k fmt : Nat) (wire : List (Byte × Bool)) : State :=
  let (real, r) := c.outSpan k
  let (vs, raw) := outBytes c.desc fmt real wire
  s.writeOut c r.1 vs raw

/-- The accesses of a collective for one chunk, as the place of an access in its Waybill: of its use on receipt (0), on sending (1), of an
own chunk (2) or slot (3); the descriptor's and the counts' come before. -/
def collKey (use ph t k i : Nat) : Nat := 4 + use + 4 * (ph + 8 * (t + 1024 * (i + 1024 * k)))

/-- A chunk of this member's own piece becomes final: its bytes and CRC are formed and the output is written (R342, R349). -/
def State.formFinal (s : State) (wid k : Nat) (vs : List (Word × Bool)) (raw : Option (List (Byte × Bool))) : State :=
  match s.coll wid with
  | none => s
  | some c =>
    let fmt := if c.finalFmt = 0 then 9 else c.finalFmt
    let wire := raw.getD (bytesOf fmt vs)
    let bytes := wire.map (·.1)
    let f : FinalChunk := { chunk := k, bytes := bytes, flags := wire.map (·.2), crc := crc32c bytes, own := true }
    let s := (s.updColl wid fun c => { c with finals := c.finals ++ [f] }).bump64 (rCleChecksLo c.cle) 1
    s.writeChunk c k fmt wire

/-- Own chunks that become final with no reduce phase: of ALL_GATHER, or when no phase above level 0 runs (R338, R342). -/
def State.formOwn (s : State) (wid : Nat) : State :=
  match s.coll wid with
  | none => s
  | some c =>
    if c.a2a || c.phases.any isRs then s
    else (c.chunks c.own).foldl (fun s k =>
      if (c.finals.any fun f => f.chunk = k) || !s.inputReady c (c.inRanges k) then s
      else s.accessing wid (collKey 2 0 0 k 0) (c.inRanges k) [(c.outSpan k).2] fun s =>
        let vs := s.level0 c k
        let (i, n) := c.inSpan k
        let r := elemRange 2 (cdIn c.desc 0) i n
        let raw := if cdDtype c.desc = 2 then
            some (s.flagged r.1 (wireLen 2 n) ++ List.replicate (wireLen 2 (c.span k).2.2 - wireLen 2 n) (0, false))
          else none
        (s.countInputs c k).formFinal wid k vs raw) s

/-- The bytes of a chunk received so far, when complete, with a poison flag each. -/
def RxChunk.whole (x : RxChunk) (n : Nat) : Option (List (Byte × Bool)) :=
  let l := sortByKey (·.1) x.got
  let bs := l.flatMap fun g => g.2.1.zipIdx.map fun b => (b.1, g.2.2.testBit (b.2 / 64))
  if bs.length = n && (l.foldl (fun (p : Option Nat) g => match p with
      | some o => if g.1 = o then some (o + g.2.1.length) else none
      | none => none) (some 0)).isSome then some bs
  else none

/-- Wire bytes of a chunk that is received. -/
def Coll.rxBytes (c : Coll) (ph k i : Nat) : Nat :=
  wireLen (c.wireFmt ph i) (c.elems ph k ((c.rcount i).getD 0))

/-- What this member sends when it forwards a chunk of an all-gather phase that it has received: the next step of that phase or, when
that was the last, the first of L1-AG (R340). -/
def Coll.forward (c : Coll) (x : RxChunk) : Option (Nat × Nat × Nat × Nat) :=
  if isRs x.phase || x.phase = 5 then none
  else c.sends.find? fun u => decide (u.2.2.1 = x.chunk) &&
    (decide (u.1 = x.phase ∧ u.2.1 = x.t + 1) || decide (x.phase = 3 ∧ u.1 = 4 ∧ u.2.1 = 0))

/-- One GRANT for a chunk that has been combined or forwarded, or written when it goes to no one else (R346; DEDUCED: log
entry 91). -/
def State.grantOne (s : State) (c : Coll) (x : RxChunk) : State :=
  if c.poisoned.isSome || c.parked then s else s.collSend c x.src 2 x.phase x.t x.chunk 0 1 [] 0

/-- Use a received chunk: combine it, or take and write final bytes, or place it in its slot (R340, R342, R346, R357). -/
def State.useChunk (s : State) (wid : Nat) (x : RxChunk) : State :=
  match s.coll wid with
  | none => s
  | some c =>
    match x.whole (c.rxBytes x.phase x.chunk x.src) with
    | none => s
    | some wire =>
      let fmt := c.wireFmt x.phase x.src
      let same (y : RxChunk) : Bool := decide (y.phase = x.phase ∧ y.t = x.t ∧ y.chunk = x.chunk ∧ y.src = x.src)
      let done (s : State) : State :=
        let s := s.updColl wid fun c => { c with rx := updIf same (fun y => { y with done := true }) c.rx }
        if (c.forward x).isSome then s else s.grantOne c x
      let key := collKey 0 x.phase x.t x.chunk x.src
      if x.phase = 5 then
        let n := c.elems 5 x.chunk ((c.rcount x.src).getD 0)
        let (vs, raw) := outBytes c.desc fmt n wire
        let r := elemRange (cdDtype c.desc) (cdOut c.desc) (x.src * cdCount c.desc + x.chunk * c.ch) n
        s.accessing wid key [] [r] fun s => done (s.writeOut c r.1 vs raw)
      else if isRs x.phase then
        let inputs := if x.phase = 2 && c.phases.contains 1 then [] else c.inRanges x.chunk
        let last := x.t + 2 = (c.ring x.phase).1 && !(c.phases.any fun p => isRs p && decide (x.phase < p))
        if (s.partial? c x.phase x.chunk).isNone then s
        else s.accessing wid key inputs (if last then [(c.outSpan x.chunk).2] else []) fun s =>
          let own := (s.partial? c x.phase x.chunk).getD []
          let vs := ((valuesOf fmt wire).zip own).map fun p => combine (cdRedop c.desc) p.1 p.2
          let s := if inputs.isEmpty then s else s.countInputs c x.chunk
          let s := s.updColl wid fun c => { c with parts := (c.parts.filter fun p => p.1 ≠ (x.phase, x.chunk)) ++ [((x.phase, x.chunk), vs)] }
          done (if last then s.formFinal wid x.chunk vs none else s)
      else
        let f : FinalChunk := { chunk := x.chunk, bytes := wire.map (·.1), flags := wire.map (·.2), crc := x.check.getD 0,
                                own := false }
        s.accessing wid key [] [(c.outSpan x.chunk).2] fun s =>
          done ((s.updColl wid fun c => { c with finals := c.finals ++ [f] }).writeChunk c x.chunk fmt wire)

/-- Use every received chunk that can be used, in the order of the phases. -/
def State.useChunks (s : State) (wid : Nat) : State :=
  match s.coll wid with
  | none => s
  | some c => (sortByKey (fun x => x.phase * 65536 + x.t) (c.rx.filter fun x => !x.done)).foldl (fun s x => s.useChunk wid x) s

/-- The bytes of a chunk to send and the CRC its CHECK carries, when they are at hand (R340, R342, R349). -/
def State.sendable (s : State) (c : Coll) (ph t k i : Nat) : Option (List (Byte × Bool) × Word) :=
  let plain (bs : List (Byte × Bool)) : List (Byte × Bool) × Word := (bs, crc32c (bs.map (·.1)))
  if ph = 5 then
    let n := c.elems 5 k (c.scount.getD i 0)
    let r := elemRange (cdDtype c.desc) (cdIn c.desc 0) (i * cdCount c.desc + k * c.ch) n
    if !s.inputReady c [r] then none
    else
      let bs := s.flagged r.1 r.2
      some (plain (if cdDtype c.desc = 2 then bs else bytesOf (c.wireFmt 5 i) (valuesOf (cdDtype c.desc) bs)))
  else if isRs ph then
    let vs := if t = 0 then s.partial? c ph k
      else if c.rx.any fun x => x.done && decide (x.phase = ph ∧ x.t + 1 = t ∧ x.chunk = k) then
        (c.parts.find? fun x => x.1 = (ph, k)).map (·.2)
      else none
    vs.map fun v => plain (bytesOf (c.wireFmt ph i) v)
  else match c.finals.find? fun f => f.chunk = k with
    | none => none
    | some f =>
      if (t = 0 && !(c.rx.any fun x => decide (x.phase = ph ∧ x.chunk = k))) || (c.rx.any fun x => x.done && decide (x.phase = ph ∧ x.t + 1 = t ∧ x.chunk = k))
      then
        let held := (c.rx.find? fun x => decide (3 ≤ x.phase ∧ x.phase ≤ 4 ∧ x.chunk = k)).map (·.check)
        match held with
        | some none => none
        | some (some crc) => some (f.bytes.zip f.flags, crc)
        | none => some (f.bytes.zip f.flags, f.crc)
      else none

/-- The inputs that a member reads to send a chunk: its slot, or its own part of a reduction at the first step. -/
def Coll.sendReads (c : Coll) (ph t k i : Nat) : List (Nat × Nat) :=
  if ph = 5 then
    [elemRange (cdDtype c.desc) (cdIn c.desc 0) (i * cdCount c.desc + k * c.ch) (c.elems 5 k (c.scount.getD i 0))]
  else if isRs ph && t = 0 && !(ph = 2 && c.phases.contains 1) then c.inRanges k
  else []

/-- Send every chunk for which the receiver has joined and granted a buffer (R345, R346). -/
def State.sendChunks (s : State) (wid : Nat) : State :=
  match s.coll wid with
  | none => s
  | some c0 =>
    if c0.parked || c0.poisoned.isSome || (s.clePorts c0.cle).isEmpty then s
    else (c0.sends ++ c0.slotSends).foldl (fun s u =>
      let (ph, t, k, i) := u
      match s.coll wid with
      | none => s
      | some c =>
        let key := if ph = 5 then (5, i, k) else (ph, t, k)
        let g := ((c.grants.find? fun x => x.1 = i).map (·.2)).getD 0
        if c.sent.contains key || g = 0 || (c.rcount i).isNone || !(c.incs.any fun x => x.1 = i) || (s.sendable c ph t k i).isNone then s
        else s.accessing wid (collKey 1 ph t k i) (c.sendReads ph t k i) [] fun s =>
          match s.sendable c ph t k i with
          | none => s
          | some (bs, crc) =>
            let s := (c.sendReads ph t k i).foldl (fun s r => s.noteRead wid r.1 r.2) s
            let s := s.updColl wid fun c => { c with
              sent := c.sent ++ [key], grants := updIf (fun x => decide (x.1 = i)) (fun x => (x.1, x.2 - 1)) c.grants }
            let s := s.sendChunk c ph t k i bs crc
            (c.rx.filter fun x => x.done && c.forward x = some u).foldl (fun s x => s.grantOne c x) s) s

/-- The module's own slot of ALL_TO_ALL_V passes over the Junction, and every slot that is complete is filled up with +0.0 and
its count written (R357). Slots that are written count as final chunks. -/
def State.fillSlots (s : State) (wid : Nat) : State :=
  match s.coll wid with
  | none => s
  | some c =>
    if !c.a2a || cdCount c.desc = 0 then s
    else (List.range c.table.length).foldl (fun s i =>
      let dt := cdDtype c.desc
      let count := cdCount c.desc
      let mine := i = c.me
      let n := if mine then c.scount.getD i 0 else (c.rcount i).getD 0
      let src := elemRange dt (cdIn c.desc 0) (i * count) n
      let ready := if mine then s.inputReady c [src]
        else (c.rcount i).isSome && (List.range (ceilDiv n c.ch)).all fun k => c.rx.any fun x => x.done && decide (x.src = i ∧ x.chunk = k)
      let out := (elemRange dt (cdOut c.desc) (i * count) 0).1
      let counts := cdCounts c.desc + 4 * c.table.length + 4 * i
      if !ready || (c.finals.any fun f => f.chunk = i) then s
      else s.accessing wid (collKey 3 0 0 0 i) (if mine then [src] else []) [(out, wireLen dt count), (counts, 4)] fun s =>
        let s := if mine then
            let bs := s.flagged src.1 src.2
            (s.noteRead wid src.1 src.2).writeOut c out (valuesOf dt bs) bs
          else s
        let s := s.writeOut c (out + wireLen dt n) [] (List.replicate (wireLen dt count - wireLen dt n) (0, false))
        let s := (s.writeBytes wid counts (leBytes 4 n) false).2
        s.updColl wid fun c => { c with finals := c.finals ++ [{ chunk := i, bytes := [], flags := [], crc := 0, own := mine }] }) s

/-- ALL_TO_ALL_V grants to at most 16 sources at a time, in ascending index from above its own (R346). -/
def State.grantSlots (s : State) (wid : Nat) : State :=
  match s.coll wid with
  | none => s
  | some c =>
    if !c.a2a || c.parked || c.poisoned.isSome then s
    else
      let n := c.table.length
      let order := (List.range (n - 1)).map fun i => (c.me + 1 + i) % n
      let open16 := (order.filter fun i => !(c.finals.any fun f => f.chunk = i)).take 16
      open16.foldl (fun s i =>
        if c.gave.contains i || (c.rcount i).getD 0 = 0 || !(c.incs.any fun x => x.1 = i) then s
        else (s.collSend c i 2 5 0 0 0 (cdGrants c.desc) [] 0).updColl wid fun c => { c with gave := c.gave ++ [i] }) s

/-- Has an output chunk passed both checks? One formed here has when the chunks that were combined into it have passed theirs
(R349, R350). -/
def Coll.checkedOut (c : Coll) (f : FinalChunk) : Bool :=
  if c.a2a then
    f.own || (List.range (ceilDiv ((c.rcount f.chunk).getD 0) c.ch)).all fun k =>
      c.rx.any fun x => x.ok && decide (x.src = f.chunk ∧ x.chunk = k)
  else if f.own then c.rx.all fun x => x.ok || !decide (isRs x.phase ∧ x.chunk = f.chunk)
  else c.rx.any fun x => x.ok && decide (3 ≤ x.phase ∧ x.phase ≤ 4 ∧ x.chunk = f.chunk)

/-- Signal OUT_SEM for output chunks in ascending order (R350). -/
def State.signalOut (s : State) (wid : Nat) : Nat → State
  | 0 => s
  | n + 1 =>
    match s.coll wid with
    | none => s
    | some c =>
      match c.outputs[c.signalled]? with
      | none => s
      | some k => match c.finals.find? fun f => f.chunk = k with
        | none => s
        | some f =>
          if !(cdEager c.desc || c.checkedOut f) then s
          else
            let s := match cdSem c.desc 17 32 with
              | some i => s.signal c.part i (cdOutAdd c.desc)
              | none => s
            (s.updColl wid fun c => { c with signalled := c.signalled + 1 }).signalOut wid n

/-- Release every waiter: OUT_SEM for each output chunk not signalled, OPEN_SEM if not done (R352). -/
def State.releaseColl (s : State) (wid : Nat) : State :=
  match s.coll wid with
  | none => s
  | some c =>
    let s := match cdSem c.desc 17 32 with
      | some i => s.signal c.part i (cdOutAdd c.desc * (c.outputs.length - c.signalled))
      | none => s
    let s := match cdSem c.desc 16 0 with
      | some i => if c.openSaid then s else s.signal c.part i 1
      | none => s
    s.updColl wid fun c => { c with signalled := c.outputs.length, openSaid := true }

/-- Byte ranges of the output and the counts that a collective has not written yet (R352). -/
def Coll.undelivered (c : Coll) : List (Nat × Nat) :=
  let dt := cdDtype c.desc
  let count := cdCount c.desc
  let rest := c.outputs.filter fun k => !c.finals.any fun f => f.chunk = k
  if c.a2a then
    rest.flatMap fun i =>
      (cdCounts c.desc + 4 * c.table.length + 4 * i, 4) :: (List.range (ceilDiv count c.ch)).map fun k =>
        let n := if c.rx.any fun x => x.done && decide (x.src = i ∧ x.chunk = k) then c.elems 5 k ((c.rcount i).getD 0) else 0
        elemRange dt (cdOut c.desc) (i * count + k * c.ch + n) (min c.ch (count - k * c.ch) - n)
  else
    rest.map fun k =>
      let (p, o, n) := c.span k
      elemRange dt (cdOut c.desc) (if cdOp c.desc = 2 then o else p * c.len + o) (min n (count - (p * c.len + o)))

/-- The collective ends: it leaves its CLE and its Waybill's work is over, with the engine time of what the CLE did for it (R421). Output bytes that a stalled or poisoned one has not
delivered are unspecified (R352). -/
def State.endColl (s : State) (wid st detail : Nat) : State :=
  match s.coll wid with
  | none => s
  | some c =>
    let s := if st = stCollStall || st = stCollPoison then c.undelivered.foldl (fun s r => s.freeRange wid r.1 r.2) s else s
    let s := if st = stCollStall then s.bump (rCleStalls c.cle) 1
      else if st = stCollPoison then s.bump (rClePoisons c.cle) 1 else s
    let s := if c.opened then s.chargeWb wid c.ns else s
    (s.dropColl wid).endWb wid st detail (engSrc .cle c.cle)

/-- A collective stalls on member i: ABORT to every other member, the waiters are released, COLL_STALL (R354). ABORT names this member, or
the one that an ABORT received named (R343; DEDUCED: log entry 91). -/
def State.stallColl (s : State) (wid i cause ph : Nat) : State :=
  match s.coll wid with
  | none => s
  | some c =>
    let detail := i % 65536 + cause % 256 * 65536 + ph % 256 * 2 ^ 24
    let s := c.others.foldl (fun s j => s.collSend c j 7 ph 0 0 0 ((if cause = 3 then i else c.me) % 65536 + cause * 65536) [] 0) s
    let s := s.releaseColl wid
    let s := match s.wb wid with
      | some w => s.emitFor wid (ev 0x0400 lvBlock (some c.part) (engSrc .cle c.cle)
          [cdWireId c.desc, cdSeq c.desc, detail, c.ep i, w.ring])
      | none => s
    s.endColl wid stCollStall detail

/-- DETAIL of COLL_POISON (R353). -/
def poisonDetail (p : Nat × Nat × Nat) : Nat := p.1 % 65536 + p.2.1 % 256 * 65536 + p.2.2 % 256 * 2 ^ 24

/-- Complete a poisoned collective that holds a VERDICT or POISON from every member (R351). -/
def State.poisonEnd (s : State) (wid : Nat) : State :=
  match s.coll wid with
  | none => s
  | some c => match c.poisoned with
    | none => s
    | some p => if c.others.all fun i => c.verdicts.contains i || c.poisons.contains i then s.endColl wid stCollPoison (poisonDetail p) else s

/-- The step is poisoned at this member: POISON goes out, waiters are released, and the Consist's Waybills that have not begun
end with COLL_POISON (R351). -/
def State.poisonColl (s : State) (wid i cause ph : Nat) (chunk : Nat) : State :=
  match s.coll wid with
  | none => s
  | some c =>
    if c.poisoned.isSome then s
    else
      let s := s.updColl wid fun c => { c with poisoned := some (i, cause, ph) }
      let s := (c.others.filter fun j => !c.poisons.contains j).foldl (fun s j =>
        s.collSend c j 6 ph 0 0 0 (i % 65536 + cause * 65536) [] 0) s
      let s := s.releaseColl wid
      match s.wb wid with
      | none => s
      | some w =>
        let s := s.emitFor wid (ev 0x0401 lvBlock (some c.part) (engSrc .cle c.cle)
          [cdWireId c.desc, cdSeq c.desc, poisonDetail (i, cause, ph), chunk, w.ring])
        let s := s.updConsist w.cid fun c => { c with poisoned := true }
        let idle := s.sched.wbs.filter fun x => decide (x.cid = w.cid) && (x.phase = .waiting || x.phase = .ready)
        let s := idle.foldl (fun s x => s.cancelWb x.wid stCollPoison) s
        s.poisonEnd wid

/-- Compare the CRC of every complete chunk with its CHECK (R349). -/
def State.checkChunks (s : State) (wid : Nat) : State :=
  match s.coll wid with
  | none => s
  | some c => (c.rx.filter fun x => !x.ok && x.check.isSome).foldl (fun s x =>
      match s.coll wid with
      | none => s
      | some c =>
        if c.poisoned.isSome then s
        else match x.whole (c.rxBytes x.phase x.chunk x.src) with
          | none => s
          | some bs =>
            if some (crc32c (bs.map (·.1))) = x.check then
              let same (y : RxChunk) : Bool := decide (y.phase = x.phase ∧ y.t = x.t ∧ y.chunk = x.chunk ∧ y.src = x.src)
              (s.updColl wid fun c => { c with rx := updIf same (fun y => { y with ok := true }) c.rx }).bump64 (rCleChecksLo c.cle) 1
            else
              let e2e := x.phase = 3 || x.phase = 4
              s.poisonColl wid c.me (if e2e then 2 else 1) x.phase (if c.a2a then x.src else x.chunk)) s

/-- Has the member sent and received everything of its last phase? -/
def Coll.finished (c : Coll) : Bool :=
  (c.sends ++ c.slotSends).all (fun u => c.sent.contains (if u.1 = 5 then (5, u.2.2.2, u.2.2.1) else (u.1, u.2.1, u.2.2.1)))
  && c.expected.all (fun u => c.rx.any fun x => x.done && x.ok
      && decide (x.phase = u.1 ∧ x.t = u.2.1 ∧ x.chunk = u.2.2.1 ∧ x.src = u.2.2.2))
  && c.outputs.all (fun k => c.finals.any fun f => f.chunk = k)
  && c.others.all fun i => (c.rcount i).isSome

/-- VERDICT when all is done, and the end of the Waybill once every member's is held (R347, R353, R357, R358). -/
def State.verdicts (s : State) (wid : Nat) : State :=
  match s.coll wid with
  | none => s
  | some c =>
    if c.poisoned.isSome || !c.finished then s
    else
      let send := !c.saidVerdict && !c.parked && !((s.clePorts c.cle).isEmpty && !c.others.isEmpty)
      let s := if send then
          (c.others.foldl (fun s i => s.collSend c i 5 0 0 0 0 0 [] 0) s).updColl wid fun c => { c with saidVerdict := true }
        else s
      if (c.saidVerdict || send) && c.others.all fun i => c.verdicts.contains i then
        match s.wb wid with
        | none => s
        | some w =>
          let clean := if cdCount c.desc = 0 then stOkEmpty else if c.dropped ≠ 0 then stOkDropped
            else if c.nonfin ≠ 0 then stOkNumeric else stOk
          let st := accStatus w clean
          s.endColl wid st (if st = stOkDropped then c.dropped else 0)
      else s

/-- Does an ALL_TO_ALL_V still have to read its send counts? -/
def Coll.uncounted (c : Coll) : Bool := c.a2a && cdCount c.desc ≠ 0 && c.scount.isEmpty

/-- The send counts of an ALL_TO_ALL_V are read, capped and what is over them counted (R252, R357). -/
def State.readCounts (s : State) (wid : Nat) : State :=
  match s.coll wid with
  | none => s
  | some c =>
    let m := c.table.length
    if !c.uncounted then s
    else s.accessing wid 2 [(cdCounts c.desc, 4 * m)] [] fun s =>
      let b := s.readBytes (cdCounts c.desc) (4 * m)
      let s := s.noteRead wid (cdCounts c.desc) (4 * m)
      let asked := (List.range m).map fun i =>
        let n := rdN b (4 * i) 4
        if cdDtype c.desc = 2 then ceilDiv n 32 * 32 else n
      let tooMany := asked.filter fun n => cdCount c.desc < n
      let lost := (tooMany.map fun n => n - cdCount c.desc).sum
      let s := (s.updColl wid fun c => { c with scount := asked.map (min (cdCount c.desc)), dropped := lost }).bump (rCleDropped c.cle) lost
      match s.wb wid with
      | some w => if lost = 0 then s else s.emitFor wid (ev 0x0402 lvBlock (some c.part) (engSrc .cle c.cle)
          [cdWireId c.desc, cdSeq c.desc, lost, tooMany.length, w.ring])
      | none => s

/-- Everything that a collective can do now. -/
def State.pumpColl (s : State) (wid : Nat) : State :=
  match s.coll wid with
  | none => s
  | some c =>
    if !c.opened then s
    else s.asDie (some (3, c.cle)) fun s =>
      let s := s.readCounts wid
      if (s.coll wid).any Coll.uncounted then s
      else
      let s := s.sendJoins wid
      if cdCount c.desc = 0 then s.verdicts wid
      else
        let s := (s.checkChunks wid).formOwn wid
        let s := if c.parked || c.poisoned.isSome then s else s.useChunks wid
        let s := ((s.sendChunks wid).fillSlots wid).grantSlots wid
        let n := ((s.coll wid).map fun c => c.outputs.length).getD 0
        let s := match s.coll wid with
          | some c => if c.poisoned.isSome then s else s.signalOut wid n
          | none => s
        s.verdicts wid

/-- Everything that any collective can do now. -/
def State.pumpColls (s : State) : State :=
  let s := if s.colls.owed.isEmpty then s else s.sendOwed
  s.colls.list.foldl (fun s c => s.pumpColl c.wid) s

/-- The first message of a COLLECTIVE Waybill that ends with FAB_PEER_GONE or FAB_TIMEOUT writes FAB_XACT_FAIL (R318, R330, R354).
The fabric address is that of the member's endpoint (DESIGN CHOICE: log entry 91). -/
def State.collFail (s : State) (c : Coll) (ep st : Nat) : State :=
  match s.wb c.wid with
  | none => s
  | some w => s.xactFail c.wid (engSrc .cle c.cle) (some c.part) w.ring (ep * 2 ^ 48) st

/-- A member's peer is gone, cannot be resolved, or came up anew: messages that wait for it end, as st says, and collectives that name
it stall with cause 2 (R321, R354). -/
def State.collLost (s : State) (ep : Nat) (inc : Option Nat) (st : Nat) : State :=
  let ends (o : OwedMsg) : Bool := decide (o.dst = ep) && (inc.isNone || o.inc.any (fun v => some v ≠ inc))
  let lost := s.colls.owed.filter ends
  let s := { s with colls := { s.colls with owed := s.colls.owed.filter (fun o => !ends o) } }
  s.colls.list.foldl (fun s c =>
    match c.opened, c.indexOf ep with
    | true, some i =>
      if i = c.me || !(inc.isNone || c.incs.any fun x => x.1 = i && some x.2 ≠ inc) then s
      else
        let waits := !c.said.contains i || lost.any fun o => o.wid = c.wid
        (if waits then s.collFail c ep st else s).stallColl c.wid i 2 0
    | _, _ => s) s

/-- The phase in which a member awaits a message of member i, if it awaits one: a JOIN; DATA or CHECK of a chunk that has not come
whole; a GRANT for a chunk that could be sent; or, when all else is done, a VERDICT (R354). -/
def State.awaits (s : State) (c : Coll) (i : Nat) : Option Nat :=
  if !c.opened || c.parked || i = c.me || decide (c.table.length ≤ i) then none
  else if (c.rcount i).isNone then some 0
  else
    match c.expected.find? fun u => u.2.2.2 = i && !(c.rx.any fun x => x.ok
        && decide (x.phase = u.1 ∧ x.t = u.2.1 ∧ x.chunk = u.2.2.1 ∧ x.src = i)) with
    | some u => some u.1
    | none =>
      let granted := decide (((c.grants.find? fun x => x.1 = i).map (·.2)).getD 0 ≠ 0)
      match (c.sends ++ c.slotSends).find? fun u => u.2.2.2 = i && !granted
          && !c.sent.contains (if u.1 = 5 then (5, i, u.2.2.1) else (u.1, u.2.1, u.2.2.1))
          && (s.sendable c u.1 u.2.1 u.2.2.1 i).isSome with
      | some u => some u.1
      | none => if !c.finished || c.verdicts.contains i then none else some 0

end Sys2Proof.Machine
end

