-- ==== Sys2Proof/Machine/Coll.lean ====
section
/-! DEFINITION. The meanings of the collective commands (R334 to R361). -/

namespace Sys2Proof.Machine

open Sys2Proof

/-- Byte ranges of the inputs, the output and the counts that a collective touches (R335, R338). -/
def Coll.buffers (c : Coll) : List (Nat × Nat) × List (Nat × Nat) :=
  let d := c.desc
  let dt := cdDtype d
  let n := cdCount d
  let real := min c.len (n - c.own * c.len)
  if n = 0 then ([], [])
  else match cdOp d with
    | 1 => ((List.range (cdLocals d)).map fun k => (cdIn d k, wireLen dt n), [(cdOut d, wireLen dt n)])
    | 2 => ((List.range (cdLocals d)).map fun k => (cdIn d k, wireLen dt n), [(cdOut d, wireLen dt real)])
    | 3 => ([(cdIn d 0, wireLen dt real)], [(cdOut d, wireLen dt n)])
    | _ =>
      let m := c.table.length
      ([(cdIn d 0, wireLen dt (m * n)), (cdCounts d, 4 * m)], [(cdOut d, wireLen dt (m * n)), (cdCounts d + 4 * m, 4 * m)])

/-- Is an address of the descriptor not aligned to its element (R334, R335)? -/
def cdMisaligned (d : List Byte) : Bool :=
  let a := if cdDtype d = 9 then 4 else if cdDtype d = 1 then 2 else 1
  ((List.range (cdLocals d)).any fun k => cdIn d k % a ≠ 0) || cdOut d % a ≠ 0 || cdTable d % 8 ≠ 0 || cdCounts d % 4 ≠ 0

/-- The CLE that R282 chooses: of the I/O die whose linked memory-side dies hold the most bytes of the buffers. -/
def State.chooseCle (c : Coll) (l : List Nat) : Option Nat :=
  let bufs := c.buffers.1 ++ c.buffers.2
  let held (i : Nat) : Nat := ((bufs.flatMap fun b => pageSlices b.1 b.2).filter fun x =>
    (linkedIo 2 (homeOf x.1)).contains i).foldl (fun n x => n + x.2) 0
  pickMin (fun a b => decide (held b < held a)) l

/-- The CLEs that a collective may be given to: those its partition may use, or the one that it names (R282, R417). -/
def State.cleFor (s : State) (p : Nat) (d : List Byte) : List Nat :=
  (s.usable p .cle).filter fun i => cdSel d = 0 || i + 1 = cdSel d

/-- Collectives that wait to open at a CLE which their partition may use no more go to another; where there is none they end with
BLK_BUSY (R417, R435). -/
def State.reCle (s : State) : State :=
  s.colls.list.foldl (fun s c =>
    if c.opened || s.mayUse c.part .cle c.cle then s
    else match State.chooseCle c (s.cleFor c.part c.desc) with
      | some i => (s.updColl c.wid fun c => { c with cle := i }).updWb c.wid fun w => { w with src := engSrc .cle i }
      | none => s.cancelWb c.wid stBlkBusy) s

/-- A COLLECTIVE whose descriptor and table have been read is checked, in the order of R335, and queued at its CLE, whose die's fabric core
wakes (R466). -/
def State.queueColl (s : State) (w : Wb) (d : List Byte) (t : List (Nat × Nat)) (ns : Nat) : State :=
  let bad (cause : Nat) : State := s.endWb w.wid stWbFormat cause 0
  if cdBad s.assy d then bad 1
  else if tableBad t then bad 2
  else if s.vrl.ep = 0 || (t.filter fun x => x.1 = s.vrl.ep).length ≠ 1 then bad 3
  else if 67108864 < stagingOf d t then bad 4
  else if cdMisaligned d then s.endWb w.wid stWbAlign 0 0
  else
    let c : Coll := { wid := w.wid, part := w.part, cle := 0, desc := d, table := t, me := t.findIdx (fun x => x.1 = s.vrl.ep),
                      opened := false, parked := false, joins := [], incs := [], said := [], grants := [], gave := [],
                      scount := [], parts := [], sent := [], rx := [], finals := [], signalled := 0, openSaid := false,
                      saidVerdict := false, verdicts := [], poisons := [], poisoned := none, ready := [], dropped := 0,
                      nonfin := 0, ns := ns }
    let lim := s.reg (rVrlPartFab w.part)
    let sems := s.fld (rPrtSemCount w.part) 16 0
    let outside := decide (sems ≤ rdBits d 0x50 15 0 ∨ sems ≤ rdBits d 0x50 47 32 ∨ sems ≤ rdBits d 0x50 63 48)
      || (c.buffers.1 ++ c.buffers.2).any (fun b => b.2 ≠ 0 && !rangeInPart w.part b.1 b.2)
      || t.any fun x => x.1 ≠ s.vrl.ep && !decide (bits 15 0 lim ≤ x.1 ∧ x.1 ≤ bits 31 16 lim)
    if outside then s.endWb w.wid stWbBounds 0 0
    else
      match State.chooseCle c (s.cleFor w.part d) with
      | none => s.endWb w.wid stBlkBusy 0 0
      | some i =>
        let s := s.updWb w.wid fun w => { w with phase := .ready, kind := some .cle, need := 0, src := engSrc .cle i }
        let s := { s with colls := { s.colls with list := s.colls.list ++ [{ c with cle := i }] } }
        let s := s.wake (21 + i)
        match s.wb w.wid with
        | some w => s.preemptFor w .cle
        | none => s

/-- A COLLECTIVE of an operation begins: its descriptor and member table are read and checked (R334 to R336). It waits for
pages that must come (R252). A descriptor whose OP is reserved is any operation's. ns: the time that its CLE moves, combines and converts
its bytes, apart from what DATA brings; it is charged once the collective has opened and ends (R421, log entry 91). -/
def State.beginColl (s : State) (wid op ns : Nat) : State :=
  match s.begin? wid opColl with
  | none => s
  | some w =>
    let a := wArg w.slot 0
    let o := bitsN 3 0 (s.memByte a).toNat
    if o ≠ op && decide (1 ≤ o ∧ o ≤ 4) then s
    else s.checked w fun s =>
      let (ok, s) := s.prepareFor wid 0 [(a, 128)] []
      if !ok then s
      else
        let s1 := s.noteRead wid a 128
        let d := s.readBytes a 128
        let ended (s : State) : Option State := match s.wb wid with
          | some w => if w.faults ≠ 0 || w.quota || w.poison then some (s.endWb wid (accStatus w stOk) 0 0) else none
          | none => some s
        match ended s1 with
        | some t => t
        | none =>
          let n := cdMembers d
          if !rangeInPart w.part (cdTable d) (4 * n) then
            -- a table outside the partition is not read; a breach of the descriptor goes before (R335)
            (if cdBad s1.assy d then s1.endWb wid stWbFormat 1 0 else s1.endWb wid stWbBounds 0 0)
          else
            let (ok, s2) := s1.prepareFor wid 1 [(cdTable d, 4 * n)] []
            if !ok then s2
            else
              let s3 := s2.noteRead wid (cdTable d) (4 * n)
              match ended s3 with
              | some t => t
              | none => s3.queueColl w d (tableOf n (s3.readBytes (cdTable d) (4 * n))) ns

/-- ALL_REDUCE (R338). -/
def execAllReduce (wid : Nat) (t : Took) (s : State) : Host.Outcome State Fault Refusal :=
  .next ((s.meetsErr wid t.marks).beginColl wid 1 t.ns).served

/-- REDUCE_SCATTER (R338). -/
def execReduceScatter (wid : Nat) (t : Took) (s : State) : Host.Outcome State Fault Refusal :=
  .next ((s.meetsErr wid t.marks).beginColl wid 2 t.ns).served

/-- ALL_GATHER (R338). -/
def execAllGather (wid : Nat) (t : Took) (s : State) : Host.Outcome State Fault Refusal :=
  .next ((s.meetsErr wid t.marks).beginColl wid 3 t.ns).served

/-- ALL_TO_ALL_V (R338, R357). -/
def execAllToAllV (wid : Nat) (t : Took) (s : State) : Host.Outcome State Fault Refusal :=
  .next ((s.meetsErr wid t.marks).beginColl wid 4 t.ns).served

/-- The collective that opens next at a CLE: the first in its queue of those whose partition may work there (R346, R417, R418, R431). -/
def State.cleNext (s : State) (i : Nat) : Option Nat :=
  (s.colls.list.find? fun x => x.cle = i && !x.opened && s.mayUse x.part .cle i
    && (s.wb x.wid).any fun w => s.canWork w .cle i).map (·.wid)

/-- COLL_OPEN: the first collective queued at a CLE opens when its staging is free and the CLE's clock runs: OPEN_SEM is signalled and JOINs
go out (R345, R346, R466). -/
def collOpenStep (wid : Nat) (s : State) : State :=
  match s.coll wid, s.wb wid with
  | some c, some w =>
    if c.opened || s.cleNext c.cle ≠ some wid || !s.cleRoom c c.cle || (s.useOf .cle c.cle).isSome
        || !bit (21 + c.cle) (s.reg rClkRun) then s
    else if cdStream c.desc && s.colls.list.any (fun x => x.opened && x.part = c.part && cdStream x.desc && cdId x.desc = cdId c.desc)
    then (s.dropColl wid).endWb wid stBlkBusy 0 0
    else
      let s := (s.startWb w).updColl wid fun c => { c with opened := true }
      let s := match cdSem c.desc 16 0 with
        | some i => (s.signal c.part i 1).updColl wid fun c => { c with openSaid := true }
        | none => s
      (s.pumpColl wid).examine
  | _, _ => s

/-- COLL_OPEN (R345). -/
def execCollOpen (b : WbRead) (s : State) : Host.Outcome State Fault Refusal :=
  .next (collOpenStep b.wid (s.meetsErr b.wid b.marks)).seen

/-- Take a collective message of a KIND: that of an open collective with its WIRE_ID and SEQ, from another of its members; any
other is dropped and counted (R343). One that cannot reach the CLE, because a die on the way is fenced, is lost (R519). -/
def State.onColl (s : State) (port : Option Nat) (kind : Nat → Bool) (f : Coll → Nat → Msg → State → State) : State :=
  match s.takeMsg port fun m => m.op = 0x10 && kind (m.off % 16) with
  | none => s
  | some (m, s) =>
    let stray (s : State) : State := s.bump (rCleStray ((port.map (· / 25)).getD 0)) 1
    let hit := s.colls.list.find? fun c => c.opened && cdWireId c.desc = m.tag && cdSeq c.desc = m.mdata % 2 ^ 32 && (c.indexOf m.src).isSome
    match hit with
    | none => stray s
    | some c => match c.indexOf m.src with
      | none => stray s
      | some i =>
        if i = c.me || m.off % 16 = 0 || decide (7 < m.off % 16) then stray s
        else if s.routeOut (portDie port) (3, c.cle) then s
        else ((f c i m s).pumpColl c.wid).examine

/-- JOIN: a member has joined; its shape word must be the member's own (R345, R346). Messages of a reserved KIND are dropped with
the same command. -/
def execJoin (b : PortRead) (s : State) : Host.Outcome State Fault Refusal :=
  .next ((s.onColl b.port (fun k => k ≤ 1 || 7 < k) fun c i m s =>
    let s := s.meetsErr c.wid b.marks
    if (c.rcount i).isSome then s
    else if m.mdata / 2 ^ 32 ≠ c.shape.toNat then s.poisonColl c.wid c.me 3 0 0xFFFFFFFF
    else s.updColl c.wid fun c => { c with
      joins := c.joins ++ [(i, m.off / 2 ^ 16)], grants := c.grants ++ [(i, if c.a2a then 0 else cdGrants c.desc)] })).seen

/-- JOIN_RESEND: JOIN goes again to every member whose own has not come, unless the collective is parked (R345, R355). -/
def joinResendStep (wid : Nat) (s : State) : State :=
  match s.coll wid with
  | none => s
  | some c =>
    if !c.opened || c.parked then s
    else
      let s := c.others.foldl (fun s i => if (c.rcount i).isSome || !c.said.contains i then s else s.sendJoin c i) s
      s.pumpColl wid

/-- JOIN_RESEND (R345). -/
def execJoinResend (wid : Nat) (s : State) : Host.Outcome State Fault Refusal := .next (joinResendStep wid s)

/-- GRANT: chunk buffers are granted (R346). -/
def execGrant (b : PortRead) (s : State) : Host.Outcome State Fault Refusal :=
  .next ((s.onColl b.port (· = 2) fun c i m s =>
    let n := m.mdata / 2 ^ 32
    (s.meetsErr c.wid b.marks).updColl c.wid fun c =>
      if c.grants.any fun x => x.1 = i then { c with grants := updIf (fun x => decide (x.1 = i)) (fun x => (x.1, x.2 + n)) c.grants }
      else { c with grants := c.grants ++ [(i, n)] })).seen

/-- The place of a chunk message: phase, step modulo 256, chunk. -/
def chunkKey (m : Msg) : Nat × Nat × Nat := (bitsN 7 4 m.off, bitsN 15 8 m.off, m.off / 2 ^ 16)

/-- The step of the chunk that a message is of, when it is one expected: the message holds the step modulo 256 (R343). -/
def Coll.stepFor (c : Coll) (i : Nat) (m : Msg) : Option Nat :=
  let (ph, t, k) := chunkKey m
  if c.a2a then (if ph = 5 && t = 0 then some 0 else none)
  else (c.recvs.find? fun u => decide (u.1 = ph ∧ u.2.1 % 256 = t ∧ u.2.2 = (k, i))).map (·.2.1)

/-- Add to a chunk being received, which a first message brings into being; a message for no chunk that is expected is
dropped and counted (R343). -/
def State.addRx (s : State) (c : Coll) (i : Nat) (m : Msg) (f : RxChunk → RxChunk) : State :=
  let (ph, _, k) := chunkKey m
  match c.stepFor i m with
  | none => s.bump (rCleStray c.cle) 1
  | some t =>
    let same (x : RxChunk) : Bool := decide (x.phase = ph ∧ x.t = t ∧ x.chunk = k ∧ x.src = i)
    let fresh : RxChunk := { phase := ph, t := t, chunk := k, src := i, got := [], check := none, ok := false, done := false }
    s.updColl c.wid fun c =>
      { c with rx := updIf same f (if c.rx.any same then c.rx else c.rx ++ [fresh]) }

/-- DATA: bytes of a chunk, placed by chunk and byte offset; an uncorrectable word of the CLE's staging makes them poisoned (R343, R353,
R517). -/
def execData (port : Option Nat) (t : Took) (s : State) : Host.Outcome State Fault Refusal :=
  .next ((s.onColl port (· = 3) fun c i m s =>
    let off := m.mdata / 2 ^ 32
    let s := ((s.bump64 (rCleRxLo c.cle) m.len).chargeWb c.wid t.ns).meetsErr c.wid t.marks
    let poison := if Marks.sramUe t.marks then 15 else m.poison
    s.addRx c i m fun x =>
      if x.got.any fun g => g.1 = off then x else { x with got := x.got ++ [(off, m.body.take m.len, poison)] })).seen

/-- CHECK: the CRC of a chunk (R349). -/
def execCheck (port : Option Nat) (s : State) : Host.Outcome State Fault Refusal :=
  .next (s.onColl port (· = 4) fun c i m s =>
    s.addRx c i m fun x => { x with check := some (BitVec.ofNat 32 (m.mdata / 2 ^ 32)) })

/-- VERDICT: a member has finished and every chunk it received has passed (R347). -/
def execVerdict (port : Option Nat) (s : State) : Host.Outcome State Fault Refusal :=
  .next (s.onColl port (· = 5) fun c i _ s =>
    (s.updColl c.wid fun c => { c with verdicts := addOnce i c.verdicts }).poisonEnd c.wid)

/-- POISON: a member has poisoned the step (R351). -/
def execPoison (port : Option Nat) (s : State) : Host.Outcome State Fault Refusal :=
  .next (s.onColl port (· = 6) fun c i m s =>
    let hi := m.mdata / 2 ^ 32
    let s := s.updColl c.wid fun c => { c with poisons := addOnce i c.poisons }
    (s.poisonColl c.wid (bitsN 15 0 hi) (bitsN 23 16 hi) (bitsN 7 4 m.off) 0xFFFFFFFF).poisonEnd c.wid)

/-- ABORT: a member has stalled, and this one stalls with cause 3 on the member that the message names (R343, R354). -/
def execAbort (port : Option Nat) (s : State) : Host.Outcome State Fault Refusal :=
  .next (s.onColl port (· = 7) fun c _ m s => s.stallColl c.wid (bitsN 47 32 m.mdata) 3 (bitsN 7 4 m.off))

/-- COLL_STEP_TIMEOUT: a message awaited from a member has not come for STEP_US (R354). -/
def collStepTimeoutStep (wid i : Nat) (s : State) : State :=
  match s.coll wid with
  | none => s
  | some c =>
    if c.poisoned.isSome then s
    else match s.awaits c i with
      | some ph => (s.stallColl wid i 1 ph).examine
      | none => s

/-- COLL_STEP_TIMEOUT (R354). -/
def execCollStepTimeout (wid member : Nat) (s : State) : Host.Outcome State Fault Refusal :=
  .next (collStepTimeoutStep wid member s)

/-- COLL_POISON_TIMEOUT: STEP_US has passed since the member's own POISON; the timer of a parked collective stands still (R351,
R355). -/
def collPoisonTimeoutStep (wid : Nat) (s : State) : State :=
  match s.coll wid with
  | none => s
  | some c => match c.poisoned, c.parked with
    | some p, false => s.endColl wid stCollPoison (poisonDetail p)
    | _, _ => s

/-- COLL_POISON_TIMEOUT (R351). -/
def execCollPoisonTimeout (wid : Nat) (s : State) : Host.Outcome State Fault Refusal := .next (collPoisonTimeoutStep wid s)

/-- CLE_CTR_CLR: the counters of a CLE block are set to 0 (R361). -/
def cleCtrClrStep (i : Nat) (s : State) : State :=
  if i < kindCount s.assy .cle && s.barOpen (rCleCtrClr i) then s.zeroRegs (engineCounters .cle i) else s

/-- CLE_CTR_CLR (R361). -/
def execCleCtrClr (i : Nat) (s : State) : Host.Outcome State Fault Refusal := .next (cleCtrClrStep i s)

end Sys2Proof.Machine
end

