-- ==== Sys2Proof/Machine/Program.lean ====
section
/-! DEFINITION. Table functions (R191 to R199) and the programs that the epilogues and the VXE run on a row: operations,
row statistics, normalisation and the online soft maximum (R126 to R129, R187, R200 to R203, R377, R378). -/

namespace Sys2Proof.Machine

/-- A word of a table file. -/
def tbWord (tb : List Byte) (off : Nat) : Word := BitVec.ofNat 32 (rdN tb off 4)
/-- MODE: exp2 (R191). -/
def tbExp2 (tb : List Byte) : Bool := rdBits tb 0x10 0 0 = 1
/-- MONO -/
def tbMono (tb : List Byte) : Nat := rdBits tb 0x10 2 1
/-- E1 -/
def tbE1 (tb : List Byte) : Bool := rdBits tb 0x10 3 3 = 1
/-- LOG2_W -/
def tbLog2W (tb : List Byte) : Int := signed 8 (rdN tb 0x1C 1)
/-- U_LO -/
def tbULo (tb : List Byte) : Int := signed 16 (rdN tb 0x24 2)
/-- U_HI -/
def tbUHi (tb : List Byte) : Int := signed 16 (rdN tb 0x26 2)
/-- LO_VAL -/
def tbLo (tb : List Byte) : Word := tbWord tb 0x28
/-- HI_VAL -/
def tbHi (tb : List Byte) : Word := tbWord tb 0x2C
/-- Coefficient k of segment s. -/
def tbCoef (tb : List Byte) (s k : Nat) : Word := tbWord tb (0x80 + 16 * s + 4 * k)
/-- V_s of R198, V_256 at the end of the domain. -/
def tbV (tb : List Byte) (s : Nat) : Word :=
  if s < 256 then tbCoef tb s 0
  else if tbExp2 tb then mulF 0x40000000#32 (tbCoef tb 0 0) else tbHi tb

/-- A finite number as an integer multiple of 2^-k, rounded down. -/
def nfloorAt (k : Nat) (x : FNum) : Int :=
  match x with
  | .fin s m e =>
    let v : Int := nscaled (min e (-(k : Int))) (.fin s m e)
    v / ((2 ^ ((-(k : Int)) - min e (-(k : Int))).toNat : Nat) : Int)
  | _ => 0

/-- Is a binary32 code subnormal? -/
def isSubnormal (x : Word) : Bool := decide (x.toNat / 2 ^ 23 % 256 = 0 ∧ x.toNat % 2 ^ 23 ≠ 0)

/-- The cubic of segment s at t, fused steps or those of the E1 (R196, R199). -/
def tbPoly (tb : List Byte) (s : Nat) (t : FNum) : Word :=
  let c (k : Nat) := tbCoef tb s k
  let step (q a : Word) : Word :=
    if tbE1 tb then addF (toF32 (nmul (ofF32 q) t)) a else toF32 (nadd (nmul (ofF32 q) t) (ofF32 a))
  step (step (step (c 3) (c 2)) (c 1)) (c 0)

/-- p clamped to the values at the seams of its segment (R198). -/
def tbClamp (tb : List Byte) (s : Nat) (p : Word) : Word :=
  let a := ofF32 (tbV tb s)
  let b := ofF32 (tbV tb (s + 1))
  let x := ofF32 p
  if nisNan x || tbE1 tb then p
  else if tbMono tb = 1 then toF32 (nmin (nmax x a) b)
  else if tbMono tb = 2 then toF32 (nmin (nmax x b) a)
  else p

/-- Uniform evaluation of a finite x (R194, R199). -/
def tfnUniform (tb : List Byte) (x : Word) : Word :=
  let x := if tbE1 tb && isSubnormal x then f32Zero else x
  let d := nadd (ofF32 x) (nnegate (ofF32 (tbWord tb 0x18)))
  if nisNan d then f32Nan
  else if nlt d nzero then tbLo tb
  else if !nlt d (npow2 (8 + tbLog2W tb)) then tbHi tb
  else
    let y := nmul d (npow2 (-(tbLog2W tb)))
    let s := (nfloorAt 0 y).toNat
    let k := if tbE1 tb then 16 else 23
    let t : FNum := .fin false ((nfloorAt k y).toNat % 2 ^ k) (-(k : Int))
    let p := tbClamp tb s (tbPoly tb s t)
    if tbE1 tb && isSubnormal p then p &&& 0x80000000#32 else p

/-- exp2 evaluation of a finite x (R195). -/
def tfnExp2 (tb : List Byte) (x : Word) : Word :=
  let u := ofF32 (mulF x (tbWord tb 0x20))
  if nlt u (nofInt (tbULo tb)) then tbLo tb
  else if !nlt u (nofInt (tbUHi tb)) then tbHi tb
  else
    let n := nfloorAt 0 u
    let r := nadd u (nofInt (-n))
    let y := nmul r (npow2 8)
    let s := (nfloorAt 0 y).toNat
    let t := nadd y (nofInt (-(s : Int)))
    toF32 (nmul (ofF32 (tbClamp tb s (tbPoly tb s t))) (npow2 n))

/-- A table function (R194 to R199). -/
def tfn (tb : List Byte) (x : Word) : Word :=
  match ofF32 x with
  | .nan => f32Nan
  | .inf s => if s then tbLo tb else tbHi tb
  | .fin _ _ _ => if tbExp2 tb then tfnExp2 tb x else tfnUniform tb x

/-- The reciprocal square root, correctly rounded; +0.0 gives +Inf (R200). -/
def rsqrtF (x : Word) : Word :=
  match ofF32 x with
  | .nan => f32Nan
  | .inf s => if s then f32Nan else f32Zero
  | .fin s m e =>
    if m = 0 then (if s then f32NegInf else f32PosInf)
    else if s then f32Nan
    else
      let (m, e) := if e % 2 = 0 then (m, e) else (2 * m, e - 1)
      let t := 40 + Nat.log2 m
      let q := Nat.sqrt (2 ^ (2 * t) / m)
      let sticky := if q * q * m = 2 ^ (2 * t) then 0 else 1
      toF32 (.fin false (2 * q + sticky) (-(t : Int) - e / 2 - 1))

/-- The larger in binary32, the earlier one when they compare equal; NaN if either is (R129). -/
def rowMax2 (a b : Word) : Word :=
  if nisNan (ofF32 a) || nisNan (ofF32 b) then f32Nan else if nlt (ofF32 a) (ofF32 b) then b else a

/-- ROW_MAX of the present elements of a row. -/
def rowMax (xs : List (Option Word)) : Option Word :=
  match xs.filterMap id with
  | [] => none
  | x :: r => some (r.foldl rowMax2 (rowMax2 x x))

/-- ROW_SUM: binary trees over aligned groups of 128 columns, their sums added from left to right (R129). -/
def rowSum (xs : List (Option Word)) : Option Word :=
  match (chunksOf 128 xs.length xs).filterMap (treeFold addF 8) with
  | [] => none
  | x :: r => some (r.foldl addF x)

/-- What a row carries through its program. -/
structure RowSt where
  xs     : List (Option Word)
  rmax   : Option Word
  mean   : Word
  rstd   : Word
  stats  : List (Nat × Word)
  clamps : Nat
  arg    : Option Nat
  deriving DecidableEq, Repr

/-- The other inputs of a row's program: table of a slot, D's rows 0 and 1 (for the MXE and the CVE its row), B, EPS, and how
many leading columns CH_ARGMAX looks at. -/
structure RowIn where
  tables : List (Nat × List Byte)
  d0     : List Word
  d1     : List Word
  b      : List Word
  eps    : Word
  chans  : Nat
  deriving DecidableEq, Repr

/-- Record a statistic in a slot. -/
def putStat (l : List (Nat × Word)) (slot : Nat) (v : Option Word) : List (Nat × Word) :=
  match v with
  | none => l
  | some x => l.filter (fun p => p.1 ≠ slot) ++ [(slot, x)]

/-- NORM_STATS: mean, rstd and whether a variance below zero was replaced; none for a row without elements (R200). -/
def normStats (eps : Word) (xs : List (Option Word)) : Option (Word × Word × Bool) :=
  match xs.filterMap id with
  | [] => none
  | k :: r =>
    let n := toF32 (nofInt ((r.length + 1 : Nat) : Int))
    let sum (l : List (Option Word)) : Word := (rowSum l).getD f32Zero
    let mean := addF k (divF (sum (xs.map (Option.map fun x => subF x k))) n)
    let es := xs.map (Option.map fun x => subF x mean)
    let q := sum (es.map (Option.map fun e => mulF e e))
    let c := divF (sum es) n
    let var := subF (divF q n) (mulF c c)
    let below := nlt (ofF32 var) nzero
    let var := if below || nisZero (ofF32 var) then f32Zero else var
    some (mean, rsqrtF (addF var eps), below)

/-- Combine each present element with the element of another row in its column. -/
def withRow (f : Word → Word → Word) (xs : List (Option Word)) (ys : List Word) : List (Option Word) :=
  List.zipWith (fun x y => x.map fun v => f v y) xs (ys ++ List.replicate (xs.length - ys.length) 0)

/-- CH_ARGMAX: the lowest channel whose value is greatest, a NaN above every other value (R378). -/
def chArgmax (xs : List Word) : Nat :=
  (xs.zipIdx.foldl (fun (best : Option (FNum × Nat)) p =>
    match best with
    | none => some (ofF32 p.1, p.2)
    | some (v, i) =>
      let x := ofF32 p.1
      if nisNan v then some (v, i) else if nisNan x || nlt v x then some (x, p.2) else some (v, i)) none).elim 0 (·.2)

/-- One operation on a row (R126 to R129, R187, R200, R377, R378). SOFTMAX_MERGE has been done before. -/
def rowOp (i : RowIn) (s : RowSt) (o : EpiOp) : RowSt :=
  let each (f : Word → Word) : RowSt := { s with xs := s.xs.map (Option.map f) }
  match o.op with
  | 0x01 => each fun x => mulF x o.imm0
  | 0x02 => each fun x => addF x o.imm0
  | 0x03 => { s with xs := withRow addF s.xs i.d0 }
  | 0x04 => { s with xs := withRow mulF s.xs i.d0 }
  | 0x05 => each (tfn (((i.tables.find? fun p => p.1 = o.arg).map (·.2)).getD []))
  | 0x06 => each fun x => if nisNan (ofF32 x) then f32Nan else toF32 (nmin (nmax (ofF32 x) (ofF32 o.imm0)) (ofF32 o.imm1))
  | 0x07 => { s with rmax := rowMax s.xs, stats := putStat s.stats o.arg (rowMax s.xs) }
  | 0x08 =>
    let r := s.rmax.getD f32Zero
    each fun x => if r = f32NegInf then f32NegInf else subF x r
  | 0x09 => { s with stats := putStat s.stats o.arg (rowSum s.xs) }
  | 0x10 => { s with xs := withRow addF s.xs i.b }
  | 0x11 => { s with xs := withRow mulF s.xs i.b }
  | 0x20 => match normStats i.eps s.xs with
    | none => s
    | some (mean, rstd, below) =>
      let st := if o.arg = 1 then putStat (putStat s.stats 0 (some mean)) 1 (some rstd) else s.stats
      { s with mean := mean, rstd := rstd, stats := st, clamps := s.clamps + (if below then 1 else 0) }
  | 0x21 => each fun x => mulF (subF x s.mean) s.rstd
  | 0x22 => { s with xs := withRow addF (withRow mulF s.xs i.d0) i.d1 }
  | 0x40 => { s with arg := some (chArgmax ((s.xs.take i.chans).map fun x => x.getD f32Zero)) }
  | _ => s

/-- A row's program (R128). -/
def rowRun (i : RowIn) (ops : List EpiOp) (xs : List (Option Word)) : RowSt :=
  ops.foldl (rowOp i) { xs := xs, rmax := none, mean := 0, rstd := 0, stats := [], clamps := 0, arg := none }

/-- Which of the values that a row carries through its program depend on rewritten memory (R139): the elements by column, the row
maximum, the mean with the reciprocal deviation, the statistics by slot, and the channel index. -/
structure RowDep where
  xs    : List Bool
  rmax  : Bool
  norm  : Bool
  stats : List (Nat × Bool)
  arg   : Bool
  deriving DecidableEq, Repr

/-- The dependencies of the other inputs of a row's program: D's rows 0 and 1 and B by column, and CH_ARGMAX's column count. -/
structure DepIn where
  d0    : List Bool
  d1    : List Bool
  b     : List Bool
  chans : Nat
  deriving DecidableEq, Repr

/-- Columns that depend through either of two rows; a masked column (one past the first list) stays without. -/
def orRow (xs ys : List Bool) : List Bool := xs.zipIdx.map fun p => p.1 || ys.getD p.2 false

/-- Record a statistic's dependency in a slot. -/
def putDep (l : List (Nat × Bool)) (slot : Nat) (v : Bool) : List (Nat × Bool) := l.filter (fun p => p.1 ≠ slot) ++ [(slot, v)]

/-- What one operation makes depend on what, as rowOp computes it (R139). -/
def rowDepOp (i : DepIn) (s : RowDep) (o : EpiOp) : RowDep :=
  let any := s.xs.any id
  match o.op with
  | 0x03 => { s with xs := orRow s.xs i.d0 }
  | 0x04 => { s with xs := orRow s.xs i.d0 }
  | 0x07 => { s with rmax := any, stats := putDep s.stats o.arg any }
  | 0x08 => if s.rmax then { s with xs := s.xs.map fun _ => true } else s
  | 0x09 => { s with stats := putDep s.stats o.arg any }
  | 0x10 => { s with xs := orRow s.xs i.b }
  | 0x11 => { s with xs := orRow s.xs i.b }
  | 0x20 => { s with norm := any, stats := if o.arg = 1 then putDep (putDep s.stats 0 any) 1 any else s.stats }
  | 0x21 => if s.norm then { s with xs := s.xs.map fun _ => true } else s
  | 0x22 => { s with xs := orRow (orRow s.xs i.d0) i.d1 }
  | 0x40 => { s with arg := (s.xs.take i.chans).any id }
  | _ => s

/-- The dependencies of a row's values after its program. -/
def rowDep (i : DepIn) (ops : List EpiOp) (xs : List Bool) : RowDep :=
  ops.foldl (rowDepOp i) { xs := xs, rmax := false, norm := false, stats := [], arg := false }

/-- One merge of a key block into a row's state m, l, O (R202). -/
def softMerge (tb : List Byte) (m l : Word) (o : List (Option Word)) (mt lt : Word) (a : List Word) :
    Word × Word × List (Option Word) :=
  let mn := toF32 (nmax (ofF32 m) (ofF32 mt))
  let f (x : Word) : Word := if neqv (ofF32 x) (ofF32 mn) then 0x3F800000#32 else tfn tb (subF x mn)
  let al := f m
  let be := f mt
  (mn, addF (mulF l al) (mulF lt be), withRow (fun x y => addF (mulF x al) (mulF y be)) o a)

/-- A merged row at its finish: the quotients, and whether l was +0.0 with no NaN in the state (R203). -/
def softFinish (m l : Word) (o : List (Option Word)) : List (Option Word) × Bool :=
  let clean := !nisNan (ofF32 m) && !nisNan (ofF32 l) && !((o.filterMap id).any fun x => nisNan (ofF32 x))
  if l = f32Zero && clean then (o.map (Option.map fun _ => f32Zero), true)
  else (o.map (Option.map fun x => divF x l), false)

end Sys2Proof.Machine
end

