-- ==== Sys2Proof/Machine/Settle.lean ====
section
/-! DEFINITION. What follows at once when records are written, Waybills end or semaphores change: END records, swap-out,
Consists that close, suspensions and evictions that end, and work that may go on (R72, R413, R418, R424 to R427, R433, R434). -/

namespace Sys2Proof.Machine

open Sys2Proof

/-- The completion record of a Waybill (R59). -/
def recOf (w : Wb) : Rec :=
  { wid := w.wid, cmdId := wCmdId w.slot, step := wStep w.slot, ring := w.ring, us := ceilDiv w.ns 1000, src := w.src,
    events := w.events, detail := w.detail, status := w.status, irq := wIrq w.slot }

/-- Write, queue or suppress the record of a Waybill whose work and signal are done (R54, QUIET of R50). -/
def State.record (s : State) (w : Wb) : State :=
  if wQuiet w.slot && stSuccess w.status && !wEnd w.slot then s.dropWb w.wid
  else
    let g := ((s.consist w.cid).map (·.group)).getD 0
    (s.updWb w.wid fun w => { w with phase := .recorded }).writeRec g (recOf w)

/-- Status of the END record: that of a poisoned step or of an eviction prevails, but not over
DIE_LOST or DEV_FATAL (R351, R427, R483). -/
def State.endStatus (s : State) (w : Wb) : Nat × Nat :=
  match s.consist w.cid with
  | none => (w.status, w.detail)
  | some c =>
    if w.status = stDieLost || w.status = stDevFatal then (w.status, w.detail)
    else if c.poisoned && w.status ≠ stCollPoison then (stCollPoison, 0)
    else if c.preempted && w.status ≠ stPreempted then (stPreempted, 0) else (w.status, w.detail)

/-- The swap-out of an active swap partition (R434): true when it is over. Pages for which no pool has room are lost, and come
back poisoned. -/
def State.swapOut (s : State) (p : Nat) : Bool × State :=
  if s.sched.swapOwner ≠ some p then (true, s)
  else
    let s : State := match s.sched.swapRun with
      | some _ => s
      | none =>
        let wids := (s.sched.wbs.filter fun w => w.part = p).map (·.wid)
        let copies := s.eng.copies.filter fun c => !wids.contains c.wid
        { s with sched := { s.sched with swapRun := some (s.aon, 0, 0) }, eng := { s.eng with copies := copies } }
    let mine := s.place.pages.filter fun g => decide (g.num / 2 ^ 31 = p)
    let stuck := mine.filter fun g => g.place.isLocal && (s.moveOf g.num).isNone && (s.poolPlace p).isNone
    let s := stuck.foldl (fun s g =>
      let s := (s.updPage g.num fun g => { g with place := .none }).markAll ((List.range 32768).map fun i => g.num * 32768 + i) true
      { s with sched := { s.sched with swapRun := s.sched.swapRun.map fun x => (x.1, x.2.1, x.2.2 + 1) } }) s
    let left := s.place.pages.any fun g => decide (g.num / 2 ^ 31 = p) && (g.place.isLocal || (s.moveOf g.num).isSome)
    if left then (false, s)
    else match s.sched.swapRun with
      | some (t, moved, failed) =>
        (true, (s.emit (ev 0x0A03 lvChip (some p) 0 [moved, failed, s.aon - t])))
      | none => (true, s)

/-- END records that were held back are written once every other record of their Consist is written or queued (R72), after
the swap-out (R434). -/
def State.writeEnds (s : State) : State :=
  (s.sched.wbs.filter fun w => w.phase = .endHeld).foldl (fun s w =>
    if s.sched.wbs.any fun x => x.cid = w.cid && x.wid ≠ w.wid && x.phase ≠ .recorded then s
    else
      let (done, s) := s.swapOut w.part
      if !done then s
      else
        let s := if s.sched.swapOwner = some w.part then
            { s with sched := { s.sched with swapOwner := none, swapRun := none } } else s
        let (st, d) := s.endStatus w
        let s := s.updWb w.wid fun w => { w with status := st, detail := d }
        match s.wb w.wid with
        | some w => s.record w
        | none => s) s

/-- An EVICT whose Consists have all closed is over (R427). -/
def State.endEvicts (s : State) : State :=
  s.sched.parts.foldl (fun s x =>
    match s.part x.p with
    | none => s
    | some x => match x.evict with
      | none => s
      | some cids =>
        if s.sched.consists.any fun c => cids.contains c.cid then s
        else
          let s := s.updPart x.p fun x => { x with evict := none, evictPre := 0 }
          let s := (s.setFld rPrtCmdStatus 0 0 0).setFld rPrtCmdStatus 7 4 0
          s.emit (ev 0x0A02 lvChip (some x.p) 0 [cids.length, x.evictPre])) s

/-- Consists without a Waybill left close; what waited on that ends (R413, R425, R427, R433, R448). -/
def State.closeConsists (s : State) : State :=
  let shut := s.sched.consists.filter fun c => !(s.sched.wbs.any fun w => w.cid = c.cid)
  let s := { s with sched := { s.sched with consists := s.sched.consists.filter (fun c => s.sched.wbs.any fun w => w.cid = c.cid) } }
  let s := shut.foldl (fun s c =>
    let s := s.dropPredict c.cid
    { s with pwr := { s.pwr with predicts := s.pwr.predicts.filter (fun x => x.cid ≠ c.cid) } }) s
  let idle := ((shut.map (·.part)).eraseDups.filter fun p => (s.openOf p).isEmpty)
  let s := idle.foldl (fun s p => if s.sched.susps.any fun x => x.taker = some p then s.endSusps (some p) none else s) s
  s.endEvicts

/-- Free MXEs, VXEs and CVEs pass to the Waybills that rank first (R418, R425). -/
def State.passAll (s : State) : State :=
  [EngKind.mxe, .vxe, .cve].foldl (fun s k => (List.range (kindCount s.assy k)).foldl (fun s i =>
    if s.fenced (dieOf k i).1 (dieOf k i).2 || !s.avail k i then s else s.passInst k i) s) s

/-- What follows at once. -/
def State.settle (s : State) : State :=
  ((s.writeEnds.settleTakings.closeConsists.parkColls.settleTakings.passAll.serveXfes.serveCdes).settleTakings.pumpColls).examine

end Sys2Proof.Machine
end

