-- ==== Sys2Proof/Machine/RunOps.lean ====
section
/-! DEFINITION. What the engines that run Timetables share: the context of a run, the addresses of its operands, outputs and
statistics, check 10 of R84, waits, tiles and the end of an instance (R84, R90 to R108, R129, R137 to R140, R186, R363 to R376,
R555). -/

namespace Sys2Proof.Machine

open Sys2Proof

/-- A Timetable with its selected bucket, the shape values, the levels with their trip counts, and the counts of its block
list. -/
structure RunCtx where
  t      : List Byte
  h      : TtHead
  b      : Nat
  shapes : List Nat
  ls     : List (TtLevel × Nat)
  counts : List Nat
  nfCfg  : List Word
  deriving DecidableEq, Repr

/-- OUT_SHIFT of a compute die as the run was issued with it (R31, R157). -/
def RunCtx.shift (c : RunCtx) (die : Nat) : Nat := bits 3 0 (c.nfCfg.getD die 0)

/-- The context of a Timetable and bucket. -/
def runCtx (t : List Byte) (shapes : List Nat) (b : Nat) : RunCtx :=
  { t := t, h := ttHead t, b := b, shapes := shapes, ls := ttTrips t (ttHead t) b, counts := ttCounts t (ttHead t) b,
    nfCfg := [] }

/-- The context of a run. -/
def ctxOf (r : Run) : RunCtx := { runCtx r.tt r.shapes r.bucket with nfCfg := r.nfCfg }

/-- An operand entry. -/
def oper (c : RunCtx) (j : Nat) : TtOper := ttOper c.t c.h j
/-- Digits of a position. -/
def digs (c : RunCtx) (pos : Nat) : List Nat := posDigits c.ls c.counts pos
/-- Unmasked rows along a role, as offsets in the tile. -/
def rowsOf (c : RunCtx) (ds : List Nat) (role : Nat) : List Nat := liveRows c.t c.h c.shapes c.ls ds role
/-- Number of unmasked elements along a role. -/
def liveOf (c : RunCtx) (ds : List Nat) (role : Nat) : Nat := liveCount c.t c.h c.shapes c.ls ds role
/-- Is a step skipped? -/
def skips (c : RunCtx) (ds : List Nat) : Bool := stepSkipped c.t c.h c.shapes c.ls ds
/-- Is a step's output tile wholly masked? -/
def dead (c : RunCtx) (ds : List Nat) : Bool := tileDead c.t c.h c.shapes c.ls ds
/-- The program. -/
def progOf (c : RunCtx) : List EpiOp := epiOps c.t c.h
/-- Number of positions. -/
def positions (c : RunCtx) : Nat := ttPositions c.ls c.counts

/-- The tiles of a SPARSE Timetable whose query block runs no step: their digits, by outer index (R111). -/
def zeroTile (c : RunCtx) (n : Nat) : Option (List Nat) :=
  let outer := c.ls.dropLast
  let ds := mixDigits (outer.map (·.2)) n ++ [0]
  let last := (outer.zip ds).all fun p => p.1.1.role ≠ 3 || decide (p.2 + 1 = p.1.2)
  if ttSparse c.ls && decide (c.counts.getD n 0 = 0) && last then some ds else none

/-- The digits of every step that fetches. -/
def allSteps (c : RunCtx) : List (List Nat) := ((List.range (positions c)).map (digs c)).filter fun ds => !skips c ds

/-- The digits at which each tile that is not wholly masked finishes. -/
def allTiles (c : RunCtx) : List (List Nat) :=
  (((List.range (positions c)).map (digs c)).filter fun ds => finishesTile c.h c.ls c.counts ds && !dead c ds)
  ++ ((List.range (if ttSparse c.ls then c.counts.length else 0)).filterMap (zeroTile c)).filter fun ds => !dead c ds

/-- The ranges of n elements of row r of operand j (R97, R555). -/
def rowRanges (c : RunCtx) (ds : List Nat) (j r n : Nat) : List (Int × Nat) :=
  let f := (oper c j).fmt
  if f = 0 || n = 0 then []
  else
    let a := rowAddr c.t c.h c.ls ds j r
    let nu := ceilDiv n (unitElems f)
    if 2 ≤ j && (c.ls.any fun p => decide (p.1.fold ≠ 0 ∧ p.1.role = 2)) then
      (List.range nu).map fun u => (a + unitOff c.h c.ls ds f u, unitBytes f)
    else [(a, nu * unitBytes f)]

/-- Row ranges as device addresses. -/
def atRow (c : RunCtx) (ds : List Nat) (j r n : Nat) : List (Nat × Nat) := (rowRanges c ds j r n).map fun x => (x.1.toNat, x.2)

/-- Does the program use D, or B of a VXE? -/
def usesD (c : RunCtx) : Bool := (oper c 3).fmt ≠ 0 && (progOf c).any fun o => o.op = 3 || o.op = 4 || o.op = 0x22
/-- Does a VXE program use B? -/
def usesB (c : RunCtx) : Bool := (oper c 1).fmt ≠ 0 && (progOf c).any fun o => o.op = 0x10 || o.op = 0x11
/-- Does a VXE program merge key blocks? -/
def merges (c : RunCtx) : Bool := c.h.engine = 2 && (progOf c).any fun o => o.op = 0x30

/-- The rows of D that a tile's elements meet, with the role whose rows they are (R183). -/
def dRows (c : RunCtx) (ds : List Nat) : List Nat := if c.h.engine = 2 then [0, 1] else rowsOf c ds 1

/-- The statistic address of slot s for row r of a tile (R129, R186). -/
def statAddr (c : RunCtx) (ds : List Nat) (r s : Nat) : Int :=
  let o := c.h.epiOff
  let idx := if c.h.engine = 2 then roleDigit c.ls ds 3 else roleDigit c.ls ds 2
  rdN c.t (o + 0x10) 8 + (idx : Int) * rdS c.t (o + 0x18) + (roleDigit c.ls ds 4 : Int) * rdS c.t (o + 0x20)
    + ((8 * (roleDigit c.ls ds 1 * c.h.tm + r) + 4 * s : Nat) : Int)

/-- Slots of row statistics that a program writes. -/
def statSlots (c : RunCtx) : List Nat :=
  if c.h.engine = 3 then []
  else ((progOf c).flatMap fun o =>
    if isStatOp o.op then [o.arg] else if o.op = 0x20 && o.arg = 1 then [0, 1] else []).eraseDups

/-! ### The convolution engine's addresses (R363 to R372, R376) -/

/-- Input extent along dimension x (R370). -/
def inExt (c : RunCtx) (x : Nat) : Nat :=
  match c.ls.find? fun p => decide (p.1.role = 8 + x ∧ p.1.sel ≠ 0) with
  | some p => c.shapes.getD (p.1.sel - 1) 0
  | none => (convDim c.t c.h x).inFix
/-- Output extent along dimension x (R370). -/
def outExt (c : RunCtx) (x : Nat) : Nat := convOut (convDim c.t c.h x) (inExt c x)

/-- The shape value that masks a role, if one does. -/
def selLimit (c : RunCtx) (role : Nat) : Option Nat :=
  (c.ls.find? fun p => decide (p.1.role = role ∧ p.1.sel ≠ 0)).map fun p => c.shapes.getD (p.1.sel - 1) 0
/-- Input channels that take part (R97, R365). -/
def cinLim (c : RunCtx) : Nat := min (convCin c.t c.h) ((selLimit c (if convMode c.t c.h = 0 then 12 else 11)).getD (convCin c.t c.h))
/-- Output channels that take part. -/
def coutLim (c : RunCtx) : Nat := min (convCout c.t c.h) ((selLimit c 11).getD (convCout c.t c.h))

/-- The input index that tap k of output index o reaches, or none when it is padded under ZERO (R371). -/
def tapIndex (d : ConvDim) (ext o k : Nat) : Option Nat :=
  let v : Int := ((o * d.stride + k * d.dil : Nat) : Int) - (d.lo : Nat)
  let lim : Int := ((ext * d.ups : Nat) : Int)
  if 0 ≤ v ∧ v < lim then some (v.toNat / d.ups)
  else if d.mode = 1 then some ((max 0 (min v (lim - 1))).toNat / d.ups)
  else if d.mode = 2 then
    if lim = 1 then some 0
    else
      let p := 2 * (lim - 1)
      let m := v % p
      some ((if m < lim then m else p - m).toNat / d.ups)
  else none

/-- The taps of the window in ascending t: (kd, kh, kw) (R364). -/
def tapList (c : RunCtx) : List (Nat × Nat × Nat) :=
  (List.range (convDim c.t c.h 0).k).flatMap fun kd => (List.range (convDim c.t c.h 1).k).flatMap fun kh =>
    (List.range (convDim c.t c.h 2).k).map fun kw => (kd, kh, kw)

/-- Unmasked output positions of a step along W. -/
def owLive (c : RunCtx) (ds : List Nat) : List Nat :=
  (List.range c.h.tm).filter fun p => decide (roleDigit c.ls ds 10 * c.h.tm + p < outExt c 2)

/-- For each tap that is not skipped: t, plane, row, and the W index of each unmasked position, none where it is padded
(R371, R372). -/
def liveTaps (c : RunCtx) (ds : List Nat) : List (Nat × Nat × Nat × List (Option Nat)) :=
  let od := roleDigit c.ls ds 8
  let oh := roleDigit c.ls ds 9
  let ow := roleDigit c.ls ds 10 * c.h.tm
  (tapList c).zipIdx.filterMap fun p =>
    let (k, t) := p
    match tapIndex (convDim c.t c.h 0) (inExt c 0) od k.1, tapIndex (convDim c.t c.h 1) (inExt c 1) oh k.2.1 with
    | some d, some hh =>
      let ws := (owLive c ds).map fun q => tapIndex (convDim c.t c.h 2) (inExt c 2) (ow + q) k.2.2
      if ws.any Option.isSome then some (t, d, hh, ws) else none
    | _, _ => none

/-- Bytes of 32 channels at one position (R363). -/
def chUnit (f : Nat) : Nat := if f = 1 then 64 else if f = 9 then 128 else 33
/-- Bytes of one element of a plain layout. -/
def plainElem (f : Nat) : Nat := if f = 9 then 4 else 2
/-- A_LAYOUT, and C_LAYOUT. -/
def aLayout (c : RunCtx) : Nat := rdBits c.t c.h.epiOff 3 2
/-- C_LAYOUT -/
def cLayout (c : RunCtx) : Nat := rdBits c.t c.h.epiOff 5 4

/-- Ranges that hold up to 32 channels of block cb of operand j at a position; n channels of a plain layout (R363, R376). -/
def chRanges (c : RunCtx) (ds : List Nat) (j layout eh ew cb n d hh w : Nat) : List (Int × Nat) :=
  let x := oper c j
  let base := rowAddr c.t c.h c.ls ds j 0
  let p := (d * eh + hh) * ew + w
  let e := plainElem x.fmt
  if layout = 0 then [(base + ((cb * x.pitch + p * chUnit x.fmt : Nat) : Int), chUnit x.fmt)]
  else if layout = 1 then [(base + ((p * x.pitch + 32 * cb * e : Nat) : Int), n * e)]
  else (List.range n).map fun i => (base + (((32 * cb + i) * x.pitch + p * e : Nat) : Int), e)

/-- Bytes of a group of 32 input channels of a weight (R364). -/
def wUnit (f : Nat) : Nat := if f = 6 then 18 else 33
/-- The weights of tap t, input group icb, output channel oc (R364). -/
def wRange (c : RunCtx) (ds : List Nat) (oc t icb : Nat) : Int × Nat :=
  let x := oper c 1
  (rowAddr c.t c.h c.ls ds 1 0 + ((oc * x.pitch + (t * ceilDiv (convCin c.t c.h) 32 + icb) * wUnit x.fmt : Nat) : Int), wUnit x.fmt)
/-- The D element of an output channel (R368). -/
def dChan (c : RunCtx) (ds : List Nat) (oc : Nat) : Int × Nat :=
  let e := plainElem (oper c 3).fmt
  (rowAddr c.t c.h c.ls ds 3 0 + ((oc * e : Nat) : Int), e)

/-- The channel index's address at output position (od, oh, ow) (R378). -/
def idxAddr (c : RunCtx) (ds : List Nat) (ow : Nat) : Int :=
  rdN c.t (c.h.epiOff + 0x28) 8 + (roleDigit c.ls ds 4 : Int) * rdS c.t (c.h.epiOff + 0x30)
    + ((4 * ((roleDigit c.ls ds 8 * outExt c 1 + roleDigit c.ls ds 9) * outExt c 2 + ow) : Nat) : Int)

/-- Input channel blocks of a step, as block numbers. -/
def icBlocks (c : RunCtx) (ds : List Nat) : List Nat :=
  let b := if convMode c.t c.h = 0 then roleDigit c.ls ds 12 * (c.h.tk / 32) else roleDigit c.ls ds 11 * (c.h.tn / 32)
  ((List.range (c.h.tk / 32)).map (b + ·)).filter fun cb => decide (32 * cb < cinLim c)
/-- Output channel blocks of a step that are written. -/
def ocBlocks (c : RunCtx) (ds : List Nat) : List Nat :=
  ((List.range (c.h.tn / 32)).map (roleDigit c.ls ds 11 * (c.h.tn / 32) + ·)).filter fun cb => decide (32 * cb < coutLim c)

/-- Ranges of the input that a CVE step fetches (R365, R371, R372). -/
def cveReadsA (c : RunCtx) (ds : List Nat) : List (Int × Nat) :=
  ((liveTaps c ds).flatMap fun t => (t.2.2.2.filterMap id).flatMap fun w =>
    (icBlocks c ds).flatMap fun cb =>
      chRanges c ds 0 (aLayout c) (inExt c 1) (inExt c 2) cb (min 32 (cinLim c - 32 * cb)) t.2.1 t.2.2.1 w).eraseDups
/-- Ranges of the weights that a CVE step fetches. -/
def cveReadsB (c : RunCtx) (ds : List Nat) : List (Int × Nat) :=
  if (oper c 1).fmt = 0 then []
  else (liveTaps c ds).flatMap fun t => (icBlocks c ds).flatMap fun icb =>
    ((List.range c.h.tn).map (roleDigit c.ls ds 11 * c.h.tn + ·)).filterMap fun oc =>
      if oc < coutLim c then some (wRange c ds oc t.1 icb) else none

/-- Ranges of C that a CVE tile writes (R365, R376). -/
def cveWritesC (c : RunCtx) (ds : List Nat) : List (Int × Nat) :=
  (owLive c ds).flatMap fun q => (ocBlocks c ds).flatMap fun cb =>
    chRanges c ds 2 (cLayout c) (outExt c 1) (outExt c 2) cb (min 32 (coutLim c - 32 * cb)) (roleDigit c.ls ds 8)
      (roleDigit c.ls ds 9) (roleDigit c.ls ds 10 * c.h.tm + q)

/-! ### Everything a run touches -/

/-- Operand ranges that a step fetches (R97, R98). -/
def stepRanges (c : RunCtx) (ds : List Nat) : List (Int × Nat) :=
  if c.h.engine = 3 then cveReadsA c ds ++ cveReadsB c ds
  else if c.h.engine = 2 then
    let n := c.h.tn
    (rowsOf c ds 1).flatMap (fun r => rowRanges c ds 0 r n)
    ++ (if merges c then (rowsOf c ds 1).map fun r => (statAddr c ds r 0, 8) else [])
  else
    let n := liveOf c ds 3
    (rowsOf c ds 1).flatMap (fun r => rowRanges c ds 0 r n) ++ (rowsOf c ds 2).flatMap fun r => rowRanges c ds 1 r n

/-- Ranges of D, and of B of a VXE, that a tile reads as it finishes. -/
def tileReads (c : RunCtx) (ds : List Nat) : List (Int × Nat) :=
  if c.h.engine = 3 then
    (if usesD c then ((List.range c.h.tn).map (roleDigit c.ls ds 11 * c.h.tn + ·)).filterMap fun oc =>
      if oc < coutLim c then some (dChan c ds oc) else none else [])
  else
    let n := if c.h.engine = 2 then c.h.tn else liveOf c ds 2
    (if usesD c then (dRows c ds).flatMap fun r => rowRanges c ds 3 r n else [])
    ++ (if c.h.engine = 2 && usesB c then (rowsOf c ds 1).flatMap fun r => rowRanges c ds 1 r n else [])

/-- Ranges of C that a tile writes. -/
def tileC (c : RunCtx) (ds : List Nat) : List (Int × Nat) :=
  if c.h.engine = 3 then cveWritesC c ds
  else
    let n := if c.h.engine = 2 then c.h.tn else liveOf c ds 2
    (rowsOf c ds 1).flatMap fun r => rowRanges c ds 2 r n

/-- Ranges of statistics or channel indices that a tile writes. -/
def tileStats (c : RunCtx) (ds : List Nat) : List (Int × Nat) :=
  if c.h.engine = 3 then
    (if (progOf c).any fun o => o.op = 0x40 then
      (owLive c ds).map fun q => (idxAddr c ds (roleDigit c.ls ds 10 * c.h.tm + q), 4) else [])
  else (rowsOf c ds 1).flatMap fun r => (statSlots c).map fun s => (statAddr c ds r s, 4)

/-- Operand elements of D and B that are present though no operation uses them; they too must lie in the partition. -/
def idleRanges (c : RunCtx) (ds : List Nat) : List (Int × Nat) :=
  if c.h.engine = 3 then
    (if (oper c 3).fmt ≠ 0 then (List.range (coutLim c)).map (dChan c ds) else [])
    ++ (if (oper c 1).fmt ≠ 0 then (List.range (coutLim c)).flatMap fun oc => (List.range (tapList c).length).flatMap fun t =>
          (List.range (ceilDiv (cinLim c) 32)).map fun i => wRange c ds oc t i else [])
    ++ ((List.range (ceilDiv (cinLim c) 32)).flatMap fun cb => (List.range (inExt c 0)).flatMap fun d =>
          (List.range (inExt c 1)).flatMap fun hh => (List.range (inExt c 2)).flatMap fun w =>
            chRanges c ds 0 (aLayout c) (inExt c 1) (inExt c 2) cb (min 32 (cinLim c - 32 * cb)) d hh w)
  else
    let n := if c.h.engine = 2 then c.h.tn else liveOf c ds 2
    ((dRows c ds).flatMap fun r => rowRanges c ds 3 r n)
    ++ (if c.h.engine = 2 then (rowsOf c ds 1).flatMap fun r => rowRanges c ds 1 r n else [])

/-- Does a range lie in a partition? -/
def inPart (p : Nat) (x : Int × Nat) : Bool := x.2 = 0 || (decide (0 ≤ x.1) && rangeInPart p x.1.toNat x.2)

/-- Check 10 of R84: every unmasked operand element, every prefetch range and every statistics range lies in the partition. -/
def ttCheck10 (c : RunCtx) (p : Nat) : Bool :=
  ((ttPrefetch c.t c.h c.b).all fun e => inPart p (((e.2.1 : Nat) : Int), e.2.2.1))
  && ((allSteps c).all fun ds => (stepRanges c ds).all (inPart p))
  && ((allTiles c).all fun ds => (idleRanges c ds ++ tileC c ds ++ tileStats c ds).all (inPart p))

/-! ### Reads and writes of a run -/

/-- Ranges as device addresses. -/
def natRanges (l : List (Int × Nat)) : List (Nat × Nat) := (l.filter fun x => x.2 ≠ 0).map fun x => (x.1.toNat, x.2)

/-- Ranges that follow one another joined. -/
def joinRanges (l : List (Nat × Nat)) : List (Nat × Nat) :=
  (l.foldl (fun (acc : List (Nat × Nat)) x =>
    match acc with
    | (a, n) :: r => if a + n = x.1 then (a, n + x.2) :: r else x :: (a, n) :: r
    | [] => [x]) []).reverse

/-- Do two ranges share a byte? -/
def meets (x y : Nat × Nat) : Bool := decide (x.1 < y.1 + y.2 ∧ y.1 < x.1 + x.2)

/-- Bytes of several ranges, joined. -/
def State.readMany (s : State) (l : List (Nat × Nat)) : List Byte := l.flatMap fun x => s.readBytes x.1 x.2

/-- A range that touches a fenced die or a marked line delivers poison. -/
def State.anyBad (s : State) (l : List (Nat × Nat)) : Bool := l.any fun x => s.readBad x.1 x.2

/-- Ranges whose contents the manual leaves unspecified when a tile writes them: the run's A, B and D, used or not, its Timetable, and
the C of its other tiles (R106). -/
def foreign (c : RunCtx) (addr : Nat) (ds : List Nat) : List (Nat × Nat) :=
  let mine := natRanges (tileC c ds)
  let others := (allTiles c).filter fun d => tileKey c.h c.ls d ≠ tileKey c.h c.ls ds
  let all := (addr, c.t.length) :: natRanges ((allSteps c).flatMap (stepRanges c) ++ (allTiles c).flatMap (fun d => tileReads c d ++ idleRanges c d) ++ others.flatMap (tileC c))
  all.filter fun x => mine.any (meets x)

/-- A run writes bytes, those in unspecified places with free values (R106). -/
def State.runWrite (s : State) (wid a : Nat) (bs : List Byte) (bad : List (Nat × Nat)) (poison : Bool) : State :=
  let (bs, s) := if bad.any (meets (a, bs.length)) then
      let (fs, s) := s.freeBytes bs.length
      (bs.zipIdx.map fun p => if bad.any (meets (a + p.2, 1)) then fs.getD p.2 0 else p.1, s)
    else (bs, s)
  (s.writeBytes wid a bs poison).2

/-- A row's bytes written over its ranges. -/
def State.runWriteRow (s : State) (wid : Nat) (rs : List (Nat × Nat)) (bs : List Byte) (bad : List (Nat × Nat)) (poison : Bool) : State :=
  ((joinRanges rs).foldl (fun (q : List Byte × State) x =>
    (q.1.drop x.2, q.2.runWrite wid x.1 (q.1.take x.2) bad poison)) (bs, s)).2

/-- Values that depend on memory another Waybill wrote during the run are unspecified (R139): the elements that dep names take
free words. -/
def State.freeWords (s : State) (dep : Nat → Bool) (xs : List (Option Word)) : List (Option Word) × State :=
  let n := xs.length
  (xs.zipIdx.map fun p => if dep p.2 then p.1.map fun _ => Config.freeWord (s.free + p.2) else p.1, { s with free := s.free + n })

/-! ### Instances -/

/-- An engine's entry in a run. -/
def runInst (r : Run) (i : Nat) : Option RunInst := r.insts.find? fun x => x.inst = i

/-- The run on an engine, with the engine's part, when it has begun and not ended and its die's C domain runs (R466). -/
def State.runOn (s : State) (k : EngKind) (i : Nat) : Option (Run × RunInst) :=
  match s.useOf k i with
  | some (.running wid) =>
    (s.run wid).bind fun r => (runInst r i).bind fun x =>
      if decide (r.kind = k) && x.started && !x.done && bit (5 + (dieOf k i).2) (s.reg rClkRun)
          && bit (9 + (dieOf k i).2) (s.reg rClkRun) then some (r, x) else none
  | _ => none

/-- Change an engine's part of a run. -/
def State.updInst (s : State) (wid i : Nat) (f : RunInst → RunInst) : State :=
  s.updRun wid fun r => { r with insts := updIf (fun x => decide (x.inst = i)) f r.insts }

/-- Registers of an engine's counters: C cycles, steps, skips, waits, non-finite elements. -/
def cycReg : EngKind → Nat → Nat
  | .mxe, i => rMxeCycLo i | .vxe, i => rVxeCycLo i | _, i => rCveCycLo i
/-- Steps executed. -/
def stepsReg : EngKind → Nat → Nat
  | .mxe, i => rMxeStepsLo i | .vxe, i => rVxeStepsLo i | _, i => rCveStepsLo i
/-- Steps skipped. -/
def skipsReg : EngKind → Nat → Nat
  | .mxe, i => rMxeSkipsLo i | .vxe, i => rVxeSkipsLo i | _, i => rCveSkipsLo i
/-- Positions that waited. -/
def waitsReg : EngKind → Nat → Nat
  | .mxe, i => rMxeWaits i | .vxe, i => rVxeWaits i | _, i => rCveWaits i
/-- Non-finite elements written. -/
def nonfinReg : EngKind → Nat → Nat
  | .mxe, i => rMxeNonfinite i | .vxe, i => rVxeNonfinite i | _, i => rCveNonfinite i
/-- ECC bits. -/
def eccReg : EngKind → Nat → Nat
  | .mxe, i => rMxeEcc i | .vxe, i => rVxeEcc i | _, i => rCveEcc i

/-- Which bit of the ECC register a memory code sets: corrected, then uncorrectable at the next bit (R146, R205, R383, R524). -/
def eccBit (k : EngKind) (code : Nat) : Option Nat :=
  match k with
  | .mxe => if code = 2 then some 0 else if code = 3 then some 2 else none
  | .vxe => if code = 3 then some 0 else if code = 4 then some 2 else none
  | .cve => if code = 5 then some 0 else if code = 6 then some 2 else if code = 7 then some 4 else none
  | _ => none

/-- Act on the errors that a step met: records, counts, and the engine's own ECC bits (R137, R517). -/
def State.noteStepMarks (s : State) (k : EngKind) (i : Nat) (w : Wb) (m : Marks) : State :=
  let s := s.noteMarks m 0 w.ring (engSrc k i) (some w.part)
  let s := m.sram.foldl (fun s x => match eccBit k x.1 with
    | some b => let b := if x.2.2 then b else b + 1
                s.setFld (eccReg k i) b b 1
    | none => s) s
  if Marks.sramUe m then s.notePoison w.wid else s

/-- A step waits for data at its first use; its position counts once (R28, R108). -/
def State.waitAt (s : State) (wid : Nat) (k : EngKind) (x : RunInst) (pos : Nat) : State :=
  if x.waited.contains pos then s
  else
    let s := s.updInst wid x.inst fun x => { x with waited := pos :: x.waited }
    (s.updRun wid fun r => { r with waits := r.waits + 1 }).bump (waitsReg k x.inst) 1

/-- An engine goes on to its next position (R91, R272). -/
def State.advancePos (s : State) (wid : Nat) (x : RunInst) (c : RunCtx) : State :=
  let (n, v) := sparseAt c.counts 0 x.pos
  let outer := if ttSparse c.ls then (if v + 1 = c.counts.getD n 0 then n + 1 else n) else x.outer
  (s.updInst wid x.inst fun x => { x with pos := x.pos + 1, outer := outer }).arrive wid x.inst (x.pos + 1)

/-- The work of a run is over: its Waybill ends with the status and DETAIL of R85, R132, R137, R160 and R259. -/
def State.endRun (s : State) (r : Run) : State :=
  match s.wb r.wid with
  | none => s
  | some w =>
    let numeric := decide (r.nonfin ≠ 0 ∨ r.sat ≠ 0 ∨ r.ovf ≠ 0 ∨ r.laneBad ≠ 0)
    let st := accStatus w (if numeric then stOkNumeric else stOk)
    s.endWb r.wid st (if stSuccess st then r.waits else 0) w.src

/-- An engine has done its part: it is free, its die's copy goes when it was the last there, and with the last engine the work
is over (R86, R143, R418). -/
def State.instDone (s : State) (wid : Nat) (k : EngKind) (i : Nat) : State :=
  let s := (s.updInst wid i fun x => { x with done := true }).setUse k i none
  let s := if k = .mxe then s.holdBallast i else s
  match s.run wid with
  | none => s
  | some r =>
    let d := (dieOf k i).2
    let s := if r.insts.any fun x => !x.done && decide ((dieOf k x.inst).2 = d) then s else s.dropCopy d wid
    let s := if r.unplaced.isEmpty && r.insts.all fun x => x.done then s.endRun r else s
    s.settle

/-- Saturated and overflowed values of a quantiser, counted on the compute die and in the run (R158 to R160). -/
def State.noteQuant (s : State) (wid die part : Nat) (q : QCount) : State :=
  if q.sat = 0 && q.ovf = 0 then s
  else
    let s := ((s.bump64 (rMxeNfSatLo die) q.sat).bump64 (rMxeNfOvfLo die) q.ovf).updRun wid
      fun r => { r with sat := r.sat + q.sat, ovf := r.ovf + q.ovf }
    let same (x : Nat × Nat × Nat) : Bool := decide (x.1 = die ∧ x.2.1 = part)
    let l := if q.ovf = 0 then s.eng.ovfEpoch
      else if s.eng.ovfEpoch.any same then updIf same (fun x => (x.1, x.2.1, x.2.2 + q.ovf)) s.eng.ovfEpoch
      else s.eng.ovfEpoch ++ [(die, part, q.ovf)]
    { s with eng := { s.eng with ovfEpoch := l } }

/-- Ignored outlier entries are counted. The first Waybill since reset that meets some is the one that will report them: the unit and
engine that met its first are kept (R153, R178; DEDUCED, log entry 34). -/
def State.noteLane (s : State) (r : Run) (k : EngKind) (i n unit : Nat) : State :=
  if n = 0 then s
  else
    let s := (s.bump (rMxeNfLaneBad (dieOf k i).2) n).updRun r.wid fun r => { r with laneBad := r.laneBad + n }
    if s.eng.laneTold then s
    else ({ s with eng := { s.eng with laneTold := true } }).updRun r.wid fun r => { r with laneAt := some (unit, engSrc k i) }

/-- Units of the latent rows that reads of views reach, in format 4 (R151, R206). -/
def State.latentUnits (s : State) (l : List (Nat × Nat)) : List Nat :=
  ((s.viewSlices l).flatMap fun x =>
    if vFmt x.1.spec = 4 then (s.viewRows x.1 x.2.1 x.2.2).flatMap fun t => (List.range (t.2 / 148)).map fun u => t.1 + 148 * u
    else []).eraseDups

/-- A step's reads are noted; the outlier entries that the Expanders ignore in them count as its own do (R153, R217). -/
def State.runReads (s : State) (r : Run) (k : EngKind) (i : Nat) (l : List (Nat × Nat)) : State :=
  let bads := (s.latentUnits l).map fun a => (a, (decodeUnit 4 (fun _ => false) (s.memRead a 148)).2)
  let s := s.noteReads r.wid l
  bads.foldl (fun s x => s.noteLane r k i x.2 x.1) s

/-- LANE_MALFORMED with the ignored entries of the Waybill that reports them, and NF_RUN where saturation or lane counters moved, when the work of a run is
reported (R153, R160, R178). -/
def State.closeRun (s : State) (wid : Nat) : State :=
  match s.run wid, s.wb wid with
  | some r, some w =>
    let s := match r.laneAt with
      | some (unit, src) => s.emitFor wid (ev 0x0103 lvBlock (some r.part) src [unit, r.laneBad, r.addr])
      | none => s
    let moved := decide (r.sat ≠ 0 ∨ r.ovf ≠ 0 ∨ r.laneBad ≠ 0)
    let s := if moved && decide (r.kind ≠ .cve) && bit 4 (r.nfCfg.getD r.recv 0) then
        s.emitFor wid (ev 0x0101 lvBlock (some r.part) w.src [r.sat, r.ovf, r.nonfin, r.addr, r.laneBad])
      else s
    s.dropRun wid
  | _, _ => s.dropRun wid

end Sys2Proof.Machine
end

