-- ==== Sys2Proof/Machine/Complete.lean ====
section
/-! DEFINITION. The meanings of NOP and of the completion of a Waybill (R53 to R59, R68 to R74, R351, R427). -/

namespace Sys2Proof.Machine

open Sys2Proof

/-- NOP: nothing is executed (R51); its work is zero, so it ends with OK_EMPTY, or with WB_FORMAT when a reserved field is not
zero (R53). -/
def nopStep (wid : Nat) (s : State) : State :=
  match s.begin? wid opNop with
  | none => s
  | some w => s.endWb wid ((s.r53 w.part w.slot).getD stOkEmpty) 0 0

/-- NOP (R51). -/
def execNop (wid : Nat) (s : State) : Host.Outcome State Fault Refusal := .next (nopStep wid s)

/-- The status that a Waybill which has not begun ends with: that of a split Consist, or of a check that it fails; none while it
waits or when its own command is to begin it (R53, R57, R509). -/
def State.earlyEnd (s : State) (w : Wb) : Option Nat :=
  if !s.mayBegin w then none
  else match w.preset with
    | some st => some st
    | none => match s.r53 w.part w.slot with
      | some st => some st
      | none => if wOpcode w.slot = opNop || wOpcode w.slot = opStamp then none else s.secCheck w.part

/-- A Waybill whose work is over: its events are written, its signal applied, and its record written, held back for the END rule or
suppressed (R54, R59, R68, R72). -/
def State.finish (s : State) (w : Wb) : State :=
  let poisoned := (s.consist w.cid).any fun c => c.poisoned
  let s := if poisoned && stSuccess w.status then
      s.updWb w.wid fun w => { w with status := stCollPoison, detail := 0 } else s
  let s := (s.faultEvent w).closeRun w.wid
  let s := if w.status = stPreempted then
      (s.updConsist w.cid fun c => { c with preempted := true }).updPart w.part fun x => { x with evictPre := x.evictPre + 1 }
    else s
  let s := if wSignalEn w.slot && w.status ≠ stDevFatal then s.signal w.part (wSignalSem w.slot) (wSignalAdd w.slot) else s
  let isEnd := (s.consist w.cid).any fun c => decide (c.endWid = some w.wid)
  match s.wb w.wid with
  | none => s
  | some w => if isEnd then s.updWb w.wid fun w => { w with phase := .endHeld } else s.record w

/-- WAYBILL_COMPLETE: a Waybill whose work is over completes; so does one that ends before it begins (R53, R57). -/
def waybillCompleteStep (wid : Nat) (s : State) : State :=
  match s.wb wid with
  | none => s
  | some w =>
    if w.phase = .ended then (if s.collWaits w then s else (s.finish w).settle)
    else match s.earlyEnd w with
      | none => s
      | some st =>
        let s := s.endWb wid st 0 0
        match s.wb wid with
        | some w => (s.finish w).settle
        | none => s

/-- WAYBILL_COMPLETE (R54). -/
def execWaybillComplete (wid : Nat) (io : List IoRes) (s : State) : Host.Outcome State Fault Refusal :=
  .next (withIo io (waybillCompleteStep wid) s)

end Sys2Proof.Machine
end

