-- ==== Sys2Proof/Machine/Theodolite.lean ====
section
/-! DEFINITION. The Theodolite: which tiles it samples, what it captures, the check, its histogram entries, and the meanings of its
commands (R170 to R178, R180). -/

namespace Sys2Proof.Machine

open Sys2Proof

/-- MXE_THD_CFG and MXE_THD_SEED of a die as a run was issued with them (R177). -/
def thdOf (r : Run) (die : Nat) : Word × Word := r.thd.getD die (0, 0)

/-- Is the tile whose finishing step is at a position sampled (R170)? -/
def sampled (cfg : Word × Word) (pos : Nat) : Bool :=
  let k := bits 4 0 cfg.1
  decide (k ≠ 0 ∧ (mix cfg.2 (w32 pos)).toNat % 2 ^ k = 0)

/-- Change a histogram entry. -/
def State.updThd (s : State) (die slot : Nat) (f : ThdEntry → ThdEntry) : State :=
  { s with eng := { s.eng with thd := updIf (fun x => decide (x.die = die ∧ x.slot = slot)) f s.eng.thd } }

/-- An entry without samples. -/
def newThd (die slot part dig : Nat) : ThdEntry :=
  { die := die, slot := slot, part := part, dig := dig, bins := List.replicate 32 0, samples := 0, drifting := 0, skipBusy := 0,
    skipSize := 0, skipNf := 0, last := 0, since := 0 }

/-- The entry of a key: its own, a free one (the lowest, a DESIGN CHOICE, log entry 23), or that with the oldest last sample, whose
totals THEO_EVICT reports (R175). One that no sample has met is the oldest, and among equals the lowest slot (DESIGN CHOICE, log entry
94). -/
def State.thdEntry (s : State) (die part dig : Nat) : Nat × State :=
  let mine := s.eng.thd.filter fun x => x.die = die
  match mine.find? fun x => decide (x.part = part ∧ x.dig = dig) with
  | some x => (x.slot, s)
  | none =>
    match (List.range 128).find? fun k => mine.all fun x => x.slot ≠ k with
    | some k => (k, { s with eng := { s.eng with thd := s.eng.thd ++ [newThd die k part dig] } })
    | none => match pickMin (fun a b => lexLt [a.last, a.slot] [b.last, b.slot]) mine with
      | none => (0, s)
      | some x =>
        let l := s.eng.thd.filter (fun y => !(decide (y.die = die ∧ y.slot = x.slot))) ++ [newThd die x.slot part dig]
        (x.slot, ({ s with eng := { s.eng with thd := l } }).emit (ev 0x0111 lvBlock (some x.part) (srcOf 1 die)
          [x.dig, x.samples, x.drifting, x.skipBusy + x.skipSize + x.skipNf]))

/-- A finished tile, offered to its die's Theodolite: taken, or counted as not checked (R171). bytes: what was captured; pairs: the
accumulator value and the reference of each unmasked element. -/
def State.offerCheck (s : State) (r : Run) (die pos bytes : Nat) (pairs : List (Word × DWord)) : State :=
  let cfg := thdOf r die
  if !sampled cfg pos || s.err.badUnits.contains (2, die) then s
  else
    let dig := rdN r.tt 0xC0 8
    if s.eng.checks.any fun x => x.die = die then
      let (k, s) := s.thdEntry die r.part dig
      s.updThd die k fun x => { x with skipBusy := satAdd 32 x.skipBusy 1 }
    else if 50331648 < bytes then
      let (k, s) := s.thdEntry die r.part dig
      s.updThd die k fun x => { x with skipSize := satAdd 32 x.skipSize 1 }
    else
      { s with eng := { s.eng with checks := s.eng.checks ++
        [{ die := die, part := r.part, dig := dig, addr := r.addr, pos := pos, drift := cfg.1, pairs := pairs }] } }

/-- A binary64 code as a number. -/
def ofF64 (x : DWord) : FNum := ndecode 11 52 x.toNat
/-- The binary64 code of a number, rounded once. -/
def toF64 (x : FNum) : DWord := BitVec.ofNat 64 (nencode 11 52 (rne64 x))

/-- The tile error E, summed in binary64 in row order (R173). -/
def tileError (pairs : List (Word × DWord)) : FNum :=
  let sums := pairs.foldl (fun (a : FNum × FNum) p =>
    let r := ofF64 p.2
    let d := rne64 (nadd (ofF32 p.1) (nnegate r))
    (rne64 (nadd a.1 (rne64 (nmul d d))), rne64 (nadd a.2 (rne64 (nmul r r))))) (nzero, nzero)
  rne64 (nsqrt 53 (rne64 (ndiv 53 sums.1 sums.2)))

/-- The bin of a sample, with its error; none when the reference is not finite (R173, R179). -/
def thdBin (pairs : List (Word × DWord)) : Option (Nat × FNum) :=
  if pairs.any fun p => !nisFin (ofF64 p.2) then none
  else
    let e := tileError pairs
    if pairs.any fun p => !nisFin (ofF32 p.1) then some (0, e)
    else if pairs.all fun p => nisZero (ofF64 p.2) then
      if pairs.all fun p => nisZero (ofF32 p.1) then some (31, nzero) else some (0, .inf false)
    else if nisZero e then some (31, e)
    else if !nlt e none1 then some (0, e)
    else some (min 31 (-(nexp e)).toNat, e)

/-- THEODOLITE_CHECK_DONE: the check of a die's tile ends; its error is binned, and drifting samples are counted and reported
(R173, R175, R176). With a word of the check store that stays uncorrectable the check has no result (R517; DESIGN CHOICE, log entry 68). -/
def theodoliteCheckDoneStep (b : CheckRead) (s : State) : State :=
  let die := b.die
  match s.eng.checks.find? fun x => x.die = die with
  | none => s
  | some q =>
    let s := s.noteMarks b.marks 0 0xFFFFFFFF (srcOf 1 die) (some q.part)
    let s := { s with eng := { s.eng with checks := s.eng.checks.filter (fun x => x.die ≠ die) } }
    if Marks.sramUe b.marks then s else
    let (k, s) := s.thdEntry die q.part q.dig
    match thdBin q.pairs with
    | none => s.updThd die k fun x => { x with skipNf := satAdd 32 x.skipNf 1 }
    | some (b, e) =>
      let drifts := decide (b ≤ bits 9 5 q.drift)
      let s := s.updThd die k fun x =>
        { x with bins := x.bins.zipIdx.map (fun (p : Nat × Nat) => if p.2 = b then satAdd 32 p.1 1 else p.1),
                 samples := satAdd 32 x.samples 1, last := s.aon,
                 drifting := if drifts then satAdd 32 x.drifting 1 else x.drifting,
                 since := if drifts then x.since + 1 else x.since }
      let n := bits 31 16 q.drift
      match s.eng.thd.find? fun x => decide (x.die = die ∧ x.slot = k) with
      | none => s
      | some x =>
        if drifts && decide (n ≠ 0 ∧ n ≤ x.since) then
          (s.updThd die k fun x => { x with since := 0 }).emit (ev 0x0110 lvBlock (some q.part) (srcOf 1 die)
            [q.dig, q.addr, x.samples, x.drifting, (toF32 e).toNat + q.pos * 2 ^ 32])
        else s

/-- THEODOLITE_CHECK_DONE (R173). -/
def execTheodoliteCheckDone (b : CheckRead) (s : State) : Host.Outcome State Fault Refusal := .next (theodoliteCheckDoneStep b s).seen

/-- THD_CLR_ENTRY: MXE_THD_CLR.ENTRY frees the entry that MXE_THD_SEL selects (R180). -/
def thdClrEntryStep (die : Nat) (s : State) : State :=
  let k := s.fld (rMxeThdSel die) 6 0
  if !s.barOpen (rMxeThdClr die) then s
  else { s with eng := { s.eng with thd := s.eng.thd.filter (fun x => !(decide (x.die = die ∧ x.slot = k))) } }

/-- THD_CLR_ENTRY (R180). -/
def execThdClrEntry (die : Nat) (s : State) : Host.Outcome State Fault Refusal := .next (thdClrEntryStep die s)

/-- THD_CLR_ALL: MXE_THD_CLR.ALL frees every entry of the die (R180). -/
def thdClrAllStep (die : Nat) (s : State) : State :=
  if !s.barOpen (rMxeThdClr die) then s
  else { s with eng := { s.eng with thd := s.eng.thd.filter (fun x => x.die ≠ die) } }

/-- THD_CLR_ALL (R180). -/
def execThdClrAll (die : Nat) (s : State) : Host.Outcome State Fault Refusal := .next (thdClrAllStep die s)

end Sys2Proof.Machine
end

