-- ==== Sys2Proof/Machine/Mxe.lean ====
section
/-! DEFINITION. The matrix engines: a step, the drain of a finished tile, tile notices, and the clearing of counters (R97, R98, R105,
R106, R112 to R147, R153, R158, R160, R171, R172, R180). -/

namespace Sys2Proof.Machine

open Sys2Proof

/-- Is A quantised in the feed (R117)? -/
def feedQuant (c : RunCtx) : Bool := (oper c 0).fmt = 1 && (oper c 0).rot ≠ 0

/-- A row or column as the cells see it, the entries ignored in it with the place of the first, and what the feed's quantiser
counted. -/
structure OperRow where
  elems : List Elem
  bad   : Nat
  badAt : Nat
  q     : QCount
  deriving DecidableEq, Repr

/-- Elements padded with masked ones to n. -/
def padElems (n : Nat) (l : List Elem) : List Elem := l ++ List.replicate (n - l.length) elemMasked

/-- A stored row of n unmasked elements, read at an address, as ext elements (R97, R151 to R154). -/
def storedRow (fmt n ext a : Nat) (bs : List Byte) : OperRow :=
  let mk (k : Nat) : Bool := decide (n ≤ k)
  let (es, bad) := decodeRow fmt mk bs
  let units := chunksOf (unitBytes fmt) bs.length bs
  let firstBad := if bad = 0 then 0
    else (units.zipIdx.findIdx fun p => (decodeUnit fmt (fun k => mk (unitElems fmt * p.2 + k)) p.1).2 ≠ 0)
  { elems := padElems ext es, bad := bad, badAt := a + firstBad * unitBytes fmt, q := ⟨0, 0⟩ }

/-- A BF16 row rotated and quantised in the feed; u is the index along K of its first element (R117, R163). -/
def feedRow (shift rot : Nat) (seed : Word) (u n ext : Nat) (bs : List Byte) : OperRow :=
  let vals := (decodeRow 1 (fun _ => false) bs).1.map fun e => toF32 (elemVal e)
  let (qb, q) := quantRow 4 shift rot seed u (vals.take n)
  { elems := padElems ext (decodeRow 4 (fun k => decide (n ≤ k)) qb).1, bad := 0, badAt := 0, q := q }

/-- Row i of operand j of an MXE step: A for j 0, B for j 1. -/
def State.mxeRow (s : State) (c : RunCtx) (ds : List Nat) (die j i : Nat) : OperRow :=
  let x := oper c j
  let n := liveOf c ds 3
  let rs := atRow c ds j i n
  let bs := s.readMany rs
  let a := (rs.headD (0, 0)).1
  if j = 0 && feedQuant c then
    feedRow (c.shift die) x.rot x.seed (roleDigit c.ls ds 3 * c.h.tk) n c.h.tk bs
  else storedRow x.fmt n c.h.tk a bs

/-- A row as the Theodolite takes it: dequantised, and the rotation undone where A is rotated (R172). -/
def thdRow (c : RunCtx) (ds : List Nat) (j : Nat) (bs : List Byte) : List FNum :=
  let x := oper c j
  let a := oper c 0
  let n := liveOf c ds 3
  let es := padElems c.h.tk (decodeRow x.fmt (fun k => decide (n ≤ k)) bs).1
  let vs := es.map elemVal
  let turn := if j = 0 then a.rot ≠ 0 && !feedQuant c else a.rot ≠ 0
  if turn then ((rotRow rotInv a.rot a.seed (roleDigit c.ls ds 3 * c.h.tk) (vs.map toF32)).map ofF32).take n
  else vs.take n

/-- The exact sum of products of two rows (R172). -/
def exactDot (a w : List FNum) : FNum := nsum (List.zipWith nmul a w)

/-- The finishing position of the tile that a step belongs to (R105, R170). -/
def finishPos (c : RunCtx) (ds : List Nat) : Nat :=
  let last := (c.ls.zip ds).map fun p => if p.1.1.role = 3 then p.1.2 - 1 else p.2
  if ttSparse c.ls then
    let n := (c.ls.dropLast.zip last).foldl (fun a q => a * q.1.2 + q.2) 0
    (c.counts.take n).sum + c.counts.getD n 0 - 1
  else (c.ls.zip last).foldl (fun a q => a * q.1.2 + q.2) 0

/-- A fresh tile, its entries +0.0 (R114). -/
def newTile (c : RunCtx) (ds : List Nat) : AccTile :=
  { key := tileKey c.h c.ls ds, pos := 0, digits := ds, vals := List.replicate (c.h.tm * c.h.tn) f32Zero, ms := [], ls := [],
    poison := false, draining := false, refs := [], captured := 0 }

/-- Change a tile, adding it when it is new. -/
def State.putTile (s : State) (wid i : Nat) (t : AccTile) : State :=
  s.updInst wid i fun x =>
    let l := if x.tiles.any fun y => !y.draining && decide (y.key = t.key) then
        updIf (fun y => !y.draining && decide (y.key = t.key)) (fun _ => t) x.tiles
      else x.tiles ++ [t]
    { x with tiles := l }

/-- The collective that holds a handle open in a partition; one with STREAM 0 opens no handle (R135, R345). -/
def State.openColl (s : State) (part id : Nat) : Option Coll :=
  s.colls.list.find? fun c => decide (c.part = part ∧ cdId c.desc = id) && c.opened && cdStream c.desc

/-- STREAM and COLL_ID of an epilogue (R125). -/
def streamOf (c : RunCtx) : Option Nat :=
  if c.h.epiSize ≠ 0 && rdBits c.t c.h.epiOff 8 8 = 1 then some (rdBits c.t c.h.epiOff 31 16) else none

/-- An instance's first tile has finished: with no collective open it sends no notice in this run (R136). -/
def State.firstFinish (s : State) (r : Run) (c : RunCtx) (i : Nat) : State :=
  match streamOf c, runInst r i with
  | some id, some x =>
    if x.noticed then s
    else
      let miss := (s.openColl r.part id).isNone
      let s := s.updInst r.wid i fun x => { x with noticed := true, missed := miss }
      if miss then s.bump (rMxeStreamMiss i) 1 else s
  | _, _ => s

/-- Queue the notice of a tile (R135). -/
def State.sendNotice (s : State) (r : Run) (c : RunCtx) (i pos : Nat) (ds : List Nat) (ranges : List (Nat × Nat)) : State :=
  match streamOf c, (s.run r.wid).bind fun r => runInst r i with
  | some id, some x =>
    if x.missed then s
    else { s with eng := { s.eng with notices := s.eng.notices ++
      [{ inst := i, part := r.part, coll := id, pos := pos, digits := [roleDigit c.ls ds 1, roleDigit c.ls ds 2, roleDigit c.ls ds 4],
         ranges := ranges, sent := false }] } }
  | _, _ => s

/-- The first notice of an instance in position order that has not left it, when no earlier tile still drains (R135). -/
def State.readyNotice (s : State) (inst : Nat) : Option TileNotice :=
  let mine := s.eng.notices.filter fun n => decide (n.inst = inst) && !n.sent
  match pickMin (fun a b => decide (a.pos < b.pos)) mine with
  | none => none
  | some n =>
    let busy := match s.runOn .mxe inst with
      | some (_, x) => x.tiles.any fun t => t.draining && decide (t.pos < n.pos)
      | none => false
    if busy then none else some n

/-- The notices of an instance that may leave it do (R135). -/
def State.sendNotices (s : State) (inst : Nat) : Nat → State
  | 0 => s
  | k + 1 => match s.readyNotice inst with
    | none => s
    | some n =>
      let l := s.eng.notices.filter (fun y => y ≠ n) ++ [{ n with sent := true }]
      State.sendNotices { s with eng := { s.eng with notices := l } } inst k

/-- What follows a step or a drain: the notices that may leave the engine do, and an engine whose steps and drains are all over has
done its part (R135). -/
def State.mxeEnd (s : State) (wid i : Nat) : State :=
  let s := s.sendNotices i s.eng.notices.length
  match (s.run wid).bind fun r => (runInst r i).map fun x => (r, x) with
  | none => s
  | some (r, x) =>
    let c := ctxOf r
    if decide (x.pos < x.hi) || !x.tiles.isEmpty || (ttSparse c.ls && decide (x.outer < x.outerEnd)) then s
    else s.instDone wid .mxe i

/-- A tile finishes: it goes to the epilogue, and the Theodolite is offered it (R105, R136, R171). -/
def State.finishTile (s : State) (r : Run) (c : RunCtx) (i pos : Nat) (ds : List Nat) (t : AccTile) (byStep : Bool) : State :=
  let t := { t with pos := pos, digits := ds }
  let s := s.updInst r.wid i fun x =>
    { x with tiles := x.tiles.filter (fun y => y.draining || decide (y.key ≠ t.key)) ++ [{ t with draining := true, refs := [] }] }
  let s := s.firstFinish r c i
  if byStep && !t.refs.isEmpty then
    let m := (rowsOf c ds 1).length
    let n := liveOf c ds 2
    let vals := ((chunksOf c.h.tn c.h.tm t.vals).take m).flatMap fun row => row.take n
    s.offerCheck r (dieOf .mxe i).2 pos (t.captured + 4 * c.h.tm * c.h.tn) (vals.zip (t.refs.map toF64))
  else s

/-- A wholly masked tile finishes: it is only announced (R135). -/
def State.finishDead (s : State) (r : Run) (c : RunCtx) (i pos : Nat) (ds : List Nat) : State :=
  (s.firstFinish r c i).sendNotice r c i pos ds []

/-- The tile of a step, or a fresh one; none when the ACC has no room for it yet (R103, R105, R114). -/
def tileFor (c : RunCtx) (x : RunInst) (ds : List Nat) : Option AccTile :=
  match x.tiles.find? fun t => !t.draining && decide (t.key = tileKey c.h c.ls ds) with
  | some t => some t
  | none => if x.tiles.length < ttLive c.h c.ls + c.h.lap then some (newTile c ds) else none

/-- Products of a step added to its tile, row by row (R113, R120 to R122). -/
def accumulate (c : RunCtx) (vals : List Word) (rows cols : List OperRow) : List Word :=
  let a := oper c 0
  let g := (cellGroup a.fmt a.rot (oper c 1).fmt).getD 32
  ((chunksOf c.h.tn c.h.tm vals).zipIdx.map fun p =>
    match rows[p.2]? with
    | none => p.1
    | some r => List.zipWith (fun v w => cellDot g v r.elems w.elems) p.1 (cols) ++ p.1.drop cols.length).flatten

/-- A step that is executed (R28, R97, R108, R113, R137, R153, R171). -/
def State.mxeRun (s : State) (r : Run) (x : RunInst) (c : RunCtx) (w : Wb) (ds : List Nat) (t : AccTile) (cycles ns : Nat) (m : Marks) :
    State :=
  let i := x.inst
  let die := (dieOf .mxe i).2
  let reads := natRanges (stepRanges c ds)
  let (ok, s1) := s.prepareFor r.wid (2 * i) reads []
  if !ok then s1.waitAt r.wid .mxe x x.pos
  else
    let s2 := s1.noteStepMarks .mxe i w m
    let bad := s2.anyBad reads || Marks.sramUe m
    let rows := (rowsOf c ds 1).map (s2.mxeRow c ds die 0)
    let cols := (rowsOf c ds 2).map (s2.mxeRow c ds die 1)
    let pos := finishPos c ds
    let take := sampled (thdOf r die) pos && !dead c ds
    let n := liveOf c ds 3
    let ar := if take then (rowsOf c ds 1).map fun k => thdRow c ds 0 (s2.readMany (atRow c ds 0 k n)) else []
    let br := if take then (rowsOf c ds 2).map fun k => thdRow c ds 1 (s2.readMany (atRow c ds 1 k n)) else []
    let prods := ar.flatMap fun a => br.map fun b => exactDot a b
    let refs := if t.refs.isEmpty then prods else List.zipWith nadd t.refs prods
    let bytes := (reads.map (·.2)).sum
    let t := { t with vals := accumulate c t.vals rows cols, poison := t.poison || bad, refs := refs,
                      captured := if take then t.captured + bytes else 0 }
    let s3 := (s2.runReads r .mxe x.inst reads).putTile r.wid i t
    let s4 := rows.foldl (fun s o => s.noteQuant r.wid die r.part o.q) s3
    let s5 := (rows ++ cols).foldl (fun s o => s.noteLane r .mxe i o.bad o.badAt) s4
    let outl := (rows.map fun o => outlierTerms o.elems).sum * cols.length
    let s6 := ((s5.bump (rMxeOutliers i) outl).bump64 (stepsReg .mxe i) 1).bump64 (cycReg .mxe i) cycles
    let s7 := (s6.chargeWb r.wid ns).advancePos r.wid x c
    if finishesTile c.h c.ls c.counts ds then s7.finishTile r c i x.pos ds t true else s7

/-- A step that is skipped keeps its position; a tile whose last K step it is finishes all the same (R98, R105). -/
def State.mxeSkip (s : State) (r : Run) (x : RunInst) (c : RunCtx) (ds : List Nat) : State :=
  let fin := finishesTile c.h c.ls c.counts ds
  if fin && !dead c ds then
    match tileFor c x ds with
    | none => s
    | some t => ((s.bump64 (skipsReg .mxe x.inst) 1).advancePos r.wid x c).finishTile r c x.inst x.pos ds t true
  else
    let s := (s.bump64 (skipsReg .mxe x.inst) 1).advancePos r.wid x c
    if fin then s.finishDead r c x.inst x.pos ds else s

/-- MXE_STEP: an engine's next step in ascending position order, or the next tile of a SPARSE Timetable that has no steps. It waits
for data that is not in place, and for the ACC while a tile drains. -/
def mxeStepStep (inst cycles ns : Nat) (m : Marks) (s : State) : State :=
  match s.runOn .mxe inst with
  | none => s
  | some (r, x) =>
    match s.wb r.wid with
    | none => s
    | some w =>
      let c := ctxOf r
      if c.h.lap = 0 && x.tiles.any (fun t => t.draining) then s
      else
        let next := if x.pos < x.hi then (sparseAt c.counts 0 x.pos).1 else x.outerEnd
        if ttSparse c.ls && decide (x.outer < next) then
          let on (s : State) : State := s.updInst r.wid inst fun x => { x with outer := x.outer + 1 }
          let s := match zeroTile c x.outer with
            | none => on s
            | some ds =>
              if dead c ds then (on s).finishDead r c inst x.pos ds
              else match tileFor c x ds with
                | none => s
                | some t => (on s).finishTile r c inst x.pos ds t false
          s.mxeEnd r.wid inst
        else if x.hi ≤ x.pos then s.mxeEnd r.wid inst
        else
          let ds := digs c x.pos
          let s := if skips c ds then s.mxeSkip r x c ds
            else match tileFor c x ds with
              | none => s
              | some t => s.mxeRun r x c w ds t cycles ns m
          s.mxeEnd r.wid inst

/-- MXE_STEP (R113). -/
def execMxeStep (inst cycles ns : Nat) (m : Marks) (s : State) : Host.Outcome State Fault Refusal :=
  .next (mxeStepStep inst cycles ns m s).served

/-- A row of D widened to FP32 and counter-rotated along N (R126, R130). -/
def State.dRow (s : State) (c : RunCtx) (ds : List Nat) (row n : Nat) : List Word :=
  let x := oper c 3
  let bs := s.readMany (atRow c ds 3 row n)
  let vs := (decodeRow x.fmt (fun _ => false) bs).1.map fun e => toF32 (elemVal e)
  let vs := vs ++ List.replicate (c.h.tn - vs.length) f32Zero
  rotRow rotInv x.rot x.seed (roleDigit c.ls ds 2 * c.h.tn) vs

/-- Elements of written bytes that are NaN or infinite (R132). -/
def nonfinIn (fmt : Nat) (bs : List Byte) : Nat :=
  ((decodeRow fmt (fun _ => false) bs).1.filter fun e => !nisFin (elemVal e)).length

/-- Steps of the run that accumulate into a tile. -/
def stepsOfTile (c : RunCtx) (x : RunInst) (key : List Nat) : List (List Nat) :=
  ((((List.range (x.hi - x.lo)).map (x.lo + ·)).map (digs c)).filter fun ds => decide (tileKey c.h c.ls ds = key)).filter fun ds => !skips c ds

/-- The bytes that elements lo to hi - 1 of a row of operand j are decoded from (R97, R151). -/
def elemRanges (c : RunCtx) (ds : List Nat) (j row lo hi : Nat) : List (Nat × Nat) :=
  let f := (oper c j).fmt
  let ue := max 1 (unitElems f)
  let units := (atRow c ds j row hi).flatMap fun y => (List.range (y.2 / max 1 (unitBytes f))).map fun u => y.1 + u * unitBytes f
  ((List.range (hi - lo)).map (lo + ·)).flatMap fun k => match units[k / ue]? with
    | some a => (elemBytes f (k % ue)).map fun b => (a + b, 1)
    | none => []

/-- Does any of what a run reads at some bytes derive from memory that another Waybill wrote during the run (R139, R221)? -/
def State.stale (s : State) (dirty : List (Nat × Nat)) (l : List (Nat × Nat)) : Bool :=
  !dirty.isEmpty && (s.derives l).any fun y => dirty.any (meets y)

/-- Does row r (column j) of a tile depend on memory that another Waybill wrote during the run (R139)? -/
def State.dirtyRow (s : State) (c : RunCtx) (dirty : List (Nat × Nat)) (steps : List (List Nat)) (j r : Nat) : Bool :=
  !dirty.isEmpty && steps.any fun ds => s.stale dirty (elemRanges c ds j r 0 (liveOf c ds 3))

/-- Does an element of a used operand, with the group that a rotation mixes, depend on rewritten memory (R139, R163, R165)? -/
def State.dirtyElem (s : State) (c : RunCtx) (dirty : List (Nat × Nat)) (used : Bool) (ds : List Nat) (j row col : Nat) : Bool :=
  let x := oper c j
  let g := if x.rot = 0 then 1 else max 1 (rotSize x.rot)
  used && !dirty.isEmpty && s.stale dirty (elemRanges c ds j row (col / g * g) (col / g * g + g))

/-- The elements, statistics, clamped variances and channel index of a row that depend on rewritten memory are free; every other
value of the row stays exact (R139). -/
def State.freeRow (s : State) (c : RunCtx) (d : RowDep) (o : RowSt) : RowSt × State :=
  let (ys, s) := s.freeWords (fun j => d.xs.getD j false) o.xs
  let free (slot : Nat) : Bool := d.stats.any fun p => decide (p.1 = slot) && p.2
  let norms := ((progOf c).filter fun e => e.op = 0x20).length
  ({ o with
      xs := ys,
      stats := o.stats.map fun p => if free p.1 then (p.1, Config.freeWord (s.free + p.1)) else p,
      clamps := if d.norm then (Config.freeWord (s.free + 8)).toNat % (norms + 1) else o.clamps,
      arg := if d.arg then o.arg.map fun _ => (Config.freeWord (s.free + 9)).toNat else o.arg },
   { s with free := s.free + 10 })

/-- The columns of a row of n unmasked elements, of w in all, that a test marks. -/
def depCols (n w : Nat) (f : Nat → Bool) : List Bool := (List.range w).map fun j => decide (j < n) && f j

/-- What the epilogue writes for one row, and counts. -/
structure RowWrite where
  row  : Nat
  c    : List Byte
  st   : List (Nat × Word)
  q    : QCount
  nf   : Nat
  deriving DecidableEq, Repr

/-- Rotation and seed for C (R125, R185). -/
def rotC (c : RunCtx) : Nat × Word :=
  if c.h.epiSize = 0 then (0, 0)
  else if c.h.engine = 1 then (rdBits c.t c.h.epiOff 34 32, BitVec.ofNat 32 (rdN c.t (c.h.epiOff + 8) 4))
  else (rdBits c.t c.h.epiOff 10 8, BitVec.ofNat 32 (rdN c.t (c.h.epiOff + 8) 4))

/-- A row's values after its program, converted to C's format (R131, R132, R155). -/
def convertRow (c : RunCtx) (ds : List Nat) (shift row n : Nat) (o : RowSt) : RowWrite :=
  let f := (oper c 2).fmt
  let (rot, seed) := rotC c
  let xs := (o.xs.take n).map fun x => x.getD f32Zero
  let (bs, q) := quantRow f shift rot seed (roleDigit c.ls ds 2 * c.h.tn) xs
  { row := row, c := bs, st := o.stats, q := q, nf := nonfinIn f bs }

/-- The epilogue of one row of an MXE tile (R125 to R131). Elements that depend on rewritten memory are free (R139). -/
def State.mxeEpiRow (s : State) (r : Run) (x : RunInst) (c : RunCtx) (t : AccTile) (die row : Nat) : RowWrite × State :=
  let ds := t.digits
  let n := liveOf c ds 2
  let acc := (chunksOf c.h.tn c.h.tm t.vals).getD row []
  let xs := (acc.take n).map some ++ List.replicate (c.h.tn - n) none
  let d := if usesD c then s.dRow c ds row n else []
  let o := rowRun { tables := r.tables, d0 := d, d1 := [], b := [], eps := 0, chans := 0 } (progOf c) xs
  if r.dirty.isEmpty then (convertRow c ds (c.shift die) row n o, s)
  else
    let steps := stepsOfTile c x t.key
    let whole := s.dirtyRow c r.dirty steps 0 row
    let cols := depCols n c.h.tn
    let dep := rowDep { d0 := cols (s.dirtyElem c r.dirty (usesD c) ds 3 row), d1 := [], b := [], chans := 0 } (progOf c)
      (cols fun j => whole || s.dirtyRow c r.dirty steps 1 j)
    let (o, s) := s.freeRow c dep o
    (convertRow c ds (c.shift die) row n o, s)

/-- Write a tile's rows and statistics, and count (R105, R129, R131, R132, R137, R158). -/
def State.writeRows (s : State) (r : Run) (c : RunCtx) (k : EngKind) (i : Nat) (ds : List Nat) (poison : Bool) (rows : List RowWrite) :
    State :=
  let die := (dieOf k i).2
  let bad := foreign c r.addr ds
  rows.foldl (fun s o =>
    let n := if c.h.engine = 2 then c.h.tn else liveOf c ds 2
    let s := s.runWriteRow r.wid (atRow c ds 2 o.row n) o.c bad poison
    let s := o.st.foldl (fun s p => (s.writeBytes r.wid (statAddr c ds o.row p.1).toNat (leBytes 4 p.2.toNat) poison).2) s
    let s := s.noteQuant r.wid die r.part o.q
    if o.nf = 0 then s
    else (s.bump (nonfinReg k i) o.nf).updRun r.wid fun r => { r with nonfin := r.nonfin + o.nf }) s

/-- EPILOGUE_DRAIN_DONE: the oldest finished tile of an MXE has drained: its rows pass the program, are converted and written, with
their statistics; the tile leaves the ACC and is announced (R105, R125 to R137). It waits for D and for pages that C needs. -/
def epilogueDrainDoneStep (inst cycles ns : Nat) (m : Marks) (s : State) : State :=
  match s.runOn .mxe inst with
  | none => s
  | some (r, x) =>
    match s.wb r.wid, x.tiles.find? fun t => t.draining with
    | some w, some t =>
      let c := ctxOf r
      let ds := t.digits
      let die := (dieOf .mxe inst).2
      let reads := natRanges (tileReads c ds)
      let ranges := natRanges (tileC c ds)
      let (ok, s1) := s.prepareFor r.wid (2 * inst + 1) reads (ranges ++ natRanges (tileStats c ds))
      if !ok then s1.waitAt r.wid .mxe x t.pos
      else
        let s2 := s1.noteStepMarks .mxe inst w m
        let poison := t.poison || s2.anyBad reads || Marks.sramUe m
        let (rows, s3) := (rowsOf c ds 1).foldl (fun (p : List RowWrite × State) row =>
          let (o, s) := p.2.mxeEpiRow r x c t die row
          (p.1 ++ [o], s)) ([], s2)
        let s4 := (s3.runReads r .mxe x.inst reads).writeRows r c .mxe inst ds poison rows
        let s5 := s4.updInst r.wid inst fun x => { x with tiles := x.tiles.filter (fun y => !(y.draining && decide (y.key = t.key))) }
        let s6 := s5.sendNotice r c inst t.pos ds (joinRanges ranges)
        ((s6.bump64 (cycReg .mxe inst) cycles).chargeWb r.wid ns).mxeEnd r.wid inst
    | _, _ => s

/-- EPILOGUE_DRAIN_DONE (R134). -/
def execEpilogueDrainDone (inst cycles ns : Nat) (m : Marks) (s : State) : Host.Outcome State Fault Refusal :=
  .next (epilogueDrainDoneStep inst cycles ns m s).served

/-- The die that a notice is for: that of the CLE of the open collective of its handle (R135, R348). -/
def State.noticeDest (s : State) (n : TileNotice) : Option Nat := (s.openColl n.part n.coll).map fun c => (dieOf .cle c.cle).2

/-- The notice of an instance that may arrive next: requests of one die to one die arrive in the order they were sent (R19). -/
def State.nextNotice (s : State) (inst : Nat) : Option TileNotice :=
  match s.eng.notices.find? fun n => decide (n.inst = inst) && n.sent with
  | none => none
  | some n =>
    let before := s.eng.notices.takeWhile fun y => y ≠ n
    if before.any fun y => y.sent && decide (y.inst / 4 = inst / 4) && decide (s.noticeDest y = s.noticeDest n) then none else some n

/-- TILE_NOTICE: the next notice of an MXE reaches the CLE and marks its byte ranges ready in the open collective of its handle; a
notice without one is ignored, and one whose route passes through a fenced die is lost (R135, R348, R519). -/
def tileNoticeStep (inst : Nat) (s : State) : State :=
  match s.nextNotice inst with
  | none => s
  | some n =>
    let rest := s.eng.notices.filter fun y => y ≠ n
    let s := { s with eng := { s.eng with notices := rest } }
    match s.openColl n.part n.coll with
    | none => s
    | some c =>
      if !s.routeOut (dieOf .mxe inst) (3, c.cle) then
        let l := updIf (fun (d : Coll) => decide (d.wid = c.wid)) (fun (d : Coll) => { d with ready := d.ready ++ n.ranges }) s.colls.list
        ({ s with colls := { s.colls with list := l } }).pumpColls
      else s

/-- TILE_NOTICE (R135). -/
def execTileNotice (inst : Nat) (s : State) : Host.Outcome State Fault Refusal := .next (tileNoticeStep inst s)

/-- MXE_CTR_CLR: every counter of the MXE's block is 0 (R146, R147). -/
def mxeCtrClrStep (i : Nat) (s : State) : State :=
  if !(decide (i < 16) && s.barOpen (rMxeCtrClr i)) then s
  else s.zeroRegs (engineCounters .mxe i)

/-- MXE_CTR_CLR (R147). -/
def execMxeCtrClr (i : Nat) (s : State) : Host.Outcome State Fault Refusal := .next (mxeCtrClrStep i s)

/-- MXE_NF_CLR: the narrow-format counters of a die are 0 (R180). -/
def mxeNfClrStep (i : Nat) (s : State) : State :=
  if !(decide (i < 4) && s.barOpen (rMxeNfClr i)) then s
  else s.zeroRegs [rMxeNfSatLo i, rMxeNfSatHi i, rMxeNfOvfLo i, rMxeNfOvfHi i, rMxeNfLaneBad i]

/-- MXE_NF_CLR (R180). -/
def execMxeNfClr (i : Nat) (s : State) : Host.Outcome State Fault Refusal := .next (mxeNfClrStep i s)

end Sys2Proof.Machine
end

