-- ==== Sys2Proof/Machine/Vxe.lean ====
section
/-! DEFINITION. The vector engines: a step, the online soft maximum, and the clearing of their counters (R105, R181 to R190, R200 to
R205, R213). -/

namespace Sys2Proof.Machine

open Sys2Proof

/-- A row of A or B of a VXE tile: its elements widened to FP32, a rotation undone along N, and the entries ignored in it with the
place of the first (R154, R165, R183, R187). -/
def State.vxeRow (s : State) (c : RunCtx) (ds : List Nat) (j row : Nat) : List Word × Nat × Nat :=
  let x := oper c j
  let rs := atRow c ds j row c.h.tn
  let o := storedRow x.fmt c.h.tn c.h.tn (rs.headD (0, 0)).1 (s.readMany rs)
  let vs := o.elems.map fun e => toF32 (elemVal e)
  (if x.rot ≠ 0 then rotRow rotInv x.rot x.seed (roleDigit c.ls ds 2 * c.h.tn) vs else vs, o.bad, o.badAt)

/-- A tile before its first contribution (R201). -/
def vxeTile (c : RunCtx) (ds : List Nat) : AccTile :=
  { newTile c ds with ms := List.replicate c.h.tm f32NegInf, ls := List.replicate c.h.tm f32Zero }

/-- Row r of a flat tile of rows of n. -/
def tileRow (n : Nat) (vals : List Word) (r : Nat) : List Word := (vals.drop (r * n)).take n

/-- Row r of a flat tile of rows of n replaced. -/
def putRow (n : Nat) (vals : List Word) (r : Nat) (v : List Word) : List Word := vals.take (r * n) ++ v ++ vals.drop (r * n + n)

/-- The exponential table of a SOFTMAX_MERGE program. -/
def mergeTable (r : Run) (c : RunCtx) : List Byte :=
  match (progOf c).find? fun o => o.op = 0x30 with
  | some o => ((r.tables.find? fun p => p.1 = o.arg).map (·.2)).getD []
  | none => []

/-- Row k of a step enters its tile: A itself, or a key block merged into the row's state (R187, R202). -/
def State.vxeEnter (s : State) (r : Run) (c : RunCtx) (ds : List Nat) (t : AccTile) (k : Nat) (a : List Word) : AccTile :=
  if merges c then
    let at0 := statAddr c ds k 0
    let w (o : Nat) : Word := BitVec.ofNat 32 (leNat (s.readBytes (at0.toNat + o) 4))
    let (m, l, o) := softMerge (mergeTable r c) (t.ms.getD k f32NegInf) (t.ls.getD k f32Zero)
      ((tileRow c.h.tn t.vals k).map some) (w 0) (w 4) a
    { t with vals := putRow c.h.tn t.vals k (o.map fun v => v.getD f32Zero), ms := t.ms.set k m, ls := t.ls.set k l }
  else { t with vals := putRow c.h.tn t.vals k a }

/-- Statistics of a row's key blocks that another Waybill rewrote during the run. -/
def State.dirtyStats (s : State) (c : RunCtx) (dirty : List (Nat × Nat)) (steps : List (List Nat)) (k : Nat) : Bool :=
  merges c && !dirty.isEmpty && steps.any fun ds => s.stale dirty [((statAddr c ds k 0).toNat, 8)]

/-- A finished row of a tile through the program; also its clamped variances and whether the merge left it empty (R187, R200,
R203). Rewritten statistics free the whole row, and so does a rewritten element where l is +0.0, since a NaN in the state then decides
between zeros and quotients (R139). -/
def State.vxeEpiRow (s : State) (r : Run) (x : RunInst) (c : RunCtx) (t : AccTile) (die k : Nat) :
    RowWrite × Nat × Bool × State :=
  let ds := t.digits
  let n := c.h.tn
  let xs := (tileRow n t.vals k).map some
  let (xs, empty) := if merges c then softFinish (t.ms.getD k f32NegInf) (t.ls.getD k f32Zero) xs else (xs, false)
  let d (i : Nat) : List Word := if usesD c then s.dRow c ds i n else []
  let b := if usesB c then (s.vxeRow c ds 1 k).1 else []
  let eps := BitVec.ofNat 32 (rdN c.t (c.h.epiOff + 12) 4)
  let o := rowRun { tables := r.tables, d0 := d 0, d1 := d 1, b := b, eps := eps, chans := 0 } (progOf c) xs
  if r.dirty.isEmpty then (convertRow c ds (c.shift die) k n o, o.clamps, empty, s)
  else
    let steps := if merges c then stepsOfTile c x t.key else [ds]
    let cols := depCols n n
    let ax := cols fun j => steps.any fun e => s.dirtyElem c r.dirty true e 0 k j
    let l0 := merges c && decide (t.ls.getD k f32Zero = f32Zero)
    let whole := s.dirtyStats c r.dirty steps k || (l0 && ax.any id)
    let dep := rowDep { d0 := cols (s.dirtyElem c r.dirty (usesD c) ds 3 0), d1 := cols (s.dirtyElem c r.dirty (usesD c) ds 3 1),
                        b := cols (s.dirtyElem c r.dirty (usesB c) ds 1 k), chans := 0 } (progOf c) (ax.map fun d => d || whole)
    let (o, s) := s.freeRow c dep o
    let empty := if whole then bit 0 (Config.freeWord s.free) else empty
    (convertRow c ds (c.shift die) k n o, o.clamps, empty, { s with free := s.free + 1 })

/-- A tile finishes: its rows pass the program and are written (R105, R203). -/
def State.vxeFinish (s : State) (r : Run) (x : RunInst) (c : RunCtx) (t : AccTile) (poison : Bool) : State :=
  let i := x.inst
  let die := (dieOf .vxe i).2
  let (rows, clamps, empties, s1) := (rowsOf c t.digits 1).foldl
    (fun (p : List RowWrite × Nat × Nat × State) k =>
      let (o, cl, e, s) := p.2.2.2.vxeEpiRow r x c t die k
      (p.1 ++ [o], p.2.1 + cl, p.2.2.1 + (if e then 1 else 0), s)) ([], 0, 0, s)
  let bads := if usesB c then (rowsOf c t.digits 1).map fun k => (s.vxeRow c t.digits 1 k).2 else []
  let s2 := bads.foldl (fun s o => s.noteLane r .vxe i o.1 o.2) s1
  let s3 := (s2.bump (rVxeVarClamp i) clamps).bump (rVxeEmptyRows i) empties
  let s4 := s3.writeRows r c .vxe i t.digits poison rows
  s4.updInst r.wid i fun x => { x with tiles := x.tiles.filter fun y => decide (y.key ≠ t.key) }

/-- An engine without steps or tiles left has done its part. -/
def State.vecEnd (s : State) (wid : Nat) (k : EngKind) (i : Nat) : State :=
  match (s.run wid).bind fun r => (runInst r i).map fun x => (r, x) with
  | none => s
  | some (r, x) =>
    if decide (x.pos < x.hi) || (ttSparse (ctxOf r).ls && decide (x.outer < x.outerEnd)) then s else s.instDone wid k i

/-- One position, or the tile of a query block without steps: runs says whether the step executes, fin whether its tile
finishes. False while data or pages are not in place. -/
def State.vxeGo (s : State) (r : Run) (x : RunInst) (c : RunCtx) (w : Wb) (ds : List Nat) (runs fin : Bool) (m : Marks) :
    Bool × State :=
  let i := x.inst
  let reads := natRanges ((if runs then stepRanges c ds else []) ++ (if fin then tileReads c ds else []))
  let writes := if fin then natRanges (tileC c ds ++ tileStats c ds) else []
  let (ok, s1) := s.prepareFor r.wid (2 * i) reads writes
  if !ok then (false, s1.waitAt r.wid .vxe x x.pos)
  else
    let s2 := s1.noteStepMarks .vxe i w m
    let t0 := (x.tiles.find? fun t => t.key = tileKey c.h c.ls ds).getD (vxeTile c ds)
    let t0 := { t0 with pos := x.pos, digits := ds, poison := t0.poison || s2.anyBad reads || Marks.sramUe m }
    let rows := if runs then (rowsOf c ds 1).map fun k => (k, s2.vxeRow c ds 0 k) else []
    let t := rows.foldl (fun t p => s2.vxeEnter r c ds t p.1 p.2.1) t0
    let s3 := rows.foldl (fun s p => s.noteLane r .vxe i p.2.2.1 p.2.2.2) (s2.runReads r .vxe x.inst reads)
    (true, if fin then s3.vxeFinish r x c t t.poison else s3.putTile r.wid i t)

/-- VXE_STEP: an engine's next step in ascending position order, with the finish of its tile when it is the tile's last, or the
next tile of a SPARSE Timetable that has no steps (R98, R105, R187, R202, R203, R213). -/
def vxeStepStep (inst cycles ns : Nat) (m : Marks) (s : State) : State :=
  match s.runOn .vxe inst with
  | none => s
  | some (r, x) =>
    match s.wb r.wid with
    | none => s
    | some w =>
      let c := ctxOf r
      let next := if x.pos < x.hi then (sparseAt c.counts 0 x.pos).1 else x.outerEnd
      let s := if ttSparse c.ls && decide (x.outer < next) then
          let on (s : State) : State := s.updInst r.wid inst fun x => { x with outer := x.outer + 1 }
          match zeroTile c x.outer with
          | none => on s
          | some ds =>
            if dead c ds then on s
            else
              let (ok, s) := s.vxeGo r x c w ds false true m
              if ok then on s else s
        else if x.hi ≤ x.pos then s
        else
          let ds := digs c x.pos
          let runs := !skips c ds
          let fin := finishesTile c.h c.ls c.counts ds && !dead c ds
          let (ok, s) := if runs || fin then s.vxeGo r x c w ds runs fin m else (true, s)
          if !ok then s
          else if runs then
            (((s.bump64 (stepsReg .vxe inst) 1).bump64 (cycReg .vxe inst) cycles).chargeWb r.wid ns).advancePos r.wid x c
          else (s.bump64 (skipsReg .vxe inst) 1).advancePos r.wid x c
      s.vecEnd r.wid .vxe inst

/-- VXE_STEP (R187). -/
def execVxeStep (inst cycles ns : Nat) (m : Marks) (s : State) : Host.Outcome State Fault Refusal :=
  .next (vxeStepStep inst cycles ns m s).served

/-- VXE_CTR_CLR: every counter of the VXE's block is 0 (R147, R205). -/
def vxeCtrClrStep (i : Nat) (s : State) : State :=
  if !(decide (i < 8) && s.barOpen (rVxeCtrClr i)) then s
  else s.zeroRegs (engineCounters .vxe i)

/-- VXE_CTR_CLR (R205). -/
def execVxeCtrClr (i : Nat) (s : State) : Host.Outcome State Fault Refusal := .next (vxeCtrClrStep i s)

end Sys2Proof.Machine
end

