-- ==== Sys2Proof/Machine/Cve.lean ====
section
/-! DEFINITION. The convolution engines: a step, and the clearing of their counters (R363 to R383). -/

namespace Sys2Proof.Machine

open Sys2Proof

/-- The 32 input elements of channel block cb at an input position; those at or above the limit are +0.0 (R363, R365, R376). -/
def State.chElems (s : State) (c : RunCtx) (ds : List Nat) (cb d hh w : Nat) : List Elem :=
  let rs := natRanges (chRanges c ds 0 (aLayout c) (inExt c 1) (inExt c 2) cb (min 32 (cinLim c - 32 * cb)) d hh w)
  padElems 32 (decodeRow (oper c 0).fmt (fun k => decide (cinLim c ≤ 32 * cb + k)) (s.readMany rs)).1

/-- The elements as the cells take them: BF16 is quantised to format 2 in the feed (R368). -/
def State.cveFeed (s : State) (c : RunCtx) (ds : List Nat) (cb d hh w : Nat) : List Elem × Nat :=
  let es := s.chElems c ds cb d hh w
  if (oper c 0).fmt = 1 then
    let (bs, q) := quantGroup8 2 (es.map elemVal)
    ((decodeUnit 2 (fun _ => false) bs).1, q.sat)
  else (es, 0)

/-- The weights of tap t, input group icb, output channel oc (R364). -/
def State.cveWeights (s : State) (c : RunCtx) (ds : List Nat) (oc t icb : Nat) : List Elem :=
  (decodeRow (oper c 1).fmt (fun k => decide (cinLim c ≤ 32 * icb + k)) (s.readMany (natRanges [wRange c ds oc t icb]))).1

/-- The terms of one cell-cycle (R374). -/
def cveTerms (fb : Nat) (a w : List Elem) : List FNum :=
  let ps := a.zip w
  if fb = 6 then [dotTerm (ps.take 16), dotTerm (ps.drop 16)] else [dotTerm ps]

/-- The accumulator update; every exact zero sum is +0.0 (R373, R374). -/
def cveUpdate (v : Word) (ts : List FNum) : Word :=
  if nisZero (ofF32 v) && ts.all nisZero then f32Zero else accUpdate v ts

/-- The accumulators of position q after a step: taps in ascending order, then input groups (R374). A padded term changes
nothing (R373). -/
def State.convRow (s : State) (c : RunCtx) (ds : List Nat) (q : Nat) (vals : List Word) : List Word :=
  let oc0 := roleDigit c.ls ds 11 * c.h.tn
  (liveTaps c ds).foldl (fun vals t =>
    match t.2.2.2.getD q none with
    | none => vals
    | some w => (icBlocks c ds).foldl (fun vals icb =>
        let a := (s.cveFeed c ds icb t.2.1 t.2.2.1 w).1
        vals.zipIdx.map fun p =>
          if oc0 + p.2 < coutLim c then cveUpdate p.1 (cveTerms (oper c 1).fmt a (s.cveWeights c ds (oc0 + p.2) t.1 icb)) else p.1)
        vals) vals

/-- Pooling of the included elements of a window, in ascending t; count is the divisor of COUNT_PAD (R375, R376). -/
def poolVal (mode : Nat) (countPad : Option Nat) (xs : List Word) : Word :=
  match xs with
  | [] => f32Zero
  | x :: r =>
    if mode = 1 then r.foldl (fun a y => toF32 (nmax (ofF32 a) (ofF32 y))) (toF32 (ofF32 x))
    else if mode = 2 then divF (r.foldl addF (toF32 (ofF32 x))) (toF32 (nofInt ((countPad.getD xs.length : Nat) : Int)))
    else x

/-- The words of a block of channels at an input position: dequantised and widened; RELAYOUT takes format 9 as it stands (R131, R375,
R376). -/
def State.chWords (s : State) (c : RunCtx) (ds : List Nat) (cb d hh w : Nat) : List Word :=
  if convMode c.t c.h = 3 && (oper c 0).fmt = 9 then
    let n := min 32 (cinLim c - 32 * cb)
    let bs := s.readMany (natRanges (chRanges c ds 0 (aLayout c) (inExt c 1) (inExt c 2) cb n d hh w))
    ((List.range 32).map fun k => if k < n then BitVec.ofNat 32 (rdN bs (4 * k) 4) else f32Zero)
  else (s.chElems c ds cb d hh w).map fun e => toF32 (elemVal e)

/-- The values of position q of a pooling or relayout step, channel by channel. -/
def State.poolRow (s : State) (c : RunCtx) (ds : List Nat) (q : Nat) : List Word :=
  let cp := if rdBits c.t c.h.epiOff 6 6 = 1 then some (tapList c).length else none
  let b := roleDigit c.ls ds 11 * (c.h.tn / 32)
  (List.range (c.h.tn / 32)).flatMap fun k =>
    let cb := b + k
    if 32 * cb < cinLim c then
      let cols := (liveTaps c ds).filterMap fun t => (t.2.2.2.getD q none).map fun w =>
        s.chWords c ds cb t.2.1 t.2.2.1 w
      (List.range 32).map fun j => poolVal (convMode c.t c.h) cp (cols.map fun l => l.getD j f32Zero)
    else List.replicate 32 f32Zero

/-- The units that a step's feed quantises, each once. -/
def feedUnits (c : RunCtx) (ds : List Nat) : List (Nat × Nat × Nat × Nat) :=
  ((liveTaps c ds).flatMap fun t => (t.2.2.2.filterMap id).flatMap fun w =>
    (icBlocks c ds).map fun cb => (cb, t.2.1, t.2.2.1, w)).eraseDups

/-- D of the channels of a tile, widened (R368, R377). -/
def State.cveD (s : State) (c : RunCtx) (ds : List Nat) : List Word :=
  (List.range c.h.tn).map fun j =>
    let oc := roleDigit c.ls ds 11 * c.h.tn + j
    if oc < coutLim c then
      toF32 (elemVal (((decodeRow (oper c 3).fmt (fun _ => false) (s.readMany (natRanges [dChan c ds oc]))).1).headD elemMasked))
    else f32Zero

/-- The bytes that element i of a block of channels is decoded from. -/
def chanBytes (f : Nat) (rs : List (Nat × Nat)) (i : Nat) : List (Nat × Nat) :=
  if f = 2 || f = 3 then rs.flatMap fun x => (elemBytes f i).map fun b => (x.1 + b, 1)
  else match rs with
    | [x] => [(x.1 + i * plainElem f, plainElem f)]
    | l => (l[i]?).toList

/-- The bytes that element i of stored units from an address is decoded from (R97, R151). -/
def unitElem (f a i : Nat) : List (Nat × Nat) :=
  let ue := max 1 (unitElems f)
  (elemBytes f (i % ue)).map fun b => (a + i / ue * unitBytes f + b, 1)

/-- Does output channel j of position q depend on rewritten memory through A or the weights (R139)? Channels at or above C_IN do not
enter it, whatever their codes (R365). -/
def State.cveDirty (s : State) (c : RunCtx) (dirty : List (Nat × Nat)) (steps : List (List Nat)) (q j : Nat) : Bool :=
  let hit (l : List (Nat × Nat)) : Bool := s.stale dirty l
  steps.any fun ds =>
    let oc := roleDigit c.ls ds 11 * c.h.tn + j
    (liveTaps c ds).any fun t => match t.2.2.2.getD q none with
      | none => false
      | some w =>
        let live (cb : Nat) : Nat := min 32 (cinLim c - 32 * cb)
        let rs (cb : Nat) : List (Nat × Nat) := natRanges
          (chRanges c ds 0 (aLayout c) (inExt c 1) (inExt c 2) cb (live cb) t.2.1 t.2.2.1 w)
        if convMode c.t c.h = 0 then (icBlocks c ds).any fun cb => (List.range (live cb)).any fun i =>
          hit (chanBytes (oper c 0).fmt (rs cb) i)
            || hit ((natRanges [wRange c ds oc t.1 cb]).flatMap fun y => unitElem (oper c 1).fmt y.1 i)
        else hit (chanBytes (oper c 0).fmt (rs (oc / 32)) (oc % 32))

/-- How many elements of block cb of C are written (R97, R365, R376). -/
def cElems (c : RunCtx) (cb : Nat) : Nat :=
  let f := (oper c 2).fmt
  if cLayout c ≠ 0 then min 32 (coutLim c - 32 * cb)
  else if f = 2 || f = 3 then 32
  else min 32 ((selLimit c 11).getD (32 * cb + 32) - 32 * cb)

/-- Write a position's channels and its channel index, and count (R97, R365, R376 to R378). -/
def State.cveWrite (s : State) (r : Run) (x : RunInst) (c : RunCtx) (ds : List Nat) (q : Nat) (bad : List (Nat × Nat)) (poison : Bool)
    (o : RowSt) : State :=
  let f := (oper c 2).fmt
  let b := roleDigit c.ls ds 11 * (c.h.tn / 32)
  let ow := roleDigit c.ls ds 10 * c.h.tm + q
  let s := (ocBlocks c ds).foldl (fun s cb =>
    let vals := ((o.xs.drop (32 * (cb - b))).take 32).map fun v => v.getD f32Zero
    let (bs, qc) := quantRow f 0 0 0 0 vals
    let rs := natRanges (chRanges c ds 2 (cLayout c) (outExt c 1) (outExt c 2) cb (min 32 (coutLim c - 32 * cb))
      (roleDigit c.ls ds 8) (roleDigit c.ls ds 9) ow)
    let out := if f = 2 || f = 3 then bs else bs.take (cElems c cb * plainElem f)
    let nf := nonfinIn f out
    let s := (s.runWriteRow r.wid (if cLayout c = 0 then rs.map fun y => (y.1, out.length) else rs) out bad poison)
    ((s.bump (rCveNonfinite x.inst) nf).bump (rCveNfSat x.inst) qc.sat).updRun r.wid
      fun r => { r with nonfin := r.nonfin + nf, sat := r.sat + qc.sat }) s
  match o.arg with
  | none => s
  | some a => (s.writeBytes r.wid (idxAddr c ds ow).toNat (leBytes 4 a) poison).2

/-- A tile finishes: each position passes the program and is written (R105, R377). -/
def State.cveFinish (s : State) (r : Run) (x : RunInst) (c : RunCtx) (t : AccTile) : State :=
  let ds := t.digits
  let d := if usesD c then s.cveD c ds else []
  let bad := foreign c r.addr ds
  let oc0 := roleDigit c.ls ds 11 * c.h.tn
  let steps := if r.dirty.isEmpty then [] else stepsOfTile c x t.key
  let (outs, s1) := (List.range (owLive c ds).length).foldl (fun (p : List (Nat × RowSt) × State) q =>
    let xs := (tileRow c.h.tn t.vals q).zipIdx.map fun v => if oc0 + v.2 < coutLim c then some v.1 else none
    let o := rowRun { tables := r.tables, d0 := d, d1 := [], b := [], eps := 0, chans := coutLim c } (progOf c) xs
    if r.dirty.isEmpty then (p.1 ++ [(q, o)], p.2)
    else
      let cols := depCols (coutLim c - oc0) c.h.tn
      let dep := rowDep { d0 := cols fun j => usesD c && s.stale r.dirty (natRanges [dChan c ds (oc0 + j)]), d1 := [], b := [],
                          chans := coutLim c } (progOf c) (cols (s.cveDirty c r.dirty steps q))
      let (o, s) := p.2.freeRow c dep o
      (p.1 ++ [(q, o)], s)) ([], s)
  let s2 := outs.foldl (fun s o => s.cveWrite r x c ds o.1 bad t.poison o.2) s1
  s2.updInst r.wid x.inst fun x => { x with tiles := x.tiles.filter fun y => decide (y.key ≠ t.key) }

/-- A step's contributions to its tile (R374 to R376). -/
def State.cveEnter (s : State) (c : RunCtx) (ds : List Nat) (t : AccTile) : AccTile :=
  let vals := (List.range (owLive c ds).length).foldl (fun vals q =>
    putRow c.h.tn vals q (if convMode c.t c.h = 0 then s.convRow c ds q (tileRow c.h.tn vals q) else s.poolRow c ds q)) t.vals
  { t with vals := vals }

/-- One position: runs says whether the step executes, fin whether its tile finishes. False while data or pages are not in
place. -/
def State.cveGo (s : State) (r : Run) (x : RunInst) (c : RunCtx) (w : Wb) (ds : List Nat) (runs fin : Bool) (m : Marks) :
    Bool × State :=
  let i := x.inst
  let reads := natRanges ((if runs then stepRanges c ds else []) ++ (if fin then tileReads c ds else []))
  let writes := if fin then natRanges (tileC c ds ++ tileStats c ds) else []
  let (ok, s1) := s.prepareFor r.wid (2 * i) reads writes
  if !ok then (false, s1.waitAt r.wid .cve x x.pos)
  else
    let s2 := s1.noteStepMarks .cve i w m
    let t0 := (x.tiles.find? fun t => t.key = tileKey c.h c.ls ds).getD (newTile c ds)
    let t0 := { t0 with pos := x.pos, digits := ds, poison := t0.poison || s2.anyBad reads || Marks.sramUe m }
    let t := if runs then s2.cveEnter c ds t0 else t0
    let sat := if runs && decide (convMode c.t c.h = 0) && decide ((oper c 0).fmt = 1) then
        ((feedUnits c ds).map fun u => (s2.cveFeed c ds u.1 u.2.1 u.2.2.1 u.2.2.2).2).sum
      else 0
    let skipped := if runs then (tapList c).length - (liveTaps c ds).length else 0
    let s3 := (((s2.runReads r .cve x.inst reads).bump (rCveNfSat i) sat).bump64 (rCveTapskipLo i) skipped).updRun r.wid
      fun r => { r with sat := r.sat + sat }
    (true, if fin then s3.cveFinish r x c t else s3.putTile r.wid i t)

/-- CVE_STEP: an engine's next step in ascending position order, with the finish of its tile when it is the tile's last (R98, R105,
R367, R372 to R378, R381). -/
def cveStepStep (inst cycles ns : Nat) (m : Marks) (s : State) : State :=
  match s.runOn .cve inst with
  | none => s
  | some (r, x) =>
    match s.wb r.wid with
    | none => s
    | some w =>
      let c := ctxOf r
      let s := if x.hi ≤ x.pos then s
        else
          let ds := digs c x.pos
          let runs := !skips c ds
          let fin := finishesTile c.h c.ls c.counts ds && !dead c ds
          let (ok, s) := if runs || fin then s.cveGo r x c w ds runs fin m else (true, s)
          if !ok then s
          else if runs then
            (((s.bump64 (stepsReg .cve inst) 1).bump64 (cycReg .cve inst) cycles).chargeWb r.wid ns).advancePos r.wid x c
          else (s.bump64 (skipsReg .cve inst) 1).advancePos r.wid x c
      s.vecEnd r.wid .cve inst

/-- CVE_STEP (R374). -/
def execCveStep (inst cycles ns : Nat) (m : Marks) (s : State) : Host.Outcome State Fault Refusal :=
  .next (cveStepStep inst cycles ns m s).served

/-- CVE_CTR_CLR: every counter of the CVE's block is 0 (R147, R383). -/
def cveCtrClrStep (i : Nat) (s : State) : State :=
  if !(decide (i < 4) && s.barOpen (rCveCtrClr i)) then s
  else s.zeroRegs (engineCounters .cve i)

/-- CVE_CTR_CLR (R383). -/
def execCveCtrClr (i : Nat) (s : State) : Host.Outcome State Fault Refusal := .next (cveCtrClrStep i s)

end Sys2Proof.Machine
end

