-- ==== Sys2Proof/Machine/Power.lean ====
section
/-! DEFINITION. The meanings of the governor's commands (R444 to R453, R457 to R462, R531). -/

namespace Sys2Proof.Machine

open Sys2Proof

/-- Is the governor out of reset (R463, R468)? -/
def State.govOn (s : State) : Bool := s.clk.run.all fun r => !r.inReset.contains 2

/-- A value in two's complement, as events and registers carry it (R8). -/
def twos (w : Nat) (x : Int) : Nat := (x % (2 ^ w : Nat)).toNat

/-- Let the ramp lower every C domain that runs above its target by one step, when the rise fits the allowance (R445, R446). -/
def State.rampDown (s : State) : State :=
  let ds := (List.range 4).filter fun d => decide (s.target d < s.stepOf d) && !s.fenced 1 d
  let rise := s.stepRise ds.length
  if ds.isEmpty || decide (s.pwr.up < rise) then s
  else
    let steps := (List.range 4).map fun d => if ds.contains d then s.stepOf d - 1 else s.stepOf d
    { s with pwr := { s.pwr with steps := steps, up := s.pwr.up - rise } }

/-- Ballast rises by an instance toward the sum of predicted rises, and what must go falls, within the allowances (R446, R449); with
HOLD_US 0 it is lowered unless a run takes it at once, and with BALLAST 0 all that is on is lowered (R461). -/
def State.moveBallast (s : State) : State :=
  let s := if bit 0 (s.eff rPwrCfg) then s else { s with pwr := { s.pwr with ballast := s.pwr.ballast.map fun b => { b with lower := true } } }
  let w := s.ballastWatts
  let rise := s.amps w
  let keep := (s.pwr.ballast.filter fun b => !b.lower).length
  let fall := s.pwr.ballast.find? fun b => b.lower
  let s := match fall with
    | some b =>
      if s.pwr.down < rise then s
      else
        let rest := s.pwr.ballast.filter fun x => x.mxe ≠ b.mxe
        { s with pwr := { s.pwr with ballast := rest, down := s.pwr.down - rise } }
    | none => s
  if w ≠ 0 && decide ((keep + 1) * w ≤ 1000 * s.predicted) && decide (rise ≤ s.pwr.up) then
    match (List.range 16).find? fun i => s.mayBallast i && !s.ballastOn i with
    | none => s
    | some i =>
      let b : Ballast := { mxe := i, since := s.aon, lower := decide (s.effFld rPwrRamp 31 16 = 0) }
      { s with pwr := { s.pwr with ballast := s.pwr.ballast ++ [b], up := s.pwr.up - rise } }
  else s

/-- GOVERNOR_EVAL: every 10 µs the input is measured and the allowances grow; step indices fall and ballast moves as far as they
permit (R446, R449). -/
def governorEvalStep (iin vin : Nat) (s : State) : State :=
  if !s.govOn then s
  else
    let s := s.measure iin vin
    let grow (rate have_ : Nat) : Nat := min (have_ + 10 * rate) (10 * rate + s.stepRise 4)
    let s := { s with pwr := { s.pwr with up := grow (s.effFld rPwrRamp 7 0) s.pwr.up, down := grow (s.effFld rPwrRamp 15 8) s.pwr.down } }
    s.raiseSteps.rampDown.moveBallast.brownReport

/-- GOVERNOR_EVAL (R446). -/
def execGovernorEval (iin vin : Nat) (s : State) : Host.Outcome State Fault Refusal := .next (governorEvalStep iin vin s)

/-- BROWNOUT: the input has stayed below 45.0 V for 0.5 µs: step 4 everywhere, and the allowance restarts at zero. During an episode
the release count stops (R450, R453). -/
def brownoutStep (vin iin : Nat) (s : State) : State :=
  if !s.govOn then s
  else match s.pwr.brown with
    | some b => { s with pwr := { s.pwr with brown := some { b with counting := none, lowest := min b.lowest vin } } }
    | none =>
      let s := match s.pwr.brownEnd with
        | some (l, c, r) => ({ s with pwr := { s.pwr with brownEnd := none } }).emit (ev 0x0501 lvChip none 0 [l, c, r])
        | none => s
      let before := s.pwr.steps.foldl max 0
      let s := (s.bump rPwrBrownouts 1).emit (ev 0x0500 lvChip none 0 [vin, iin, before])
      let b : Brown := { since := s.aon, lowest := vin, restarts := 0, counting := none, counted := false }
      ({ s with pwr := { s.pwr with brown := some b, up := 0, down := 0 } }).raiseSteps

/-- BROWNOUT (R450). -/
def execBrownout (vin iin : Nat) (s : State) : Host.Outcome State Fault Refusal := .next (brownoutStep vin iin s)

/-- BROWNOUT_RELEASE_LEVEL: the input crosses 46.0 V: a rise starts the release count, again after a dip, which stops it (R450,
R453). -/
def brownoutReleaseLevelStep (rise : Bool) (vin : Nat) (s : State) : State :=
  match s.pwr.brown with
  | none => s
  | some b =>
    let b2 : Brown :=
      if rise then
        if b.counting.isSome then b
        else { b with counting := some s.aon, counted := true, restarts := if b.counted then b.restarts + 1 else b.restarts }
      else { b with counting := none, lowest := min b.lowest vin }
    { s with pwr := { s.pwr with brown := some b2 } }

/-- BROWNOUT_RELEASE_LEVEL (R450). -/
def execBrownoutReleaseLevel (rise : Bool) (vin : Nat) (s : State) : Host.Outcome State Fault Refusal :=
  .next (brownoutReleaseLevelStep rise vin s)

/-- BROWNOUT_END: when 1,200 AON cycles have passed at or above 46.0 V the source releases and the ramp starts from an allowance of
zero (R450, R453). -/
def brownoutEndStep (s : State) : State :=
  match s.pwr.brown with
  | none => s
  | some b =>
    if !(b.counting.any fun t => decide (1200 ≤ s.aon - t)) then s
    else
      let p := { s.pwr with brown := none, brownEnd := some (b.lowest, s.aon - b.since, b.restarts), up := 0, down := 0 }
      ({ s with pwr := p }).brownReport

/-- BROWNOUT_END (R450). -/
def execBrownoutEnd (s : State) : Host.Outcome State Fault Refusal := .next (brownoutEndStep s)

/-- CURRENT_LIMIT: the input current, in mA, has been above PWR_ILIM.A for 1 µs: step 4 everywhere (R450). -/
def currentLimitStep (iin vin : Nat) (s : State) : State :=
  if !s.govOn || decide (iin ≤ 1000 * s.effFld rPwrIlim 6 0) then s
  else match s.pwr.ilim with
    | some e =>
      let e : IlimEp := if e.peak < iin then { e with peak := iin, vin := vin } else e
      { s with pwr := { s.pwr with ilim := some { e with low := none } } }
    | none => ({ s with pwr := { s.pwr with ilim := some { since := s.aon, peak := iin, vin := vin, low := none } } }).raiseSteps

/-- CURRENT_LIMIT (R450). -/
def execCurrentLimit (iin vin : Nat) (s : State) : Host.Outcome State Fault Refusal := .next (currentLimitStep iin vin s)

/-- ILIM_RELEASE: when the current has been measured below 90 % of the limit for 1,200 AON cycles, the source releases and the episode
is reported (R450, R460). -/
def ilimReleaseStep (s : State) : State :=
  match s.pwr.ilim with
  | none => s
  | some e =>
    if !(e.low.any fun t => decide (1200 ≤ s.aon - t)) then s
    else ({ s with pwr := { s.pwr with ilim := none } }).emit (ev 0x0502 lvChip none 0 [e.peak, e.vin, s.aon - e.since])

/-- ILIM_RELEASE (R450). -/
def execIlimRelease (s : State) : Host.Outcome State Fault Refusal := .next (ilimReleaseStep s)

/-- DIE_HOT: a compute die's sensor is at or above HOT: its step rises by one, up to 7, every 100 µs (R450). -/
def dieHotStep (die : Nat) (temp : Int) (s : State) : State :=
  if !s.govOn || decide (4 ≤ die) || s.fenced 1 die || decide (temp < 10 * (s.effFld rPwrTherm 7 0 : Int)) then s
  else
    let old : HotEp := (s.pwr.hot.find? fun h => h.die = die).getD { die := die, step := 0, temp := temp, high := 0 }
    let st := min 7 (old.step + 1)
    let new : HotEp := { old with step := st, temp := max old.temp temp, high := max old.high st }
    let rest := s.pwr.hot.filter fun h => h.die ≠ die
    (({ s with pwr := { s.pwr with hot := insertByKey (·.die) new rest } }).setReg (rPwrTj die) (w32 (twos 12 temp))).raiseSteps

/-- DIE_HOT (R450). -/
def execDieHot (die : Nat) (temp : Int) (s : State) : Host.Outcome State Fault Refusal := .next (dieHotStep die temp s)

/-- FLOW_LOW: the flow has been below MIN for 100 epochs: step 4 everywhere and the valve fully open (R450, R460). -/
def flowLowStep (s : State) : State :=
  let m := s.effFld rPwrFlowLim 15 0
  if !s.govOn || s.pwr.flowAct || m = 0 then s
  else
    let s := s.emit (ev 0x0505 lvChip none 0 [s.fld rPwrFlow 15 0, m])
    (({ s with pwr := { s.pwr with flowAct := true } }).setFld rPwrValve 10 0 1000).raiseSteps

/-- FLOW_LOW (R450). -/
def execFlowLow (s : State) : Host.Outcome State Fault Refusal := .next (flowLowStep s)

/-- FLOW_RELEASE: the flow has been at or above MIN for 1,000 epochs (R450). -/
def flowReleaseStep (s : State) : State := { s with pwr := { s.pwr with flowAct := false } }

/-- FLOW_RELEASE (R450). -/
def execFlowRelease (s : State) : Host.Outcome State Fault Refusal := .next (flowReleaseStep s)

/-- LEAK: the leak input has been asserted for 10 epochs, or released for 1,000; the event is written, and with LEAK_SHED step 7
acts while it is asserted (R450, R459). -/
def leakStep (asserted : Bool) (s : State) : State :=
  if !s.govOn || asserted = s.pwr.leakIn then s
  else
    let s := { s with pwr := { s.pwr with leakIn := asserted } }
    (s.emit (ev 0x0506 lvChip none 0 [if asserted then 1 else 0])).raiseSteps

/-- LEAK (R459). -/
def execLeak (asserted : Bool) (s : State) : Host.Outcome State Fault Refusal := .next (leakStep asserted s)

/-- SENSOR_REF_FAIL: a compute die's two sensors have differed by more than 3.0 °C for 10 epochs (R450, R531). -/
def sensorRefFailStep (die : Nat) (reading : Int) (s : State) : State :=
  if !s.govOn || decide (4 ≤ die) || s.pwr.sensor.contains die then s
  else
    let s := s.emit (ev 0x0508 lvChip none 0 [die, twos 64 reading])
    ({ s with pwr := { s.pwr with sensor := insertByKey id die s.pwr.sensor } }).raiseSteps

/-- SENSOR_REF_FAIL (R531). -/
def execSensorRefFail (die : Nat) (reading : Int) (s : State) : Host.Outcome State Fault Refusal :=
  .next (sensorRefFailStep die reading s)

/-- SENSOR_REF_PASS: the die's sensor has passed for 1,000 epochs (R450). -/
def sensorRefPassStep (die : Nat) (s : State) : State :=
  { s with pwr := { s.pwr with sensor := s.pwr.sensor.filter (· ≠ die) } }

/-- SENSOR_REF_PASS (R450). -/
def execSensorRefPass (die : Nat) (s : State) : Host.Outcome State Fault Refusal := .next (sensorRefPassStep die s)

/-- BALLAST_HOLD_EXPIRE: ballast that no run took within HOLD_US is lowered at the ramp's rate (R449). -/
def ballastHoldExpireStep (mxe : Nat) (s : State) : State :=
  let l := updIf (fun (b : Ballast) => decide (b.mxe = mxe)) (fun (b : Ballast) => { b with lower := true }) s.pwr.ballast
  { s with pwr := { s.pwr with ballast := l } }

/-- BALLAST_HOLD_EXPIRE (R449). -/
def execBallastHoldExpire (mxe : Nat) (s : State) : Host.Outcome State Fault Refusal := .next (ballastHoldExpireStep mxe s)

/-- PWR_STAT_CLR: the lowest voltage, the highest current and the counters return to their reset values (R462). -/
def pwrStatClrStep (s : State) : State :=
  if !s.barOpen rPwrStatClr then s
  else ((s.setFld rPwrVin 31 16 0xFFFF).setFld rPwrIin 31 16 0).zeroRegs [rPwrBrownouts, rPwrThrCycLo, rPwrThrCycHi]

/-- PWR_STAT_CLR (R462). -/
def execPwrStatClr (s : State) : Host.Outcome State Fault Refusal := .next (pwrStatClrStep s)

end Sys2Proof.Machine
end

