-- ==== Sys2Proof/Machine/Fabric.lean ====
section
/-! DEFINITION. The meanings of the fabric's commands: port set-up and loss, flits, inbound requests, responses, peers,
timeouts (R293 to R331). -/

namespace Sys2Proof.Machine

open Sys2Proof

/-- A port that has just been enabled (R328). -/
def newPort (n state : Nat) : Port :=
  { n := n, state := state, en := true, locked := false, fails := 0, lanes := 0, cause := 0, nextSeq := 1, unacked := [],
    rxSeq := 0, nakOut := false, badRun := 0, freed := [0, 0, 0, 0], owed := [0, 0, 0, 0], held := [0, 0, 0, 0],
    seen := [0, 0, 0, 0], queue := [], txPart := [], txTags := [], rxPart := [], inbox := [], colNext := false, replays := 0, uncorr := 0, swId := 0,
    swPort := 0 }

/-- PORT_ENABLE: EN of a port is written 1 and it trains; the fabric core of its die wakes (R328, R466). -/
def portEnableStep (n : Nat) (s : State) : State :=
  if !s.hasPort n || !s.barOpen (rVrlPortCtl n) then s
  else
    let s := (s.setFld (rVrlPortCtl n) 0 0 1).wake (21 + n / 25)
    let st := if s.fenced 3 (n / 25) then 6 else 1
    match s.port n with
    | none => { s with vrl := { s.vrl with ports := insertByKey (·.n) (newPort n st) s.vrl.ports } }
    | some p => if p.en then s else s.updPort n fun p => { p with en := true, fails := 0, state := st }

/-- PORT_ENABLE (R328). -/
def execPortEnable (n : Nat) (s : State) : Host.Outcome State Fault Refusal := .next (portEnableStep n s)

/-- PORT_DISABLE: EN is cleared and the port goes down at once (R328). -/
def portDisableStep (n : Nat) (s : State) : State :=
  if !s.hasPort n || !s.barOpen (rVrlPortCtl n) then s
  else
    let s := s.setFld (rVrlPortCtl n) 0 0 0
    match s.port n with
    | none => s
    | some p =>
      if !p.en then s
      else
        let s := s.updPort n fun p => { p with en := false }
        if p.state = 5 || p.state = 6 then s.updPort n fun p => { p with state := 0 } else s.portDown n 1

/-- PORT_DISABLE (R328). -/
def execPortDisable (n : Nat) (s : State) : Host.Outcome State Fault Refusal := .next (portDisableStep n s)

/-- PORT_RETRAIN: a port is taken down and trains again; a failed one stays so until EN is cleared and set (R328). -/
def portRetrainStep (n : Nat) (s : State) : State :=
  match s.port n with
  | none => s
  | some p =>
    if !p.en || p.state = 5 || p.state = 6 || !s.barOpen (rVrlPortCtl n) then s
    else (s.updPort n fun p => { p with fails := 0 }).portDown n 8

/-- PORT_RETRAIN (R328). -/
def execPortRetrain (n : Nat) (s : State) : Host.Outcome State Fault Refusal := .next (portRetrainStep n s)

/-- Is a port training? -/
def Port.trains (p : Port) : Bool := decide (p.state = 1 ∨ p.state = 3)

/-- LINK_TRAINED: training ends on all four lanes, or fails with only some of them trained; the third failure takes the port out
(R294, R295, R332). -/
def linkTrainedStep (n lanes : Nat) (s : State) : State :=
  match s.port n with
  | none => s
  | some p =>
    if !p.trains || p.lanes = 15 then s
    else if lanes % 16 = 15 then s.updPort n fun p => { p with lanes := 15, fails := 0 }
    else s.updPort n fun p => { p with lanes := lanes % 16, fails := p.fails + 1, state := if 3 ≤ p.fails + 1 then 5 else p.state }

/-- LINK_TRAINED (R295). -/
def execLinkTrained (n lanes : Nat) (s : State) : Host.Outcome State Fault Refusal := .next (linkTrainedStep n lanes s)

/-- FRAME_LOCK: link-up. Sequence numbers and credits start over, the receive buffers are returned as credits, and HELLO is
sent (R297, R303, R326). -/
def frameLockStep (n : Nat) (s : State) : State :=
  match s.port n with
  | none => s
  | some p =>
    if !p.trains || p.lanes ≠ 15 || p.locked then s
    else
      let s := s.updPort n fun p => { p with
        locked := true, nextSeq := 1, rxSeq := 0, unacked := [], freed := [0, 0, 0, 0],
        owed := [2048, 4096, 4096, 256], held := [0, 0, 0, 0], seen := [0, 0, 0, 0], queue := [], txPart := [], txTags := [],
        nakOut := false, badRun := 0, replays := 0, uncorr := 0 }
      (s.dropInbox n).queueMsg n 3 (msgBytes (mgtMsg s.vrl.ep 0x20 (s.vrl.ep + s.vrl.inc * 2 ^ 16 + n * 2 ^ 32))) .none

/-- FRAME_LOCK (R297). -/
def execFrameLock (n : Nat) (s : State) : Host.Outcome State Fault Refusal := .next (frameLockStep n s)

/-- LOCK_LOST: a port that has lost frame lock goes down (R297). -/
def lockLostStep (n : Nat) (s : State) : State := if (s.port n).any fun p => p.locked then s.portDown n 6 else s

/-- LOCK_LOST (R297). -/
def execLockLost (n : Nat) (s : State) : Host.Outcome State Fault Refusal := .next (lockLostStep n s)

/-- LANE_LOST: a port that has lost a lane goes down (R295, R328). -/
def laneLostStep (n : Nat) (s : State) : State := if (s.port n).any fun p => p.lanes = 15 then s.portDown n 5 else s

/-- LANE_LOST (R328). -/
def execLaneLost (n : Nat) (s : State) : Host.Outcome State Fault Refusal := .next (laneLostStep n s)

/-- NO_ASSIGN: no ASSIGN came in time after HELLO (R328). -/
def noAssignStep (n : Nat) (s : State) : State := if (s.port n).any fun p => p.locked && p.trains then s.portDown n 7 else s

/-- NO_ASSIGN (R328). -/
def execNoAssign (n : Nat) (s : State) : Host.Outcome State Fault Refusal := .next (noAssignStep n s)

/-- FLIT_DATA: a DATA flit arrives (R297 to R301). -/
def execFlitData (n : Nat) (f : Flit) (s : State) : Host.Outcome State Fault Refusal := .next (s.flitIn n f 1)

/-- FLIT_NAK: a NAK flit arrives (R301). -/
def execFlitNak (n : Nat) (f : Flit) (s : State) : Host.Outcome State Fault Refusal := .next (s.flitIn n f 2)

/-- FLIT_IDLE: an IDLE flit arrives (R298, R299). -/
def execFlitIdle (n : Nat) (f : Flit) (s : State) : Host.Outcome State Fault Refusal := .next (s.flitIn n f 0)

/-- REPLAY_TIMEOUT: the oldest DATA flit has waited too long for its ACK (R301). -/
def execReplayTimeout (n : Nat) (s : State) : Host.Outcome State Fault Refusal := .next ((s.replay n).pumpPort n)

/-- ACK_TIMEOUT: nothing has been acknowledged for too long, and the port goes down (R301). -/
def ackTimeoutStep (n : Nat) (s : State) : State :=
  if (s.port n).any fun p => !p.unacked.isEmpty then s.portDown n 4 else s

/-- ACK_TIMEOUT (R301). -/
def execAckTimeout (n : Nat) (s : State) : Host.Outcome State Fault Refusal := .next (ackTimeoutStep n s)

/-- The module takes another endpoint: its transactions end and its peer table is emptied (R314). -/
def State.changeEp (s : State) (ep : Nat) : State :=
  let l := s.vrl.txns.filter fun t => t.tag.isSome
  let s := s.failTxns l 0x1FE
  let s := (s.colls.list.flatMap fun c => c.incs.map fun x => c.ep x.1).eraseDups.foldl (fun s e => s.collLost e none 0x1FE) s
  let old := s.vrl.ep
  ({ s with vrl := { s.vrl with peers := [], ep := ep }, colls := { s.colls with owed := [], full := [] } }).emit (ev 0x0304 lvChip none 0 [old, ep, l.length])

/-- ASSIGN: the switch gives the endpoint; the first port to come up takes it, a later one must be given the same
(R313, R314, R326). -/
def assignStep (port : Option Nat) (s : State) : State :=
  match port, s.takeMgt port 0x21 with
  | some n, some (m, s) =>
    if m.src ≠ 0xFFFF then s.misroute
    else match s.port n with
      | none => s
      | some p =>
        if !p.locked || p.state = 2 then s
        else
          let ep := bitsN 15 0 m.mdata
          let fabric := bitsN 31 16 m.mdata
          let first := s.upPorts.isEmpty
          if !first && (ep ≠ s.vrl.ep || fabric ≠ s.vrl.fabric) then
            (s.updPort n fun p => { p with state := 4 }).emit (ev 0x0302 lvBlock none (srcOf 10 n) [ep, fabric, s.vrl.ep])
          else
            let s := if first && s.vrl.ep ≠ 0 && s.vrl.ep ≠ ep then s.changeEp ep else s
            let s := { s with vrl := { s.vrl with ep := ep, fabric := fabric } }
            let s := s.updPort n fun p => { p with state := 2, swId := bitsN 47 32 m.mdata, swPort := bitsN 63 48 m.mdata }
            let s := s.emit (ev 0x0301 lvBlock none (srcOf 10 n) [bitsN 47 32 m.mdata, bitsN 63 48 m.mdata, ep])
            let waiting := s.vrl.peers.filter fun q => decide (q.st = .resolving)
            (if first then waiting.foldl (fun s q => s.sendResolve q.ep) s else s).pump.pumpColls
  | _, _ => s

/-- ASSIGN (R313). -/
def execAssign (port : Option Nat) (s : State) : Host.Outcome State Fault Refusal := .next (assignStep port s)

/-- An inbound request of an OP: dropped when it is not for this module (R319); otherwise its checks, and the access. -/
def State.serve (s : State) (port : Option Nat) (op rsp : Nat) (f : Msg → Nat → State → List Byte × Nat × State) : State :=
  match s.takeOp port op with
  | none => s
  | some (m, s) =>
    if m.dst ≠ s.vrl.ep || s.vrl.ep = 0 then s.misroute
    else match s.inbound m with
      | (.inl st, s) => s.answer port m rsp st 0 []
      | (.inr a, s) =>
        let (body, poison, s) := f m a s
        s.answer port m rsp 0 poison body

/-- READ: an inbound read (R307, R319, R320, R521). -/
def readStep (port : Option Nat) (mk : Marks) (s : State) : State :=
  s.serve port 1 8 fun m a s =>
    if s.outOf (portDie port) (homeOf a) then
      let (bs, s) := s.freeBytes m.len
      (bs, 15, s)
    else
      let s := s.noteMarks mk 0 0xFFFFFFFF (srcOf 2 (homeOf a)) (some (addrPart a))
      let bad := if mk.sram.any fun x => !x.2.2 then 15 else 0
      (s.memRead a m.len, s.poisonBits a m.len ||| bad, s.countPoison a m.len)

/-- READ (R319). -/
def execRead (port : Option Nat) (mk : Marks) (s : State) : Host.Outcome State Fault Refusal := .next ((readStep port mk s).seen)

/-- WRITE: an inbound write (R307, R319, R320). -/
def writeStep (port : Option Nat) (s : State) : State :=
  s.serve port 2 9 fun m a s =>
    if s.outOf (portDie port) (homeOf a) then ([], 15, s) else ([], 0, s.writeChunks a (m.body.take m.len) m.poison)

/-- WRITE (R319). -/
def execWrite (port : Option Nat) (s : State) : Host.Outcome State Fault Refusal := .next (writeStep port s)

/-- An inbound atomic: it answers the old value and stores what f makes of it and of the operands, if it gives anything (R308). -/
def State.atomic (s : State) (b : PortRead) (op : Nat) (f : Nat → Nat → Nat → Option Nat) : State :=
  (s.serve b.port op 10 fun m a s =>
    if s.outOf (portDie b.port) (homeOf a) then
      let (bs, s) := s.freeBytes 8
      (bs, 15, s)
    else
      let s := s.noteMarks b.marks 0 0xFFFFFFFF (srcOf 2 (homeOf a)) (some (addrPart a))
      let bad := if Marks.sramUe b.marks then 15 else 0
      let old := leNat (s.memRead a 8)
      let t := s.countPoison a 8
      let t := match f old (rdN m.body 0 8) (rdN m.body 8 8) with
        | some new => t.writeChunks a (leBytes 8 new) m.poison
        | none => t
      (leBytes 8 old, s.poisonBits a 8 ||| bad, t)).seen

/-- ATOMIC_ADD (R308). -/
def execAtomicAdd (b : PortRead) (s : State) : Host.Outcome State Fault Refusal :=
  .next (s.atomic b 3 fun old x _ => some ((old + x) % 2 ^ 64))

/-- ATOMIC_SWAP (R308). -/
def execAtomicSwap (b : PortRead) (s : State) : Host.Outcome State Fault Refusal :=
  .next (s.atomic b 4 fun _ x _ => some x)

/-- ATOMIC_CAS (R308). -/
def execAtomicCas (b : PortRead) (s : State) : Host.Outcome State Fault Refusal :=
  .next (s.atomic b 5 fun old x y => if old = y then some x else none)

/-- The data of a READ_RSP, as runs of 64-byte chunks with their poison (R306). -/
def rspRuns (n : Nat) (body : List Byte) (poison : Nat) : List (List Byte × Bool) :=
  ((chunksOf 64 4 (body.take n)).zipIdx.map fun c => (c.1, poison.testBit c.2))

/-- The data that a READ brought goes to its piece's destination, or to the page that a move brings back (R260, R284, R311). -/
def State.landRead (s : State) (t : Txn) (m : Msg) : State :=
  match t.owner with
  | .stamp _ => s
  | .move n => s.writeChunks (n * 2 ^ 21 + t.place) (m.body.take t.len) m.poison
  | .piece wid idx =>
    match s.xferOf wid with
    | none => s
    | some x => match x.piece idx with
      | none => s
      | some q =>
        let runs := rspRuns t.len m.body m.poison
        if x.dstSpace = 2 then
          let a := x.dst + t.place
          let bs := m.body.take t.len
          (cutFabric (a % 2 ^ 48) (t.len + 1) 0 t.len).foldl (fun s c =>
            let part := (runs.flatMap fun r => r.1.map fun b => ([b], r.2)).drop c.1 |>.take c.2
            let (data, s) := s.blur x (a + c.1) ((bs.drop c.1).take c.2)
            let u : Txn := { tag := none, op := 2, dst := a / 2 ^ 48, inc := none, off := a % 2 ^ 48 + c.1, len := c.2,
                             data := data, poison := runPoison part, owner := t.owner, place := t.place + c.1, sent := false,
                             again := false, port := none, full := false }
            { s with vrl := { s.vrl with txns := s.vrl.txns ++ [u] } }) s
        else s.asBegun x q fun s => s.deliver x q t.place runs

/-- A response: to a quarantined tag it is late; otherwise it ends its transaction (R317, R321, R325). -/
def State.response (s : State) (port : Option Nat) (op : Nat) : State :=
  match s.takeOp port op with
  | none => s
  | some (m, s) =>
    if m.dst ≠ s.vrl.ep || s.vrl.ep = 0 then s.misroute
    else if s.vrl.quar.contains m.tag then s.bump rVrlLateRsp 1
    else match s.vrl.txns.find? fun t => t.tag = some m.tag && t.sent with
      | none => s
      | some t =>
        if m.status = 0 then
          let s := s.dropTxn t false
          let s := if m.poison ≠ 0 then s.notePoison t.owner.wid else s
          let s := if op = 8 then s.landRead t m else s
          (match t.owner with
           | .stamp wid => s.endWb wid (if m.poison ≠ 0 then stMemPoison else stOk) 0 0
           | .piece _ _ => s
           | .move _ => s).pump
        else if fabStatus m.status = stFabGone then ((s.peerGone t.dst [t] m.status).collLost t.dst none m.status).pump
        else (s.failTxn t m.status).pump

/-- READ_RSP (R317). -/
def execReadRsp (port : Option Nat) (s : State) : Host.Outcome State Fault Refusal := .next (s.response port 8)

/-- WRITE_RSP (R316, R317). -/
def execWriteRsp (port : Option Nat) (s : State) : Host.Outcome State Fault Refusal := .next (s.response port 9)

/-- ATOMIC_RSP (R317). -/
def execAtomicRsp (port : Option Nat) (s : State) : Host.Outcome State Fault Refusal := .next (s.response port 10)

/-- Transactions to an endpoint that still wait for it end (R321). -/
def State.endWaiting (s : State) (ep st : Nat) : State :=
  s.failTxns (s.vrl.txns.filter fun t => decide (t.dst = ep) && t.tag.isNone) st

/-- A peer has a new incarnation: what has a tag of the old one, or waits at a port for credits, ends with FAB_PEER_GONE unsent, and
PEER_CHANGE is written (R321, R324, R330). told: is PEER_CHANGE to be written. -/
def State.peerNew (s : State) (ep old new : Nat) (told : Bool) : State :=
  let queued (k : Nat) : Bool := s.vrl.ports.any fun p => p.queue.any fun x => x.2.2 = .req k
  let ended := (s.txnsTo ep).filter fun t => t.inc ≠ some new && (!t.sent || t.tag.any queued)
  let ports := s.vrl.ports.map fun p => { p with queue := p.queue.filter fun x => match x.2.2 with
    | .coll o => !(o.dst = ep && (msgOf x.2.1).inc ≠ new)
    | _ => true }
  let s := { s with vrl := { s.vrl with ports := ports } }
  let s := if told then s.peerEvent ep 2 old new ended.length else s
  s.failTxns ended 0x1FE

/-- RESOLVE_RSP: an entry becomes PRESENT or GONE. An answer to a RESOLVE that was sent before a NOTICE came is discarded, and the entry
asked for again (R321, R323). -/
def resolveRspStep (port : Option Nat) (s : State) : State :=
  match s.takeMgt port 0x23 with
  | none => s
  | some (m, s) =>
    if m.src ≠ 0xFFFF then s.misroute
    else
      let ep := bitsN 15 0 m.mdata
      match s.peer ep with
      | none => s
      | some p =>
        let s := s.updPeer ep fun p => { p with asked := p.asked - 1, stale := p.stale - 1 }
        if p.stale ≠ 0 then (if p.asked ≤ p.stale then s.sendResolve ep else s)
        else if bitsN 32 32 m.mdata = 1 then
          let inc := bitsN 31 16 m.mdata
          let s := s.updPeer ep fun p => { p with st := .present, inc := inc }
          let s := if p.st ≠ .resolving && inc ≠ p.inc then s.peerNew ep p.inc inc (p.st = .present) else s
          (s.collLost ep (some inc) 0x1FE).pump.pumpColls
        else
          let s := s.updPeer ep fun p => { p with st := .gone }
          let s := if p.st = .present then s.peerEvent ep 1 p.inc 0 (s.vrl.txns.filter fun t => t.dst = ep && t.tag.isNone).length else s
          ((s.endWaiting ep 0x1FE).collLost ep none 0x1FE).pump

/-- RESOLVE_RSP (R321). -/
def execResolveRsp (port : Option Nat) (s : State) : Host.Outcome State Fault Refusal := .next (resolveRspStep port s)

/-- RESOLVE_TIMEOUT: no answer came; the entry is freed and what waited for it times out (R321). -/
def resolveTimeoutStep (ep : Nat) (s : State) : State :=
  match s.peer ep with
  | none => s
  | some p =>
    if p.st ≠ .resolving then s
    else
      let rest := s.vrl.peers.filter fun q => q.ep ≠ ep
      ((({ s with vrl := { s.vrl with peers := rest } }).endWaiting ep 0x1FF).collLost ep none 0x1FF).pump

/-- RESOLVE_TIMEOUT (R321). -/
def execResolveTimeout (ep : Nat) (s : State) : Host.Outcome State Fault Refusal := .next (resolveTimeoutStep ep s)

/-- NOTICE: the switch tells that a peer went down or came up with a new INC; answers to earlier RESOLVEs no longer count (R321,
R323). -/
def noticeStep (port : Option Nat) (s : State) : State :=
  match s.takeMgt port 0x24 with
  | none => s
  | some (m, s) =>
    if m.src ≠ 0xFFFF then s.misroute
    else
      let ep := bitsN 15 0 m.mdata
      let kind := bitsN 33 32 m.mdata
      let inc := bitsN 31 16 m.mdata
      match s.peer ep with
      | none => s
      | some p =>
        let s := s.updPeer ep fun p => { p with stale := p.asked }
        if kind = 1 then ((s.peerGone ep (s.txnsTo ep) 0x1FE).collLost ep none 0x1FE).pump
        else if kind = 2 then
          let s := s.updPeer ep fun p => { p with st := .present, inc := inc }
          let s := if p.st ≠ .resolving && inc ≠ p.inc then s.peerNew ep p.inc inc true else s
          (s.collLost ep (some inc) 0x1FE).pump.pumpColls
        else s

/-- NOTICE (R321). -/
def execNotice (port : Option Nat) (s : State) : Host.Outcome State Fault Refusal := .next (noticeStep port s)

/-- FAB_TIMEOUT: a transaction has had no answer within REQ_US (R325). -/
def fabTimeoutStep (tag : Nat) (s : State) : State :=
  match s.vrl.txns.find? fun t => t.tag = some tag with
  | none => s
  | some t => (s.failTxn t 0x1FF).pump

/-- FAB_TIMEOUT (R325). -/
def execFabTimeout (tag : Nat) (s : State) : Host.Outcome State Fault Refusal := .next (fabTimeoutStep tag s)

/-- TAG_QUARANTINE_END: a tag may be used again (R325). -/
def tagQuarantineEndStep (tag : Nat) (s : State) : State :=
  ({ s with vrl := { s.vrl with quar := s.vrl.quar.filter (· ≠ tag) } }).pump

/-- TAG_QUARANTINE_END (R325). -/
def execTagQuarantineEnd (tag : Nat) (s : State) : Host.Outcome State Fault Refusal := .next (tagQuarantineEndStep tag s)

/-- Counters of a port block. -/
def portCounters (n : Nat) : List Nat :=
  [rVrlFecCorrLo n, rVrlFecCorrHi n, rVrlFecUncorr n, rVrlCrcErr n, rVrlReplays n, rVrlDowns n, rVrlTxFlitsLo n,
   rVrlTxFlitsHi n, rVrlRxFlitsLo n, rVrlRxFlitsHi n]

/-- VRL_PORT_CLR: a port's counters are set to 0 (R332). -/
def vrlPortClrStep (n : Nat) (s : State) : State :=
  if s.hasPort n && s.barOpen (rVrlPortClr n) then s.zeroRegs (portCounters n) else s

/-- VRL_PORT_CLR (R332). -/
def execVrlPortClr (n : Nat) (s : State) : Host.Outcome State Fault Refusal := .next (vrlPortClrStep n s)

/-- VRL_CTR_CLR: the device-wide fabric counters are set to 0 (R333). -/
def vrlCtrClrStep (s : State) : State :=
  if s.barOpen rVrlCtrClr then
    s.zeroRegs [rVrlResolvesLo, rVrlResolvesHi, rVrlTimeouts, rVrlPeerGone, rVrlLateRsp, rVrlMisroute, rVrlDenied, rVrlPeerFull]
  else s

/-- VRL_CTR_CLR (R333). -/
def execVrlCtrClr (s : State) : Host.Outcome State Fault Refusal := .next (vrlCtrClrStep s)

end Sys2Proof.Machine
end

