-- ==== Sys2Proof/Machine/KvOps.lean ====
section
/-! DEFINITION. KV descriptors and their checks, chain values, nodes, quota and eviction (R226 to R239). -/

namespace Sys2Proof.Machine

open Sys2Proof

/-- OP -/
def kvCode (d : List Byte) : Nat := rdN d 0 1
/-- ACQUIRE -/
def kvAcquire (d : List Byte) : Bool := rdBits d 0 8 8 = 1
/-- ROOT -/
def kvRoot (d : List Byte) : Bool := rdBits d 0 9 9 = 1
/-- COUNT -/
def kvCount (d : List Byte) : Nat := rdN d 4 4
/-- START -/
def kvStart (d : List Byte) : List Byte := (d.drop 8).take 16
/-- IDS -/
def kvIds (d : List Byte) : Nat := rdN d 0x18 8
/-- HANDLES -/
def kvHandles (d : List Byte) : Nat := rdN d 0x20 8
/-- HASHES -/
def kvHashes (d : List Byte) : Nat := rdN d 0x28 8
/-- EVICTS -/
def kvEvicts (d : List Byte) : Nat := rdN d 0x30 8
/-- Does a descriptor open a view? -/
def kvOpens (d : List Byte) : Bool := kvCode d = 0x10

/-- Which of IDS, HANDLES, HASHES, EVICTS, START, ACQUIRE, ROOT an operation uses (R231). -/
structure KvUses where
  ids     : Bool
  handles : Bool
  hashes  : Bool
  evicts  : Bool
  start   : Bool
  acquire : Bool
  root    : Bool
  deriving DecidableEq, Repr

/-- The operations table (R231); none for a reserved OP. -/
def kvUses (op : Nat) : Option KvUses :=
  match op with
  | 0x01 => some ⟨true, false, true, false, true, false, false⟩
  | 0x02 => some ⟨true, true, true, false, true, true, false⟩
  | 0x03 => some ⟨true, true, true, true, true, true, true⟩
  | 0x04 => some ⟨false, false, true, false, false, false, false⟩
  | 0x05 => some ⟨false, false, true, false, false, false, false⟩
  | 0x10 => some ⟨true, true, false, false, false, false, false⟩
  | 0x11 => some ⟨false, true, false, false, false, false, false⟩
  | _ => none

/-- Check 1 of R232 for one descriptor; spec holds the view spec's bytes, handles those that INSERT supplies, as far as they can
be read. -/
def kvFormatBad (d spec : List Byte) (handles : List Nat) : Bool :=
  match kvUses (kvCode d) with
  | none => true
  | some u =>
    rdBits d 0 15 10 ≠ 0 || rdN d 3 1 ≠ 0
    || (!u.acquire && kvAcquire d) || (!u.root && kvRoot d) || (!u.start && !zerosAt d 8 16)
    || (if u.ids then kvIds d = 0 else kvIds d ≠ 0)
    || (if u.handles then kvHandles d = 0 else kvHandles d ≠ 0)
    || (!u.hashes && kvHashes d ≠ 0) || ([1, 4, 5].contains (kvCode d) && kvHashes d = 0)
    || (!u.evicts && kvEvicts d ≠ 0)
    || decide (1048576 < kvCount d) || (decide (0x10 ≤ kvCode d) && kvCount d ≠ 1)
    || (kvCode d = 3 && handles.any (· = 0))
    || (kvOpens d && !spec.isEmpty && !specOk spec)

/-- Check 2 of R232 for one descriptor. -/
def kvAlignBad (d spec : List Byte) (handles : List Nat) : Bool :=
  kvIds d % 8 ≠ 0 || kvHandles d % (if decide (0x10 ≤ kvCode d) then 2097152 else 8) ≠ 0 || kvHashes d % 16 ≠ 0 || kvEvicts d % 8 ≠ 0
  || (kvCode d = 3 && handles.any fun h => h % 2097152 ≠ 0)
  || (kvOpens d && !spec.isEmpty && (vSeqTable spec % 8 ≠ 0 || vList spec % 8 ≠ 0 || vWeights spec % 8 ≠ 0))

/-- Check 3 of R232 for one descriptor. -/
def kvBoundsBad (p : Nat) (d spec list : List Byte) : Bool :=
  let n := kvCount d
  let out (a k : Nat) : Bool := a ≠ 0 && k ≠ 0 && !rangeInPart p a k
  let outUsed (a k : Nat) : Bool := k ≠ 0 && !rangeInPart p a k
  if kvOpens d then
    out (kvIds d) 128
    || (!spec.isEmpty && (out (vList spec) (vListSize spec) || outUsed (vSeqTable spec) (8 * vSeqBlocks spec)
        || (vExpanded spec && outUsed (vWeights spec) (vHeads spec * vHeadDim spec * (vLatent spec * 33 / 32)))
        || !rangeInPart p (kvHandles d) (windowSize spec list)))
  else if kvCode d = 0x11 then !rangeInPart p (kvHandles d) 0
  else out (kvIds d) (2048 * n) || out (kvHandles d) (8 * n) || out (kvHashes d) (16 * n) || out (kvEvicts d) (24 * n)

/-- The descriptors of a KV Waybill. -/
def kvDescs (n : Nat) (bs : List Byte) : List (List Byte) := chunksOf 64 n bs

/-- What the checks of R232 read of a descriptor: view spec, its block list, the handles of INSERT; parts that lie outside the
partition or that cannot be read are left out. -/
def State.kvSide (s : State) (p : Nat) (d : List Byte) : List Byte × List Byte × List Nat :=
  let get (a n : Nat) : List Byte := if rangeInPart p a n && !s.readBad a n then s.readBytes a n else []
  if kvOpens d then
    let sp := get (kvIds d) 128
    (sp, if sp.isEmpty || vList sp = 0 then [] else get (vList sp) (vListSize sp), [])
  else if kvCode d = 3 then ([], [], (chunksOf 8 (kvCount d) (get (kvHandles d) (8 * kvCount d))).map leNat)
  else ([], [], [])

/-- The ranges that the checks of R232 read of a descriptor. -/
def State.kvLooks (s : State) (d : List Byte) : List (Nat × Nat) :=
  if kvOpens d then
    let sp := s.readBytes (kvIds d) 128
    (kvIds d, 128) :: (if vList sp = 0 then [] else [(vList sp, vListSize sp)])
  else if kvCode d = 3 then [(kvHandles d, 8 * kvCount d)]
  else []

/-- The status and the index of the first descriptor that fails a check of R232, check by check. -/
def State.kvChecks (s : State) (p : Nat) (ds : List (List Byte)) : Option (Nat × Nat) :=
  let xs := ds.map fun d => (d, s.kvSide p d)
  match xs.findIdx? fun x => kvFormatBad x.1 x.2.1 x.2.2.2 with
  | some i => some (stWbFormat, i)
  | none => match xs.findIdx? fun x => kvAlignBad x.1 x.2.1 x.2.2.2 with
    | some i => some (stWbAlign, i)
    | none => (xs.findIdx? fun x => kvBoundsBad p x.1 x.2.1 x.2.2.1).map fun i => (stWbBounds, i)

/-- The chain value of a block after another (R226). -/
def chainVal (prev ids : List Byte) : List Byte := shake256 16 (prev ++ ids)

/-- Home die of a chain value (R228). -/
def nodeDie (h : List Byte) : Nat := (leNat (h.take 1)) % 4

/-- Does a die hold a node table (R229)? -/
def State.gazOn (s : State) (d : Nat) : Bool := bit 0 (s.reg (rGazCfg d)) && !s.fenced 2 d

/-- A partition's node with a chain value (R227, R228). -/
def State.node (s : State) (p : Nat) (h : List Byte) : Option Node :=
  s.kv.nodes.find? fun n => decide (n.part = p ∧ n.h = h)

/-- Change a node. -/
def State.updNode (s : State) (p : Nat) (h : List Byte) (f : Node → Node) : State :=
  { s with kv := { s.kv with nodes := updIf (fun n => decide (n.part = p ∧ n.h = h)) f s.kv.nodes } }

/-- Nodes in use on a die. -/
def State.gazUsed (s : State) (d : Nat) : Nat := (s.kv.nodes.filter fun n => n.die = d).length
/-- Nodes of a partition on a die. -/
def State.gazHeld (s : State) (p d : Nat) : Nat := (s.kv.nodes.filter fun n => decide (n.die = d ∧ n.part = p)).length
/-- Nodes that a die's table takes. -/
def State.gazCap (s : State) (d : Nat) : Nat := 2 ^ s.fld (rGazCfg d) 12 8

/-- A node is removed; its parent's child count falls by 1 (R238). -/
def State.dropNode (s : State) (n : Node) : State :=
  let rest := s.kv.nodes.filter fun x => !(decide (x.part = n.part ∧ x.h = n.h))
  let s := { s with kv := { s.kv with nodes := rest } }
  if n.root then s else s.updNode n.part n.parent fun x => { x with kids := x.kids - 1 }

/-- A node is created; GAZ_NEAR_FULL is written when the nodes in use rise to the threshold (R236, R242). -/
def State.addNode (s : State) (wid : Nat) (n : Node) : State :=
  let s := { s with kv := { s.kv with nodes := s.kv.nodes ++ [n] } }
  let s := if n.root then s else s.updNode n.part n.parent fun x => { x with kids := x.kids + 1 }
  let s := s.bump64 (rGazCreatesLo n.die) 1
  let thr := s.fld (rGazNearThr n.die) 22 0
  if thr ≠ 0 && s.gazUsed n.die = thr then
    s.emitFor wid (ev 0x0280 lvBlock (some n.part) (srcOf 2 n.die) [thr, s.gazCap n.die, thr])
  else s

/-- Why a node cannot be created on a die as things stand: FULL, QUOTA (R229, R233). -/
def State.noRoom (s : State) (p d : Nat) : Option Nat :=
  if !s.gazOn d || decide (s.gazCap d ≤ s.gazUsed d) then some 2
  else if s.fld (rGazQuota d p) 22 0 ≤ s.gazHeld p d then some 3
  else none

/-- The node that an eviction removes: the oldest last use among those without references and children that the descriptor did
not touch; among equals a free choice (R237). -/
def State.evictee (s : State) (p d : Nat) (mine : List (List Byte)) : Option Node :=
  let l := s.kv.nodes.filter fun n => decide (n.part = p ∧ n.die = d ∧ n.refs = 0 ∧ n.kids = 0) && !mine.contains n.h
  match pickMin (fun (a b : Node) => decide (a.last < b.last)) l with
  | none => none
  | some n =>
    let ties := l.filter fun x => x.last = n.last
    ties[(Config.freeWord s.free).toNat % ties.length]?

/-- Where a descriptor stands: state, previous chain value, blocks matched and done, evictions made, nodes found or created, and
whether a LOOKUP still probes. -/
structure KvRun where
  s       : State
  prev    : List Byte
  matched : Nat
  done    : Nat
  evicts  : Nat
  mine    : List (List Byte)
  probing : Bool
  result  : Nat
  deriving DecidableEq, Repr

/-- Read part of an array: its bytes, or FAULT or POISON (R233). -/
def State.kvRead (s : State) (wid a n : Nat) : (List Byte ⊕ Nat) × State :=
  let s1 := s.noteRead wid a n
  let faults (t : State) : Nat := ((t.wb wid).map (·.faults)).getD 0
  if faults s < faults s1 then (.inr 10, s1)
  else if s.readBad a n then (.inr 11, s1)
  else (.inl (s.readBytes a n), s1)

/-- Write part of an array; false when the write faults. -/
def State.kvWrite (s : State) (wid a : Nat) (bs : List Byte) : Bool × State := s.writeBytes wid a bs false

/-- The hash of block i: identifiers read, chain value computed and written when asked for (R226, R231, R235). -/
def KvRun.hashed (k : KvRun) (wid : Nat) (d : List Byte) : List Byte × KvRun :=
  match k.s.kvRead wid (kvIds d + 2048 * k.done) 2048 with
  | (.inr e, s) => ([], { k with s := s, result := e })
  | (.inl ids, s) =>
    let h := chainVal k.prev ids
    if kvHashes d = 0 then (h, { k with s := s })
    else
      let (ok, s) := s.kvWrite wid (kvHashes d + 16 * k.done) h
      (h, { k with s := s, result := if ok then 0 else 10 })

/-- A found node is used: last use set, a reference added when asked for, its handle written (R235, R236). -/
def KvRun.found (k : KvRun) (wid : Nat) (d : List Byte) (n : Node) : KvRun :=
  if kvAcquire d && n.refs = 0xFFFFFFFF then { k with result := 6 }
  else
    let aon := k.s.aon
    let s := k.s.updNode n.part n.h fun n => { n with last := aon, refs := if kvAcquire d then n.refs + 1 else n.refs }
    let (ok, s) := s.kvWrite wid (kvHandles d + 8 * k.done) (leBytes 8 n.handle)
    if ok then { k with s := s, matched := k.matched + 1, mine := n.h :: k.mine } else { k with s := s, result := 10 }

/-- Count a probe of a block, and a hit (R244). -/
def State.countProbe (s : State) (h : List Byte) (hit : Bool) : State :=
  let s := s.bump64 (rGazProbesLo (nodeDie h)) 1
  if hit then s.bump64 (rGazHitsLo (nodeDie h)) 1 else s

/-- A block ends: the next one follows it, unless it failed. -/
def KvRun.next (k : KvRun) (h : List Byte) : KvRun := if k.result = 0 then { k with done := k.done + 1, prev := h } else k

/-- One block of HASH (R231). -/
def KvRun.hashBlock (k : KvRun) (wid : Nat) (d : List Byte) : KvRun :=
  let (h, k) := k.hashed wid d
  k.next h

/-- One block of LOOKUP (R235). -/
def KvRun.lookupBlock (k : KvRun) (wid p : Nat) (d : List Byte) : KvRun :=
  let (h, k) := k.hashed wid d
  if k.result ≠ 0 then k
  else if !k.probing then k.next h
  else
    let n := k.s.node p h
    let k := { k with s := k.s.countProbe h n.isSome }
    match n with
    | none => { k with probing := false }.next h
    | some n => (k.found wid d n).next h

/-- A node for block i of INSERT, with an eviction when there is no room (R236, R237). -/
def KvRun.create (k : KvRun) (wid p : Nat) (d h : List Byte) : KvRun :=
  match k.s.kvRead wid (kvHandles d + 8 * k.done) 8 with
  | (.inr e, s) => { k with s := s, result := e }
  | (.inl hb, s) =>
    let k := { k with s := s }
    let die := nodeDie h
    let node : Node := { h := h, parent := k.prev, root := k.done = 0 && kvRoot d, handle := leNat hb, part := p, die := die,
                         refs := if kvAcquire d then 1 else 0, kids := 0, last := s.aon }
    let made (k : KvRun) : KvRun := { k with s := k.s.addNode wid node, mine := h :: k.mine }
    match s.noRoom p die with
    | none => made k
    | some r =>
      if kvEvicts d = 0 || s.fld (rGazQuota die p) 22 0 = 0 then { k with result := r }
      else match s.evictee p die k.mine with
        | none => { k with result := r }
        | some v =>
          let s := ({ s with free := s.free + 1 }.dropNode v).bump (rGazEvicts die) 1
          let (ok, s) := s.kvWrite wid (kvEvicts d + 24 * k.evicts) (v.h ++ leBytes 8 v.handle)
          let k := { k with s := s, evicts := k.evicts + 1 }
          if ok then made k else { k with result := 10 }

/-- One block of INSERT (R236). -/
def KvRun.insertBlock (k : KvRun) (wid p : Nat) (d : List Byte) : KvRun :=
  let (h, k) := k.hashed wid d
  if k.result ≠ 0 then k
  else
    let n := k.s.node p h
    let k := { k with s := k.s.countProbe h n.isSome }
    match n with
    | some n => (k.found wid d n).next h
    | none => (k.create wid p d h).next h

/-- One entry of RELEASE or REMOVE (R238). -/
def KvRun.listEntry (k : KvRun) (wid p : Nat) (d : List Byte) (remove : Bool) : KvRun :=
  match k.s.kvRead wid (kvHashes d + 16 * k.done) 16 with
  | (.inr e, s) => { k with s := s, result := e }
  | (.inl h, s) =>
    let k := { k with s := s }
    match s.node p h with
    | none => { k with result := 4 }
    | some n =>
      if remove then
        if n.refs ≠ 0 || n.kids ≠ 0 then { k with result := 7 } else { k with s := s.dropNode n }.next h
      else if n.refs = 0 then { k with result := 5 }
      else { k with s := s.updNode p h fun n => { n with refs := n.refs - 1 } }.next h

/-- A step over every block or entry of a descriptor, up to the first that fails (R233). -/
def kvLoop (f : KvRun → KvRun) : Nat → KvRun → KvRun
  | 0, k => k
  | n + 1, k => let k := f k; if k.result = 0 then kvLoop f n k else k

/-- A descriptor that has not begun. An INSERT with ROOT 0 has found START's node, which no eviction of its own takes (R228, R237). -/
def kvFresh (s : State) (d : List Byte) : KvRun :=
  { s := s, prev := kvStart d, matched := 0, done := 0, evicts := 0,
    mine := if kvCode d = 3 && !kvRoot d then [kvStart d] else [], probing := true, result := 0 }

/-- HASH, LOOKUP, INSERT, RELEASE and REMOVE on one descriptor (R231 to R238). -/
def State.kvExec (s : State) (wid p : Nat) (d : List Byte) : KvRun :=
  let k := kvFresh s d
  let n := kvCount d
  match kvCode d with
  | 0x01 => kvLoop (fun k => k.hashBlock wid d) n k
  | 0x02 => kvLoop (fun k => k.lookupBlock wid p d) n k
  | 0x03 =>
    if n ≠ 0 && !kvRoot d && (s.node p (kvStart d)).isNone then { k with result := 1 }
    else kvLoop (fun k => k.insertBlock wid p d) n k
  | 0x04 => kvLoop (fun k => k.listEntry wid p d false) n k
  | _ => kvLoop (fun k => k.listEntry wid p d true) n k

/-- VIEW_OPEN on one descriptor (R215, R233, R241). -/
def State.viewOpenExec (s : State) (wid p : Nat) (d : List Byte) : KvRun :=
  let k := kvFresh s d
  let fail (s : State) (r : Nat) : KvRun := { k with s := s, result := r }
  match s.kvRead wid (kvIds d) 128 with
  | (.inr e, s) => fail s e
  | (.inl sp, s) =>
    match (if vList sp = 0 then ((.inl [], s) : (List Byte ⊕ Nat) × State) else s.kvRead wid (vList sp) (vListSize sp)) with
    | (.inr e, s) => fail s e
    | (.inl list, s) =>
      let v : View := { base := kvHandles d, part := p, spec := sp, list := list, closing := none, holeSaid := false }
      let size := windowSize sp list
      if vList sp ≠ 0 && (blockList list).isNone then fail s 4
      else if (s.place.pages.any fun g => v.crosses g.addr 2097152) || s.kv.views.any fun x => x.crosses v.base size || x.base = v.base then
        fail s 8
      else if 4096 ≤ s.kv.views.length then fail s 9
      else { k with s := { s with kv := { s.kv with views := s.kv.views ++ [v] } }, done := 1 }

/-- Is a read of a view in flight (R222, R241)? -/
def State.viewBusy (s : State) (base : Nat) : Bool := s.place.leases.any fun l => l.view = base

/-- A view is gone; the reads in flight have ended, those taken before a switch from the old copy (R223, R241). -/
def State.dropView (s : State) (base : Nat) : State :=
  let s := s.endLeases fun l => decide (l.view = base)
  { s with kv := { s.kv with views := s.kv.views.filter (fun v => v.base ≠ base) } }

/-- The ranges that a descriptor reads and writes. -/
def State.kvTouches (s : State) (p : Nat) (d : List Byte) : List (Nat × Nat) × List (Nat × Nat) :=
  let n := kvCount d
  let arr (a k : Nat) : List (Nat × Nat) := if a = 0 || k = 0 then [] else [(a, k)]
  match kvCode d with
  | 0x01 => (arr (kvIds d) (2048 * n), arr (kvHashes d) (16 * n))
  | 0x02 => (arr (kvIds d) (2048 * n), arr (kvHashes d) (16 * n) ++ arr (kvHandles d) (8 * n))
  | 0x03 => (arr (kvIds d) (2048 * n) ++ arr (kvHandles d) (8 * n),
             arr (kvHashes d) (16 * n) ++ arr (kvHandles d) (8 * n) ++ arr (kvEvicts d) (24 * n))
  | 0x10 =>
    let sp := (s.kvSide p d).1
    (arr (kvIds d) 128 ++ (if sp.isEmpty then [] else arr (vList sp) (vListSize sp)), [])
  | 0x11 => ([], [])
  | _ => (arr (kvHashes d) (16 * n), [])

/-- The KV Waybill whose descriptors a Gazetteer executes next: one that it has begun, else the first of those queued, by R418;
suspended ones wait (R423). -/
def State.kvTurn (s : State) (gaz : Nat) : Option Nat :=
  let ws := (s.kv.jobs.filter fun j => j.gaz = gaz).filterMap fun j => s.wb j.wid
  let l := ws.filter fun w => s.canWork w .gaz gaz
  let key (w : Wb) : List Nat := (if w.phase = .running then 0 else 1) :: s.readyKey w
  (pickMin (fun a b => lexLt (key a) (key b)) l).map (·.wid)

/-- The Gazetteer for a KV Waybill: the one with the fewest descriptors queued, ties to the lower (R282). -/
def State.kvPlace (s : State) (w : Wb) : Option Nat :=
  let l := (s.usable w.part .gaz).filter fun d => s.canWork w .gaz d
  let q (d : Nat) : Nat := ((s.kv.jobs.filter fun j => j.gaz = d).map fun j => j.count - j.next).sum
  pickMin (fun a b => decide (q a < q b)) l

/-- Change a KV Waybill's entry. -/
def State.updJob (s : State) (wid : Nat) (f : KvJob → KvJob) : State :=
  { s with kv := { s.kv with jobs := updIf (fun j => decide (j.wid = wid)) f s.kv.jobs } }

/-- The entry of a KV Waybill in progress. -/
def State.kvJob (s : State) (wid : Nat) : Option KvJob := s.kv.jobs.find? fun j => j.wid = wid

/-- A KV Waybill's work is over (R234, R265). -/
def State.kvEnd (s : State) (j : KvJob) : State :=
  let s := { s with kv := { s.kv with jobs := s.kv.jobs.filter (fun x => x.wid ≠ j.wid) } }
  match s.wb j.wid with
  | none => s
  | some w =>
    let st := if w.faults ≠ 0 then stMemFault else if w.quota then stMemQuota else if w.poison then stMemPoison
      else if j.quota then stMemQuota else stOk
    (s.endWb j.wid st j.notDone (engSrc .gaz j.gaz)).settle

/-- The bytes of the descriptor that a KV Waybill executes, where it writes its results (R233). -/
def KvJob.place (j : KvJob) (w : Wb) : List (Nat × Nat) := [(wArg w.slot 0 + 64 * j.next, 64)]

/-- A descriptor has ended: RESULT, MATCHED and PROCESSED are written, and the Waybill goes on or ends (R233, R234). -/
def State.kvWritten (s : State) (w : Wb) (j : KvJob) (result matched done : Nat) : State :=
  let a := wArg w.slot 0 + 64 * j.next
  let (ok, s) := s.writeBytes w.wid (a + 2) (leBytes 1 result) false
  let (ok2, s) := s.writeBytes w.wid (a + 0x38) (leBytes 4 matched ++ leBytes 4 done) false
  let j2 := { j with next := j.next + 1, notDone := j.notDone + (if result = 0 then 0 else 1), quota := j.quota || result = 3,
                     closing := false }
  let s := s.updJob w.wid fun _ => j2
  if j2.next = j2.count || result = 10 || result = 11 || !ok || !ok2 then s.kvEnd j2 else s.settle

end Sys2Proof.Machine
end

