-- ==== Sys2Proof/Machine/Kv.lean ====
section
/-! DEFINITION. The meanings of the KV commands, of view reads, and of the Gazetteer's enable; the clearing of the counters of the
memory-side dies (R215 to R245, R290, R292). -/

namespace Sys2Proof.Machine

open Sys2Proof

/-- A KV Waybill begins: its descriptors are read and checked, and a Gazetteer is chosen; the result tells whether it goes on
(R230, R232, R282, R289). A Waybill whose first descriptor is of another operation is that command's to begin. -/
def State.kvBegin (s : State) (wid op : Nat) : State :=
  match s.begin? wid opKv with
  | none => s
  | some w =>
    s.checked w fun s =>
      let a := wArg w.slot 0
      let n := wArg w.slot 1
      let (ok, s1) := s.prepareFor wid 0 [(a, 64 * n)] []
      if !ok then s1
      else
        let ds := kvDescs n (s1.readBytes a (64 * n))
        let side := (ds.flatMap fun d => s1.kvLooks d).filter fun r => rangeInPart w.part r.1 r.2
        let (ok, s2) := s1.prepareFor wid 1 side []
        if !ok then s2
        else
          let s3 := s2.noteRead wid a (64 * n)
          match s3.wb wid with
          | none => s
          | some w =>
            if accStatus w 0 ≠ 0 then s3.endWb wid (accStatus w 0) 0 0
            else match s3.kvChecks w.part ds with
              | some (st, i) => s3.endWb wid st i 0
              | none =>
                if kvCode (ds.headD []) ≠ op then s
                else if (s3.usable w.part .gaz).isEmpty then s3.endWb wid stBlkBusy 0 0
                else match s3.kvPlace w with
                  | none => s
                  | some g =>
                    let j : KvJob := { wid := wid, gaz := g, next := 0, count := n, notDone := 0, quota := false, closing := false,
                                         descs := ds }
                    ({ s3 with kv := { s3.kv with jobs := s3.kv.jobs ++ [j] } }).updWb wid
                      fun w => { w with phase := .ready, kind := some .gaz, src := engSrc .gaz g }

/-- The descriptor that a KV Waybill executes next, when it is its Gazetteer's turn and the descriptor is of an operation. -/
def State.kvNext (s : State) (wid op : Nat) : Option (Wb × KvJob × List Byte) :=
  match s.wb wid, s.kvJob wid with
  | some w, some j =>
    let d := j.descs.getD j.next []
    if s.kvTurn j.gaz = some wid && kvCode d = op && !j.closing then some (w, j, d) else none
  | _, _ => none

/-- One descriptor of an operation, beginning its Waybill first when that waits. ns: the time of R240. It waits while pages of its
arrays, or its own, must come (R233, R252). -/
def State.kvRun (s : State) (wid op ns : Nat) (f : Wb → KvJob → List Byte → State → State) : State :=
  let s := s.kvBegin wid op
  match s.kvNext wid op with
  | none => s
  | some (w, j, d) =>
    let (rs, ws) := s.kvTouches w.part d
    let (ok, s1) := s.prepareFor wid 2 rs (ws ++ j.place w)
    if !ok then s1
    else f w j d ((if w.phase = .running then s1 else s1.startWb w).chargeWb wid ns)

/-- HASH, LOOKUP, INSERT, RELEASE, REMOVE. -/
def kvOpStep (wid op ns : Nat) (s : State) : State :=
  s.kvRun wid op ns fun w j d s =>
    let k := s.kvExec wid w.part d
    k.s.kvWritten w j k.result k.matched k.done

/-- HASH: writes the chain values of COUNT blocks (R226, R231). -/
def execHash (wid : Nat) (t : Took) (s : State) : Host.Outcome State Fault Refusal :=
  .next (kvOpStep wid 0x01 t.ns (s.meetsErr wid t.marks)).served

/-- LOOKUP: walks the chain until the first block that is not found (R235). -/
def execLookup (wid : Nat) (t : Took) (s : State) : Host.Outcome State Fault Refusal :=
  .next (kvOpStep wid 0x02 t.ns (s.meetsErr wid t.marks)).served

/-- INSERT: finds or creates a node for each block (R236, R237). -/
def execInsert (wid : Nat) (t : Took) (s : State) : Host.Outcome State Fault Refusal :=
  .next (kvOpStep wid 0x03 t.ns (s.meetsErr wid t.marks)).served

/-- RELEASE: subtracts a reference from each listed node (R238). -/
def execRelease (wid : Nat) (t : Took) (s : State) : Host.Outcome State Fault Refusal :=
  .next (kvOpStep wid 0x04 t.ns (s.meetsErr wid t.marks)).served

/-- REMOVE: removes each listed node (R238). -/
def execRemove (wid : Nat) (t : Took) (s : State) : Host.Outcome State Fault Refusal :=
  .next (kvOpStep wid 0x05 t.ns (s.meetsErr wid t.marks)).served

/-- VIEW_OPEN: a view is registered (R241). -/
def viewOpenStep (wid ns : Nat) (s : State) : State :=
  s.kvRun wid 0x10 ns fun w j d s =>
    let k := s.viewOpenExec wid w.part d
    k.s.kvWritten w j k.result 0 k.done

/-- VIEW_OPEN (R241). -/
def execViewOpen (wid : Nat) (t : Took) (s : State) : Host.Outcome State Fault Refusal :=
  .next (viewOpenStep wid t.ns (s.meetsErr wid t.marks)).served

/-- VIEW_CLOSE: new reads of the window stop; with none in flight the view is gone, else it waits for VIEW_CLOSE_DONE (R241). -/
def viewCloseStep (wid ns : Nat) (s : State) : State :=
  s.kvRun wid 0x11 ns fun w j d s =>
    let b := kvHandles d
    if !(s.kv.views.any fun v => decide (v.base = b ∧ v.part = w.part) && v.closing.isNone) then s.kvWritten w j 4 0 0
    else if s.viewBusy b then
      let vs := updIf (fun (v : View) => decide (v.base = b)) (fun (v : View) => { v with closing := some wid }) s.kv.views
      ({ s with kv := { s.kv with views := vs } }).updJob wid fun j => { j with closing := true }
    else (s.dropView b).kvWritten w j 0 0 1

/-- VIEW_CLOSE (R241). -/
def execViewClose (wid : Nat) (t : Took) (s : State) : Host.Outcome State Fault Refusal :=
  .next (viewCloseStep wid t.ns (s.meetsErr wid t.marks)).served

/-- VIEW_CLOSE_DONE: the last read in flight of a closing view ends and its VIEW_CLOSE completes (R241). -/
def viewCloseDoneStep (wid : Nat) (s : State) : State :=
  match s.wb wid, s.kvJob wid with
  | some w, some j =>
    if !j.closing then s
    else match s.kv.views.find? fun v => decide (v.closing = some wid) with
      | none => s
      | some v => s.accessing wid 2 [] (j.place w) fun s => (s.dropView v.base).kvWritten w j 0 0 1
  | _, _ => s

/-- VIEW_CLOSE_DONE (R241). -/
def execViewCloseDone (wid : Nat) (s : State) : Host.Outcome State Fault Refusal := .next (viewCloseDoneStep wid s)

/-- VIEW_READ: an Expander serves a running Waybill's read of a window. Each latent page that it reads is leased until the read has
ended, which MOVE_SWITCH, MOVE_DRAIN_END, UNMAP_RELEASE, VIEW_CLOSE_DONE and the end of its Waybill tell (log entry 90).
Counters, holes, poison and ignored outlier entries follow (R153, R217 to R222). It waits for pages that are not resident. -/
def viewReadStep (wid a n : Nat) (m : Marks) (s : State) : State :=
  match s.wb wid, s.viewAt a with
  | some w, some v =>
    if w.phase ≠ .running || n = 0 || a + n > v.base + windowSize v.spec v.list then s
    else
      let (ok, s1) := s.prepareFor wid 1000000 [(a, n)] []
      if !ok then s1
      else
        let s2 := s1.noteMarks m 0 w.ring w.src (some w.part)
        let s3 := if Marks.sramUe m then s2.notePoison wid else s2
        let frames := ((s3.viewRows v a n).map fun t => t.1 / 131072).eraseDups.filter fun f => (s3.page (f / 16)).isSome
        let s4 := match s3.run wid with
          | some r => match r.insts with
            | x :: _ => s3.runReads r r.kind x.inst [(a, n)]
            | [] => s3.noteRead wid a n
          | none => s3.noteRead wid a n
        { s4 with place := { s4.place with leases := s4.place.leases ++ frames.map fun f =>
          { page := f / 16, frame := f, view := v.base, wid := wid, copy := (s4.moveOf (f / 16)).any fun x => !x.switched,
            before := false } } }
  | _, _ => s

/-- VIEW_READ (R220). -/
def execViewRead (wid a n : Nat) (m : Marks) (s : State) : Host.Outcome State Fault Refusal := .next (viewReadStep wid a n m s).served

/-- GAZ_ENABLE: GAZ_CFG of a die is written. LOG2_NODES takes a legal value while EN is 0; clearing EN discards the die's nodes
(R229, R244). -/
def gazEnableStep (i : Nat) (w : Word) (s : State) : State :=
  if !(decide (i < 4) && s.barOpen (rGazCfg i)) then s
  else
    let on := bit 0 (s.reg (rGazCfg i))
    let l := bits 12 8 w
    let s := if !on && decide (16 ≤ l ∧ l ≤ 22) then s.setFld (rGazCfg i) 12 8 l else s
    let s := s.setFld (rGazCfg i) 0 0 (if s.failed .gaz i then 0 else bits 0 0 w)
    if on && bits 0 0 w = 0 then { s with kv := { s.kv with nodes := s.kv.nodes.filter (fun n => n.die ≠ i) } } else s

/-- GAZ_ENABLE (R229). -/
def execGazEnable (i : Nat) (w : Word) (s : State) : Host.Outcome State Fault Refusal := .next (gazEnableStep i w s)

/-- GAZ_CTR_CLR: the counters of a Gazetteer are 0 (R244). -/
def gazCtrClrStep (i : Nat) (s : State) : State :=
  if !(decide (i < 4) && s.barOpen (rGazCtrClr i)) then s
  else s.zeroRegs (engineCounters .gaz i)

/-- GAZ_CTR_CLR (R244). -/
def execGazCtrClr (i : Nat) (s : State) : Host.Outcome State Fault Refusal := .next (gazCtrClrStep i s)

/-- EXP_CTR_CLR: the counters of an Expander are 0 (R245). -/
def expCtrClrStep (i : Nat) (s : State) : State :=
  if !(decide (i < 4) && s.barOpen (rExpCtrClr i)) then s
  else s.zeroRegs (expCounters i)

/-- EXP_CTR_CLR (R245). -/
def execExpCtrClr (i : Nat) (s : State) : Host.Outcome State Fault Refusal := .next (expCtrClrStep i s)

/-- SRV_CTR_CLR: the counters of a Surveyor are 0 (R290). -/
def srvCtrClrStep (i : Nat) (s : State) : State :=
  if !(decide (i < 4) && s.barOpen (rSrvCtrClr i)) then s
  else s.zeroRegs (srvCounters i)

/-- SRV_CTR_CLR (R290). -/
def execSrvCtrClr (i : Nat) (s : State) : Host.Outcome State Fault Refusal := .next (srvCtrClrStep i s)

/-- XFE_CTR_CLR: the counters of an XFE are 0 (R292). -/
def xfeCtrClrStep (i : Nat) (s : State) : State :=
  if !(decide (i < 8) && s.barOpen (rXfeCtrClr i)) then s
  else s.zeroRegs (engineCounters .xfe i)

/-- XFE_CTR_CLR (R292). -/
def execXfeCtrClr (i : Nat) (s : State) : Host.Outcome State Fault Refusal := .next (xfeCtrClrStep i s)

end Sys2Proof.Machine
end

