-- ==== Sys2Proof/Machine/Mem.lean ====
section
/-! DEFINITION. The meanings of the placement commands: PLACE, quotas and pools, moves, heat, and the host's accesses to
lent memory (R251 to R280). -/

namespace Sys2Proof.Machine

open Sys2Proof

/-- Home dies of the placement pages of a PLACE Waybill. -/
def placeDies (w : Slot) : List Nat := ((placePages w).map fun n => n % 4).eraseDups

/-- PLACE Waybills that wait at a Surveyor, in the order of arrival (R258). -/
def State.placeWaits (s : State) : List Wb := (s.place.placeQ.filterMap s.wb).filter fun w => w.phase = .waiting

/-- A PLACE Waybill of one action that may begin: its checks come first; then it waits while a page of its range moves or has
another PLACE in progress, and behind the PLACE Waybills that came before it to a Surveyor of its pages (R254, R258). -/
def State.placing (s : State) (wid act : Nat) (f : Wb → State → State) : State :=
  match s.begin? wid opPlace with
  | none => s
  | some w =>
    if placeAct w.slot ≠ act then s
    else s.checked w fun s =>
      let ahead := (s.placeWaits.map (·.wid)).takeWhile (· ≠ wid)
      let behind := s.placeWaits.any fun x => ahead.contains x.wid && (placeDies x.slot).any (placeDies w.slot).contains
      if behind || (placePages w.slot).any fun n => (s.moveOf n).isSome || (s.page n).any fun g => g.busy then
        { s with place := { s.place with placeQ := addOnce wid (s.placeWaits.map (·.wid)) } }
      else f w (({ s with place := { s.place with placeQ := s.place.placeQ.filter (· ≠ wid) } }).startWb w)

/-- Index of the first page of a list that fails a test. -/
def firstBad (l : List Nat) (f : Nat → Bool) : Option Nat := (l.zipIdx.find? fun x => f x.1).map (·.2)

/-- Is a page lent? -/
def State.pageLent (s : State) (n : Nat) : Bool := (s.page n).any fun g => decide (g.lent ≠ .no)

/-- A new page without backing (R255). -/
def freshPage (cold : Bool) (n : Nat) : Page :=
  { num := n, cold := cold, place := .none, lent := .no, heat := 0, last := 0, lastView := 0, gone := none, taking := none }

/-- An action that must be admitted: it takes effect, or ends with MEM_QUOTA and changes nothing (R254, R263). -/
def State.letIn (s : State) (w : Wb) (t : State) (done : State → State) : State :=
  let n := max (t.shortfall w.part) t.tableExcess
  if n = 0 then done t else s.endWb w.wid stMemQuota n 0

/-- The pages of a MAP appear, reading as zero. -/
def State.mapPages (s : State) (cold : Bool) (l : List Nat) : State :=
  let s := { s with place := { s.place with pages := s.place.pages ++ l.map (freshPage cold) } }
  l.foldl (fun s n => s.memClear (n * 2 ^ 21) (2 ^ 21)) s

/-- MAP (R254, R255). -/
def mapStep (wid : Nat) (s : State) : State :=
  s.placing wid 1 fun w s =>
    let l := placePages w.slot
    match firstBad l fun n => (s.page n).isSome || s.kv.views.any fun v => v.crosses (n * 2 ^ 21) (2 ^ 21) with
    | some i => s.endWb wid stMemFault i 0
    | none =>
      let t := s.mapPages (bitsN 8 8 (wArg w.slot 2) = 1) l
      s.letIn w t fun t => t.endWb wid stOk 0 0

/-- MAP (R255). -/
def execMap (wid : Nat) (s : State) : Host.Outcome State Fault Refusal := .next (mapStep wid s)

/-- Pages leave the map and their backing is released (R256). -/
def State.dropPages (s : State) (l : List Nat) : State :=
  let s := { s with place := { s.place with pages := s.place.pages.filter (fun g => !l.contains g.num),
                                            demand := s.place.demand.filter (fun n => !l.contains n) } }
  l.foldl (fun s n => s.memClear (n * 2 ^ 21) (2 ^ 21)) s

/-- UNMAP: accesses that begin from now on fault; pages still in use keep their backing until those accesses end (R256). -/
def unmapStep (wid : Nat) (s : State) : State :=
  s.placing wid 2 fun w s =>
    let l := placePages w.slot
    match firstBad l s.pageLent with
    | some i => s.endWb wid stMemFault i 0
    | none =>
      let busy := l.filter s.pageInUse
      let s := s.dropPages (l.filter fun n => (s.page n).isSome && !s.pageInUse n)
      if busy.isEmpty then s.endWb wid stOk 0 0
      else busy.foldl (fun s n => s.updPage n fun g => { g with gone := some wid }) s

/-- UNMAP (R256). -/
def execUnmap (wid : Nat) (s : State) : Host.Outcome State Fault Refusal := .next (unmapStep wid s)

/-- UNMAP_RELEASE: the last access begun before an UNMAP has ended, reads under a lease among them; the backing is released and the
Waybill's work is over (R222, R256). -/
def unmapReleaseStep (wid : Nat) (s : State) : State :=
  let l := (s.place.pages.filter fun g => g.gone = some wid).map (·.num)
  if l.isEmpty || l.any s.pageHeld then s
  else (((s.endLeases fun x => l.contains x.page).dropPages l).endWb wid stOk 0 0).pumpColls

/-- UNMAP_RELEASE (R256). -/
def execUnmapRelease (wid : Nat) (s : State) : Host.Outcome State Fault Refusal := .next (unmapReleaseStep wid s)

/-- HINT (R254, R257). -/
def hintStep (wid : Nat) (s : State) : State :=
  s.placing wid 3 fun w s =>
    let l := placePages w.slot
    match firstBad l fun n => (s.page n).isNone || s.pageLent n with
    | some i => s.endWb wid stMemFault i 0
    | none =>
      let c := decide (bitsN 8 8 (wArg w.slot 2) = 1)
      (l.foldl (fun s n => s.updPage n fun g => { g with cold := c }) s).endWb wid stOk 0 0

/-- HINT (R257). -/
def execHint (wid : Nat) (s : State) : Host.Outcome State Fault Refusal := .next (hintStep wid s)

/-- LEND: the checks, the lending, and the moves that make the pages resident (R254, R275, R278, R280). The requests of one that begins
after a fence of a home die complete with poison, and it lends nothing (R23, R483; DEDUCED, log entry 90). -/
def State.lending (s : State) (wid act : Nat) (mk : Nat → Nat → Lent) (same : Nat → Lent → Bool) : State :=
  s.placing wid act fun w s =>
    let l := placePages w.slot
    let off (i : Nat) : Nat := placeOff w.slot + i * 2 ^ 21
    let bad (x : Nat × Nat) : Bool := (s.page x.1).isNone || s.pageLent x.1 || s.place.pages.any fun g => same (off x.2) g.lent
    match l.zipIdx.find? bad with
    | some x => s.endWb wid stMemFault x.2 0
    | none =>
      if l.any fun n => s.fenced 2 (n % 4) then s.endWb wid stMemPoison 0 0
      else
      let t := l.zipIdx.foldl (fun s x => s.updPage x.1 fun g => { g with lent := mk (off x.2) (bitsN 9 8 (wArg w.slot 2)) }) s
      s.letIn w t State.lendsDone

/-- LEND_HOST (R275). -/
def lendHostStep (wid : Nat) (s : State) : State :=
  s.lending wid 4 (fun o _ => .host o) fun o x => match x with
    | .host p => decide (p = o)
    | _ => false

/-- LEND_HOST (R275). -/
def execLendHost (wid : Nat) (s : State) : Host.Outcome State Fault Refusal := .next (lendHostStep wid s)

/-- LEND_FABRIC (R278). -/
def lendFabricStep (wid : Nat) (s : State) : State :=
  s.lending wid 5 (fun o t => .fabric o t) fun o x => match x with
    | .fabric p _ => decide (p = o)
    | _ => false

/-- LEND_FABRIC (R278). -/
def execLendFabric (wid : Nat) (s : State) : Host.Outcome State Fault Refusal := .next (lendFabricStep wid s)

/-- Lines of a page that the host may hold (R276). -/
def State.heldLines (s : State) (n : Nat) : List Nat := s.place.snoop.filter fun l => l / 32768 = n

/-- RECLAIM: new host and peer accesses to the lent pages stop; lines that the host may hold are back-invalidated, and the
pages return when the host has answered. A page with nothing to wait for returns at once (R279). -/
def reclaimStep (wid : Nat) (s : State) : State :=
  s.placing wid 6 fun w s =>
    let lent := (placePages w.slot).filter s.pageLent
    let held := lent.filter fun n => !(s.heldLines n).isEmpty
    let s := (lent.filter fun n => (s.heldLines n).isEmpty).foldl (fun s n => s.updPage n fun g => { g with lent := .no }) s
    let s := held.foldl (fun s n =>
      (s.heldLines n).foldl (fun s l => s.put (.backInvalidate l)) (s.updPage n fun g => { g with taking := some wid })) s
    if held.isEmpty then s.endWb wid stOk 0 0 else s

/-- RECLAIM (R279). -/
def execReclaim (wid : Nat) (s : State) : Host.Outcome State Fault Refusal := .next (reclaimStep wid s)

/-- RECLAIM_DONE: the host has answered every back-invalidation; the pages return to placement (R279). -/
def reclaimDoneStep (wid : Nat) (s : State) : State :=
  let l := (s.place.pages.filter fun g => g.taking = some wid).map (·.num)
  if l.isEmpty then s
  else
    let s := l.foldl (fun s n => s.updPage n fun g => { g with lent := .no, taking := none }) s
    let s := { s with place := { s.place with snoop := s.place.snoop.filter (fun x => !l.contains (x / 32768)) } }
    s.endWb wid stOk 0 0

/-- RECLAIM_DONE (R279). -/
def execReclaimDone (wid : Nat) (s : State) : Host.Outcome State Fault Refusal := .next (reclaimDoneStep wid s)

/-- The quota and pool registers: memory-side die whose Surveyor block holds the register, partition, and pool number when
it is a pool register (R264, R290, R291). -/
def quotaReg (off : Nat) : Option (Nat × Nat × Option Nat) :=
  match regAt off with
  | none => none
  | some (r, i, j, k) =>
    if r.base = rSrvQuotaHbm 0 0 || r.base = rSrvQuotaSid 0 0 then some (i, j, none)
    else if [rSrvHostpoolLo 0, rSrvHostpoolHi 0, rSrvHostpoolPages 0].contains r.base then some (0, j, some 0)
    else if [rSrvFabpoolLo 0 0, rSrvFabpoolHi 0 0, rSrvFabpoolPages 0 0].contains r.base then some (0, j, some (1 + k))
    else none

/-- Do the quotas and the swap arena of a die exceed its usable pages in one tier (R264, R438)? -/
def State.arenaBad (s : State) (d : Nat) (hbm : Bool) : Bool :=
  if hbm then decide (s.hbmPages d < ((List.range 32).map fun q => s.fld (rSrvQuotaHbm d q) 19 0).sum + s.fld (rPrtSwapHbm d) 19 0)
  else decide (196608 < ((List.range 32).map fun q => s.fld (rSrvQuotaSid d q) 19 0).sum + s.fld (rPrtSwapSid d) 19 0)

/-- Is a quota or pool write refused (R264)? t is the state with the write made. -/
def State.quotaBad (s t : State) (off d p : Nat) (pool : Option Nat) : Bool :=
  (match pool with
   | none =>
     let hbm := decide (off = rSrvQuotaHbm d p)
     t.arenaBad d hbm
     || (!s.swapMode p && (if hbm then decide (t.fld off 19 0 < s.tierUse p d Place.isHbm)
          else decide (t.fld off 19 0 < s.tierUse p d Place.isSid)))
   | some i => decide (s.reg off ≠ t.reg off) && decide (0 < s.poolUse p i))
  || decide (t.shortfall p ≠ 0)

/-- QUOTA_WRITE (R264). -/
def quotaWriteStep (off : Nat) (w : Word) (s : State) : State :=
  if !s.barOpen off then s
  else match quotaReg off with
    | none => s
    | some (d, p, pool) =>
      let t := s.writeReg off w
      if !s.isSealed off && s.quotaBad t off d p pool then s.setFld (rSrvQuotaErr d) 0 0 1 else t

/-- QUOTA_WRITE (R264). -/
def execQuotaWrite (off : Nat) (w : Word) (s : State) : Host.Outcome State Fault Refusal := .next (quotaWriteStep off w s)

/-- POOL_FAULT_CLEAR: 1s written to SRV_POOL_FAULT clear bits, and those pools take moves again (R274). -/
def poolFaultClearStep (off : Nat) (w : Word) (s : State) : State :=
  if s.barOpen off && decide (rSrvPoolFault 0 ≤ off ∧ off < rSrvPoolFault 32) then s.writeReg off w else s

/-- POOL_FAULT_CLEAR (R274). -/
def execPoolFaultClear (off : Nat) (w : Word) (s : State) : Host.Outcome State Fault Refusal :=
  .next (poolFaultClearStep off w s)

/-- Is a place at or above a page's target tier (R266, R271)? -/
def Page.atTarget (g : Page) : Bool := g.place.isHbm || (g.cold && g.place.isSid)

/-- The move that brings a page to one of several places, given with the room that each has: the page's own move when there
is room, the victim's when it must go first. -/
def firstMove (g : Page) (cause : MoveCause) : List (Place × Room) → Option Move
  | [] => none
  | (t, .free) :: _ =>
    some { page := g.num, die := g.die, src := g.place, dst := t, cause := cause, switched := false, xfe := none, failed := none }
  | (_, .start v x) :: _ =>
    some { page := v, die := g.die, src := if x.isPool then .siding else .hbm, dst := x, cause := .victim, switched := false,
           xfe := none, failed := none }
  | (_, .wait) :: _ => none
  | (_, .none) :: r => firstMove g cause r

/-- Where a page that is not in place can go. -/
def State.homeward (s : State) (g : Page) : List (Place × Room) :=
  if g.cold then [(.siding, s.sidRoom g.part g.die)]
  else [(.hbm, s.hbmRoom g.part g.die), (.siding, s.sidRoom g.part g.die)]

/-- The move for a page that is asked for (R252, R266). A page without backing needs only room. -/
def State.demandMove (s : State) (g : Page) : Option Move :=
  match firstMove g .demand (s.homeward g) with
  | some m => if g.place = .none && m.page = g.num then none else some m
  | none => none

/-- The move of a page being lent (R275, R278). -/
def State.lendMove (s : State) (g : Page) : Option Move :=
  match g.lent with
  | .no => none
  | .host _ => if g.place.isSid then none else firstMove g .lend [(.siding, s.sidRoom g.part g.die)]
  | .fabric _ t =>
    if t = 1 then (if g.place.isHbm then none else firstMove g .lend [(.hbm, s.hbmRoom g.part g.die)])
    else if g.place.isSid then none else firstMove g .lend [(.siding, s.sidRoom g.part g.die)]

/-- The move of an intent's page (R271). -/
def State.intentMove (s : State) (g : Page) : Option Move :=
  if g.atTarget || g.place = .none then none
  else if g.place.isSid then firstMove g .intent [(.hbm, s.hbmRoom g.part g.die)]
  else firstMove g .intent (s.homeward g)

/-- The move of a page whose heat promotes it (R268). -/
def State.heatMove (s : State) (g : Page) : Option Move :=
  let free := decide (s.tierUse g.part g.die Place.isHbm < s.quotaHbm g.part g.die)
  let ok := free || (s.victim g.part g.die Place.isHbm true).any fun v => v.cold || decide (v.heat < g.heat)
  if ok then firstMove g .promote [(.hbm, s.hbmRoom g.part g.die)] else none

/-- Is a swap partition being written out (R434)? -/
def State.swappingOut (s : State) (p : Nat) : Bool := decide (s.sched.swapOwner = some p) && s.sched.swapRun.isSome

/-- Count a page that a swap-out moved, or failed to move. -/
def State.countSwap (s : State) (ok : Bool) : State :=
  { s with sched := { s.sched with swapRun := s.sched.swapRun.map fun x =>
      if ok then (x.1, x.2.1 + 1, x.2.2) else (x.1, x.2.1, x.2.2 + 1) } }

/-- The moves that a Surveyor would start, in the order of R269. Lent pages come with the demand returns, and the writing
out of a swap partition with them (DESIGN CHOICE, log entry 17). A page that an UNMAP has taken comes back for an access begun before
it (R256; DEDUCED, log entry 47). -/
def State.moveList (s : State) (d : Nat) : List Move :=
  let can (g : Page) : Bool := decide (g.die = d) && (s.moveOf g.num).isNone
  let free (g : Page) : Bool := can g && !g.busy && decide (g.lent = .no)
  let pages := s.place.pages
  let begun (g : Page) : Bool := g.gone.isSome && s.pageHeld g.num
  let demand := (s.place.demand.filterMap s.page).filter fun g =>
    (free g || (can g && begun g && g.taking.isNone && decide (g.lent = .no))) && !g.place.isLocal
  let lent := pages.filter fun g => can g && g.gone.isNone && g.taking.isNone && decide (g.lent ≠ .no)
  let swap := (pages.filter fun g => free g && g.place.isLocal && s.swappingOut g.part).filterMap fun g =>
    (s.poolPlace g.part).map fun x =>
      ({ page := g.num, die := d, src := g.place, dst := x, cause := .swapOut, switched := false, xfe := none, failed := none } : Move)
  let queued := s.place.intents.filter fun x => x.queued && decide (x.die = d)
  let before (a b : Intent) : Bool :=
    let (x, y) := (s.estimate a, s.estimate b)
    lexLt [x.1 * y.2, a.due, a.page] [y.1 * x.2, b.due, b.page]
  let ranked := sortBy before queued
  let intents := (ranked.filterMap fun x => s.page x.page).filter free
  let thr := s.fld (rSrvPromote d) 15 0
  let hot := sortBy (fun a b => decide (b.heat < a.heat))
    (pages.filter fun g => free g && g.place.isSid && !g.cold && decide (thr ≠ 0 ∧ thr ≤ g.heat))
  let cold := pages.filter fun g => free g && g.cold && g.place.isHbm
  demand.filterMap s.demandMove ++ lent.filterMap s.lendMove ++ swap ++ intents.filterMap s.intentMove
    ++ hot.filterMap s.heatMove ++ cold.filterMap fun g => firstMove g .background [(.siding, s.sidRoom g.part g.die)]

/-- Does a move go to or from a pool? -/
def Move.usesPool (m : Move) : Bool := m.src.isPool || m.dst.isPool

/-- Mark every line of a page. -/
def State.poisonPage (s : State) (n : Nat) : State := s.markAll ((List.range 32768).map fun i => n * 32768 + i) true

/-- A page held in a faulted pool comes back at its demand return without the pool being read, every line poisoned (R274). -/
def State.returnLost (s : State) (m : Move) : State := (s.pageAt m.page m.dst).poisonPage m.page

/-- The transactions of a move to or from a fabric pool wait to be sent, and what can be sent is (R311). -/
def State.moveTxns (s : State) (m : Move) : State :=
  let op := if m.dst.isFabric then 2 else 1
  if !(m.dst.isFabric || m.src.isFabric) then s
  else ({ s with vrl := { s.vrl with txns := s.vrl.txns ++ (List.range 8192).map fun i => s.moveTxn m op (256 * i) } }).pump

/-- A move starts (R262, R268, R269, R282, R324). -/
def State.startMove (s : State) (m : Move) : State :=
  let m := if m.usesPool then { m with xfe := s.moveXfe m.page } else m
  let key := TxnOwner.wid (.move m.page)
  let s := { s with vrl := { s.vrl with incs := s.vrl.incs.filter (fun x => x.1 ≠ key), failed := s.vrl.failed.filter (fun x => x.1 ≠ key) } }
  let s := if m.dst.isPool then { s with free := s.free + 1 } else s
  let s := if m.cause = .demand then s.bump (rSrvDemand m.die) 1 else s
  let s := if m.cause = .promote then s.bump (rSrvPromoted m.die) 1 else s
  let s := { s with place := { s.place with demand := s.place.demand.filter (· ≠ m.page) } }
  let lost := (s.page m.page).any fun g => match g.place.pool with
    | some i => s.poolFaulted g.part i
    | none => false
  if m.cause = .demand && lost then s.returnLost m
  else
    let s := { s with place := { s.place with moves := s.place.moves ++ [m] } }
    s.moveTxns m

/-- MOVE_START: with a move slot free, a Surveyor starts the first move of R269 that can start: at most four, two of them
with pools, for which an XFE must be had (R282). -/
def moveStartStep (d : Nat) (s : State) : State :=
  let mine := s.place.moves.filter fun m => m.die = d
  if 4 ≤ mine.length || s.fenced 2 d then s
  else
    let pools := (mine.filter Move.usesPool).length
    match (s.moveList d).find? fun m => !m.usesPool || (decide (pools < 2) && (s.moveXfe m.page).isSome) with
    | some m => s.startMove m
    | none => s

/-- MOVE_START (R269). -/
def execMoveStart (d : Nat) (s : State) : Host.Outcome State Fault Refusal := .next (moveStartStep d s)

/-- Change the moves on a page. -/
def State.updMove (s : State) (n : Nat) (f : Move → Move) : State :=
  { s with place := { s.place with moves := updIf (fun m => decide (m.page = n)) f s.place.moves } }

/-- A move to or from a pool fails. To a pool the page stays where it was; from a pool it is placed in its home die with every line
poisoned. The pool is marked, and POOL_FAULT is written. A page that a swap-out cannot write out is lost, and comes back poisoned
(R274, R434). status: that of the move (R288). -/
def State.failMove (s : State) (v : Move) (status : Nat) : State :=
  let n := v.page
  let p := n / 2 ^ 31
  let i := (if v.dst.isPool then v.dst.pool else v.src.pool).getD 0
  let leases := s.place.leases.map fun l => if l.page = n then { l with copy := false } else l
  let s := { s with place := { s.place with moves := s.place.moves.filter (fun m => m.page ≠ n), leases := leases } }
  let s := (s.vrl.txns.filter fun t => t.owner = .move n).foldl (fun s t => s.dropTxn t t.sent) s
  let s := if v.dst.isPool then s else (s.pageAt n v.dst).poisonPage n
  let s := if v.cause = .swapOut then ((s.updPage n fun g => { g with place := v.dst }).poisonPage n).countSwap false else s
  let s := s.setFld (rSrvPoolFault p) i i 1
  ((s.emit (ev 0x0201 lvBlock (some p) (srcOf 2 v.die) [if i = 0 then 1 else 2, i - 1, status, n * 2 ^ 21])).serveXfes).pumpColls

/-- Reads under a lease on a page have ended: those at the places l among the page's leases, in the order taken (R222). -/
def State.leasesOver (s : State) (n : Nat) (l : List Nat) : State :=
  let (mine, others) := s.place.leases.partition fun x => decide (x.page = n)
  let left := (mine.zipIdx.filter fun x => !l.contains x.2).map (·.1)
  { s with place := { s.place with leases := others ++ left } }

/-- Must a move with a pool wait for a demand return that its XFE serves first (R287)? -/
def State.behindReturn (s : State) (v : Move) : Bool := v.cause ≠ .demand && v.xfe.any s.xfeReturns

/-- MOVE_SWITCH: the copy has ended and the mapping changes to the destination in one step; leases taken before it and not ended by then
(c.ended tells which have) still hold the source (R222, R273). A demand return of the same XFE comes first (R287). Errors met by the copy are handled as R515 says, and lines that came back from a host pool with CXL data
poison are marked (R260, R554). A copy over the fabric has not ended while transactions of it are
outstanding or one has failed (R274, R311). One with a host pool fails when its route passes through a fenced die (R519). -/
def moveSwitchStep (n : Nat) (c : CopyRead) (s : State) : State :=
  let s := s.pump
  match s.moveOf n with
  | none => s
  | some v =>
    if v.switched || v.failed.isSome || s.behindReturn v || s.vrl.txns.any fun t => t.owner = .move n then s
    else if (v.src.pool = some 0 || v.dst.pool = some 0) && s.routeOut (2, v.die) (3, 0) then s.failMove v stMemFault
    else
      let s := s.leasesOver n c.ended
      let s := s.noteMarks c.marks 2 0xFFFFFFFF (srcOf 2 v.die) (some (n / 2 ^ 31))
      let s := if v.src.pool = some 0 then s.markAll ((c.bad.filter (· < 32768)).map fun i => n * 32768 + i) true else s
      let s := (s.updMove n fun v => { v with switched := true }).pageAt n v.dst
      let leases := s.place.leases.map fun l => if l.page = n then { l with before := true } else l
      let s := { s with place := { s.place with leases := leases } }
      let s := match v.xfe with
        | some i => s.bump64 (rXfeSrvBytesLo i) 2097152
        | none => s
      s.serveXfes.pumpColls

/-- MOVE_SWITCH (R222). -/
def execMoveSwitch (n : Nat) (c : CopyRead) (s : State) : Host.Outcome State Fault Refusal := .next ((moveSwitchStep n c s).seen)

/-- MOVE_DRAIN_END: the last lease taken before the switch has ended; the source is released, the move is counted and a pool
move's time is charged to the partition. Reads that began before the switch end with it (R222, R223, R421). -/
def moveDrainEndStep (n ns : Nat) (s : State) : State :=
  match s.moveOf n with
  | none => s
  | some v =>
    if !v.switched then s
    else
      let s := s.endLeases fun l => decide (l.page = n) && l.before
      let s := { s with place := { s.place with moves := s.place.moves.filter (fun m => m.page ≠ n) } }
      let s := s.bump64 (rSrvMovesLo v.die) 1
      let s := if v.cause = .swapOut then s.countSwap true else s
      (if v.usesPool then s.charge (n / 2 ^ 31) ns else s).pumpColls

/-- MOVE_DRAIN_END (R222). -/
def execMoveDrainEnd (n ns : Nat) (s : State) : Host.Outcome State Fault Refusal := .next (moveDrainEndStep n ns s)

/-- POOL_FAULT: a move to or from a pool fails: with a host pool on the host link (R554), with a fabric pool once a transaction of it
has failed and the others have ended (R274, R302, R317). The time that its XFE worked on it is charged to the partition (R421). -/
def poolFaultStep (n ns : Nat) (s : State) : State :=
  match s.moveOf n with
  | none => s
  | some v =>
    if v.switched || !v.usesPool then s
    else if !(v.dst.isFabric || v.src.isFabric) then (s.charge (n / 2 ^ 31) ns).failMove v stMemFault
    else match v.failed with
      | none => s
      | some st =>
        if s.vrl.txns.any fun t => t.owner = .move n then s else (s.charge (n / 2 ^ 31) ns).failMove v (fabStatus st)

/-- POOL_FAULT (R274). -/
def execPoolFault (n ns : Nat) (s : State) : Host.Outcome State Fault Refusal := .next (poolFaultStep n ns s)

/-- HEAT_DECAY: each page's heat on a die halves (R268). -/
def heatDecayStep (d : Nat) (s : State) : State :=
  { s with place := { s.place with pages := updIf (fun g => decide (g.die = d)) (fun g => { g with heat := g.heat / 2 }) s.place.pages } }

/-- HEAT_DECAY (R268). -/
def execHeatDecay (d : Nat) (s : State) : Host.Outcome State Fault Refusal := .next (heatDecayStep d s)

/-- The lent and exposed page at an HDM offset (R275, R277, R279). -/
def State.hdmPage (s : State) (off : Nat) : Option Page :=
  s.place.pages.find? fun g => decide (g.lent = .host (off / 2 ^ 21 * 2 ^ 21)) && !g.busy

/-- Record a line that the host may hold; a full filter first gives up the least recently recorded one (R276). -/
def State.snoopAdd (s : State) (l : Nat) : State :=
  let rest := s.place.snoop.filter (· ≠ l)
  if 8388608 ≤ rest.length then
    let s := { s with place := { s.place with snoop := rest.drop 1 ++ [l] } }
    match rest with
    | x :: _ => s.put (.backInvalidate x)
    | [] => s
  else { s with place := { s.place with snoop := rest ++ [l] } }

/-- HOST_HDM_ACCESS: a host access to the line at an HDM offset: served and tracked, or stray (R260, R276, R277). A host
write reaches the page at once (log entry 18). -/
def hostHdmAccessStep (off : Nat) (wr : Option (List Byte)) (beat : HdmBeat) (s : State) : State :=
  if !s.ready || !s.clk.trained || !bit 9 (s.reg rHifLinkStatus) then s
  else match s.hdmPage off with
    | none =>
      let s := s.bump rSrvHdmStray 1
      match wr with
      | none => s.put (.hdmData off (List.replicate 64 0) true)
      | some _ => s
    | some g =>
      let a := g.addr + off % 2 ^ 21
      let s := s.snoopAdd (a / 64)
      match wr with
      | none =>
        let s := s.noteMarks beat.marks 0 0xFFFFFFFF (srcOf 2 g.die) (some (addrPart a))
        let bad := s.poisoned a || s.outOf (3, 0) g.die || Marks.sramUe beat.marks
        let s := s.countPoison a 1
        s.put (.hdmData off (s.memRead (a / 64 * 64) 64) bad)
      | some bs => if s.outOf (3, 0) g.die then s else if beat.poison then s.memWritePoison a bs else s.memWrite a bs

/-- HOST_HDM_ACCESS (R276). -/
def execHostHdmAccess (off : Nat) (wr : Option (List Byte)) (beat : HdmBeat) (s : State) : Host.Outcome State Fault Refusal :=
  .next (hostHdmAccessStep off wr beat s).seen

end Sys2Proof.Machine
end

