-- ==== Sys2Proof/Machine/Partition.lean ====
section
/-! DEFINITION. The meanings of the partition commands, of semaphore and range writes, and of an instance that frees (R413 to
R439). -/

namespace Sys2Proof.Machine

open Sys2Proof

/-- A write of PRT_CMD with OP op for a partition: ignored with LOST while another command is in progress; otherwise its RESULT is
reported (R438). -/
def State.prtCmd (s : State) (op p : Nat) (f : State → Nat × State) : State :=
  s.byCmd rPrtCmd rPrtCmdStatus (fun w => bits 4 0 w = p && bits 10 8 w = op) fun s =>
    let (r, s) := f s
    s.setFld rPrtCmdStatus 7 4 r

/-- Offsets of the registers of a partition's block (R439). -/
def prtBlock (p : Nat) : List Nat := (List.range 16).map fun i => rPrtCfg p + 4 * i

/-- CREATE: a partition that is absent comes into being with its registers at reset (R415). -/
def createStep (p : Nat) (s : State) : State :=
  s.prtCmd 1 p fun s =>
    if 32 ≤ p || (s.part p).isSome then (1, s)
    else
      let x : Partn := { p := p, v := 0, rem := 0, useNs := 0, drvSusp := false, evict := none, evictPre := 0 }
      let s := s.resetRegs (prtBlock p)
      (0, { s with sched := { s.sched with parts := insertByKey (·.p) x s.sched.parts } })

/-- CREATE (R415). -/
def execCreate (p : Nat) (s : State) : Host.Outcome State Fault Refusal := .next (createStep p s)

/-- Is a ring of a partition attached, or a ring group of it enabled (R416)? -/
def State.partBusy (s : State) (p : Nat) : Bool :=
  (s.host.rings.any fun r => r.part = p) || s.host.groups.any fun g => s.fld (rRngGrpCfg g.g) 21 17 = p

/-- The steps of a REMOVE, in their order (R416). -/
def State.clearPart (s : State) (p : Nat) : State :=
  let s := { s with kv := { s.kv with views := s.kv.views.filter (fun v => v.part ≠ p) } }
  let s := (s.codec.ctxs.filter fun c => c.part = p).foldl (fun s c => s.loseCtx c 2 0) s
  let s := { s with eng := { s.eng with tables := s.eng.tables.filter (fun t => t.part ≠ p) } }
  let s := { s with kv := { s.kv with nodes := s.kv.nodes.filter (fun n => n.part ≠ p) } }
  let s := (List.range 64).foldl (fun s k => if s.fld (rVrlWinHi k) 20 16 = p then s.setFld (rVrlWinHi k) 31 31 0 else s) s
  let pages := s.place.pages.filter fun g => decide (g.num / 2 ^ 31 = p)
  let keep := s.place.snoop.filter fun l => addrPart (64 * l) ≠ p
  let s := (s.place.snoop.filter fun l => addrPart (64 * l) = p).foldl (fun s l => s.put (.backInvalidate l)) s
  let s := pages.foldl (fun s g => s.memClear g.addr 2097152) s
  let s := { s with place := { s.place with
    pages := s.place.pages.filter (fun g => g.num / 2 ^ 31 ≠ p), moves := s.place.moves.filter (fun m => m.page / 2 ^ 31 ≠ p),
    demand := s.place.demand.filter (fun n => n / 2 ^ 31 ≠ p), intents := s.place.intents.filter (fun x => x.page / 2 ^ 31 ≠ p),
    snoop := keep } }
  let s := (List.range (s.fld (rPrtSemCount p) 16 0)).foldl (fun s i => s.setSem (s.fld (rPrtSemBase p) 15 0 + i) 0) s
  let group (x : Nat × Word) : Bool :=
    decide (rRngGrpCfg 0 ≤ x.1 ∧ x.1 < rRngGrpCfg 1024) && (x.1 - rRngGrpCfg 0) % 32 = 0 && bits 21 17 x.2 = p
  let own (x : Nat × Word) : Bool := ((s.sealScope x.1).any (· = p)) || (prtBlock p).contains x.1 || decide (x.1 = rSrvPoolFault p)
    || group x
  let regs := s.regs.filter fun x => !own x
  let latched := s.latched.filter fun x => !own x
  let s := { s with regs := regs, latched := latched }
  let seals := s.sec.partSeals.filter fun x => x.1 ≠ p
  let s := { s with sec := { s.sec with partSeals := seals } }
  let s := s.setReg rSecPartSealed (s.reg rSecPartSealed &&& ~~~(w32 (2 ^ p)))
  { s with sched := { s.sched with
    parts := s.sched.parts.filter (fun x => x.p ≠ p), susps := s.sched.susps.filter (fun x => x.part ≠ p),
    takings := s.sched.takings.filter (fun x => x.part ≠ p) } }

/-- REMOVE: a partition without attached rings and enabled groups ceases to exist (R416). -/
def partitionRemoveStep (p : Nat) (s : State) : State :=
  s.prtCmd 2 p fun s =>
    if (s.part p).isNone then (1, s)
    else if s.partBusy p then (2, s)
    else (0, s.clearPart p)

/-- REMOVE of a partition (R416). -/
def execPartitionRemove (p : Nat) (s : State) : Host.Outcome State Fault Refusal := .next (partitionRemoveStep p s)

/-- EVICT: Waybills of the open Consists that have not started end with PREEMPTED, parked work resumes, and the command is done
when their END records are written (R427). -/
def evictStep (p : Nat) (s : State) : State :=
  (s.prtCmd 3 p fun s =>
    if (s.part p).isNone then (1, s)
    else if (s.openOf p).isEmpty then (0, s)
    else
      let cids := (s.openOf p).map (·.cid)
      let s := s.updPart p fun x => { x with evict := some cids, evictPre := 0 }
      let s := cids.foldl (fun s c => s.updConsist c fun c => { c with evicted := true }) s
      let idle := s.sched.wbs.filter fun w => cids.contains w.cid && (w.phase = .waiting || w.phase = .ready)
      let s := idle.foldl (fun s w => s.cancelWb w.wid stPreempted) s
      (0, s.setFld rPrtCmdStatus 0 0 1)).settle

/-- EVICT (R427). -/
def execEvict (p : Nat) (s : State) : Host.Outcome State Fault Refusal := .next (evictStep p s)

/-- Every engine of the device. -/
def State.allInsts (s : State) : List (EngKind × Nat) :=
  allKinds.flatMap fun k => (List.range (kindCount s.assy k)).map fun i => (k, i)

/-- SUSPEND: the driver suspends a partition on every instance (R422, R437). -/
def suspendStep (p : Nat) (s : State) : State :=
  (s.prtCmd 4 p fun s =>
    match s.part p with
    | none => (1, s)
    | some x =>
      if x.drvSusp then (0, s)
      else (0, (s.updPart p fun x => { x with drvSusp := true }).suspendOn p none s.allInsts)).settle

/-- SUSPEND (R422). -/
def execSuspend (p : Nat) (s : State) : Host.Outcome State Fault Refusal := .next (suspendStep p s)

/-- RESUME: a driver suspension ends (R425, R437). -/
def resumeStep (p : Nat) (s : State) : State :=
  (s.prtCmd 5 p fun s =>
    match s.part p with
    | none => (1, s)
    | some x =>
      if x.drvSusp then (0, (s.updPart p fun x => { x with drvSusp := false }).endSusps none (some p)) else (0, s)).settle

/-- RESUME (R425). -/
def execResume (p : Nat) (s : State) : Host.Outcome State Fault Refusal := .next (resumeStep p s)

/-- INSTANCE_FREE: an instance that is free passes to the work that ranks first (R418, R424, R425). -/
def instanceFreeStep (k : EngKind) (i : Nat) (s : State) : State :=
  if kindCount s.assy k ≤ i || s.fenced (dieOf k i).1 (dieOf k i).2 || !s.avail k i then s
  else
    (match k with
     | .xfe => s.serveXfe i
     | .cde => s.serveCde i
     | .cle => s.pumpColls
     | .gaz => s
     | _ => s.passInst k i).settleTakings

/-- INSTANCE_FREE (R418). -/
def execInstanceFree (kind : EngKind) (inst : Nat) (s : State) : Host.Outcome State Fault Refusal :=
  .next (instanceFreeStep kind inst s)

/-- SEM_SET: a write of PRT_SEM_VAL_HI sets the semaphore that PRT_SEM_SEL names, and its waiters are examined (R429, R438). -/
def semSetStep (w : Word) (s : State) : State :=
  if !s.barOpen rPrtSemValHi then s
  else
    let s := s.setReg rPrtSemValHi w
    (s.setSem (s.fld rPrtSemSel 15 0) (BitVec.ofNat 64 (s.reg64 rPrtSemValLo))).settle

/-- SEM_SET (R429). -/
def execSemSet (w : Word) (s : State) : Host.Outcome State Fault Refusal := .next (semSetStep w s)

/-- Ranges [b, b + n) that meet; an empty one meets none. -/
def semMeets (b n b' n' : Nat) : Bool := decide (0 < n ∧ 0 < n' ∧ b < b' + n' ∧ b' < b + n)

/-- SEM_RANGE_WRITE: a write of PRT_SEM_BASE or PRT_SEM_COUNT; one that R428 forbids is ignored and sets PRT_ERR.SEM_RANGE; an
accepted one zeroes the new range. -/
def semRangeWriteStep (off : Nat) (w : Word) (s : State) : State :=
  match (List.range 32).find? fun p => off = rPrtSemBase p || off = rPrtSemCount p with
  | none => s
  | some p =>
    if !s.barOpen off then s
    else
      let t := s.writeReg off w
      let b := t.fld (rPrtSemBase p) 15 0
      let n := t.fld (rPrtSemCount p) 16 0
      let clash := (List.range 32).any fun q => q ≠ p && semMeets b n (s.fld (rPrtSemBase q) 15 0) (s.fld (rPrtSemCount q) 16 0)
      if s.isSealed off then t
      else if clash || decide (65536 < b + n) || s.host.rings.any (fun r => r.part = p) then s.setFld rPrtErr 0 0 1
      else { t with sems := t.sems.filter (fun x => !decide (b ≤ x.1 ∧ x.1 < b + n)) }

/-- SEM_RANGE_WRITE (R428). -/
def execSemRangeWrite (off : Nat) (w : Word) (s : State) : Host.Outcome State Fault Refusal := .next (semRangeWriteStep off w s)

/-- MODE_WRITE: a write of PRT_CFG. One that sets MODE to 1 for a partition with quotas or lent pages is ignored, whatever MODE is, and a
MAX_OPEN above 64 leaves that field as it is (R432, R437). -/
def modeWriteStep (p : Nat) (w : Word) (s : State) : State :=
  if 32 ≤ p || !s.barOpen (rPrtCfg p) then s
  else
    let held := (List.range 4).any fun d => s.fld (rSrvQuotaHbm d p) 19 0 ≠ 0 || s.fld (rSrvQuotaSid d p) 19 0 ≠ 0
    let lent := s.place.pages.any fun g => g.part = p && g.lent ≠ .no
    let bad := bits 0 0 w = 1 && (held || lent) && !s.isSealed (rPrtCfg p)
    let v := if 64 < bits 14 8 w then setBits 14 8 w (s.fld (rPrtCfg p) 14 8) else w
    if bad then s.setFld rPrtErr 1 1 1 else (s.writeRegAs (rPrtCfg p) w v).examine

/-- MODE_WRITE (R432). -/
def execModeWrite (p : Nat) (w : Word) (s : State) : Host.Outcome State Fault Refusal := .next (modeWriteStep p w s)

/-- SHARE_WRITE: a write of PRT_SHARE; 0 is ignored, and an accepted write clears the remainder of V (R419, R437). -/
def shareWriteStep (p : Nat) (w : Word) (s : State) : State :=
  if 32 ≤ p || !s.barOpen (rPrtShare p) then s
  else if s.isSealed (rPrtShare p) then s.writeReg (rPrtShare p) w
  else if bits 15 0 w = 0 then s
  else (s.writeReg (rPrtShare p) w).updPart p fun x => { x with rem := 0 }

/-- SHARE_WRITE (R419). -/
def execShareWrite (p : Nat) (w : Word) (s : State) : Host.Outcome State Fault Refusal := .next (shareWriteStep p w s)

/-- PRT_CTR_CLR: PRT_USE, PRT_PREEMPTS and PRT_PREEMPT_MAX of a partition are set to 0 (R439). -/
def prtCtrClrStep (p : Nat) (s : State) : State :=
  if 32 ≤ p || !s.barOpen (rPrtCtrClr p) then s
  else (s.zeroRegs [rPrtPreempts p, rPrtPreemptMax p]).updPart p fun x => { x with useNs := 0 }

/-- PRT_CTR_CLR (R439). -/
def execPrtCtrClr (p : Nat) (s : State) : Host.Outcome State Fault Refusal := .next (prtCtrClrStep p s)

end Sys2Proof.Machine
end

