-- ==== Sys2Proof/Machine/Xfer.lean ====
section
/-! DEFINITION. The meanings of XFER, FILL, TIMESTAMP and the end of a piece (R32, R52, R282 to R287, R554). -/

namespace Sys2Proof.Machine

open Sys2Proof

/-- Start an XFER or FILL that passed its checks: cut it, give each piece its engine, and let idle engines begin; with no
engine to be had it completes with BLK_BUSY (R282, R285, R289). -/
def State.beginXfer (s : State) (w : Wb) (fill : Bool) : State :=
  let src := if fill then 0 else wArg w.slot 0
  let dst := if fill then wArg w.slot 0 else wArg w.slot 1
  let n := wArg w.slot 2
  let a := cutAddr fill (wSrcSpace w.slot) (wDstSpace w.slot) src dst
  let ps := (cutPieces a n).zipIdx.map fun (c : (Nat × Nat) × Nat) =>
    ({ wid := w.wid, idx := c.2, off := c.1.1, len := c.1.2, home := homeOf (a + c.1.1), xfe := none, run := false,
       sent := false, failed := false, late := [], lost := 0 } : Piece)
  match s.placePieces w.part [] ps with
  | none => s.endWb w.wid stBlkBusy 0 0
  | some ps =>
    let x : Xfer := { wid := w.wid, fill := fill, src := src, dst := dst, len := n, srcSpace := wSrcSpace w.slot,
                      dstSpace := wDstSpace w.slot, pieces := ps, unmoved := 0 }
    let first := ((ps.head?.bind (·.xfe)).map (engSrc .xfe)).getD 0
    let s := { s with place := { s.place with xfers := s.place.xfers ++ [x] } }
    let s := s.updWb w.wid fun w => { w with phase := .ready, kind := some .xfe, need := 0, src := first }
    let s := s.serveXfes
    match s.wb w.wid with
    | some w => if w.phase = .ready then s.preemptFor w .xfe else s
    | none => s

/-- XFER: copy ARG2 bytes from ARG0 to ARG1 (R284, R285). -/
def xferStep (wid : Nat) (s : State) : State :=
  match s.begin? wid opXfer with
  | none => s
  | some w => s.checked w fun s => s.beginXfer w false

/-- XFER (R284). -/
def execXfer (wid : Nat) (s : State) : Host.Outcome State Fault Refusal := .next (xferStep wid s)

/-- FILL: write ARG2 bytes of the pattern ARG1 from ARG0 (R286). -/
def fillStep (wid : Nat) (s : State) : State :=
  match s.begin? wid opFill with
  | none => s
  | some w => s.checked w fun s => s.beginXfer w true

/-- FILL (R286). -/
def execFill (wid : Nat) (s : State) : Host.Outcome State Fault Refusal := .next (fillStep wid s)

/-- TIMESTAMP: write the AON count as one 8-byte word (R32, R52). On the fabric the write is a transaction, and the Waybill
ends with its answer. -/
def timestampStep (wid : Nat) (s : State) : State :=
  match s.begin? wid opStamp with
  | none => s
  | some w =>
    match s.r53 w.part w.slot with
    | some st => s.endWb wid st 0 0
    | none =>
      let a := wArg w.slot 0
      let bs := leBytes 8 s.aon
      if wDstSpace w.slot = 0 then
        let (ok, s) := s.prepareFor wid 0 [] [(a, 8)]
        if !ok then s
        else
          let s := ((s.startWb w).writeBytes wid a bs false).2
          match s.wb wid with
          | some w => s.endWb wid (accStatus w stOk) 0 0
          | none => s
      else if wDstSpace w.slot = 1 then
        match s.takeIo with
        | (.failed, s) => (s.startWb w).endWb wid stMemFault 0 0
        | (_, s) => ((s.startWb w).put (.hostWrite a bs)).endWb wid stOk 0 0
      else
        let t : Txn := { tag := none, op := 2, dst := a / 2 ^ 48, inc := none, off := a % 2 ^ 48, len := 8, data := bs,
                         poison := 0, owner := .stamp wid, place := 0, sent := false, again := false, port := none, full := false }
        let s := s.startWb w
        ({ s with vrl := { s.vrl with txns := s.vrl.txns ++ [t] } }).pump

/-- TIMESTAMP (R52). -/
def execTimestamp (wid : Nat) (io : List IoRes) (s : State) : Host.Outcome State Fault Refusal :=
  .next (withIo io (timestampStep wid) s).served

/-- What a piece reads of host memory: behind a fenced relay die every line is poisoned (R519). -/
def State.hostSeen (s : State) (x : Xfer) (q : Piece) (host : BytesRead) : BytesRead :=
  if !s.hostOut q then host
  else match host with
    | .ok bs => .poisoned bs (linesOf (x.src + q.off) q.len)
    | .poisoned bs _ => .poisoned bs (linesOf (x.src + q.off) q.len)
    | .failed => .failed

/-- The copy of a piece whose two sides are device or host memory, or that reads the host for a fabric destination. -/
def State.copyPiece (s : State) (x : Xfer) (q : Piece) (pattern : Nat) (host : BytesRead) : State :=
  s.asDie q.die fun s =>
  let (hostIn, s) := if x.dstSpace = 1 && x.srcSpace ≠ 2 then s.takeIo else (IoRes.ok, s)
  let lost := hostIn = .failed || (!x.fill && x.srcSpace = 1 && host = .failed)
  if lost then
    ((s.updWb x.wid fun w => { w with linkBad := true }).updPiece x.wid q.idx fun q => { q with failed := true }).leftOut x q q.off q.len
  else
    let runs := s.sourceRuns x pattern q.off q.len (s.hostSeen x q host)
    let s := (x.reads q).foldl (fun s r => s.noteRead x.wid r.1 r.2) s
    let s := if runs.any (·.2) then s.notePoison x.wid else s
    let s := if !x.fill && x.srcSpace = 1 && s.hostOut q then s.noteWay x.wid q.hostWay else s
    s.deliver x q q.off runs

/-- XFER_PIECE_DONE: a piece has moved its bytes, within ns of engine time; a piece that still waits for pages, for answers from the
fabric, or behind a demand return on its engine is not over (R252, R285, R287, R311, R421, R554). -/
def xferPieceDoneStep (wid idx ns : Nat) (host : BytesRead) (m : Marks) (s : State) : State :=
  match s.wb wid, (s.launch wid idx).xferOf wid with
  | some w, some x =>
    match x.piece idx with
    | none => s
    | some q =>
      if !q.run || q.xfe.any s.xfeReturns then s
      else
        let s := s.launch wid idx
        let (ok, s) := s.readyFor x q
        if !ok then s
        else if s.vrl.txns.any fun t => t.owner = .piece wid idx then s
        else
          let src := (q.xfe.map (engSrc .xfe)).getD 0
          let s := s.noteMarks m 0 w.ring src (some w.part)
          let s := if Marks.sramUe m then s.notePoison wid else s
          let host := s.hostSeen x q host
          let hostToFabric := !x.fill && x.srcSpace = 1 && x.dstSpace = 2
          if hostToFabric && !q.sent && !q.failed && host ≠ .failed then
            let s := s.updPiece wid idx fun q => { q with sent := true }
            let cut (o n : Nat) : BytesRead := match host with
              | .ok bs => .ok ((bs.drop o).take n)
              | .poisoned bs bad => .poisoned ((bs.drop o).take n) bad
              | .failed => .failed
            let s := match host with
              | .poisoned _ _ => if s.hostOut q then s.noteWay wid q.hostWay else s.notePoison wid
              | _ => s
            (s.addTxns x q 2 x.dst 0 cut).pump
          else
            let local2 := x.dstSpace ≠ 2 && (x.fill || x.srcSpace ≠ 2)
            let lostHost := hostToFabric && !q.sent
            let s := if local2 then s.asBegun x q fun s => s.copyPiece x q (wArg w.slot 1) host
              else if lostHost || (x.dstSpace = 1 && s.takeIo.1 = .failed) then
                ((s.updWb wid fun w => { w with linkBad := true }).updPiece wid idx fun q => { q with failed := true }).leftOut x q q.off q.len
              else s
            let lost : Nat := (((s.xferOf wid).bind fun x => x.piece idx).map (·.lost)).getD 0
            let s := match q.xfe with
              | some i => s.bump64 (rXfeBytesLo i) (q.len - lost)
              | none => s
            (s.chargeWb wid ns).endPiece wid idx
  | _, _ => s

/-- XFER_PIECE_DONE (R285). -/
def execXferPieceDone (wid idx ns : Nat) (host : BytesRead) (m : Marks) (io : List IoRes) (s : State) :
    Host.Outcome State Fault Refusal := .next ((withIo io (xferPieceDoneStep wid idx ns host m) s).seen)

end Sys2Proof.Machine
end

