-- ==== Sys2Proof/Machine/ResetOps.lean ====
section
/-! DEFINITION. Shared operations of resets and fences: what a reset of each kind clears and ends (R468 to R470), the assertion of a
reset (R471 to R475), and a fence with what it stops (R23, R481 to R483). -/

namespace Sys2Proof.Machine

open Sys2Proof

/-! ### What stopped work had yet to write -/

/-- The tiles that an engine of a run has yet to write. -/
def restTiles (c : RunCtx) (x : RunInst) : List (List Nat) :=
  ((x.tiles.filter fun t => t.draining).map (·.digits))
  ++ (((List.range (x.hi - x.pos)).map fun k => digs c (x.pos + k)).filter fun ds => finishesTile c.h c.ls c.counts ds && !dead c ds)
  ++ (if ttSparse c.ls then ((List.range (x.outerEnd - x.outer)).filterMap fun k => zeroTile c (x.outer + k)).filter fun ds => !dead c ds
      else [])

/-- The C that an engine of a run has yet to write (R518). -/
def restC (r : Run) (x : RunInst) : List (Nat × Nat) := natRanges ((restTiles (ctxOf r) x).flatMap (tileC (ctxOf r)))

/-- The statistics that it has yet to write. -/
def restStats (r : Run) (x : RunInst) : List (Nat × Nat) := natRanges ((restTiles (ctxOf r) x).flatMap (tileStats (ctxOf r)))

/-- Where the picture of a codec command goes: its frame buffer, and the bitstream of an ENCODE. -/
def State.pictureOut (s : State) (r : CdRun) : List (Nat × Nat) :=
  match s.wb r.wid, s.ctx r.ctx with
  | some w, some c =>
    let b := s.memRead (wArg w.slot 0) 64
    let enc := cpEncode c.params
    let t := if enc then rdN b 0x28 1 else rdN b 0x18 1
    bufExtent c.params (c.bufs.getD t (0, 0, 0)) :: (if enc then [(rdN b 0x18 8, rdN b 0x20 4)] else [])
  | _, _ => []

/-- Everything that running work had yet to write when a HOST reset stops it (R469). -/
def State.unwritten (s : State) : List (Nat × Nat) :=
  (s.eng.runs.flatMap fun r => (r.insts.filter fun x => x.started && !x.done).flatMap fun x => restC r x ++ restStats r x)
  ++ ((s.place.xfers.filter fun x => (s.wb x.wid).any fun w => decide (w.phase = .running)).flatMap fun x => x.pieces.flatMap x.writes)
  ++ ((s.colls.list.filter fun c => c.opened).flatMap fun c => c.buffers.2)
  ++ (s.codec.cdes.flatMap fun c => (c.run.toList ++ c.asides).flatMap fun r =>
        s.pictureOut r ++ ((s.wb r.wid).map fun w => (wArg w.slot 0 + 0x40, 192)).toList
          ++ ((s.ctx r.ctx).map fun x => (x.save, x.saveSize)).toList)
  ++ ((s.kv.jobs.filter fun j => (s.wb j.wid).any fun w => decide (w.phase = .running)).flatMap fun j =>
        ((s.wb j.wid).map fun w => (wArg w.slot 0 + 64 * j.next, 64 * (j.count - j.next))).toList
          ++ (j.descs.drop j.next).flatMap fun d => ((s.wb j.wid).map fun w => (s.kvTouches w.part d).2).getD [])

/-- Bytes of placed memory become unspecified (log entry 5). -/
def State.blur1 (s : State) (a n : Nat) : State :=
  (pageSlices a n).foldl (fun s x =>
    if (s.page (pageOf x.1)).any fun g => g.place.isLocal then
      let (bs, s) := s.freeBytes x.2
      s.memStore x.1 bs
    else s) s

/-! ### What each kind of reset clears (R468) -/

/-- Registers of the Vrela ports but VRL_PORT_CTL (R332). -/
def portRegs (off : Nat) : Bool := decide (0x3000000 ≤ off ∧ off < 0x4000000 ∧ off % 0x400000 < 0x1900 ∧ off % 0x100 ≠ 0)

/-- The host interface's window but HIF_LINK_STATUS (R77). -/
def hostRegs (off : Nat) : Bool := decide (0x100000 ≤ off ∧ off < 0x200000 ∧ off ≠ rHifLinkStatus)

/-- ERR_FATAL and ERR_FATAL_TIME, which a DEVICE reset keeps (R520). -/
def fatalRegs (off : Nat) : Bool := off = rErrFatal || off = rErrFatalTimeLo || off = rErrFatalTimeHi

/-- The registers of the seals (R504, R505). -/
def sealRegs (off : Nat) : Bool := decide (rSecSealCmd ≤ off ∧ off ≤ rSecRwlAddr)

/-- Registers that a DEVICE reset clears. -/
def deviceRegs (off : Nat) : Bool :=
  decide ((0x100000 ≤ off ∧ off < 0x300000) ∨ 0x1000000 ≤ off) || (decide (0x500000 ≤ off ∧ off < 0x600000) && !fatalRegs off) || sealRegs off

/-- Registers that the AON logic keeps through every reset but POWER_ON (R451, R488). -/
def aonRegs (off : Nat) : Bool := decide ((rRstCause ≤ off ∧ off ≤ rRstLockfail) ∨ (rRstHist 0 ≤ off ∧ off ≤ rRstHist 7)) || off = rPwrTrip

/-- Return the registers that a test picks to their reset values. -/
def State.dropRegs (s : State) (p : Nat → Bool) : State :=
  let regs := s.regs.filter fun x => !p x.1
  let latched := s.latched.filter fun x => !p x.1
  { s with regs := regs, latched := latched }

/-- The function's own state on the link: CXL.cache and CXL.mem are off (R468). -/
def State.dropFunction (s : State) : State :=
  let s := s.setFld rHifLinkStatus 11 10 0
  { s with host := HostIf.reset, pins := { s.pins with cfg := [] } }

/-- Accepted Consists, running work, Timetable copies, codec contexts and collectives end, with no record or event (R468, R469). -/
def State.endWork (s : State) : State :=
  let insts := s.sched.insts.filter fun x => decide (x.2 = .selfTest ∨ x.2 = .resetting)
  let parts := s.sched.parts.map fun (x : Partn) => { x with drvSusp := false, evict := none, evictPre := 0 }
  let pages := s.place.pages.map fun (g : Page) => { g with gone := none, taking := none }
  let views := s.kv.views.map fun (v : View) => { v with closing := none }
  let moving (t : Txn) : Bool := match t.owner with
    | .move _ => true
    | _ => false
  let kept := s.vrl.txns.filter moving
  let ended := s.vrl.txns.filter fun t => !moving t
  let peers := s.vrl.peers.map fun (p : Peer) => { p with out := (kept.filter fun t => decide (t.dst = p.ep) && t.tag.isSome).length }
  let quar := s.vrl.quar ++ ((ended.filter fun t => t.sent).filterMap (·.tag))
  let s := { s with
    sched := { s.sched with parts := parts, consists := [], wbs := [], insts := insts, susps := [], takings := [],
                            swapOwner := none, swapWait := [], swapRun := none },
    place := { s.place with pages := pages, demand := [], intents := [], reports := [], leases := [], xfers := [], dropped := [],
                            placeQ := [], begun := [], serving := [], via := none },
    kv := { s.kv with views := views, jobs := [] },
    eng := { s.eng with runs := [], copies := [], notices := [] },
    vrl := { s.vrl with txns := kept, quar := quar, peers := peers, incs := s.vrl.incs.filter (fun x => decide (2 ^ 64 ≤ x.1)),
                        failed := s.vrl.failed.filter (fun x => decide (2 ^ 64 ≤ x.1)) },
    colls := { list := [], owed := [], full := [] },
    codec := { s.codec with ctxs := [], cdes := [] },
    pwr := { s.pwr with predicts := [] } }
  s.setFld rPrtCmdStatus 0 0 0

/-- A recovery transfer over CXL ends with the link; one that had begun to write and is not over leaves the flash spoilt (R497, R498). -/
def State.endUpdate (s : State) (all : Bool) : State :=
  match s.sec.update with
  | none => s
  | some u =>
    if u.pldm && !all then s
    else
      let s := { s with sec := { s.sec with update := none, spoilt := s.sec.spoilt || u.headOk } }
      if u.pldm then s else s.setFld rSecRcvStatus 0 0 0

/-- HOST reset (R469). -/
def State.clearHost (s : State) : State :=
  let s := s.unwritten.foldl (fun s x => s.blur1 x.1 x.2) s
  ((s.endWork.dropFunction).dropRegs hostRegs).endUpdate false

/-- Slices that a fence or a reset interrupts fall due again at once (R528). -/
def State.dueAgain (l : List SliceRun) : List Due := l.map fun x => { kind := x.kind, inst := x.inst, slice := x.slice, overdue := false }

/-- DEVICE reset (R468). A fence ends with it: every domain of the dies is reset (DEDUCED, log entry 24). -/
def State.clearDevice (s : State) : State :=
  let s := (((s.endWork.dropFunction).dropRegs deviceRegs).endUpdate false).setFld rRstDieStatus 0 0 0
  let s := s.setFld rRstBlockStatus 0 0 0
  { s with
    mem := [], marks := [], sems := [],
    sched := { Sched.reset with nextWid := s.sched.nextWid, nextCid := s.sched.nextCid, nextRes := s.sched.nextRes },
    place := Placing.reset,
    kv := { views := [], nodes := [], jobs := [] },
    eng := { runs := [], copies := [], thd := [], checks := [], tables := [], notices := [], ovfEpoch := [], laneTold := false },
    vrl := { Vrela.reset with inc := s.vrl.inc },
    pins := { s.pins with ideSkid := false },
    pwr := { s.pwr with ballast := [] },
    clk := { s.clk with fenced := [], restart := none, trained := false },
    sec := { s.sec with devSeal := none, partSeals := [], violMark := 0, ideKeys := [],
                        spdm := s.sec.spdm.filter (fun x => x.transport ≠ 1) },
    err := { Errors.reset with cycleAt := s.aon, due := State.dueAgain s.err.slices } }

/-- CHIP reset (R468): the firmware will boot again. -/
def State.clearChip (s : State) : State :=
  let s := (s.clearDevice.endUpdate true).dropRegs fun off => decide (0x300000 ≤ off ∧ off < 0x600000) && !aonRegs off
  { s with
    pwr := Power.reset,
    clk := { s.clk with booted := false, kept := [] },
    sec := { s.sec with fw := none, recovery := false, aliasGone := false, update := none, challenge := none, failsNow := 0,
                        lockout := false, spdm := [] } }

/-- POWER_ON reset: nothing is left but fuses and flash (R468, R489, R490), and what the model keeps for itself. -/
def State.clearAll (s : State) : State :=
  let t := s.clearChip
  { State.reset with
    err := { Errors.reset with due := t.err.due },
    assy := t.assy, pending := t.pending, free := t.free, io := t.io, out := t.out, pins := t.pins,
    vrl := { Vrela.reset with inc := t.vrl.inc },
    sec := { Sec.reset with secret := t.sec.secret, vkd := t.sec.vkd, svnFuse := t.sec.svnFuse, uid := t.sec.uid,
                            dbgOff := t.sec.dbgOff, flash := t.sec.flash, spoilt := t.sec.spoilt, certs := t.sec.certs } }

/-- INC is drawn: never 0, never what it was (R313). -/
def State.drawInc (s : State) : State :=
  let (bs, s) := s.drawBytes 2
  let old := s.vrl.inc
  let r := leNat bs
  let new := if old = 0 then 1 + r % 65535 else if 1 + r % 65534 < old then 1 + r % 65534 else 2 + r % 65534
  { s with vrl := { s.vrl with inc := new } }

/-- FABRIC reset: outstanding transactions end as for a departed peer, collectives stall and pool moves fail; every port goes down with cause
DISABLED and is cleared, and trains again while EN is 1; the block reset of a port ends (R314, R468, R470, R475, R485). -/
def State.clearFabric (s : State) (source : Nat) : State :=
  let txns := (s.vrl.txns.filter fun t => t.tag.isSome)
  let colls := (s.colls.list.filter fun c => c.opened)
  let s := s.failTxns txns 0x1FE
  let s := colls.foldl (fun s c =>
    let (k, s) := s.drawNat
    s.stallColl c.wid (k % max 1 c.table.length) 2 0) s
  let lost := s.place.moves.filter fun m => !m.switched && (decide ((m.dst.pool.getD 0) ≠ 0) || decide ((m.src.pool.getD 0) ≠ 0))
  let s := lost.foldl (fun s m => s.failMove m stFabGone) s
  let s := (s.vrl.ports.filter fun p => p.en && decide (p.state ≠ 5 ∧ p.state ≠ 6)).foldl (fun s p => s.portDown p.n 1) s
  let s := s.dropRegs portRegs
  let ports := s.vrl.ports.map fun (p : Port) =>
    { newPort p.n (if p.state = 6 then 6 else if p.en then 3 else 0) with en := p.en, cause := 1 }
  let s := if bit 0 (s.reg rRstBlockStatus) && decide (bits 15 12 (s.reg rRstBlock) = 10) then s.setFld rRstBlockStatus 0 0 0 else s
  let s := { s with vrl := { s.vrl with peers := [], ep := 0, fabric := 0, loop := [], mgtOrder := [], ports := ports },
                    colls := { s.colls with owed := [], full := [] } }
  ((s.drawInc).emit (ev 0x0603 lvChip none 0 [source, txns.length, colls.length])).pump.settle

/-! ### Assertion -/

/-- Domains that a reset of a kind clears, AON apart (R463). -/
def resetScope (a : Assembly) (kind : Nat) : List Nat :=
  (asmDomains a).filter fun d => if kind = 3 then decide (3 ≤ d) else decide (1 ≤ d)

/-- A new entry 0 of RST_HIST (R474, R488). -/
def State.histEntry (s : State) (source kind : Nat) : State :=
  let old := (List.range 7).map fun i => s.reg (rRstHist i)
  let s := old.zipIdx.foldl (fun s x => s.setReg (rRstHist (x.2 + 1)) x.1) s
  s.setReg (rRstHist 0) (w32 (source % 32 + kind % 8 * 256 + (s.reg rRstCount).toNat % 65536 * 65536))

/-- A reset is asserted: it is recorded, and what its kind clears is cleared (R468, R474). From here the domains in scope are in
reset and their PLLs start (R477), but for those that recovery keeps in reset (R495). -/
def State.takeReset (s : State) (source kind : Nat) (held : Bool) : State :=
  let esc := s.fld rRstDieStatus 7 4 = 3
  let holds := (if kind = 5 then [] else (s.clk.run.map (·.holds)).getD []) ++ (if held then [source] else [])
  let stuck := kind ≠ 5 && s.clk.run.any fun r => r.stuck
  let s : State := match kind with
    | 1 => s
    | 2 => s.clearHost
    | 3 => s.clearDevice
    | 4 => s.clearChip
    | _ => s.clearAll
  let s := if kind = 5 then s else (s.bump rRstCount 1).histEntry source kind
  let s := (s.setReg rRstCause (w32 (source + 256 * kind))).setReg64 rRstTimeLo s.aon
  let s := if esc && kind ≠ 5 then s.setFld rRstDieStatus 7 4 3 else s
  if kind = 1 then s.clearFabric source
  else if kind = 2 then s
  else
    let scope := (resetScope s.assy kind).filter fun d => !s.clk.kept.contains d
    let r : RstRun := { kind := kind, holds := holds, scope := scope, inReset := scope, locked := [], failed := [], start := s.aon,
                        lastRel := s.aon, trip := if source = 4 then s.aon else ((s.clk.run.map (·.trip)).getD 0), stuck := stuck }
    let s := ((s.setFld rRstStatus 0 0 0).setReg rRstLockfail 0).setReg rHifLinkStatus 0
    let s := (s.setReg rClkRun (s.reg rClkRun &&& ~~~(maskOf scope))).setReg rClkLocking (maskOf scope)
    let s := s.setFld rPwrValve 10 0 1000
    ({ s with clk := { s.clk with run := some r } }).put (.pin 17 0)

/-- Recovery keeps the memory-side and compute dies in reset: their domains do not leave it, or go back into it (R495; DEDUCED, log entry
66). -/
def State.keepDies (s : State) : State :=
  let ds := (asmDomains s.assy).filter fun d => (domainDie d).any fun x => decide (x.1 ≤ 2) && !s.fenced x.1 x.2
  let run := s.clk.run.bind fun r =>
    let left := r.inReset.filter fun d => !ds.contains d
    if left.isEmpty then none else some { r with inReset := left }
  let off := ~~~(maskOf ds)
  ({ (s.setReg rClkRun (s.reg rClkRun &&& off)).setReg rClkLocking (s.reg rClkLocking &&& off) with
    clk := { s.clk with run := run, kept := ds } })

/-- A good image boots from recovery: the dies that were kept in reset are released as R477 and R478 say (DEDUCED, log entry 66). -/
def State.freeDies (s : State) : State :=
  let ds := s.clk.kept
  if ds.isEmpty then s
  else
    let r : RstRun := s.clk.run.getD { kind := 4, holds := [], scope := [], inReset := [], locked := [], failed := [], start := s.aon,
                                       lastRel := s.aon, trip := 0, stuck := false }
    let r : RstRun := { r with scope := r.scope ++ ds, inReset := r.inReset ++ ds, start := s.aon, lastRel := s.aon }
    { s.setReg rClkLocking (s.reg rClkLocking ||| maskOf ds) with clk := { s.clk with run := some r, kept := [] } }

/-- A source of a reset asserts: a larger kind than one under way restarts the assertion, an equal or smaller one is absorbed
(R475). -/
def State.assertReset (s : State) (source kind : Nat) (held : Bool) : State :=
  match s.clk.run with
  | none => s.takeReset source kind held
  | some r =>
    if r.kind < kind || kind = 5 then s.takeReset source kind held
    else
      let holds := if held && !r.holds.contains source then r.holds ++ [source] else r.holds
      let trip := if source = 4 then s.aon else r.trip
      ({ s with clk := { s.clk with run := some { r with holds := holds, trip := trip } } }).histEntry source kind

/-! ### Fences -/

/-- Blocks of a die that State.err.badUnits may hold. -/
def unitsOf (kind die : Nat) : List (Nat × Nat) := if kind = 2 then [(0, die), (1, die)] else if kind = 1 then [(2, die)] else []

/-- Clock domains of a die (R463). -/
def dieDomains (kind die : Nat) : List Nat :=
  match kind with
  | 1 => [5 + die, 9 + die]
  | 2 => [13 + die, 17 + die]
  | _ => [21 + die]

/-- A Waybill is lost with a die (R483). -/
def State.loseWb (s : State) (wid kind die src : Nat) : State := (s.unreserve wid).endWb wid stDieLost (srcOf kind die) src

/-- A run stops on every engine; no partial tile is written (R138). -/
def State.stopRun (s : State) (r : Run) : State :=
  let s := r.insts.foldl (fun s x => if x.done then s else s.setUse r.kind x.inst none) s
  let s := s.updRun r.wid fun r => { r with insts := r.insts.map (fun x => { x with done := true, tiles := [] }), unplaced := [] }
  let gone := s.eng.notices.filter fun n => !(decide (r.kind = .mxe) && r.insts.any fun x => x.inst = n.inst)
  ({ s with eng := { s.eng with notices := gone } }).dropCopies r.wid

/-- The Waybills that run have met the fence of a die (R483). -/
def State.cutBy (s : State) (kind die : Nat) : State :=
  let wbs := updIf (fun (w : Wb) => decide (w.phase = .running)) (fun (w : Wb) => { w with cut := addOnce (srcOf kind die) w.cut }) s.sched.wbs
  { s with sched := { s.sched with wbs := wbs } }

/-- What stops with a compute die. Routes through it fail from now on (R519). -/
def State.fenceCompute (s : State) (die : Nat) : State :=
  let s := s.cutBy 1 die
  let here (r : Run) : Bool := r.insts.any fun x => !x.done && decide ((dieOf r.kind x.inst).2 = die)
  let s := (s.eng.runs.filter here).foldl (fun s r => (s.stopRun r).loseWb r.wid 1 die (((s.wb r.wid).map (·.src)).getD 0)) s
  let wbs := s.sched.wbs.map fun (w : Wb) =>
    match w.kind with
    | some k => if (dieOf k 0).1 = 1 && w.resSince.isSome then { w with held := w.held.filter (fun i => (dieOf k i).2 ≠ die) } else w
    | none => w
  let s := { s with sched := { s.sched with wbs := wbs } }
  let moved := s.eng.runs.filter fun r => decide (r.recv = die) && r.insts.isEmpty
  let other := ((List.range 4).find? fun d => !s.fenced 1 d).getD die
  let copies := s.eng.copies.filter fun c => c.die ≠ die
  let notices := s.eng.notices.filter fun n => n.inst / 4 ≠ die
  let checks := s.eng.checks.filter fun c => c.die ≠ die
  let s := { s with eng := { s.eng with copies := copies, notices := notices, checks := checks } }
  let s := moved.foldl (fun s r => (s.updRun r.wid fun r => { r with recv := other }).copyFor other r.wid) s
  let hot := s.pwr.hot.filter fun h => h.die ≠ die
  let sensor := s.pwr.sensor.filter (· ≠ die)
  let ballast := s.pwr.ballast.filter fun b => b.mxe / 4 ≠ die
  let steps := s.pwr.steps.set die 0
  { s with pwr := { s.pwr with steps := steps, hot := hot, sensor := sensor, ballast := ballast } }

/-- The pieces of a transfer that lie at the XFEs of a fenced die: the Waybill is lost when one runs, and otherwise they go to other
XFEs (R23, R283, R483). -/
def State.fenceXfer (s : State) (die : Nat) (x : Xfer) : State :=
  let at2 (q : Piece) : Bool := q.xfe.any fun i => decide (i / 2 = die)
  if !x.pieces.any at2 then s
  else
    let drop (s : State) : State :=
      let s := x.pieces.foldl (fun s q => match q.xfe with
        | some i => if q.run then s.setUse .xfe i none else s
        | none => s) s
      let s := (s.vrl.txns.filter fun t => t.owner.wid = x.wid).foldl (fun s t => s.dropTxn t true) s
      { s with place := { s.place with xfers := s.place.xfers.filter (fun y => y.wid ≠ x.wid) } }
    match s.wb x.wid with
    | none => s
    | some w =>
      if x.pieces.any fun q => at2 q && q.run then (drop s).loseWb x.wid 2 die w.src
      else match s.placePieces w.part (x.pieces.filter fun q => !at2 q) (x.pieces.filter at2) with
        | some ps => s.updXfer x.wid fun x => { x with pieces := sortByKey (·.idx) ps }
        | none => if w.phase = .running then (drop s).loseWb x.wid 2 die w.src else s.cancelWb x.wid stBlkBusy

/-- What stops with a memory-side die. A LEND that waits for pages of it is lost (R23, R483). -/
def State.fenceMemory (s : State) (die : Nat) : State :=
  let s := s.cutBy 2 die
  let s := s.place.xfers.foldl (fun s x => s.fenceXfer die x) s
  let s := (s.kv.jobs.filter fun j => j.gaz = die).foldl (fun s j =>
    match s.wb j.wid with
    | none => s
    | some w =>
      if w.phase = .running then
        ({ s with kv := { s.kv with jobs := s.kv.jobs.filter (fun y => y.wid ≠ j.wid) } }).loseWb j.wid 2 die (engSrc .gaz die)
      else match s.kvPlace w with
        | some g => s.updJob j.wid fun j => { j with gaz := g }
        | none => s) s
  let c := s.cde die
  let cmds := (c.run.toList.map fun r => (r.wid, r.ctx)) ++ (c.asides.map fun r => (r.wid, r.ctx)) ++ c.queue.map fun q => (q.wid, q.ctx)
  let s := s.setCde { c with queue := [], run := none, asides := [] }
  let s := cmds.foldl (fun s x => s.loseWb x.1 2 die (engSrc .cde die)) s
  let s := (s.codec.ctxs.filter fun x => x.cde = die).foldl (fun s x => s.loseCtx x 1 (cmds.filter fun y => y.2 = x.id).length) s
  let s := (s.sched.wbs.filter fun w => decide (w.phase = .running ∧ wOpcode w.slot = opPlace) && (placeAct w.slot = 4 || placeAct w.slot = 5)
      && (placePages w.slot).any fun n => n % 4 = die && (s.page n).any fun g => g.busy).foldl (fun s w => s.loseWb w.wid 2 die 0) s
  let s := (s.vrl.txns.filter fun t => match t.owner with
    | .move n => n % 4 = die
    | _ => false).foldl (fun s t => s.dropTxn t t.sent) s
  let moves := s.place.moves.filter fun m => m.page % 4 ≠ die
  let moves := moves.map fun (m : Move) => if m.xfe.any fun i => i / 2 = die then { m with xfe := s.moveXfe m.page } else m
  { s with place := { s.place with
    moves := moves, demand := s.place.demand.filter (fun n => n % 4 ≠ die),
    intents := s.place.intents.filter (fun x => x.die ≠ die), leases := s.place.leases.filter (fun l => l.page % 4 ≠ die) } }

/-- The transactions held at the ports of an I/O die (R481). -/
def State.txnsAt (s : State) (die : Nat) : List Txn := s.vrl.txns.filter fun t => t.port.any fun n => decide (n / 25 = die)

/-- What stops with an I/O die: requests held there complete with poison (R328, R354, R481, R483). -/
def State.fenceIo (s : State) (die : Nat) : State :=
  let s := s.cutBy 3 die
  let s := (s.txnsAt die).foldl (fun s t => if s.vrl.txns.contains t then s.txnCut t [(3, die)] else s) s
  let s := (s.vrl.ports.filter fun p => decide (p.n / 25 = die) && p.en).foldl (fun s p => s.portDrop p.n 6) s
  let s := { s with colls := { s.colls with owed := s.colls.owed.filter (fun o => o.cle ≠ die) } }
  ((s.colls.list.filter fun c => c.cle = die && c.opened).foldl (fun s c =>
    (s.dropColl c.wid).loseWb c.wid 3 die (engSrc .cle die)) s).reCle

/-- Requests held toward a die, which complete with poison when it is fenced: transactions at an I/O die's ports, accesses that
wait for pages of a memory-side die (R481, R485; DEDUCED, log entry 24). -/
def State.heldToward (s : State) (kind die : Nat) : Nat :=
  if kind = 3 then (s.txnsAt die).length
  else if kind = 2 then (s.place.begun.filter fun x => x.2.2.any fun n => n % 4 = die).length
  else 0

/-- A block reset in progress on a die that is fenced ends with RESULT FENCED (R480). -/
def State.fenceBlock (s : State) (kind die : Nat) : State :=
  let w := s.reg rRstBlock
  let here := match kindOfCode (bits 15 12 w) with
    | some k => decide (dieOf k (bits 11 0 w) = (kind, die))
    | none => decide (bits 15 12 w = 10 ∧ (3, bits 11 0 w / 25) = (kind, die))
  if bit 0 (s.reg rRstBlockStatus) && here then ((s.setReg rRstBlock 0).setFld rRstBlockStatus 0 0 0).setFld rRstBlockStatus 7 4 3 else s

/-- A die is fenced: it stops, what runs on it is lost, and DIE_FENCED is written, right after a detail record of the same error (R22,
R23, R435, R453, R480 to R483, R485, R524, R528). A fence of IO0 or of MS0 becomes reset 13. During a reset or a release its domains stay in
reset. -/
def State.fenceWith (s : State) (kind die cause : Nat) (detail : Option Ev) : State :=
  if dieCount s.assy kind ≤ die || s.fenced kind die then s
  else if kind = 3 && die = 0 then s.assertReset 13 3 false
  else if kind = 2 && die = 0 then s.assertReset 13 4 false
  else
    let here (k : EngKind) (i : Nat) : Bool := decide (dieOf k i = (kind, die))
    let n := s.heldToward kind die
    let run := s.clk.run.bind fun r =>
      let left := r.inReset.filter fun d => !(dieDomains kind die).contains d
      if left.isEmpty then none else some { r with inReset := left }
    let kept := s.clk.kept.filter fun d => !(dieDomains kind die).contains d
    let s := { s with clk := { s.clk with fenced := s.clk.fenced ++ [(kind, die)], run := run, kept := kept } }
    let s := s.fenceBlock kind die
    let off := ~~~(maskOf (dieDomains kind die))
    let s := (s.setReg rClkRun (s.reg rClkRun &&& off)).setReg rClkLocking (s.reg rClkLocking &&& off)
    let s : State := match kind with
      | 1 => s.fenceCompute die
      | 2 => s.fenceMemory die
      | _ => s.fenceIo die
    let insts := s.sched.insts.filter fun x => !here x.1.1 x.1.2
    let due := (s.err.due.filter fun x => !here x.kind x.inst) ++ State.dueAgain (s.err.slices.filter fun x => here x.kind x.inst)
    let slices := s.err.slices.filter fun x => !here x.kind x.inst
    let bad := s.err.badUnits.filter fun x => decide (x ∉ unitsOf kind die)
    let s := { s with sched := { s.sched with insts := insts }, err := { s.err with due := due, slices := slices, badUnits := bad } }
    let lost := (s.sched.wbs.filter fun w => decide (w.phase = .ended ∧ w.status = stDieLost ∧ w.detail = srcOf kind die)).length
    let s := match detail with
      | some e => s.emit e
      | none => s
    (s.emit (ev 0x0600 lvRegion none (srcOf kind die) [cause, n, lost])).sweepBusy.settle

/-- A fence that no detail record precedes (R481). -/
def State.fenceDie (s : State) (kind die cause : Nat) : State := s.fenceWith kind die cause none

/-! ### Blocks -/

/-- An engine's block is cleared: its ECC bits and counters, and AVAIL is 0 (R480, R484). A Gazetteer's table stops. -/
def State.clearEngine (s : State) (k : EngKind) (i : Nat) : State :=
  ((s.zeroRegs (engineCounters k i ++ engineEcc k i)).setUse k i none).setFld (cfgReg k i) 0 0 0

/-- Self-test slices of an instance of a kind (R525). -/
def sliceCount : EngKind → Nat
  | .mxe => 32 | .vxe => 16 | .cve => 16 | .xfe => 4 | .cle => 8 | .cde => 8 | .gaz => 0

/-- Is an engine idle as a block reset and BST_CMD ask (R480)? -/
def State.blockIdle (s : State) (k : EngKind) (i : Nat) : Bool :=
  !s.avail k i && (s.useOf k i).isNone
  && (match k with
      | .cde => !(s.codec.ctxs.any fun c => c.cde = i) && (s.cde i).queue.isEmpty && (s.cde i).asides.isEmpty
      | .xfe => !(s.place.xfers.any fun x => x.pieces.any fun q => q.xfe = some i)
                && !(s.place.moves.any fun m => m.xfe = some i)
      | .cle => !(s.colls.list.any fun c => c.cle = i)
      | _ => true)

end Sys2Proof.Machine
end

