-- ==== Sys2Proof/Machine/Err.lean ====
section
/-! DEFINITION. The meanings of the commands of error handling: failed blocks, control state, the Junction, the chip level and
scrubbing (R513 to R524). -/

namespace Sys2Proof.Machine

open Sys2Proof

/-! ### Failed blocks -/

/-- Ranges of memory take poison; what their bytes are is not specified (R518, log entry 5). -/
def State.poisonRanges (s : State) (wid : Nat) (l : List (Nat × Nat)) : State :=
  l.foldl (fun s x =>
    let (bs, s) := s.freeBytes x.2
    (s.writeBytes wid x.1 bs true).2) s

/-- An engine of a run fails: each tile that it had yet to write is written with poison, notices of those tiles go out as for any
tile, and its part of the run is over (R135, R518). -/
def State.failRun (s : State) (wid : Nat) (k : EngKind) (i : Nat) : State :=
  match (s.run wid).bind fun r => (runInst r i).map fun x => (r, x) with
  | none => s
  | some (r, x) =>
    let c := ctxOf r
    let rest := restTiles c x
    let s := s.notePoison wid
    let s := rest.foldl (fun s ds =>
      let out := natRanges (tileC c ds)
      let s := s.poisonRanges wid out
      if k = .mxe then (s.firstFinish r c i).sendNotice r c i (finishPos c ds) ds (joinRanges out) else s) s
    let s := s.updInst wid i fun x => { x with pos := x.hi, outer := x.outerEnd, tiles := [] }
    let s := if k = .mxe then s.sendNotices i s.eng.notices.length else s
    s.instDone wid k i

/-- Ranges of its source or destination, by offset and length, that a running piece has yet to write. -/
def State.pieceRest (s : State) (x : Xfer) (q : Piece) : List (Nat × Nat) :=
  if q.sent && !x.fill && x.srcSpace = 2 then
    (s.vrl.txns.filter fun t => decide (t.owner = .piece x.wid q.idx ∧ t.op = 1)).map fun t => (t.place, t.len)
  else if q.sent && x.dstSpace = 2 then [] else [(q.off, q.len)]

/-- A write of unspecified, poisoned bytes to the fabric (R285, R306). -/
def State.poisonTxns (s : State) (x : Xfer) (q : Piece) (off n : Nat) : State :=
  let a := x.dst + off
  (cutFabric (a % 2 ^ 48) (n + 1) 0 n).foldl (fun s c =>
    let (bs, s) := s.freeBytes c.2
    let t : Txn := { tag := none, op := 2, dst := a / 2 ^ 48, inc := none, off := a % 2 ^ 48 + c.1, len := c.2, data := bs, poison := 15,
                     owner := .piece x.wid q.idx, place := off + c.1, sent := false, again := false, port := none, full := false }
    { s with vrl := { s.vrl with txns := s.vrl.txns ++ [t] } }) s

/-- An XFE fails during a piece: what the piece had yet to write is poisoned at its destination and counts as moved, as what it wrote
before (R285, R292, R518). Writes on the fabric that were not yet sent carry poison; the piece ends when they have been answered. -/
def State.failPiece (s : State) (x : Xfer) (q : Piece) : State :=
  let rest := s.pieceRest x q
  let mine (t : Txn) : Bool := decide (t.owner = .piece x.wid q.idx)
  let s := s.notePoison x.wid
  let s := match q.xfe with
    | some i => if q.run then s.bump64 (rXfeBytesLo i) (q.len - q.lost) else s
    | none => s
  let s := (s.vrl.txns.filter fun t => mine t && decide (t.op = 1)).foldl (fun s t => s.dropTxn t true) s
  if x.dstSpace = 2 then
    let txns := updIf (fun t => mine t && !t.sent) (fun t => { t with poison := 15 }) s.vrl.txns
    let s := rest.foldl (fun s r => s.poisonTxns x q r.1 r.2) { s with vrl := { s.vrl with txns := txns } }
    (s.updPiece x.wid q.idx fun q => { q with run := true, sent := true, xfe := none }).pump
  else
    let s := if x.dstSpace = 0 then s.asBegun x q fun s => s.poisonRanges x.wid (rest.map fun r => (x.dst + r.1, r.2))
      else rest.foldl (fun s r =>
        let (bs, s) := s.freeBytes r.2
        s.put (.hostPoison (x.dst + r.1) bs)) s
    s.endPiece x.wid q.idx

/-- What a failed Transfer Engine had: its piece, and pieces queued there, which go to other engines; where there is
none, what a running Waybill had queued there is poisoned too (R283, R435, R518; DEDUCED, log entry 25). A Surveyor's move goes to
another engine too. -/
def State.failXfe (s : State) (i : Nat) : State :=
  let s := s.place.xfers.foldl (fun s x =>
    match s.wb x.wid with
    | none => s
    | some w =>
      let at_ (q : Piece) : Bool := decide (q.xfe = some i) && !q.run
      if !x.pieces.any at_ then s
      else match s.placePieces w.part (x.pieces.filter fun q => !at_ q) (x.pieces.filter at_) with
        | some ps => s.updXfer x.wid fun x => { x with pieces := sortByKey (·.idx) ps }
        | none =>
          if w.phase = .running then (x.pieces.filter at_).foldl (fun s q => s.failPiece x q) s
          else s.cancelWb x.wid stBlkBusy) s
  let moves := s.place.moves.map fun (m : Move) => if m.xfe = some i && !m.switched then { m with xfe := s.moveXfe m.page } else m
  let s := { s with place := { s.place with moves := moves } }
  match (s.place.xfers.flatMap fun x => x.pieces.map fun q => (x, q)).find? fun y => y.2.run && decide (y.2.xfe = some i) with
  | some (x, q) => s.failPiece x q
  | none => s

/-- The output that an open collective has yet to write. -/
def Coll.rest (c : Coll) : List (Nat × Nat) :=
  let dt := cdDtype c.desc
  let n := cdCount c.desc
  (c.outputs.filter fun k => !(c.finals.any fun f => f.chunk = k)).flatMap fun k =>
    if c.a2a then [((elemRange dt (cdOut c.desc) (k * n) 0).1, wireLen dt n), (cdCounts c.desc + 4 * c.table.length + 4 * k, 4)]
    else
      let (p, o, m) := c.span k
      let real := min m (n - (p * c.len + o))
      [((elemRange dt (cdOut c.desc) (if cdOp c.desc = 2 then o else p * c.len + o) real).1, wireLen dt real)]

/-- What a failed CLE had: open collectives end with the rest of their output poisoned, queued ones go to another CLE (R518). -/
def State.failCle (s : State) (i : Nat) : State :=
  ((s.colls.list.filter fun c => c.cle = i && c.opened).foldl (fun s c =>
    let s := (s.notePoison c.wid).poisonRanges c.wid (c.rest.filter fun x => x.2 ≠ 0)
    s.endColl c.wid stMemPoison 0) s).reCle

/-- What a failed CDE had: its picture and those set aside there end with their output poisoned, queued commands end (R435, R518). -/
def State.failCde (s : State) (i : Nat) : State :=
  let c := s.cde i
  let s := s.setCde { c with run := none, asides := [] }
  let s := (c.run.toList ++ c.asides).foldl (fun s r =>
    let s := s.poisonRanges r.wid (s.pictureOut r)
    (s.notePoison r.wid).endWb r.wid stMemPoison 0 (engSrc .cde i)) s
  c.queue.foldl (fun s q => s.cancelWb q.wid stBlkBusy) s

/-- What a failed Gazetteer had: its Waybill in progress ends with MEM_POISON, those queued go to another one, and its table stops like one
whose EN is cleared (R229, R518; DESIGN CHOICE, log entry 68). -/
def State.failGaz (s : State) (i : Nat) : State :=
  let s := (s.kv.jobs.filter fun j => j.gaz = i).foldl (fun s j =>
    match s.wb j.wid with
    | none => s
    | some w =>
      if w.phase = .running then
        ({ s with kv := { s.kv with jobs := s.kv.jobs.filter (fun y => y.wid ≠ j.wid) } }).endWb j.wid stMemPoison 0 (engSrc .gaz i)
      else match s.kvPlace w with
        | some g => s.updJob j.wid fun j => { j with gaz := g }
        | none => s.cancelWb j.wid stBlkBusy) s
  { s with kv := { s.kv with nodes := s.kv.nodes.filter fun n => n.die ≠ i } }

/-- The Waybill that a block works on. -/
def State.blockWb (s : State) (k : EngKind) (i : Nat) : Option Wb :=
  match k with
  | .cle => ((s.colls.list.find? fun c => decide (c.cle = i) && c.opened).bind fun c => s.wb c.wid)
  | .gaz => (((s.kv.jobs.filter fun j => j.gaz = i).filterMap fun j => s.wb j.wid).find? fun w => decide (w.phase = .running))
  | _ => match s.useOf k i with
    | some (.running wid) => s.wb wid
    | _ => none

/-- A block fails: AVAIL is cleared, its mark is set, what it had yet to write is poisoned, its Waybill ends with MEM_POISON, and
BLOCK_FAILED is written (R518, R524). cause: 1 control parity, 2 self-test. -/
def State.failBlock (s : State) (k : EngKind) (i cause detail : Nat) : State :=
  if kindCount s.assy k ≤ i || s.fenced (dieOf k i).1 (dieOf k i).2 || s.failed k i then s
  else
    let w := s.blockWb k i
    let s := ((s.setFailed k i true).setFld (cfgReg k i) 0 0 0).bump rErrBlockFail 1
    let e := ev 0x0804 lvBlock (w.map (·.part)) (engSrc k i) [cause, detail, (w.map (·.ring)).getD 0xFFFFFFFF]
    let s := match w with
      | some w => s.emitFor w.wid e
      | none => s.emit e
    let slices := s.err.slices.filter fun x => !(decide (x.kind = k ∧ x.inst = i))
    let s := { s with err := { s.err with slices := slices } }
    let s : State := match k with
      | .xfe => s.failXfe i
      | .cle => s.failCle i
      | .cde => s.failCde i
      | .gaz => s.failGaz i
      | _ => match s.useOf k i with
        | some (.running wid) => s.failRun wid k i
        | some (.reserved wid) => s.loseInst wid i
        | _ => s
    (s.setUse k i none).sweepBusy.settle

/-- A block that no partition owns fails, an Expander (1) or a Theodolite (2): it is out of service until its die or the device is reset, and
BLOCK_FAILED names the die (R518; DESIGN CHOICE, log entry 68). -/
def State.failUnit (s : State) (u kind die : Nat) : State :=
  if 4 ≤ die || s.fenced kind die || s.err.badUnits.contains (u, die) then s
  else
    let (code, s) := s.drawNat
    let s := (s.bump rErrParity 1).bump rErrBlockFail 1
    { s with err := { s.err with badUnits := s.err.badUnits ++ [(u, die)] } }.emit
      (ev 0x0804 lvBlock none (srcOf kind die) [1, code % 12, 0xFFFFFFFF])

/-- CONTROL_PARITY_FAILURE: control state or an operand bus of a unit fails its code: a block fails, a Signal Box or a Surveyor's
placement table takes its die with it (R513, R517, R518). A failed Theodolite drops its check; reads through a failed Expander are poisoned. -/
def controlParityFailureStep (u : CtlUnit) (s : State) : State :=
  match u with
  | .block k i =>
    if kindCount s.assy k ≤ i || s.fenced (dieOf k i).1 (dieOf k i).2 then s
    else
      let (code, s) := s.drawNat
      (s.bump rErrParity 1).failBlock k i 1 (code % 12)
  | .signalBox kind die =>
    if dieCount s.assy kind ≤ die || s.fenced kind die then s else (s.bump rErrParity 1).fenceDie kind die 1
  | .expander die => s.failUnit 1 2 die
  | .theodolite die =>
    let t := s.failUnit 2 1 die
    if t.err.badUnits.contains (2, die) then { t with eng := { t.eng with checks := t.eng.checks.filter fun c => c.die ≠ die } } else t
  | .surveyor die => if 4 ≤ die || s.fenced 2 die then s else (s.bump rErrUeSram 1).fenceDie 2 die 1

/-- CONTROL_PARITY_FAILURE (R517). -/
def execControlParityFailure (u : CtlUnit) (s : State) : Host.Outcome State Fault Refusal := .next (controlParityFailureStep u s)

/-- BLOCK_IDLE_TIMEOUT: a failed block has not become idle within 1 ms, and its die is fenced (R517). -/
def blockIdleTimeoutStep (k : EngKind) (i : Nat) (s : State) : State :=
  if decide (i < kindCount s.assy k) && s.failed k i then s.fenceDie (dieOf k i).1 (dieOf k i).2 1 else s

/-- BLOCK_IDLE_TIMEOUT (R517). -/
def execBlockIdleTimeout (kind : EngKind) (inst : Nat) (s : State) : Host.Outcome State Fault Refusal :=
  .next (blockIdleTimeoutStep kind inst s)

/-! ### The Junction -/

/-- Does a Junction link join two dies: each compute die to each memory-side die, and each I/O die to four dies (R16)? -/
def junctionLink (a : Assembly) (k d k2 d2 : Nat) : Bool :=
  decide (d < dieCount a k ∧ d2 < dieCount a k2)
  && (if k = 3 then k2 ≠ 3 && (linkedIo k2 d2).contains d
      else if k2 = 3 then (linkedIo k d).contains d2
      else k ≠ k2)

/-- JUNCTION_FLIT_BAD: a flit is bad and its sender replays it; a lane may be retrained (R513, R517, R519). -/
def junctionFlitBadStep (k d k2 d2 : Nat) (retrained : Bool) (s : State) : State :=
  if !junctionLink s.assy k d k2 d2 || s.fenced k d || s.fenced k2 d2 then s
  else (s.bump rErrLinkRetry 1).merge { code := 0x0805, part := none, src := srcOf k d, count := 1, d0 := srcOf k2 d2, d1 := 1,
                                         d2 := if retrained then 1 else 0, d3 := 0 }

/-- JUNCTION_FLIT_BAD (R519). -/
def execJunctionFlitBad (recvKind recvDie farKind farDie : Nat) (retrained : Bool) (s : State) : Host.Outcome State Fault Refusal :=
  .next (junctionFlitBadStep recvKind recvDie farKind farDie retrained s)

/-- JUNCTION_LINK_FAIL: a link fails; the I/O die that it joins is fenced, or else the compute die, with cause 5 (R519). For IO0 a
reset takes the place of the fence; RST_CAUSE alone reports it, and no detail record is written (R22, R482). -/
def junctionLinkFailStep (k d k2 d2 : Nat) (s : State) : State :=
  let gone := if k = 3 then (k, d) else if k2 = 3 then (k2, d2) else if k = 1 then (k, d) else (k2, d2)
  if !junctionLink s.assy k d k2 d2 || s.fenced k d || s.fenced k2 d2 then s
  else s.fenceWith gone.1 gone.2 5 (some (ev 0x0806 lvRegion none (srcOf k d) [srcOf k2 d2, srcOf gone.1 gone.2]))

/-- JUNCTION_LINK_FAIL (R519). -/
def execJunctionLinkFail (recvKind recvDie farKind farDie : Nat) (s : State) : Host.Outcome State Fault Refusal :=
  .next (junctionLinkFailStep recvKind recvDie farKind farDie s)

/-! ### The chip level -/

/-- Every Waybill that has no record yet completes with DEV_FATAL, without its signal, END records last (R24, R54, R72, R520). -/
def State.endAllFatal (s : State) : State :=
  let live := s.sched.wbs.filter fun w => w.phase ≠ .recorded
  let isEnd (w : Wb) : Bool := (s.consist w.cid).any fun c => decide (c.endWid = some w.wid)
  ((live.filter fun w => !isEnd w) ++ live.filter isEnd).foldl (fun s w =>
    s.record { w with phase := .ended, status := stDevFatal, detail := 0, held := [] }) s

/-- CHIP_FATAL: an error of the ring engine or scheduler (cause 1) or of the semaphore store (cause 2): what can be reported is, and
the DEVICE reset of code 12 is taken (R24, R520). -/
def chipFatalStep (cause : Nat) (s : State) : State :=
  if (cause ≠ 1 ∧ cause ≠ 2) || !s.pins.aux then s
  else
    let s := s.bump rErrParity 1
    let s := (s.setFld rErrFatal 7 0 cause).setReg64 rErrFatalTimeLo s.aon
    let s := if cause = 2 then
        let n := (s.sched.wbs.filter fun w => w.phase ≠ .recorded).length
        s.endAllFatal.emit (ev 0x0807 lvChip none 0 [cause, n])
      else s
    s.assertReset 12 3 false

/-- CHIP_FATAL (R520). -/
def execChipFatal (cause : Nat) (io : List IoRes) (s : State) : Host.Outcome State Fault Refusal :=
  .next (withIo io (chipFatalStep cause) s)

/-! ### Scrubbing -/

/-- SCRUB_READ: a memory controller reads a line for scrubbing: a marked line is left as it is, a correctable one is written back
corrected, an uncorrectable one poisoned, an error beyond detection goes unseen; a pass is complete when the addresses begin again (R513,
R515, R522). ue: the syndrome stays uncorrectable whatever symbols says. -/
def scrubReadStep (die addr symbols : Nat) (ue : Bool) (s : State) : State :=
  if !bit 1 (s.reg rErrCfg) || decide (4 ≤ die) || s.fenced 2 die || homeOf addr ≠ die then s
  else
    let last := (s.err.scrubAt.find? fun x => x.1 = die).map (·.2)
    let s := if last.any fun l => decide (addr ≤ l) then s.bump rErrScrubPass 1 else s
    let rest := s.err.scrubAt.filter fun x => x.1 ≠ die
    let s := { s with err := { s.err with scrubAt := insertByKey (·.1) (die, addr) rest } }
    if s.poisoned addr then s
    else if ue then s.noteUe addr 1 0xFFFFFFFF
    else
      let (fixed, seen) := symbolLimits (s.inHbm addr)
      if symbols = 0 || seen < symbols then s
      else if fixed < symbols then s.noteUe addr 1 0xFFFFFFFF
      else s.noteCe addr symbols true

/-- SCRUB_READ (R522). -/
def execScrubRead (die : Nat) (addr : Nat) (symbols : Nat) (ue : Bool) (s : State) : Host.Outcome State Fault Refusal :=
  .next (scrubReadStep die addr symbols ue s)

/-- ERR_CTR_CLR: the counters at 0x008 to 0x03C return to 0 (R533). -/
def errCtrClrStep (s : State) : State :=
  if s.barOpen rErrCtrClr then s.zeroRegs ((List.range 14).map fun i => rErrCeHbmLo + 4 * i) else s

/-- ERR_CTR_CLR (R533). -/
def execErrCtrClr (s : State) : Host.Outcome State Fault Refusal := .next (errCtrClrStep s)

end Sys2Proof.Machine
end

