-- ==== Sys2Proof/Machine/SelfTest.lean ====
section
/-! DEFINITION. The meanings of the commands of self-test and of the analogue checks (R525 to R532, R534). -/

namespace Sys2Proof.Machine

open Sys2Proof

/-! ### Periodic slices -/

/-- Is an instance one that slices test: it has the slice, is fitted and not fenced (R525, R532)? -/
def State.sliceOk (s : State) (k : EngKind) (i slice : Nat) : Bool :=
  decide (slice < sliceCount k ∧ i < kindCount s.assy k) && !s.fenced (dieOf k i).1 (dieOf k i).2

/-- Is an instance idle as a slice needs: nothing runs on it or is assigned to it (R526)? -/
def State.testIdle (s : State) (k : EngKind) (i : Nat) : Bool :=
  (s.useOf k i).isNone
  && (match k with
      | .cde => (s.cde i).queue.isEmpty && (s.cde i).asides.isEmpty
      | .xfe => !(s.place.xfers.any fun x => x.pieces.any fun q => q.xfe = some i)
                && !(s.place.moves.any fun m => m.xfe = some i)
      | .cle => !(s.colls.list.any fun c => c.cle = i)
      | _ => true)

/-- The clock domain in which an engine lies (R463). -/
def engDomain (k : EngKind) (i : Nat) : Nat :=
  match (dieOf k i).1 with
  | 1 => 5 + (dieOf k i).2
  | 2 => 13 + (dieOf k i).2
  | _ => 21 + (dieOf k i).2

/-- BST_SLICE_DUE: a slice falls due (R527). -/
def bstSliceDueStep (k : EngKind) (i slice : Nat) (s : State) : State :=
  if !s.bstOn || !s.sliceOk k i slice || (s.err.due.any fun d => decide (d.kind = k ∧ d.inst = i ∧ d.slice = slice)) then s
  else { s with err := { s.err with due := s.err.due ++ [{ kind := k, inst := i, slice := slice, overdue := false }] } }

/-- BST_SLICE_DUE (R527). -/
def execBstSliceDue (kind : EngKind) (inst slice : Nat) (s : State) : Host.Outcome State Fault Refusal :=
  .next (bstSliceDueStep kind inst slice s)

/-- BST_SLICE_OVERDUE: half a period has passed since a slice fell due; it is counted, and a sleeping domain wakes (R466, R527). -/
def bstSliceOverdueStep (k : EngKind) (i slice : Nat) (s : State) : State :=
  let this (d : Due) : Bool := decide (d.kind = k ∧ d.inst = i ∧ d.slice = slice) && !d.overdue
  if !s.bstOn || !s.sliceOk k i slice || !s.err.due.any this then s
  else
    let due := updIf this (fun d => { d with overdue := true }) s.err.due
    let tally := (s.err.tally.1, s.err.tally.2.1 + 1, s.err.tally.2.2)
    (({ s with err := { s.err with due := due, tally := tally } }).bump rBstOverdue 1).wake (engDomain k i)

/-- BST_SLICE_OVERDUE (R527). -/
def execBstSliceOverdue (kind : EngKind) (inst slice : Nat) (s : State) : Host.Outcome State Fault Refusal :=
  .next (bstSliceOverdueStep kind inst slice s)

/-- KIND and INSTANCE of the last slice started (R534). -/
def State.showSlice (s : State) (k : EngKind) (i : Nat) : State :=
  (s.setFld rBstStatus 11 8 (kindCode k)).setFld rBstStatus 27 16 i

/-- Has an instance been idle for BST_IDLE.US, as a slice that is not overdue needs (R527)? One µs is 1.2 AON cycles. -/
def State.longIdle (s : State) (k : EngKind) (i : Nat) : Bool := decide (12 * s.fld rBstIdle 15 0 ≤ 10 * (s.aon - s.idleSince k i))

/-- BST_SLICE_START: a due slice takes its instance, when that is idle, for BST_IDLE.US unless the slice is overdue, its domain is awake and no
other slice runs on the die; the governor counts it as unhinted load (R448, R466, R526, R527). -/
def bstSliceStartStep (k : EngKind) (i slice : Nat) (s : State) : State :=
  let this (d : Due) : Bool := decide (d.kind = k ∧ d.inst = i ∧ d.slice = slice)
  let taken := s.err.slices.any fun x => decide (dieOf x.kind x.inst = dieOf k i)
  if !s.bstOn || !s.sliceOk k i slice || !s.err.due.any this || taken || !s.testIdle k i || !bit (engDomain k i) (s.reg rClkRun)
      || !(s.longIdle k i || s.err.due.any fun d => this d && d.overdue)
  then s
  else
    let due := s.err.due.filter fun d => !this d
    let run : SliceRun := { kind := k, inst := i, slice := slice, second := false }
    let s := { s with err := { s.err with due := due, slices := s.err.slices ++ [run] } }
    let s := ((s.setUse k i (some .selfTest)).showSlice k i).wake 4
    match k with
    | .mxe => (s.rampStart k (if s.ballastOn i then [] else [i]) 0).dropBallast i
    | .vxe => s.rampStart k [i] 0
    | .cve => s.rampStart k [i] 0
    | _ => s

/-- BST_SLICE_START (R526). -/
def execBstSliceStart (kind : EngKind) (inst slice : Nat) (s : State) : Host.Outcome State Fault Refusal :=
  .next (bstSliceStartStep kind inst slice s)

/-- A signature differs: it is counted and shown (R528, R534). -/
def State.noteMismatch (s : State) (k : EngKind) (i slice : Nat) : State :=
  (s.bump rBstFails 1).setReg rBstLastFail (w32 (i % 4096 + 4096 * kindCode k + 65536 * slice))

/-- A slice has run. -/
def State.countSlice (s : State) (k : EngKind) (i slice : Nat) : State :=
  let tally := (s.err.tally.1 + 1, s.err.tally.2.1, s.err.tally.2.2)
  let done := if s.err.done.contains (k, i, slice) then s.err.done else s.err.done ++ [(k, i, slice)]
  ({ s with err := { s.err with tally := tally, done := done } }).bump64 rBstSlicesLo 1

/-- Both runs of a slice differed: BST_FAIL, and the block fails with cause 2 (R518, R528). -/
def State.failSlice (s : State) (k : EngKind) (i slice : Nat) (want got : Word) : State :=
  let tally := (s.err.tally.1, s.err.tally.2.1, s.err.tally.2.2 + 1)
  let s := { s with err := { s.err with tally := tally } }
  if s.failed k i then s
  else (s.emit (ev 0x0810 lvBlock none (engSrc k i) [slice, want.toNat, got.toNat])).failBlock k i 2 slice

/-- BST_CYCLE, when every slice of every instance that is not fenced has run since the last one (R527). -/
def State.endCycle (s : State) : State :=
  let all := s.allInsts.flatMap fun x => (List.range (sliceCount x.1)).map fun j => (x.1, x.2, j)
  if all.any fun x => s.sliceOk x.1 x.2.1 x.2.2 && !s.err.done.contains x then s
  else
    let t := s.err.tally
    let took := s.aon - s.err.cycleAt
    let s := { s with err := { s.err with done := [], tally := (0, 0, 0), cycleAt := s.aon } }
    (s.bump rBstCycles 1).emit (ev 0x0811 lvChip none 0 [t.1, t.2.1, t.2.2, took])

/-- An instance leaves its slice: SRAM contents are unspecified, and the instance is free again (R418, R526). -/
def State.leaveSlice (s : State) (k : EngKind) (i : Nat) : State :=
  let left := s.err.slices.filter fun x => !(decide (x.kind = k ∧ x.inst = i))
  let s := ({ s with err := { s.err with slices := left } }).setUse k i none
  if k = .mxe then s.holdBallast i else s

/-- BST_SLICE_DONE: a slice ends; a differing signature makes it run once more, and a second one fails the block (R528). -/
def bstSliceDoneStep (k : EngKind) (i : Nat) (want got : Word) (s : State) : State :=
  match s.err.slices.find? fun x => decide (x.kind = k ∧ x.inst = i) with
  | none => s
  | some x =>
    let s := s.countSlice k i x.slice
    if want = got then ((s.leaveSlice k i).endCycle).settle
    else
      let s := s.noteMismatch k i x.slice
      if x.second then (((s.leaveSlice k i).failSlice k i x.slice want got).endCycle).settle
      else
        let l := updIf (fun y => decide (y.kind = k ∧ y.inst = i)) (fun y => { y with second := true }) s.err.slices
        { s with err := { s.err with slices := l } }

/-- BST_SLICE_DONE (R528). -/
def execBstSliceDone (kind : EngKind) (inst : Nat) (want got : Word) (s : State) : Host.Outcome State Fault Refusal :=
  .next (bstSliceDoneStep kind inst want got s)

/-! ### A test by command -/

/-- RESULT of BST_CMD (R534). -/
def State.bstResult (s : State) (v : Nat) : State := s.setFld rBstCmdStatus 7 4 v

/-- Slices of an instance in sequence, each with the signatures that its run and a second run gave; a run that no pair tells of
passes. The result tells whether a slice failed. -/
def State.runSlices (s : State) (k : EngKind) (i : Nat) : Nat → List (Word × Word) → Bool × State
  | 0, _ => (false, s)
  | n + 1, sigs =>
    let slice := sliceCount k - (n + 1)
    let s := s.countSlice k i slice
    match sigs with
    | [] => s.runSlices k i n []
    | (w, g) :: rest =>
      if w = g then s.runSlices k i n rest
      else
        let s := (s.noteMismatch k i slice).countSlice k i slice
        match rest with
        | [] => s.runSlices k i n []
        | (w2, g2) :: rest =>
          if w2 = g2 then s.runSlices k i n rest
          else
            let s := (s.noteMismatch k i slice).failSlice k i slice w2 g2
            (true, (s.runSlices k i n rest).2)

/-- BST_CMD: every slice of one idle instance runs; a pass clears its failed mark, a failure keeps or sets it (R529, R532, R534). -/
def bstCmdStep (w : Word) (sigs : List (Word × Word)) (s : State) : State :=
  s.byCmd rBstCmd rBstCmdStatus (fun x => bits 15 0 x = bits 15 0 w) fun s =>
    let i := bits 11 0 w
    match kindOfCode (bits 15 12 w) with
    | none => s.bstResult 3
    | some k =>
      if kindCount s.assy k ≤ i then s.bstResult 3
      else if s.fenced (dieOf k i).1 (dieOf k i).2 then s.bstResult 4
      else if !bit 0 (s.reg rBstStatus) then s.bstResult 5
      else if !s.blockIdle k i then s.bstResult 2
      else
        let s := ((s.showSlice k i).wake (engDomain k i)).wake 4
        let (bad, s) := s.runSlices k i (sliceCount k) sigs
        let s := if bad then s.bstResult 1 else (s.setFailed k i false).bstResult 0
        s.endCycle.settle

/-- BST_CMD (R529). -/
def execBstCmd (w : Word) (sigs : List (Word × Word)) (s : State) : Host.Outcome State Fault Refusal := .next (bstCmdStep w sigs s)

/-- BST_CTR_CLR: the counters at 0x010 to 0x020 return to 0 (R534). -/
def bstCtrClrStep (s : State) : State :=
  if s.barOpen rBstCtrClr then s.zeroRegs [rBstSlicesLo, rBstSlicesHi, rBstCycles, rBstFails, rBstOverdue] else s

/-- BST_CTR_CLR (R534). -/
def execBstCtrClr (s : State) : Host.Outcome State Fault Refusal := .next (bstCtrClrStep s)

/-! ### Analogue checks -/

/-- A check of an item: its bit of BST_ANA_STATUS stands while any item is below the limit, and say is done once per episode
(R531). -/
def State.analog (s : State) (check item : Nat) (bad : Bool) (say : State → State) : State :=
  let had := s.err.episodes.contains (check, item)
  let rest := s.err.episodes.filter (· ≠ (check, item))
  let eps := if bad then rest ++ [(check, item)] else rest
  let s := { s with err := { s.err with episodes := eps } }
  let s := s.setFld rBstAnaStatus (check - 1) (check - 1) (if eps.any fun x => decide (x.1 = check) then 1 else 0)
  if bad && !had then say s else s

/-- ANALOG_MARGIN, merged over the epoch (R523, R531). -/
def State.marginRecord (s : State) (check value limit lane src : Nat) : State :=
  s.merge { code := 0x0812, part := none, src := src, count := 1, d0 := check, d1 := value, d2 := limit, d3 := lane }

/-- A margin check: below its limit it writes ANALOG_MARGIN (R531). -/
def State.marginCheck (s : State) (check item value limit lane src : Nat) : State :=
  s.analog check item (decide (value < limit)) fun s => s.marginRecord check value limit lane src

/-- HBM_PHY_MARGIN_CHECK: the eye margin in 0.01 UI at a training of a stack's PHY; limit 0.15 UI (check 4 of R531). -/
def hbmPhyMarginCheckStep (stack value channel : Nat) (s : State) : State :=
  if asmStacks s.assy ≤ stack then s else s.marginCheck 4 stack value 15 channel (srcOf 12 stack)

/-- HBM_PHY_MARGIN_CHECK (R531). -/
def execHbmPhyMarginCheck (stack value channel : Nat) (s : State) : Host.Outcome State Fault Refusal :=
  .next (hbmPhyMarginCheckStep stack value channel s)

/-- LPDDR_PHY_CHECK: read margin in 0.01 UI of a package's PHY; limit 0.15 UI (check 5 of R531). -/
def lpddrPhyCheckStep (pkg value channel : Nat) (s : State) : State :=
  if 24 ≤ pkg then s else s.marginCheck 5 pkg value 15 channel (srcOf 13 pkg)

/-- LPDDR_PHY_CHECK (R531). -/
def execLpddrPhyCheck (pkg value channel : Nat) (s : State) : Host.Outcome State Fault Refusal :=
  .next (lpddrPhyCheckStep pkg value channel s)

/-- PORT_LOOPBACK_CHECK: bit errors of a port's internal loopback while EN is 0; a port that fails enters STATE 5 (check 2 of
R531). -/
def portLoopbackCheckStep (n errors : Nat) (s : State) : State :=
  if !s.hasPort n || s.fenced 3 (n / 25) || bit 0 (s.reg (rVrlPortCtl n)) || (s.port n).any (fun p => p.en) then s
  else
    let s := s.analog 2 n (decide (errors ≠ 0)) fun s => s.marginRecord 2 errors 0 0 (srcOf 10 n)
    if errors = 0 then s
    else
      let rest := s.vrl.ports.filter fun p => p.n ≠ n
      let p : Port := { newPort n 5 with en := false }
      { s with vrl := { s.vrl with ports := insertByKey (·.n) p rest } }

/-- PORT_LOOPBACK_CHECK (R531). -/
def execPortLoopbackCheck (n errors : Nat) (s : State) : Host.Outcome State Fault Refusal := .next (portLoopbackCheckStep n errors s)

/-- CXL_MARGIN_CHECK: lane margin of the CXL PHY in 0.01 UI; limit 0.15 UI (check 6 of R531). -/
def cxlMarginCheckStep (lane value : Nat) (s : State) : State :=
  if 16 ≤ lane then s else s.marginCheck 6 lane value 15 lane (srcOf 3 0)

/-- CXL_MARGIN_CHECK (R531). -/
def execCxlMarginCheck (lane value : Nat) (s : State) : Host.Outcome State Fault Refusal := .next (cxlMarginCheckStep lane value s)

end Sys2Proof.Machine
end

