-- ==== Sys2Proof/Machine/Epoch.lean ====
section
/-! DEFINITION. The meaning of the end of a management epoch (R31, R158, R330, R450, R454 to R462, R464, R505, R523, R531). -/

namespace Sys2Proof.Machine

open Sys2Proof

/-- An exact value shown as a whole number; which neighbour is shown is not stated (log entry 5). -/
def State.showRat (s : State) (q : Rat) : Nat × State :=
  let lo := q.floor.toNat
  let (k, s) := s.drawNat
  (if q = (lo : Rat) then lo else lo + k % 2, s)

/-- Flow in L/min over the last 100 epochs (R457). -/
def State.flow (s : State) : Rat := ((s.pwr.flowWin.sum * 600 : Nat) : Rat) / ((s.effFld rPwrFlowCfg 15 0 : Nat) : Rat)

/-- What the epoch measured is shown (R457, R458, R462). -/
def State.showEpoch (s : State) (e : EpochIn) : State :=
  let win := (s.pwr.flowWin ++ [e.pulses]).drop (s.pwr.flowWin.length - 99)
  let s := { s.measure e.iin e.vin with pwr := { (s.measure e.iin e.vin).pwr with flowWin := win, pMeas := e.power } }
  let s := s.setFld rPwrPin 15 0 (min e.power 0xFFFF)
  let s := (e.dies.take 4).zipIdx.foldl (fun s x => if s.fenced 1 x.2 then s else s.setReg (rPwrTj x.2) (w32 (twos 12 x.1))) s
  let s := (s.setFld rPwrTcool 11 0 (twos 12 e.tIn)).setFld rPwrTcool 27 16 (twos 12 e.tOut)
  let (f, s) := s.showRat (s.flow * 100)
  s.setFld rPwrFlow 15 0 (min f 0xFFFF)

/-- The LIMIT source: a step more for each epoch above the limit, a step less for each below 95 % of it; POWER_LIMIT when it releases
(R450, R460). DATA0 is the highest epoch power (DEDUCED, log entry 26). -/
def State.limitSource (s : State) (power : Nat) : State :=
  let w := s.effFld rPwrLimit 15 0
  if w < power then
    let st := min 7 (s.pwr.limit + 1)
    let ep := (s.pwr.limitEp.getD (0, 0))
    { s with pwr := { s.pwr with limit := st, limitEp := some (max ep.1 power, max ep.2 st) } }
  else if power * 100 < w * 95 && s.pwr.limit ≠ 0 then
    let st := s.pwr.limit - 1
    let s := { s with pwr := { s.pwr with limit := st } }
    if st ≠ 0 then s
    else
      let ep := s.pwr.limitEp.getD (0, 0)
      ({ s with pwr := { s.pwr with limitEp := none } }).emit (ev 0x0503 lvChip none 0 [ep.1, w, ep.2])
  else s

/-- The HOT source of each die falls by one step per epoch below CLEAR; DIE_HOT, with the highest reading, when it releases (R450,
R460). -/
def State.hotSource (s : State) (dies : List Int) : State :=
  s.pwr.hot.foldl (fun s h =>
    let h : HotEp := { h with temp := max h.temp (dies.getD h.die 0) }
    let s := { s with pwr := { s.pwr with hot := updIf (fun x => decide (x.die = h.die)) (fun _ => h) s.pwr.hot } }
    if dies.getD h.die 0 < 10 * (s.effFld rPwrTherm 15 8 : Int) then
      let rest := s.pwr.hot.filter fun x => x.die ≠ h.die
      if h.step ≤ 1 then
        ({ s with pwr := { s.pwr with hot := rest } }).emit (ev 0x0504 lvRegion none (srcOf 1 h.die) [twos 64 h.temp, h.high])
      else { s with pwr := { s.pwr with hot := insertByKey (·.die) { h with step := h.step - 1 } rest } }
    else s) s

/-- Is a coolant reading outside −10.0 °C to 100.0 °C (R458)? -/
def coolBad (t : Int) : Bool := decide (t < -100 ∨ 1000 < t)

/-- A coolant sensor's fault is reported once per episode (R458, R460). k: 4 inlet, 5 outlet. -/
def State.coolSensor (s : State) (k : Nat) (t : Int) : State :=
  let rest := s.pwr.sensBad.filter (· ≠ k)
  if coolBad t then
    let s' := { s with pwr := { s.pwr with sensBad := insertByKey id k rest } }
    if s.pwr.sensBad.contains k then s' else s'.emit (ev 0x0508 lvChip none 0 [k, twos 64 t])
  else { s with pwr := { s.pwr with sensBad := rest } }

/-- COOLANT_HOT, once until the outlet is 2 °C below the warning again (R458). -/
def State.coolHot (s : State) (tIn tOut : Int) : State :=
  let warn : Int := 10 * (s.effFld rPwrCool 15 8 : Int)
  if warn ≤ tOut then
    if s.pwr.coolHot then s
    else ({ s with pwr := { s.pwr with coolHot := true } }).emit
      (ev 0x0507 lvChip none 0 [twos 64 tOut, twos 64 tIn, s.fld rPwrFlow 15 0])
  else if tOut ≤ warn - 20 && !coolBad tOut then { s with pwr := { s.pwr with coolHot := false } }
  else s

/-- One step of the plate model (R456). With TAU_MS 0 the manual gives no value (log entry 5). -/
def State.plateStep (s : State) (tIn : Int) : State :=
  let good : Int := if coolBad tIn then s.pwr.goodIn else tIn
  match s.pwr.plate with
  | none => if coolBad tIn then s else { s with pwr := { s.pwr with goodIn := tIn, plate := some ((tIn : Rat) / 10) } }
  | some t =>
    let tau := s.effFld rPwrModel 15 0
    let rpc : Rat := ((s.effFld rPwrModel 31 16 : Nat) : Rat) / 1000000 * (((s.effFld rPwrFlowLim 31 16 : Nat) : Rat) / 100) / max s.flow (1 / 100)
    let (k, s) := s.drawNat
    let new : Rat := if tau = 0 then (k : Rat) else t + ((good : Rat) / 10 + rpc * (s.pwr.pMeas : Rat) - t) / (tau : Rat)
    { s with pwr := { s.pwr with goodIn := good, plate := some new } }

/-- The duty of the valve (R454, R455, R458). From the assertion of a reset until its release it stays at 1000 (R474). -/
def State.dutyStep (s : State) : State :=
  if s.clk.run.isSome then s
  else match s.pwr.plate with
  | none => s.setFld rPwrValve 10 0 1000
  | some t =>
    let lo := s.effFld rPwrValve 25 16
    let integ := max (-500) (min 500 (s.pwr.integ + (t - ((s.effFld rPwrCool 7 0 : Nat) : Rat))))
    let s := { s with pwr := { s.pwr with integ := integ } }
    let pred : Rat := ((s.pwr.pMeas + s.predicted : Nat) : Rat)
    let d : Rat := (lo : Rat) + ((s.effFld rPwrValveFf 15 0 : Nat) : Rat) * pred / 1000 + integ
    let (v, s) := s.showRat (max (lo : Rat) (min 1000 d))
    s.setFld rPwrValve 10 0 (if s.pwr.flowAct || !s.pwr.sensBad.isEmpty then 1000 else min 1000 v)

/-- What the governor does at an epoch boundary (R450, R454 to R458). -/
def State.powerEpoch (s : State) (e : EpochIn) : State :=
  if !s.govOn then s
  else
    let s := s.showEpoch e
    let s := (s.limitSource e.power).hotSource e.dies
    let s := (s.coolSensor 4 e.tIn).coolSensor 5 e.tOut
    ((s.coolHot e.tIn e.tOut).plateStep e.tIn).dutyStep

/-- OUTLIER_RATE of a compute die (R158). -/
def State.outlierRate (s : State) (die : Nat) : State :=
  let mine := s.eng.ovfEpoch.filter fun x => x.1 = die
  let n := (mine.map (·.2.2)).sum
  let thr := (s.reg (rMxeNfOvfThr die)).toNat
  let parts := (mine.map (·.2.1)).eraseDups
  if n ≤ thr then s
  else s.emit (ev 0x0102 lvRegion (if parts.length = 1 then parts.head? else none) (srcOf 1 die) [n, thr])

/-- The partition of the enabled window nearest below a module fabric offset (R330). -/
def State.windowBelow (s : State) (off : Nat) : Option Nat :=
  let base (k : Nat) : Nat := (s.reg (rVrlWinLo k)).toNat + 2 ^ 32 * s.fld (rVrlWinHi k) 15 0
  let l := (List.range 64).filter fun k => bit 31 (s.reg (rVrlWinHi k)) && decide (base k ≤ off)
  (pickMin (fun a b => decide (base b < base a)) l).map fun k => s.fld (rVrlWinHi k) 20 16

/-- INBOUND_DENIED (R330). -/
def State.inboundDenied (s : State) : State :=
  let n := s.vrl.denied
  if n = 0 then s
  else
    let s := { s with vrl := { s.vrl with denied := 0 } }
    s.emit (ev 0x0306 lvChip (s.windowBelow s.vrl.lastOff) 0 [n, s.vrl.lastSrc, s.vrl.lastOff])

/-- RWL_DENIED (R505). -/
def State.rwlDenied (s : State) : State :=
  let now := s.reg rSecRwlViol
  let n := (now - s.sec.violMark).toNat
  if n = 0 then s
  else ({ s with sec := { s.sec with violMark := now } }).emit (ev 0x0704 lvChip none 0 [n, (s.reg rSecRwlAddr).toNat])

/-- The merged records of cell-level errors (R523). -/
def State.mergedRecords (s : State) : State :=
  let l := s.err.merged
  let s := { s with err := { s.err with merged := [] } }
  if bit 0 (s.reg rErrCfg) then
    l.foldl (fun s m => s.emit { code := m.code, level := lvCell, part := m.part, src := m.src, count := m.count, data := [m.d0, m.d1, m.d2, m.d3] }) s
  else s

/-- The analogue checks that run every epoch: 1 Vrela lanes (below lane 4 the vertical margin in mV, above the horizontal one in
0.01 UI), 3 Junction lanes (item KIND * 16 + die), 7 monitors (item 1 to 3, deviation in 0.01 %) (R531). A port or die that is not
fitted is never reported (R3). -/
def State.epochChecks (s : State) (l : List (Nat × Nat × Nat × Nat)) : State :=
  let bad (x : Nat × Nat × Nat × Nat) : Bool :=
    if x.1 = 1 then s.hasPort x.2.1 && decide (x.2.2.1 < if x.2.2.2 < 4 then 15 else 12)
    else if x.1 = 3 then decide (x.2.1 % 16 < dieCount s.assy (x.2.1 / 16)) && decide (x.2.2.1 < 15)
    else x.1 = 7 && decide (1 ≤ x.2.1 ∧ x.2.1 ≤ 3 ∧ 50 < x.2.2.1)
  let item (x : Nat × Nat × Nat × Nat) : Nat := if x.1 = 7 then x.2.1 else x.2.1 * 16 + x.2.2.2 % 16
  let low := l.filter bad
  let past := s.err.episodes.filter fun y => (y.1 = 1 || y.1 = 3 || y.1 = 7) && !low.any fun x => decide (y = (x.1, item x))
  let s := past.foldl (fun s y => s.analog y.1 y.2 false id) s
  low.foldl (fun s x =>
    let v := x.2.2.1
    s.analog x.1 (item x) true fun s =>
      if x.1 = 7 then s.emit (ev 0x0813 lvChip none 0 [x.2.1, v])
      else if x.1 = 1 then s.marginRecord 1 v (if x.2.2.2 < 4 then 15 else 12) (x.2.2.2 % 4) (srcOf 10 x.2.1)
      else s.marginRecord 3 v 15 x.2.2.2 (srcOf (x.2.1 / 16) (x.2.1 % 16))) s

/-- MANAGEMENT_EPOCH: the AON count reaches the next multiple of 1,200; settings take effect from this boundary on, the governor and
the valve act, and what is reported per epoch is (R31, R453, R464). -/
def managementEpochStep (e : EpochIn) (s : State) : State :=
  if !s.pins.aux then s
  else
    let s := s.advance (1200 - s.aon % 1200)
    let s := { s with latched := s.regs }
    let s := s.powerEpoch e
    let s := if s.hifReset then s else s.epochChecks e.checks
    let s := (List.range 4).foldl (fun s d => s.outlierRate d) s
    let s := { s with eng := { s.eng with ovfEpoch := [] } }
    let s := s.inboundDenied.rwlDenied.mergedRecords
    ({ s with latched := s.regs }).raiseSteps

/-- MANAGEMENT_EPOCH (R464). -/
def execManagementEpoch (e : EpochIn) (io : List IoRes) (s : State) : Host.Outcome State Fault Refusal :=
  .next (withIo io (managementEpochStep e) s)

end Sys2Proof.Machine
end

