-- ==== Sys2Proof/Machine/Ring.lean ====
section
/-! DEFINITION. The meanings of the ring engine's commands: doorbells, acceptance of Consists, attach and detach, the loss
and return of CXL.cache, and the enables of the rings (R34 to R49, R55 to R58, R60 to R67, R75 to R79, R553). -/

namespace Sys2Proof.Machine

open Sys2Proof

/-- RNG_CTL.ENABLE -/
def State.rngOn (s : State) : Bool := bit 0 (s.reg rRngCtl)

/-- Size of a ring in Waybills. -/
def ringSize (r : Ring) : Nat := 2 ^ r.log2

/-- The word of a doorbell line that a ring watches. -/
def prodOf (words : List DWord) (n : Nat) : Word := BitVec.ofNat 32 (words.getD (n % 8) 0).toNat

/-- A ring has seen a PROD: above the ring size pending it stops with RING_OVERRUN (R43). -/
def State.seeProd (s : State) (n : Nat) (prod : Word) : State :=
  match s.ring n with
  | none => s
  | some r =>
    let s := s.updRing n fun r => { r with prod := prod }
    if r.state ≠ 1 then s
    else if (prod - r.cons).toNat ≤ ringSize r then s
    else (s.stopRing n 1).emit (ev 0x0001 lvBlock (some r.part) (srcOf 11 n) [n, prod.toNat, r.cons.toNat])

/-- Act on every changed word of an attached ring in a doorbell line (R45, R47). -/
def State.seeLine (s : State) (line : Nat) (words : List DWord) : State :=
  let old := ((s.host.lines.find? fun l => l.line = line).map (·.words)).getD []
  let l := updIf (fun x => decide (x.line = line)) (fun x => { x with words := words, await := false }) s.host.lines
  let s := { s with host := { s.host with lines := l } }
  (s.host.rings.filter fun r => decide (r.state = 1 ∧ r.n / 8 = line)).foldl (fun s r =>
    if old.isEmpty || prodOf words r.n ≠ prodOf old r.n then s.seeProd r.n (prodOf words r.n) else s) s

/-- A doorbell line cannot be read: every attached ring in it stops with DB_LINE_FAULT (R49). A line that came with poison is held in
Shared state; one whose reads failed on the link is not held. -/
def State.lineFault (s : State) (line : Nat) (came : Bool) : State :=
  let rs := s.host.rings.filter fun r => decide (r.state = 1 ∧ r.n / 8 = line)
  let l := if came then updIf (fun x => decide (x.line = line)) (fun x => { x with await := false }) s.host.lines
    else s.host.lines.filter fun x => x.line ≠ line
  let s := { s with host := { s.host with lines := l } }
  let s := rs.foldl (fun s r => s.stopRing r.n 6) s
  match rs with
  | [] => s
  | r :: _ =>
    let part := if rs.all fun x => x.part = r.part then some r.part else none
    s.emit (ev 0x0006 lvBlock part 0 [line, rs.length])

/-- DOORBELL_INVALIDATION: a watched line is snooped out and awaits its re-read (R45). -/
def doorbellInvalidationStep (line : Nat) (s : State) : State :=
  { s with host := { s.host with lines := updIf (fun x => decide (x.line = line)) (fun x => { x with await := true }) s.host.lines } }

/-- DOORBELL_INVALIDATION (R45). -/
def execDoorbellInvalidation (line : Nat) (s : State) : Host.Outcome State Fault Refusal :=
  .next (doorbellInvalidationStep line s)

/-- DOORBELL_REREAD: the re-read of an invalidated line returns (R45, R47, R49). -/
def doorbellRereadStep (line : Nat) (rd : LineRead) (s : State) : State :=
  if s.cacheOk && s.host.lines.any fun x => decide (x.line = line) && x.await then
    match rd with
    | .ok words => s.seeLine line words
    | rd => s.lineFault line (rd == LineRead.poisoned)
  else s

/-- DOORBELL_REREAD (R47). -/
def execDoorbellReread (line : Nat) (rd : LineRead) (io : List IoRes) (s : State) : Host.Outcome State Fault Refusal :=
  .next (withIo io (doorbellRereadStep line rd) s)

/-- What the reads of a ring's covered Waybills show (R56 to R58): the open Consist up to END; a Consist split before a
differing STEP; a slot that cannot be read; or no END so far. -/
inductive Scan where
  | whole (ws : List Slot)
  | split (ws : List Slot)
  | bad (k : Nat)
  | more (ws : List Slot)
  deriving DecidableEq, Repr

/-- Read slots in order until the open Consist is decided. -/
def scanSlots (step : Option Nat) (acc : List Slot) : List SlotRead → Scan
  | [] => .more acc.reverse
  | .ok w :: r =>
    if step.any (· ≠ wStep w) then .split acc.reverse
    else if wEnd w then .whole ((w :: acc).reverse)
    else scanSlots (some (wStep w)) (w :: acc) r
  | _ :: _ => .bad acc.length

/-- A Waybill as accepted. -/
def newWb (wid cid ring part : Nat) (preset : Option Nat) (w : Slot) : Wb :=
  { wid := wid, cid := cid, ring := ring, part := part, slot := w, phase := .waiting, preset := preset, status := 0,
    detail := 0, src := 0, ns := 0, events := 0, kind := none, need := 0, held := [], resSince := none, faults := 0,
    firstAt := none, poison := false, quota := false, fabGone := false, fabTime := false, linkBad := false, numeric := false, holes := [],
    cut := [], lost := none }

/-- Enter a Consist with its Waybills. -/
def State.addConsist (s : State) (r : Ring) (ws : List Slot) (split : Bool) : State :=
  let cid := s.sched.nextCid
  let wid := s.sched.nextWid
  let preset := if split then some stWbFormat else none
  let c : Consist := { cid := cid, ring := r.n, part := r.part, group := r.group, step := (ws.head?.map wStep).getD 0,
                       endWid := if split then none else some (wid + ws.length - 1), started := false, split := split,
                       evicted := false, poisoned := false, preempted := false }
  { s with sched := { s.sched with
      consists := s.sched.consists ++ [c],
      wbs := s.sched.wbs ++ ws.zipIdx.map (fun x => newWb (wid + x.2) cid r.n r.part preset x.1),
      nextWid := wid + ws.length, nextCid := cid + 1 } }

/-- CONS passes Waybills that have been read, and the context is written (R41). -/
def State.passCons (s : State) (n k : Nat) (step : Option Nat) : State :=
  (s.updRing n fun r => { r with cons := r.cons + BitVec.ofNat 32 k,
                                  lastStep := (step.map (BitVec.ofNat 32)).getD r.lastStep }).saveCtx n

/-- A partition goes from no open Consist to one: V is raised to the lowest V of the busy partitions (R419). -/
def State.raiseV (s : State) (p : Nat) : State :=
  if !(s.openOf p).isEmpty then s
  else
    let vs := (s.sched.parts.filter fun x => decide (x.p ≠ p) && !(s.openOf x.p).isEmpty).map fun x => x.v.toNat
    match vs with
    | [] => s.updPart p fun x => { x with rem := 0 }
    | v :: r =>
      let low := r.foldl min v
      s.updPart p fun x => { x with v := if x.v.toNat < low then BitVec.ofNat 64 low else x.v, rem := 0 }

/-- The power hint of a RUN_TIMETABLE of a partition: engine kind, SPREAD, MEAN_W, PEAK_W, CLASS; none when the read faults or meets
poison, or MAGIC is wrong (R447). -/
def State.hintOf (s : State) (p : Nat) (w : Slot) : Option (EngKind × Nat × Nat × Nat × Nat) :=
  let a := wArg w 0
  let b := s.readBytes a 0x48
  if wOpcode w ≠ opRunTt || !rangeInPart p a 0x48 || ((s.touches [(a, 0x48)]).any fun x => s.accPage false (pageOf x.1) = .fault)
      || s.readBad a 0x48 || leNat (b.take 4) ≠ 0x54545842 then none
  else
    let hw := rdN b 0x18 8
    let pw := rdN b 0x40 8
    let k : Option EngKind := match rdN b 6 1 with
      | 1 => some .mxe | 2 => some .vxe | 3 => some .cve | _ => none
    k.map fun k => (k, bitsN 44 40 hw, bitsN 15 0 pw, bitsN 31 16 pw, bitsN 35 32 pw)

/-- What an accepted Consist hints (R447, R448). A RUN_TIMETABLE whose hint was not read is of no known kind, and adds to none
(DEDUCED, log entry 97). -/
def State.predictOf (s : State) (cid p : Nat) (ws : List Slot) : Predict :=
  let hs := ws.filterMap (s.hintOf p)
  let terms := [EngKind.mxe, .vxe, .cve].filterMap fun k =>
    let mine := hs.filter fun h => h.1 = k
    if mine.isEmpty then none else some (k, (mine.map fun h => h.2.1).foldl max 0, mine.map fun h => h.2.2.1)
  { cid := cid, part := p, terms := terms, live := true,
    hints := (hs.filter fun h => decide (h.2.2.1 ≠ 0)).map fun h => (h.2.2.2.1, h.2.2.2.2) }

/-- Is a group ready for new Consists: enabled, holding no record, its completion ring not full (R61, R553)? -/
def State.grpOpen (s : State) (g : Nat) : Bool := ((s.grp g).any fun x => x.held.isEmpty && !x.fault) && !s.grpFull g

/-- The swap partition that is served next: that of the first ring whose covered Consist waits and may still be accepted (R433). -/
def State.swapTurn (s : State) : Option Nat :=
  s.sched.swapWait.findSome? fun n => (s.ring n).bind fun r => if r.state = 1 && s.swapMode r.part then some r.part else none

/-- Does its partition let a ring accept a Consist now: it exists, MAX_OPEN leaves room, and no other swap partition is
active or was covered earlier (R420, R432, R433)? -/
def State.roomFor (s : State) (p : Nat) : Bool :=
  (s.part p).isSome && decide ((s.openOf p).length < s.maxOpen p)
  && (!s.swapMode p || ((match s.sched.swapOwner with
        | none => true
        | some o => decide (o = p)) && (match s.swapTurn with
        | none => true
        | some q => decide (q = p))))

/-- A covered Consist of a swap partition waits for its turn, by its ring (R433). -/
def State.queueSwap (s : State) (r : Ring) : State :=
  if s.swapMode r.part then { s with sched := { s.sched with swapWait := addOnce r.n s.sched.swapWait } } else s

/-- Wake C and N of the compute dies in a partition's masks (R466). -/
def State.wakeFor (s : State) (p : Nat) : State :=
  (List.range 4).foldl (fun s n =>
    if [EngKind.mxe, .vxe, .cve].any fun k => (List.range (kindCount s.assy k)).any fun i =>
        s.inMask p k i && decide (dieOf k i = (1, n)) then (s.wake (5 + n)).wake (9 + n) else s) s

/-- A Consist is accepted (R56, R419, R433, R447, R466). -/
def State.accept (s : State) (r : Ring) (ws : List Slot) : State :=
  let s := s.raiseV r.part
  let cid := s.sched.nextCid
  let pr := s.predictOf cid r.part ws
  let s := s.addConsist r ws false
  let wbs := s.sched.wbs.map fun (w : Wb) => if w.cid = cid then { w with kind := (s.hintOf w.part w.slot).map (·.1) } else w
  let s := { s with sched := { s.sched with wbs := wbs } }
  let s := { s with pwr := { s.pwr with predicts := s.pwr.predicts ++ [pr] } }
  let s := if s.swapMode r.part then
      { s with sched := { s.sched with swapOwner := some r.part, swapWait := s.sched.swapWait.filter (· ≠ r.n) } } else s
  let s := s.passCons r.n ws.length (ws.head?.map wStep)
  (s.wakeFor r.part).examine

/-- CONSIST_ACCEPT: the covered Waybills of a ring are read and its open Consist is accepted, split or refused
(R56 to R58). A completion ring that appears full has its head word read first, and held records are written into the room that it
shows (R61, log entry 88). -/
def consistAcceptStep (n : Nat) (slots : List SlotRead) (s : State) : State :=
  match s.ring n with
  | none => s
  | some r =>
    let s := if s.grpFull r.group && s.cacheOk then ((s.grpPoll r.group).flush r.group).settle else s
    let pend := (r.prod - r.cons).toNat
    if !s.rngOn || !s.cacheOk || r.state ≠ 1 || !s.grpOpen r.group then s
    else match scanSlots none [] (slots.take pend) with
      | .bad k =>
        let slot := (r.cons.toNat + k) % ringSize r
        s.faultRing r (r.base.toNat + 64 * slot) slot
      | .split ws =>
        let s := (s.passCons n ws.length none).addConsist r ws true
        s.emit (ev 0x0002 lvBlock (some r.part) (srcOf 11 n) [n, (ws.head?.map wStep).getD 0, ws.length])
      | .more ws =>
        if ws.length = ringSize r then
          let s := (s.passCons n ws.length none).addConsist r ws true
          s.emit (ev 0x0003 lvBlock (some r.part) (srcOf 11 n) [n, (ws.head?.map wStep).getD 0, ringSize r])
        else s
      | .whole ws => if (s.queueSwap r).roomFor r.part then s.accept r ws else s.queueSwap r

/-- CONSIST_ACCEPT (R56). -/
def execConsistAccept (n : Nat) (slots : List SlotRead) (io : List IoRes) (s : State) : Host.Outcome State Fault Refusal :=
  .next (withIo io (consistAcceptStep n slots) s)

/-- CACHE_LOSS: CXL.cache falls or the link goes down; with the ring engine on, the watched lines are dropped and what
would be written is held from now on (R35). With ENABLE 0 the rings that still drain are written for as before; CACHE_EN falls with
the link, and MEM_EN, IDE_IO and IDE_CM keep what the host set (DESIGN CHOICE, log entry 93). -/
def cacheLossStep (linkDown : Bool) (s : State) : State :=
  let s := if linkDown then s.setFld rHifLinkStatus 10 0 0 else s.setFld rHifLinkStatus 10 10 0
  if s.rngOn && s.cacheOk then { s with host := { s.host with lines := [], lostSince := some s.aon } } else s

/-- CACHE_LOSS (R35). -/
def execCacheLoss (linkDown : Bool) (s : State) : Host.Outcome State Fault Refusal := .next (cacheLossStep linkDown s)

/-- Write one thing that was held (R35). -/
def State.writeHeld (s : State) : HeldWrite → State
  | .record g r => s.writeRec g r
  | .event e => s.emit e
  | .context r => match s.writeCtx r with
    | (true, s) => s
    | (false, s) =>
      let s := s.updRing r.n fun r => if r.state = 3 then r else { r with state := 2, cause := 7 }
      s.emit (ringFaultEv r (s.ctxAddr r.n) 0xFFFFFFFF)

/-- Acquire a doorbell line in Shared state (R44). -/
def State.watch (s : State) (line : Nat) : State :=
  if s.host.lines.any fun l => l.line = line then s
  else { s with host := { s.host with
    lines := insertByKey (·.line) { line := line, words := [], await := true } s.host.lines } }

/-- What a read of a doorbell line gave is acted on; a line without a read waits for its re-read. -/
def State.lineCame (s : State) (line : Nat) : Option LineRead → State
  | some (.ok words) => s.seeLine line words
  | some rd => s.lineFault line (rd == LineRead.poisoned)
  | none => s

/-- Is a rate and width one that the link trains to (R33)? -/
def linkOk (speed width : Nat) : Bool := decide (1 ≤ speed ∧ speed ≤ 4) && [16, 8, 4].contains width

/-- CACHE_RETURN: the lines are acquired again, what was held is written in order, and then CACHE_LOST; raises that were kept go out
(R35). "Rings attached" of CACHE_LOST counts every ring that is not detached (DESIGN CHOICE, log entry 87). -/
def cacheReturnStep (speed width : Nat) (reads : List (Nat × LineRead)) (s : State) : State :=
  if !s.ready || !linkOk speed width then s else
  let s := ((s.setFld rHifLinkStatus 3 0 speed).setFld rHifLinkStatus 8 4 width).setFld rHifLinkStatus 10 9 3
  match s.host.lostSince with
  | none => s.unmaskAll
  | some t =>
    let lines := (sortByKey id ((s.host.rings.filter fun r => decide (r.state ≠ 0)).map fun r => r.n / 8)).eraseDups
    let s := lines.foldl (fun s l => (s.watch l).lineCame l ((reads.find? fun x => x.1 = l).map (·.2))) s
    let held := s.host.held
    let records := (held.filter fun x => match x with | .record _ _ => true | _ => false).length
    let s := { s with host := { s.host with held := [], lostSince := none } }
    let s := s.host.groups.foldl (fun s x => s.flush x.g) s
    let s := held.foldl State.writeHeld s
    (s.emit (ev 0x0008 lvChip none 0 [s.aon - t, records, s.host.rings.length])).unmaskAll.settle

/-- CACHE_RETURN (R35). -/
def execCacheReturn (speed width : Nat) (reads : List (Nat × LineRead)) (io : List IoRes) (s : State) :
    Host.Outcome State Fault Refusal :=
  .next (withIo io (cacheReturnStep speed width reads) s)

/-- Result of a ring command (R75). -/
def State.rngResult (s : State) (v : Nat) : State := s.setFld rRngCmdStatus 7 4 v

/-- May RNG_CTL.ENABLE be set: 0 yes, else the RESULT that refuses it (R34, R38)? -/
def State.rngRefusal (s : State) : Nat :=
  let c := s.reg64 rRngCtxBaseLo
  let d := s.reg64 rRngDbBaseLo
  if !s.cacheEn then 3
  else if c % 2 ^ 21 ≠ 0 || c ≥ 2 ^ 52 || d % 2 ^ 18 ≠ 0 || d ≥ 2 ^ 52 then 2
  else 0

/-- RNG_ENABLE (R34, R38, R75). -/
def rngEnableStep (s : State) : State :=
  if !s.barOpen rRngCtl || s.rngOn then s
  else if s.rngRefusal = 0 then s.setFld rRngCtl 0 0 1
  else s.rngResult s.rngRefusal

/-- RNG_ENABLE. -/
def execRngEnable (s : State) : Host.Outcome State Fault Refusal := .next (rngEnableStep s)

/-- Act on a ring's STATE as DETACH does (R79): a ring in STATE 2 is forgotten at once, one in STATE 1 begins to drain. A ring that
is no longer stopped has CAUSE 0 (R39; DESIGN CHOICE, log entry 87). When the context write of a DETACH in STATE 2 fails, RING_FAULT is
written and the ring is detached all the same (DESIGN CHOICE, log entry 93). -/
def State.detachRing (s : State) (r : Ring) : State :=
  if r.state = 2 then
    let s := s.updRing r.n fun r => { r with state := 0, cause := 0 }
    (s.saveCtx r.n).forgetRing r.n
  else if r.state = 1 then (s.updRing r.n fun r => { r with state := 3 }).saveCtx r.n
  else s

/-- A group's held records are discarded. -/
def State.dropHeld (s : State) (x : Group) : State :=
  (x.held.foldl (fun s r => s.dropWb r.wid) s).updGrp x.g fun x => { x with held := [], fault := false, stalled := false, reported := false }

/-- The rings detach with nothing written, as when the engine is turned off before CXL.cache returns: held and later records are
discarded, events counted as lost, and accepted Consists run to their end (R35). -/
def State.abandonRings (s : State) : State :=
  let s := s.host.held.foldl (fun s h => match h with
    | .record _ r => s.dropWb r.wid
    | .event _ => s.bump rRngEvqLost 1
    | .context _ => s) s
  let s := s.host.groups.foldl State.dropHeld s
  let cs := s.sched.consists.map fun c => { c with group := 0xFFFF }
  let rs := (s.host.rings.filter fun r => r.state ≠ 2).map fun r => { r with state := 3, mute := true }
  { s with host := { s.host with rings := rs, lines := [], held := [], lostSince := none },
           sched := { s.sched with consists := cs } }

/-- RNG_DISABLE: clearing ENABLE detaches every ring as DETACH does (R35, R75). -/
def rngDisableStep (s : State) : State :=
  if !s.barOpen rRngCtl || !s.rngOn then s
  else
    let s := s.setFld rRngCtl 0 0 0
    if s.cacheOk then s.host.rings.foldl (fun s r => s.detachRing r) s else s.abandonRings.settle

/-- RNG_DISABLE. -/
def execRngDisable (io : List IoRes) (s : State) : Host.Outcome State Fault Refusal := .next (withIo io rngDisableStep s)

/-- Does a context break R38, R39 or R78 for ATTACH? -/
def State.ctxBad (s : State) (w : Slot) : Bool :=
  cReservedBad w || decide (cLog2 w < 4) || decide (16 < cLog2 w) || cBase w % 4096 ≠ 0 || decide (2 ^ 52 ≤ cBase w)
    || (s.grp (cGroup w)).isNone || s.fld (rRngGrpCfg (cGroup w)) 21 17 ≠ cPart w

/-- ATTACH (R78): the first condition that fails gives RESULT; otherwise the ring is attached and its PROD acted on. While CXL.cache is
away the context cannot be read, which gives FAULT; a first read of PROD that is poisoned or fails stops the line's rings as a
re-read does (R49), after a RESULT of DONE (DESIGN CHOICE, log entry 87). -/
def attachStep (n : Nat) (ctx : SlotRead) (rd : LineRead) (s : State) : State :=
  s.byCmd rRngCmd rRngCmdStatus (fun w => bits 14 0 w = n && bits 17 16 w = 1) fun s =>
  if !s.rngOn then s.rngResult 5
  else if (s.ring n).isSome then s.rngResult 1
  else if !s.cacheOk then s.rngResult 4
  else match ctx with
    | .ok w =>
      if s.ctxBad w then s.rngResult 2
      else
        let r : Ring := { n := n, state := 1, cause := 0, cons := cConsInit w, prod := cConsInit w,
                          lastStep := Config.freeWord s.free, base := BitVec.ofNat 64 (cBase w), log2 := cLog2 w,
                          group := cGroup w, part := cPart w, mute := false }
        let s := { s with free := s.free + 1, host := { s.host with rings := s.host.rings ++ [r] } }
        let s := s.watch (n / 8)
        match s.writeCtx r with
        | (false, s) => (s.forgetRing n).rngResult 4
        | (true, s) => ((match rd with
            | .ok words => (s.seeLine (n / 8) words).seeProd n (prodOf words n)
            | rd => s.lineFault (n / 8) (rd == LineRead.poisoned))).rngResult 0
    | _ => s.rngResult 4

/-- ATTACH. -/
def execAttach (n : Nat) (ctx : SlotRead) (rd : LineRead) (io : List IoRes) (s : State) : Host.Outcome State Fault Refusal :=
  .next (withIo io (attachStep n ctx rd) s)

/-- DETACH (R79). -/
def detachStep (n : Nat) (s : State) : State :=
  s.byCmd rRngCmd rRngCmdStatus (fun w => bits 14 0 w = n && bits 17 16 w = 2) fun s =>
  match s.ring n with
    | none => s.rngResult 0
    | some r => if r.state = 3 then s.rngResult 1 else (s.detachRing r).rngResult 0

/-- DETACH. -/
def execDetach (n : Nat) (io : List IoRes) (s : State) : Host.Outcome State Fault Refusal :=
  .next (withIo io (detachStep n) s)

/-- RING_DRAIN_END: every accepted Consist of a draining ring has completed; the final CONS and STATE 0 are written and the
line is released (R79); of a ring abandoned under R35 nothing is written. -/
def ringDrainEndStep (n : Nat) (s : State) : State :=
  match s.ring n with
  | none => s
  | some r =>
    if r.state ≠ 3 || s.sched.consists.any fun c => c.ring = n then s
    else if r.mute then s.forgetRing n
    else match s.writeCtx { r with state := 0 } with
      | (true, s) => s.forgetRing n
      | (false, s) => (s.emit (ringFaultEv r (s.ctxAddr n) 0xFFFFFFFF)).forgetRing n

/-- RING_DRAIN_END. -/
def execRingDrainEnd (n : Nat) (io : List IoRes) (s : State) : Host.Outcome State Fault Refusal :=
  .next (withIo io (ringDrainEndStep n) s)

/-- Are a ring's base and head-word addresses legal (R38)? -/
def baseHeadOk (base head : Nat) : Bool :=
  base % 4096 = 0 && decide (base < 2 ^ 52) && head % 8 = 0 && decide (head < 2 ^ 52)

/-- EVQ_ENABLE: a write of RNG_EVQ_CFG (R38, R67, R75). -/
def evqEnableStep (w : Word) (s : State) : State :=
  if !s.barOpen rRngEvqCfg then s
  else if s.evqOn then (s.setFld rRngEvqCfg 15 5 (bits 15 5 w)).setFld rRngEvqCfg 16 16 (bits 16 16 w)
  else
    let s := s.setFld rRngEvqCfg 15 0 (bits 15 0 w)
    let l := bits 4 0 w
    if bit 16 w && decide (4 ≤ l ∧ l ≤ 16) && baseHeadOk (s.reg64 rRngEvqBaseLo) (s.reg64 rRngEvqHeadLo) then
      let s := s.setFld rRngEvqCfg 16 16 1
      ({ s with host := { s.host with evqCount := 0, evqHead := 0 } }).evqLostPut
    else s

/-- EVQ_ENABLE. -/
def execEvqEnable (w : Word) (io : List IoRes) (s : State) : Host.Outcome State Fault Refusal :=
  .next (withIo io (evqEnableStep w) s)

/-- GRP_ENABLE: a write of RNG_GRP_CFG g (R38, R60, R76). Records that the group still holds when EN is cleared are discarded and
their Waybills are done with (DESIGN CHOICE, log entry 87). -/
def grpEnableStep (g : Nat) (w : Word) (s : State) : State :=
  if !s.barOpen (rRngGrpCfg g) then s
  else if (s.grp g).isSome then
    if bit 31 w || s.host.rings.any fun r => r.group = g then s
    else
      let held := ((s.grp g).map (·.held)).getD []
      let s := s.setFld (rRngGrpCfg g) 31 31 0
      let s := { s with host := { s.host with groups := s.host.groups.filter (fun x => x.g ≠ g) } }
      if held.isEmpty then s else (held.foldl (fun s r => s.dropWb r.wid) s).settle
  else
    let s := s.setFld (rRngGrpCfg g) 21 0 (bits 21 0 w)
    let l := bits 4 0 w
    if bit 31 w && decide (4 ≤ l ∧ l ≤ 16) && baseHeadOk (s.reg64 (rRngGrpBaseLo g)) (s.reg64 (rRngGrpHeadLo g)) then
      let x : Group := { g := g, written := 0, head := 0, held := [], fault := false, stalled := false, reported := false,
                         gapRun := false, gapPend := false }
      let s := s.setFld (rRngGrpCfg g) 31 31 1
      { s with host := { s.host with groups := s.host.groups ++ [x] } }
    else s

/-- GRP_ENABLE. -/
def execGrpEnable (g : Nat) (w : Word) (_io : List IoRes) (s : State) : Host.Outcome State Fault Refusal :=
  .next (grpEnableStep g w s)

/-- GRP_FAULT_RETRY: 1 written to RNG_GRP_STATUS.FAULT; the held records are written in order (R553). -/
def grpFaultRetryStep (g : Nat) (s : State) : State :=
  if s.barOpen (rRngGrpStatus g) && (s.grp g).any fun x => x.fault then
    ((s.updGrp g fun x => { x with fault := false }).flush g).settle
  else s

/-- GRP_FAULT_RETRY. -/
def execGrpFaultRetry (g : Nat) (io : List IoRes) (s : State) : Host.Outcome State Fault Refusal :=
  .next (withIo io (grpFaultRetryStep g) s)

/-- MSIX_GAP_EXPIRE: the gap ends; a merged raise is sent and starts the next gap (R62). -/
def msixGapExpireStep (g : Nat) (s : State) : State :=
  match s.grp g with
  | none => s
  | some x =>
    if !x.gapRun then s
    else if x.gapPend then
      (s.raise (s.fld (rRngGrpCfg g) 15 5)).updGrp g fun x => { x with gapPend := false }
    else s.updGrp g fun x => { x with gapRun := false }

/-- MSIX_GAP_EXPIRE. -/
def execMsixGapExpire (g : Nat) (s : State) : Host.Outcome State Fault Refusal := .next (msixGapExpireStep g s)

/-- GRP_HEAD_POLL: while records are held, the completion head word is read again (R61). -/
def grpHeadPollStep (g : Nat) (s : State) : State :=
  if s.cacheOk && (s.grp g).any fun x => !x.held.isEmpty && !x.fault then ((s.grpPoll g).flush g).settle else s

/-- GRP_HEAD_POLL. -/
def execGrpHeadPoll (g : Nat) (io : List IoRes) (s : State) : Host.Outcome State Fault Refusal :=
  .next (withIo io (grpHeadPollStep g) s)

/-- CQ_STALL: a completion ring has stayed full for one epoch; the event is written once per stall (R61). -/
def cqStallStep (g : Nat) (s : State) : State :=
  match s.grp g with
  | none => s
  | some x =>
    if x.stalled && !x.reported && !x.held.isEmpty then
      (s.updGrp g fun x => { x with reported := true }).emit
        (ev 0x0004 lvBlock (some (s.fld (rRngGrpCfg g) 21 17)) (srcOf 14 g) [g, x.held.length])
    else s

/-- CQ_STALL. -/
def execCqStall (g : Nat) (s : State) : Host.Outcome State Fault Refusal := .next (cqStallStep g s)

/-- EVQ_HEAD_POLL: while events are lost and EN is 1, the event head word is read again; with space, EVQ_LOST is written
(R67). -/
def evqHeadPollStep (s : State) : State :=
  if s.cacheOk && s.cacheEn && s.evqOn && decide (s.reg rRngEvqLost ≠ 0) then s.evqPoll.evqLostPut else s

/-- EVQ_HEAD_POLL. -/
def execEvqHeadPoll (io : List IoRes) (s : State) : Host.Outcome State Fault Refusal := .next (withIo io evqHeadPollStep s)

end Sys2Proof.Machine
end

