-- ==== Sys2Proof/Machine/Reset.lean ====
section
/-! DEFINITION. The meanings of the commands of clocks and resets: sleep and wake, the sources of resets, release, readiness, block
resets, fences and restarts (R463 to R488), and RESET_CMD (R327). -/

namespace Sys2Proof.Machine

open Sys2Proof

/-! ### Sleep and wake -/

/-- Domains that may sleep (R463). -/
def sleeps (a : Assembly) (d : Nat) : Bool := (asmDomains a).contains d && decide (d = 4 ∨ (5 ≤ d ∧ d ≤ 12) ∨ (17 ≤ d ∧ d ≤ 20) ∨ 22 ≤ d)

/-- Is a domain kept warm by a partition that exists, or forced (R467)? CLK_WARM applies from the epoch boundary (R31). -/
def State.heldOn (s : State) (d : Nat) : Bool :=
  sleeps s.assy d && (bit d (s.reg rClkForce) || s.sched.parts.any fun x => bit d (s.eff (rClkWarm x.p)))

/-- Has a domain work (R465)? An access to HBM counts for IDLE_US. Junction traffic is over within the command that makes it, and waits with
its engine, its open port or its collective (DEDUCED, log entry 97). -/
def State.domainBusy (s : State) (d : Nat) : Bool :=
  let onDie (n : Nat) : Bool :=
    (s.sched.insts.any fun x => decide (dieOf x.1.1 x.1.2 = (1, n)) && (match x.2 with | .reserved _ => false | _ => true))
    || (s.eng.runs.any fun r => decide (r.recv = n) && r.tt.isEmpty)
    || (s.pwr.ballast.any fun b => b.mxe / 4 = n) || (s.err.slices.any fun x => decide (dieOf x.kind x.inst = (1, n)))
  if d = 4 then !s.err.slices.isEmpty || decide (2 ≤ s.fld rSecDbg 1 0)
  else if 5 ≤ d ∧ d ≤ 8 then onDie (d - 5)
  else if 9 ≤ d ∧ d ≤ 12 then bit (d - 4) (s.reg rClkRun)
  else if 17 ≤ d ∧ d ≤ 20 then
    (s.place.moves.any fun m => decide (m.page % 4 = d - 17 ∧ (m.src = .hbm ∨ m.dst = .hbm)))
    || s.place.pages.any fun g => decide (g.num % 4 = d - 17 ∧ g.place = .hbm ∧ 10 * s.aon < 10 * g.last + 12 * s.effFld rClkSleep 15 0)
  else (s.vrl.ports.any fun p => decide (p.n / 25 = d - 21) && p.en) || s.colls.list.any fun c => c.cle = d - 21

/-- DOMAIN_SLEEP: a domain without work for IDLE_US stops, unless it is warm or forced or sleep is off (R465, R467). -/
def domainSleepStep (d : Nat) (s : State) : State :=
  if sleeps s.assy d && bit d (s.reg rClkRun) && s.clk.run.isNone && decide (s.effFld rClkSleep 16 16 = 1) && !s.heldOn d
      && !s.domainOff d && !s.domainBusy d then s.setFld rClkRun d d 0
  else s

/-- DOMAIN_SLEEP (R465). -/
def execDomainSleep (d : Nat) (s : State) : Host.Outcome State Fault Refusal := .next (domainSleepStep d s)

/-- DOMAIN_WAKE: work reaches a sleeping domain and its PLL starts (R466). -/
def domainWakeStep (d : Nat) (s : State) : State := s.wake d

/-- DOMAIN_WAKE (R466). -/
def execDomainWake (d : Nat) (s : State) : Host.Outcome State Fault Refusal := .next (domainWakeStep d s)

/-- PLL_LOCK: a PLL that was locking has locked: a domain that woke runs; one in reset, or of a die being restarted, may be released
(R466, R477, R484). -/
def pllLockStep (d : Nat) (s : State) : State :=
  if !bit d (s.reg rClkLocking) then s
  else
    let s := s.setFld rClkLocking d d 0
    match s.clk.run with
    | some r =>
      if r.inReset.contains d then
        { s with clk := { s.clk with run := some { r with locked := r.locked ++ [(d, s.aon)] } } }
      else if s.domainOff d then s else s.setFld rClkRun d d 1
    | none => match s.clk.restart.filter fun x => (dieDomains x.kind x.die).contains d with
      | some x => { s with clk := { s.clk with restart := some { x with locked := x.locked ++ [(d, s.aon)] } } }
      | none => if s.domainOff d then s else s.setFld rClkRun d d 1

/-- PLL_LOCK (R466). -/
def execPllLock (d : Nat) (s : State) : Host.Outcome State Fault Refusal := .next (pllLockStep d s)

/-- CLK_FORCE_WRITE: CLK_FORCE carries sleepable domains only; a forced domain wakes (R466, R467, R487). -/
def clkForceWriteStep (w : Word) (s : State) : State :=
  if !s.barOpen rClkForce then s
  else
    let ds := (List.range 25).filter (sleeps s.assy)
    let s := s.writeReg rClkForce (w &&& maskOf ds)
    ds.foldl (fun s d => if bit d w then domainWakeStep d s else s) s

/-- CLK_FORCE_WRITE (R467). -/
def execClkForceWrite (w : Word) (s : State) : Host.Outcome State Fault Refusal := .next (clkForceWriteStep w s)

/-- CXL_REFERENCE_CLOCK_CHANGE: HIF follows the CXL reference clock while it is present (R463, R541). -/
def cxlReferenceClockChangeStep (present : Bool) (s : State) : State := { s with pins := { s.pins with refClk := present } }

/-- CXL_REFERENCE_CLOCK_CHANGE (R463). -/
def execCxlReferenceClockChange (present : Bool) (s : State) : Host.Outcome State Fault Refusal :=
  .next (cxlReferenceClockChangeStep present s)

/-! ### Sources of resets -/

/-- CRYSTAL_LOST: CHIP reset with source CLOCK, held until the crystal runs again (R464, R471). -/
def crystalLostStep (s : State) : State := ({ s with clk := { s.clk with xtalOk := false } }).assertReset 5 4 true

/-- CRYSTAL_LOST (R464). -/
def execCrystalLost (s : State) : Host.Outcome State Fault Refusal := .next (crystalLostStep s)

/-- AON_RAIL_UP: the auxiliary rail comes up: the straps are sampled and the POWER_ON reset is taken (R471, R543). -/
def aonRailUpStep (busSel : Bool) (addr : Nat) (s : State) : State :=
  let s := { s with pins := { s.pins with aux := true, strapI3c := busSel, strapAddr := addr % 4, busSel := busSel, addr := addr % 4 } }
  s.assertReset 1 5 true

/-- AON_RAIL_UP (R471). -/
def execAonRailUp (busSel : Bool) (addr : Nat) (s : State) : Host.Outcome State Fault Refusal := .next (aonRailUpStep busSel addr s)

/-- AUXILIARY_RAIL_LOSS: the input is below 12.0 V: the AON state is lost, and nothing goes on until the rail comes up again
(R471, R544). RST_OUT_N is held low. -/
def auxiliaryRailLossStep (s : State) : State :=
  let s := s.clearAll
  let scope := resetScope s.assy 5
  let r : RstRun := { kind := 5, holds := [1], scope := scope, inReset := scope, locked := [], failed := [], start := 0, lastRel := 0,
                      trip := 0, stuck := false }
  let s := s.setReg rClkRun 0
  ({ s with clk := { s.clk with run := some r }, pins := { s.pins with aux := false } }).put (.pin 17 0)

/-- AUXILIARY_RAIL_LOSS (R544). -/
def execAuxiliaryRailLoss (s : State) : Host.Outcome State Fault Refusal := .next (auxiliaryRailLossStep s)

/-- POWER_GOOD_FALL: the input falls below 40.0 V: the brown-out reset (R441, R451, R471). -/
def powerGoodFallStep (s : State) : State := (s.setFld rPwrTrip 1 1 1).assertReset 2 4 true

/-- POWER_GOOD_FALL (R441). -/
def execPowerGoodFall (s : State) : Host.Outcome State Fault Refusal := .next (powerGoodFallStep s)

/-- INPUT_SWITCH_OPEN: the input switch opens above 60.5 V (R441, R471). -/
def inputSwitchOpenStep (s : State) : State := s.assertReset 3 4 true

/-- INPUT_SWITCH_OPEN (R441). -/
def execInputSwitchOpen (s : State) : Host.Outcome State Fault Refusal := .next (inputSwitchOpenStep s)

/-- THERMAL_TRIP: a compute die's sensor reaches PWR_THERM.TRIP (R451, R471). -/
def thermalTripStep (die : Nat) (s : State) : State :=
  if 4 ≤ die then s else ((s.setFld rPwrTrip 0 0 1).setFld rPwrTrip 3 2 die).assertReset 4 4 true

/-- THERMAL_TRIP (R451). -/
def execThermalTrip (die : Nat) (s : State) : Host.Outcome State Fault Refusal := .next (thermalTripStep die s)

/-- WATCHDOG_EXPIRE: the watchdog's count has reached 0 (R473). -/
def watchdogExpireStep (s : State) : State := if s.reg rRstWdog = 0 then s.assertReset 6 4 false else s

/-- WATCHDOG_EXPIRE (R473). -/
def execWatchdogExpire (s : State) : Host.Outcome State Fault Refusal := .next (watchdogExpireStep s)

/-- Does the management firmware run (R494)? -/
def State.firmwareOn (s : State) : Bool := s.sec.fw.isSome && s.clk.run.all fun r => !r.inReset.contains 1

/-- WATCHDOG_RESTART: the management firmware restarts the watchdog (R473). -/
def watchdogRestartStep (s : State) : State := if s.firmwareOn then s.setReg rRstWdog 2400000 else s

/-- WATCHDOG_RESTART (R473). -/
def execWatchdogRestart (s : State) : Host.Outcome State Fault Refusal := .next (watchdogRestartStep s)

/-- PERST_ASSERT (R471, R541). -/
def perstAssertStep (s : State) : State := ({ s with pins := { s.pins with perst := true } }).assertReset 7 3 true

/-- PERST_ASSERT (R471). -/
def execPerstAssert (s : State) : Host.Outcome State Fault Refusal := .next (perstAssertStep s)

/-- HOT_RESET: secondary bus reset or link hot reset (R471). -/
def execHotReset (s : State) : Host.Outcome State Fault Refusal := .next (s.assertReset 8 3 false)

/-- FUNCTION_LEVEL_RESET (R469, R471). -/
def execFunctionLevelReset (s : State) : Host.Outcome State Fault Refusal := .next (s.assertReset 9 2 false)

/-- Is a byte one of the kind codes that a command may carry (R472)? -/
def kindCodeOk (k : Nat) : Bool := decide (k = 1 ∨ k = 3 ∨ k = 4)

/-- MCTP_RESET: the BMC's reset command; another kind code is refused with an error completion (R471, R472). The firmware answers
it. -/
def mctpResetStep (kind : Nat) (s : State) : State :=
  if !s.firmwareOn then s
  else if kindCodeOk kind then (s.put (.mgmt 0x20 [0])).assertReset 11 kind false
  else s.put (.mgmt 0x20 [1])

/-- MCTP_RESET (R472). -/
def execMctpReset (kind : Nat) (s : State) : Host.Outcome State Fault Refusal := .next (mctpResetStep kind s)

/-- RESET_CMD: the switch's reset command, when RESET_EN is 1 (R326, R327, R472). -/
def resetCmdStep (port : Option Nat) (s : State) : State :=
  match s.takeMgt port 0x26 with
  | none => s
  | some (m, s) =>
    let kind := bitsN 7 0 m.mdata
    if m.src ≠ 0xFFFF || !bit 0 (s.reg rVrlMgtCfg) || !kindCodeOk kind then s.misroute
    else s.assertReset 10 kind false

/-- RESET_CMD (R327). -/
def execResetCmd (port : Option Nat) (s : State) : Host.Outcome State Fault Refusal := .next (resetCmdStep port s)

/-- RESET_HOLD_END: the hold of a source ends, that of a thermal trip not before 1,200,000 AON cycles since it asserted (R464, R471). -/
def resetHoldEndStep (source : Nat) (s : State) : State :=
  if source = 4 && s.clk.run.any fun r => decide (s.aon < r.trip + 1200000) then s
  else
  let pins := if source = 7 then { s.pins with perst := false } else s.pins
  let run := s.clk.run.map fun r => { r with holds := r.holds.filter (· ≠ source) }
  { s with pins := pins, clk := { s.clk with run := run, xtalOk := s.clk.xtalOk || decide (source = 5) } }

/-- RESET_HOLD_END (R471). -/
def execResetHoldEnd (source : Nat) (s : State) : Host.Outcome State Fault Refusal := .next (resetHoldEndStep source s)

/-! ### Release -/

/-- The order of release (R477). -/
def releaseOrder (a : Assembly) : List Nat :=
  [1, 2, 4, 13, 14, 15, 16, 17, 18, 19, 20, 9, 10, 11, 12, 5, 6, 7, 8] ++ (List.range (asmIoDies a)).map (21 + ·) ++ [3]

/-- The domain that is released next. -/
def RstRun.nextDomain (r : RstRun) (a : Assembly) : Option Nat := (releaseOrder a).find? fun d => r.inReset.contains d

/-- Gap in AON cycles before a domain's release (R477). -/
def RstRun.gap (r : RstRun) (d : Nat) : Nat :=
  if d = 1 then 24 else if d = 2 || d = 3 then 8 else if d = 4 && !r.scope.contains 1 then 24 else 4

/-- Domains leave reset; with the last one the release is over. -/
def State.releaseDomains (s : State) (r : RstRun) (ds : List Nat) : State :=
  let left := r.inReset.filter fun d => !ds.contains d
  let s := s.setReg rClkRun (s.reg rClkRun ||| maskOf ds)
  let run := if left.isEmpty then none else some { r with inReset := left, lastRel := s.aon }
  { s with clk := { s.clk with run := run } }

/-- May the common edge of a BXV1-H12F4 come (R478, R479)? -/
def State.commonEdge (s : State) (r : RstRun) : Bool :=
  decide (r.start + 24 ≤ s.aon) && (r.failed.isEmpty || decide (r.start + 1200 ≤ s.aon))
  && r.inReset.all fun d => r.locked.any fun x => decide (x.1 = d ∧ x.2 + 8 ≤ s.aon)

/-- The domains of a die being restarted leave reset in the relative order of R477, or in a BXV1-H12F4 at a common edge (R478, R484). -/
def State.releaseDie (s : State) (x : DieRun) : State :=
  let left := (releaseOrder s.assy).filter fun d => (dieDomains x.kind x.die).contains d && !bit d (s.reg rClkRun)
  let ready (gap d : Nat) : Bool := x.locked.any fun y => decide (y.1 = d ∧ y.2 + gap ≤ s.aon)
  let free (ds : List Nat) : State :=
    { s.setReg rClkRun (s.reg rClkRun ||| maskOf ds) with clk := { s.clk with restart := some { x with lastRel := s.aon } } }
  if s.assy = .h12f4 then (if decide (x.start + 24 ≤ s.aon) && left.all (ready 8) then free left else s)
  else match left with
    | [] => s
    | d :: _ => if decide (x.lastRel + 4 ≤ s.aon) && ready 1 d then free [d] else s

/-- RESET_RELEASE: once no source holds the reset, the next domain in sequence leaves it, or in a BXV1-H12F4 all at one edge; so do those of
a die being restarted (R471, R477, R478, R484). -/
def resetReleaseStep (s : State) : State :=
  match s.clk.run with
  | none => match s.clk.restart with
    | some x => s.releaseDie x
    | none => s
  | some r =>
    if r.stuck || !r.holds.isEmpty || !s.pins.aux then s
    else if s.assy = .h12f4 then
      if s.commonEdge r then s.releaseDomains r r.inReset else s
    else match r.nextDomain s.assy with
      | none => s.releaseDomains r r.inReset
      | some d =>
        if decide (r.lastRel + r.gap d ≤ s.aon) && r.locked.any (fun x => decide (x.1 = d ∧ x.2 < s.aon)) then s.releaseDomains r [d]
        else s

/-- RESET_RELEASE (R477). -/
def execResetRelease (s : State) : Host.Outcome State Fault Refusal := .next (resetReleaseStep s)

/-- PLL_LOCK_TIMEOUT: a PLL in scope has not locked within 1,200 AON cycles of assertion: the module stays in reset, or the die is
fenced, or self-test is unavailable (R479, R530). At a die restart the failure is recorded, and the restart will fail (R484). -/
def pllLockTimeoutStep (d : Nat) (s : State) : State :=
  match s.clk.run with
  | none => match s.clk.restart with
    | none => s
    | some x =>
      if (dieDomains x.kind x.die).contains d && bit d (s.reg rClkLocking) && decide (x.start + 1200 ≤ s.aon) then
        (s.setFld rRstLockfail d d 1).setFld rClkLocking d d 0
      else s
  | some r =>
    if !r.scope.contains d || (r.locked.any fun x => x.1 = d) || !bit d (s.reg rClkLocking) || decide (s.aon < r.start + 1200) then s
    else
      let was := r.inReset.contains d
      let s := (s.setFld rRstLockfail d d 1).setFld rClkLocking d d 0
      if !was then s else
      if d = 1 || d = 2 || d = 3 || d = 13 || d = 21 then
        { s with clk := { s.clk with run := some { r with stuck := true, failed := r.failed ++ [d] } } }
      else if domainDie d = some (2, 0) then s.assertReset 13 4 false
      else
        let gone := match domainDie d with
          | some x => dieDomains x.1 x.2
          | none => [d]
        let left := r.inReset.filter fun x => !gone.contains x
        let r2 : RstRun := { r with inReset := left, failed := r.failed ++ [d] }
        let r2 : RstRun := if r.nextDomain s.assy = some d then
            { r2 with lastRel := r.start + 1204 - ((r2.nextDomain s.assy).map r2.gap).getD 0 } else r2
        let fenced := match domainDie d with
          | some x => s.clk.fenced ++ [x]
          | none => s.clk.fenced
        let s := if d = 4 then s.setFld rBstStatus 0 0 0 else s
        let s := s.setReg rClkRun (s.reg rClkRun &&& ~~~(maskOf gone))
        let s := { s with clk := { s.clk with run := if left.isEmpty then none else some r2, fenced := fenced } }
        match domainDie d with
        | some x => s.emit (ev 0x0600 lvRegion none (srcOf x.1 x.2) [4, 0, 0])
        | none => s

/-- PLL_LOCK_TIMEOUT (R479). -/
def execPllLockTimeout (d : Nat) (s : State) : Host.Outcome State Fault Refusal := .next (pllLockTimeoutStep d s)

/-- The start-up test: every slice of every instance runs; an instance that fails a slice starts failed (R528, R530). -/
def State.startupTest (s : State) (failed : List (EngKind × Nat × Nat)) : State :=
  if !bit 0 (s.reg rBstStatus) then s
  else
    s.allInsts.foldl (fun s x =>
      if s.fenced (dieOf x.1 x.2).1 (dieOf x.1 x.2).2 || sliceCount x.1 = 0 then s
      else match failed.find? fun y => decide (y.1 = x.1 ∧ y.2.1 = x.2) with
        | none => s.bump64 rBstSlicesLo (sliceCount x.1)
        | some y =>
          let s := ((s.bump64 rBstSlicesLo (y.2.2 + 2)).bump rBstFails 2).bump rErrBlockFail 1
          let s := s.setReg rBstLastFail (w32 (x.2 + 4096 * kindCode x.1 + 65536 * y.2.2))
          (s.setFailed x.1 x.2 true).setFld (cfgReg x.1 x.2) 0 0 0) s

/-- DEVICE_READY: release has ended, memory has trained and, where it had to, the firmware has booted: the start-up test has run and
READY becomes 1 (R313, R476, R495, R530, R542). -/
def deviceReadyStep (failed : List (EngKind × Nat × Nat)) (s : State) : State :=
  if s.clk.run.isSome || s.clk.trained || !(s.clk.booted || s.sec.recovery) || !s.pins.aux then s
  else if s.sec.recovery then (s.setFld rRstStatus 0 0 1).put (.pin 17 1)
  else
    let s := (s.startupTest failed).drawInc
    (({ s with clk := { s.clk with trained := true } }).setFld rRstStatus 0 0 1).put (.pin 17 1)

/-- DEVICE_READY (R476). -/
def execDeviceReady (failed : List (EngKind × Nat × Nat)) (s : State) : Host.Outcome State Fault Refusal :=
  .next (deviceReadyStep failed s)

/-! ### Block reset -/

/-- RESULT of RST_BLOCK (R488). -/
def State.blockResult (s : State) (v : Nat) : State := s.setFld rRstBlockStatus 7 4 v

/-- BLOCK_RESET: a write of RST_BLOCK resets one idle block; one whose die is fenced is not idle (R480, R485, R486, R488). -/
def blockResetStep (w : Word) (s : State) : State :=
  s.byCmd rRstBlock rRstBlockStatus (fun x => bits 15 0 x = bits 15 0 w) fun s =>
    let kind := bits 15 12 w
    let i := bits 11 0 w
    let done (s : State) : State := (s.blockResult 0).emit (ev 0x0602 lvBlock none (srcOf kind i) [0])
    match kindOfCode kind with
    | some k =>
      if kindCount s.assy k ≤ i then s.blockResult 2
      else if s.fenced (dieOf k i).1 (dieOf k i).2 || !s.blockIdle k i then s.blockResult 1
      else done (s.clearEngine k i)
    | none =>
      if kind ≠ 10 then s.blockResult 4
      else if !s.hasPort i then s.blockResult 2
      else if s.fenced 3 (i / 25) || bit 0 (s.reg (rVrlPortCtl i)) || (s.port i).any (fun p => p.state ≠ 0) then s.blockResult 1
      else
        let ports := s.vrl.ports.filter fun p => p.n ≠ i
        done (({ s with vrl := { s.vrl with ports := ports } }).zeroRegs (portCounters i))

/-- BLOCK_RESET (R480). -/
def execBlockReset (w : Word) (s : State) : Host.Outcome State Fault Refusal := .next (blockResetStep w s)

/-! ### Fences and restarts -/

/-- RESULT of RST_DIE (R488). -/
def State.dieResult (s : State) (v : Nat) : State := s.setFld rRstDieStatus 7 4 v

/-- DIE_FENCE: a die is fenced by its Signal Box or the management controller, or through RST_DIE with cause 3 (R23, R481, R482,
R486). -/
def dieFenceStep (kind die cause : Nat) (s : State) : State :=
  if cause ≠ 3 then (if cause = 1 || cause = 2 then s.fenceDie kind die cause else s)
  else s.byCmd rRstDie rRstDieStatus (fun w => bits 3 0 w = kind && bits 5 4 w = die && bits 9 8 w = 1) fun s =>
  if dieCount s.assy kind ≤ die then s.dieResult 4
  else if (kind = 2 || kind = 3) && die = 0 then (s.dieResult 3).fenceDie kind die 3
  else if s.fenced kind die then s.dieResult 2
  else (s.dieResult 0).fenceDie kind die 3

/-- DIE_FENCE (R481). -/
def execDieFence (kind die cause : Nat) (s : State) : Host.Outcome State Fault Refusal := .next (dieFenceStep kind die cause s)

/-- DIE_RESTART: RST_DIE starts the restart of a fenced die (R484, R488). -/
def dieRestartStep (kind die : Nat) (s : State) : State :=
  s.byCmd rRstDie rRstDieStatus (fun w => bits 3 0 w = kind && bits 5 4 w = die && bits 9 8 w = 2) fun s =>
  if dieCount s.assy kind ≤ die then s.dieResult 4
  else if !s.fenced kind die then s.dieResult 1
  else
    let s := (s.dieResult 0).setFld rRstDieStatus 0 0 1
    let s := s.setReg rClkLocking (s.reg rClkLocking ||| maskOf (dieDomains kind die))
    let s := s.setReg rRstLockfail (s.reg rRstLockfail &&& ~~~(maskOf (dieDomains kind die)))
    { s with clk := { s.clk with restart := some { kind := kind, die := die, start := s.aon, lastRel := s.aon, locked := [] } } }

/-- DIE_RESTART (R484). -/
def execDieRestart (kind die : Nat) (s : State) : Host.Outcome State Fault Refusal := .next (dieRestartStep kind die s)

/-- Nodes of a set of (partition, hash) and all that descend from them (R484). -/
def State.withDescendants (s : State) (l : List Node) : Nat → List Node
  | 0 => l
  | n + 1 =>
    let more := s.kv.nodes.filter fun x => !l.contains x && !x.root && l.any fun y => decide (y.part = x.part ∧ y.h = x.parent)
    if more.isEmpty then l else s.withDescendants (l ++ more) n

/-- What a restart does on a compute die. -/
def State.reviveCompute (s : State) (die : Nat) : State :=
  let s := { s with eng := { s.eng with
    copies := s.eng.copies.filter (fun c => c.die ≠ die), tables := s.eng.tables.filter (fun t => t.die ≠ die),
    thd := s.eng.thd.filter (fun e => e.die ≠ die), checks := s.eng.checks.filter (fun c => c.die ≠ die) } }
  s.zeroRegs [rMxeNfSatLo die, rMxeNfSatHi die, rMxeNfOvfLo die, rMxeNfOvfHi die, rMxeNfLaneBad die, rMxeTstoreWaits die]

/-- What a restart does on a memory-side die: local pages come back with every line poisoned, and nodes homed there go with all
their descendants (R484). The result counts the pages. -/
def State.reviveMemory (s : State) (die : Nat) : Nat × State :=
  let pages := s.place.pages.filter fun g => decide (g.num % 4 = die) && g.place.isLocal
  let s := pages.foldl (fun s g => s.poisonPage g.num) s
  let gone := s.withDescendants (s.kv.nodes.filter fun n => n.die = die) s.kv.nodes.length
  let left := s.kv.nodes.filter fun n => !gone.contains n
  let kids := left.map fun (n : Node) => { n with kids := (left.filter fun x => !x.root && decide (x.part = n.part ∧ x.parent = n.h)).length }
  let s := { s with kv := { s.kv with nodes := kids } }
  (pages.length, s.zeroRegs (expCounters die ++ srvCounters die))

/-- What a restart does on an I/O die. -/
def State.reviveIo (s : State) (die : Nat) : State :=
  let ports := s.vrl.ports.filter fun p => p.n / 25 ≠ die
  let colls := s.colls.list.filter fun c => c.cle ≠ die
  let s := { s with vrl := { s.vrl with ports := ports }, colls := { s.colls with list := colls, owed := s.colls.owed.filter (fun o => o.cle ≠ die) } }
  ((List.range 25).foldl (fun s j => (s.setFld (rVrlPortCtl (25 * die + j)) 0 0 0).zeroRegs (portCounters (25 * die + j))) s)

/-- DIE_RESTARTED: the restart ends: once its domains have left reset the die is back with every block cleared and AVAIL 0; or it stays fenced
because a PLL did not lock (R484, R485). -/
def dieRestartedStep (ok : Bool) (s : State) : State :=
  match s.clk.restart with
  | none => s
  | some x =>
    if ok && (dieDomains x.kind x.die).any fun d => !bit d (s.reg rClkRun) && !bit d (s.reg rRstLockfail) then s
    else
    let s := ({ s with clk := { s.clk with restart := none } }).setFld rRstDieStatus 0 0 0
    let took := s.aon - x.start
    let doms := dieDomains x.kind x.die
    let s := s.setReg rClkLocking (s.reg rClkLocking &&& ~~~(maskOf doms))
    let said (r pages : Nat) (s : State) : State := (s.dieResult r).emit (ev 0x0601 lvRegion none (srcOf x.kind x.die) [r, took, pages])
    if !ok || doms.any (fun d => bit d (s.reg rRstLockfail)) then said 5 0 (s.setReg rClkRun (s.reg rClkRun &&& ~~~(maskOf doms)))
    else
      let fenced := s.clk.fenced.filter fun y => y ≠ (x.kind, x.die)
      let s := { s with clk := { s.clk with fenced := fenced } }
      let s := (s.allInsts.filter fun y => decide (dieOf y.1 y.2 = (x.kind, x.die))).foldl (fun s y => s.clearEngine y.1 y.2) s
      let (n, s) : Nat × State := match x.kind with
        | 1 => (0, s.reviveCompute x.die)
        | 2 => s.reviveMemory x.die
        | _ => (0, s.reviveIo x.die)
      (said 0 n s).settle

/-- DIE_RESTARTED (R484). -/
def execDieRestarted (ok : Bool) (s : State) : Host.Outcome State Fault Refusal := .next (dieRestartedStep ok s)

end Sys2Proof.Machine
end

