-- ==== Sys2Proof/Machine/ReadOps.lean ====
section
/-! DEFINITION. What a read of a BAR0 register returns: the fields that show the block's state as it stands, the latched halves of
pairs, the stored fields, and zero for what is write-only, reserved or not there (R9, R10, R36, R77, R147, and the register tables of
the chapters). -/

namespace Sys2Proof.Machine

open Sys2Proof

/-- Fields put together, each as (lowest bit, value). -/
def packed (l : List (Nat × Nat)) : Word := w32 ((l.map fun x => x.2 * 2 ^ x.1).sum)

/-- A mask with a bit for every number of a list. -/
def bitsOf (l : List Nat) : Nat := (l.eraseDups.map fun i => 2 ^ i).sum

/-- One of the two words of a 64-bit value. -/
def half (hi : Bool) (v : Nat) : Word := if hi then w32 (v / 2 ^ 32) else w32 v

/-- The STATE of an engine: 4 fenced, 0 its clock is stopped, else what it does (R146, R205, R292, R361, R383, R412). -/
def State.engState (s : State) (k : EngKind) (i busy : Nat) : Nat :=
  if s.fenced (dieOf k i).1 (dieOf k i).2 then 4 else if !bit (engDomain k i) (s.reg rClkRun) then 0 else busy

/-- The run of an engine and its part of it. -/
def State.runShown (s : State) (k : EngKind) (i : Nat) : Option (Run × RunInst) :=
  match s.useOf k i with
  | some (.running wid) => (s.run wid).bind fun r => (runInst r i).map fun x => (r, x)
  | _ => none

/-- STATUS of an MXE, VXE or CVE (R146, R205, R383). -/
def State.runStatus (s : State) (k : EngKind) (i : Nat) : Word :=
  match s.runShown k i with
  | none => packed [(0, s.engState k i 1)]
  | some (r, x) =>
    let drain := decide (x.hi ≤ x.pos) && !x.tiles.isEmpty
    packed ([(0, s.engState k i (if drain then 3 else 2)), (8, r.part)] ++ if k = .mxe then [(16, x.tiles.length)] else [])

/-- Position of the current step; 0 when idle, and the end of its range for an engine that only drains (DESIGN CHOICE, log entry 94). -/
def State.runPos (s : State) (k : EngKind) (i : Nat) : Word :=
  match s.runShown k i with
  | none => 0
  | some (_, x) => w32 x.pos

/-- Address of the running Timetable. -/
def State.runAddr (s : State) (k : EngKind) (i : Nat) : Nat := ((s.runShown k i).map fun r => r.1.addr).getD 0

/-- STATUS of an XFE (R292). -/
def State.xfeStatus (s : State) (i : Nat) : Word :=
  let p : Option Nat := match s.useOf .xfe i with
    | some (.running wid) => (s.wb wid).map (·.part)
    | _ => none
  packed [(0, s.engState .xfe i (if p.isSome || !(s.xfeMoves i).isEmpty then 2 else 1)), (8, p.getD 0)]

/-- STATUS of a CLE (R361). -/
def State.cleStatus (s : State) (i : Nat) : Word :=
  let mine := s.colls.list.filter fun c => c.cle = i
  let n := (mine.filter fun c => c.opened).length
  packed [(0, s.engState .cle i (if n = 0 then 1 else 2)), (8, n), (16, min 255 (mine.length - n))]

/-- STATUS of a CDE (R412). -/
def State.cdeStatus (s : State) (i : Nat) : Word :=
  let c := s.cde i
  packed [(0, s.engState .cde i (if c.run.isSome then 2 else 1)), (8, (s.codec.ctxs.filter fun x => x.cde = i).length),
          (16, min 255 c.queue.length), (24, if c.asides.isEmpty then 0 else 1)]

/-- Registers of a compute die n (R147, R180, R205). -/
def State.shownCompute (s : State) (n off : Nat) : Option Word :=
  let slots := (s.eng.tables.filter fun t => t.die = n).map (·.slot)
  let e := s.eng.thd.find? fun e => decide (e.die = n ∧ e.slot = s.fld (rMxeThdSel n) 6 0)
  let t := s.eng.tables.find? fun t => decide (t.die = n ∧ t.slot = s.fld (rVxeTblSel n) 5 0)
  let ent (f : ThdEntry → Nat) : Option Word := some (w32 ((e.map f).getD 0))
  let tab (f : TableSlot → Nat) : Option Word := some (w32 ((t.map f).getD 0))
  if off = rMxeDiePresent n then
    some (w32 (bitsOf ((List.range 4).filter fun j => !s.fenced 1 n && !s.failed .mxe (4 * n + j))))
  else if off = rMxeTstore n then some (w32 (s.eng.copies.filter fun c => c.die = n).length)
  else if off = rMxeTslots n then some (w32 (bitsOf (slots.filter (· < 32))))
  else if off = rMxeTslotsHi n then some (w32 (bitsOf ((slots.filter (32 ≤ ·)).map (· - 32))))
  else if off = rMxeThdKeyLo n then ent fun e => e.dig
  else if off = rMxeThdKeyHi n then ent fun e => e.dig / 2 ^ 32
  else if off = rMxeThdInfo n then some (packed [(0, (e.map (·.part)).getD 0), (8, if e.isSome then 1 else 0)])
  else if off = rMxeThdSamples n then ent (·.samples)
  else if off = rMxeThdDrifting n then ent (·.drifting)
  else if off = rMxeThdSkipBusy n then ent (·.skipBusy)
  else if off = rMxeThdSkipSize n then ent (·.skipSize)
  else if off = rMxeThdSkipNf n then ent (·.skipNf)
  else if off = rMxeThdLastLo n then ent (·.last)
  else if off = rMxeThdLastHi n then ent fun e => e.last / 2 ^ 32
  else if rMxeThdBin n 0 ≤ off ∧ off < rMxeThdBin n 32 ∧ off % 4 = 0 then ent fun e => e.bins.getD ((off - rMxeThdBin n 0) / 4) 0
  else if off = rVxeTblInfo n then
    some ((t.map fun t => packed [(0, 1), (1, rdBits t.bytes 0x10 0 0), (2, rdBits t.bytes 0x10 2 1), (4, rdBits t.bytes 0x10 3 3),
                                  (8, t.part)]).getD 0)
  else if off = rVxeTblFunc n then tab fun t => rdN t.bytes 8 4
  else if off = rVxeTblVer n then tab fun t => rdN t.bytes 12 4
  else if off = rVxeTblKeyLo n then tab fun t => rdN t.bytes 0x30 4
  else if off = rVxeTblKeyHi n then tab fun t => rdN t.bytes 0x34 4
  else
    let eng (k : EngKind) (i st pos lo hi : Nat) : Option Word :=
      if off = st then some (s.runStatus k i)
      else if off = pos then some (s.runPos k i)
      else if off = lo then some (half false (s.runAddr k i))
      else if off = hi then some (half true (s.runAddr k i))
      else none
    ((List.range 4).findSome? fun j => let i := 4 * n + j; eng .mxe i (rMxeStatus i) (rMxePos i) (rMxeTtLo i) (rMxeTtHi i)).or
      (((List.range 2).findSome? fun j => let i := 2 * n + j; eng .vxe i (rVxeStatus i) (rVxePos i) (rVxeTtLo i) (rVxeTtHi i)).or
        (eng .cve n (rCveStatus n) (rCvePos n) (rCveTtLo n) (rCveTtHi n)))

/-- Registers of a memory-side die n (R244, R245, R290, R291, R292, R412). -/
def State.shownMemory (s : State) (n off : Nat) : Option Word :=
  let num (k : Nat) : Option Word := some (w32 k)
  let per (base : Nat) : Option Nat := if base ≤ off ∧ off < base + 128 ∧ off % 4 = 0 then some ((off - base) / 4) else none
  if off = rGazStatus n then num (s.kv.nodes.filter fun x => x.die = n).length
  else if off = rExpStatus n then num s.kv.views.length
  else if off = rSrvStatus n then num (s.place.moves.filter fun m => m.die = n).length
  else if off = rSrvTable n then num (s.place.pages.filter fun g => g.die = n).length
  else if off = rSrvCap n then num (s.hbmPages n)
  else if off = rSrvHdmUsed ∧ n = 0 then num (s.place.pages.filter fun g => match g.lent with | .host _ => true | _ => false).length
  else if off = rXfeStatus (2 * n) then some (s.xfeStatus (2 * n))
  else if off = rXfeStatus (2 * n + 1) then some (s.xfeStatus (2 * n + 1))
  else if off = rCdeStatus n then some (s.cdeStatus n)
  else match per (rGazHeld n 0) with
    | some p => num (s.kv.nodes.filter fun x => decide (x.die = n ∧ x.part = p)).length
    | none => match per (rSrvUseHbm n 0) with
      | some p => num (s.tierUse p n Place.isHbm)
      | none => match per (rSrvUseSid n 0) with
        | some p => num (s.tierUse p n Place.isSid)
        | none => match per (rSrvUseExt n 0) with
          | some p => num (s.tierUse p n Place.isPool)
          | none => match per (rSrvMapped n 0) with
            | some p => num (s.mappedOn p n)
            | none => none

/-- Registers of an I/O die n (R332, R333, R361). -/
def State.shownIo (s : State) (n off : Nat) : Option Word :=
  let sel := s.fld rVrlPeerSel 15 0
  let peer := s.vrl.peers.find? fun p => p.ep = sel
  let st (p : Peer) : Nat := match p.st with | .resolving => 1 | .present => 2 | .gone => 3
  let port := (List.range 25).findSome? fun j =>
    let i := 25 * n + j
    if off = rVrlPortStatus i then
      -- every port of a fenced I/O die is in STATE 6 (R328)
      some (match s.port i with
        | none => packed [(0, if s.fenced 3 n then 6 else 0)]
        | some p => packed [(0, if s.fenced 3 n then 6 else p.state), (8, p.lanes), (16, p.cause)])
    else if off = rVrlPortPeer i then some (match s.port i with
      | none => 0
      | some p => packed [(0, p.swId), (16, p.swPort)])
    else none
  if off = rCleStatus n then some (s.cleStatus n)
  else if off = rCleStage n then some (w32 (s.stageFree n / 1024))
  else if n = 0 ∧ off = rVrlEp then some (packed [(0, s.vrl.ep), (16, s.vrl.inc)])
  else if n = 0 ∧ off = rVrlFabric then some (packed [(0, s.vrl.fabric), (16, s.upPorts.length)])
  else if n = 0 ∧ off = rVrlPeerStatus then
    some (packed [(0, s.vrl.peers.length), (16, (s.vrl.peers.filter fun p => st p = 1).length)])
  else if n = 0 ∧ off = rVrlPeerInfo then some (packed [(0, (peer.map st).getD 0), (16, (peer.map (·.inc)).getD 0)])
  else if n = 0 ∧ off = rVrlPeerOut then some (w32 ((peer.map (·.out)).getD 0))
  else port

/-- Registers of the partition window (R438, R439). -/
def State.shownPart (s : State) (off : Nat) : Option Word :=
  let own := s.sched.swapOwner
  if off = rPrtExists then some (w32 (bitsOf (s.sched.parts.map (·.p))))
  else if off = rPrtSuspended then some (w32 (bitsOf (s.sched.susps.map (·.part))))
  else if off = rPrtSwap then some (packed [(0, own.getD 0), (8, if own.isSome then 1 else 0)])
  else if off = rPrtSemValLo then some (half false (s.sem (s.fld rPrtSemSel 15 0)).toNat)
  else (List.range 32).findSome? fun p =>
    let x := s.part p
    let use := ((x.map (·.useNs)).getD 0) / 1000
    let v := ((x.map (·.v.toNat)).getD 0)
    if off = rPrtStatus p then
      some (packed [(0, s.partState p), (8, (s.openOf p).length), (16, if (x.map (·.drvSusp)).getD false then 1 else 0),
                    (17, if own = some p then 1 else 0)])
    else if off = rPrtUseLo p then some (half false use)
    else if off = rPrtUseHi p then some (half true use)
    else if off = rPrtVtimeLo p then some (half false v)
    else if off = rPrtVtimeHi p then some (half true v)
    else none

/-- Sources that hold a step above 0 (R462). -/
def State.reasons (s : State) : Nat :=
  let p := s.pwr
  let ramp := (List.range 4).any fun d => decide (s.target d < s.stepOf d)
  bitsOf ([(0, p.brown.isSome), (1, p.ilim.isSome), (2, decide (0 < p.limit)), (3, ramp), (4, !p.hot.isEmpty), (5, p.flowAct),
    (6, p.leakIn && bit 1 (s.eff rPwrCfg)), (7, decide (0 < s.effFld rPwrCap 2 0)), (8, !p.sensor.isEmpty)].filterMap
      fun x => if x.2 then some x.1 else none)

/-- Registers of power, clocks and resets (R462, R487, R488). -/
def State.shownPwr (s : State) (off : Nat) : Option Word :=
  let fen (k : Nat) : Nat := bitsOf ((List.range 4).filter (s.fenced k))
  let hints := s.pwr.predicts.flatMap (·.hints)
  let peak := (hints.map (·.1)).foldl max 0
  if off = rPwrPin then some (packed [(0, s.fld rPwrPin 15 0), (16, min 0xFFFF s.predicted)])
  else if off = rPwrStep then some (packed ((List.range 4).map fun d => (4 * d, s.stepOf d)))
  else if off = rPwrReason then some (w32 s.reasons)
  else if off = rPwrHint then some (packed [(0, min 0xFFFF peak), (16, ((hints.find? fun p => p.1 = peak).map (·.2)).getD 0)])
  else if off = rClkHeld then some (w32 (bitsOf ((asmDomains s.assy).filter s.heldOn)))
  else if off = rClkAonLo then some (half false s.aon)
  else if off = rClkAonHi then some (half true s.aon)
  else if off = rClkEpoch then some (w32 (s.aon / 1200))
  else if off = rClkRef then some (packed [(0, if s.clk.xtalOk then 1 else 0), (1, if s.pins.refClk then 1 else 0)])
  else if off = rRstStatus then
    let run := s.clk.run
    some (packed [(0, if s.ready then 1 else 0), (1, if run.any fun r => r.holds.isEmpty then 1 else 0),
                  (2, if run.any fun r => !r.holds.isEmpty then 1 else 0), (8, fen 1), (12, fen 2), (16, fen 3)])
  else none

/-- Registers of the security window (R512). -/
def State.shownSec (s : State) (off : Nat) : Option Word :=
  if off = rSecFuseSvn then some (w32 s.sec.svnFuse)
  else if off = rSecFuse then some (packed [(0, if s.sec.dbgOff then 1 else 0), (1, if s.sec.vkd.isSome then 1 else 0)])
  else if off = rSecUidLo then some (half false s.sec.uid.toNat)
  else if off = rSecUidHi then some (half true s.sec.uid.toNat)
  else if off = rSecFwVerLo then some (half false ((s.sec.fw.map (·.version)).getD 0))
  else if off = rSecFwVerHi then some (half true ((s.sec.fw.map (·.version)).getD 0))
  else if off = rSecSealStatus then some (s.reg off ||| (if s.devSealed then 4 else 0))
  else if off = rSecDbg then some (packed [(0, s.fld rSecDbg 1 0), (8, min 7 s.sec.failsNow)])
  else if off = rBstStatus then some (s.reg off ||| (if s.err.slices.isEmpty then 0 else 2))
  else none

/-- Registers of the host window (R75 to R77). -/
def State.shownHost (s : State) (off : Nat) : Option Word :=
  if off = rRngDbLines then some (w32 (s.host.lines.filter fun l => !l.await).length)
  else if 0x110000 ≤ off ∧ off < 0x118000 then some (s.reg off)
  else if 0x118000 ≤ off ∧ off < 0x118100 ∧ off % 4 = 0 then
    let w := (off - 0x118000) / 4
    some (w32 (bitsOf ((s.host.pba.filter fun v => v / 32 = w).map (· % 32))))
  else if rRngGrpStatus 0 ≤ off ∧ off < rRngGrpStatus 1024 ∧ off % 32 = 24 then
    some (match s.grp ((off - rRngGrpStatus 0) / 32) with
      | none => 0
      | some g => packed [(0, if !g.held.isEmpty && s.grpFull g.g then 1 else 0), (1, if g.fault then 1 else 0)])
  else none

/-- The fields of a register that show the block's state, or none when it holds what was stored. -/
def State.shown (s : State) (off : Nat) : Option Word :=
  if off < 0x100000 then none
  else if off < 0x200000 then s.shownHost off
  else if off < 0x300000 then s.shownPart off
  else if off < 0x400000 then s.shownPwr off
  else if off < 0x600000 then s.shownSec off
  else if off < 0x1000000 then none
  else if off < 0x2000000 then s.shownCompute ((off - 0x1000000) / 0x400000) off
  else if off < 0x3000000 then s.shownMemory ((off - 0x2000000) / 0x400000) off
  else s.shownIo ((off - 0x3000000) / 0x400000) off

/-- The present value of a register: WO fields and reserved bits read as zero (R9, R10). -/
def State.present (s : State) (off : Nat) : Word :=
  match regAt off with
  | none => (s.shown off).getD 0
  | some (r, _) => (s.shown off).getD (r.fields.foldl (fun w f =>
      if f.acc = .wo then w else setBits f.hi f.lo w (bits f.hi f.lo (s.reg off))) 0)

/-- Are all fields of a register read-only? -/
def roReg (off : Nat) : Bool := (regAt off).any fun r => r.1.fields.all fun f => f.acc = .ro

/-- First words of the `_LO` registers of read-only pairs, as the first of each array (R147). -/
def pairBases : List Nat :=
  [rMxeTtLo 0, rMxeCycLo 0, rMxeStepsLo 0, rMxeSkipsLo 0, rMxeNfSatLo 0, rMxeNfOvfLo 0, rMxeThdKeyLo 0, rMxeThdLastLo 0, rVxeTtLo 0,
   rVxeCycLo 0, rVxeStepsLo 0, rVxeSkipsLo 0, rVxeTblKeyLo 0, rGazProbesLo 0, rGazHitsLo 0, rGazCreatesLo 0, rExpReadLo 0, rExpDlvLo 0,
   rExpMacLo 0, rSrvMovesLo 0, rXfeBytesLo 0, rXfeSrvBytesLo 0, rVrlFecCorrLo 0, rVrlTxFlitsLo 0, rVrlRxFlitsLo 0, rVrlResolvesLo,
   rCleTxLo 0, rCleRxLo 0, rCleChecksLo 0, rCveTtLo 0, rCveCycLo 0, rCveStepsLo 0, rCveSkipsLo 0, rCveTapskipLo 0, rCdeDecSamplesLo 0,
   rCdeEncSamplesLo 0, rPrtUseLo 0, rPrtVtimeLo 0, rPwrThrCycLo, rClkAonLo, rRstTimeLo, rSecUidLo, rSecFwVerLo, rErrCeHbmLo, rErrCeSidLo,
   rErrCeSramLo, rErrFatalTimeLo, rBstSlicesLo]

/-- Is a register the `_LO` of a pair that latches: read-only, or PRT_SEM_VAL (R147, R438)? -/
def isPairLo (off : Nat) : Bool := off = rPrtSemValLo || (regAt off).any fun r => pairBases.contains r.1.base

/-- Where the high word of a latching pair lies. -/
def isPairHi (off : Nat) : Bool := decide (4 ≤ off) && isPairLo (off - 4)

/-- What a host read of a register returns: while BAR0 does not answer, zero; the high word of a pair as it was latched (R9, R10,
R147, R476, R495). A half never latched reads as zero (DESIGN CHOICE, log entry 27). -/
def State.readReg (s : State) (off : Nat) : Word :=
  if !s.barOpen off then 0
  else if isPairHi off then ((s.host.latches.find? fun x => x.1 = off).map (·.2)).getD 0
  else s.present off

/-- The present value of the high word that a read of `_LO` latches. -/
def State.highWord (s : State) (off : Nat) : Word :=
  if off = rPrtSemValLo then half true (s.sem (s.fld rPrtSemSel 15 0)).toNat else s.present (off + 4)

end Sys2Proof.Machine
end

