-- ==== Sys2Proof/Machine/Tables.lean ====
section
/-! DEFINITION. Table files and table slots: the loads and clears of VXE_TBL_CMD (R191 to R193, R198, R205). -/

namespace Sys2Proof.Machine

open Sys2Proof

/-- The table-signing key that a KEY_ID names in the running firmware's key table (R192, R491, R492). -/
def State.tableKey (s : State) (id : Nat) : Option (List Byte) :=
  match s.sec.fw with
  | none => none
  | some f =>
    (List.range (f.keys.length / 1968)).findSome? fun k =>
      if rdN f.keys (1968 * k) 8 = id ∧ rdN f.keys (1968 * k + 8) 8 = 1 then some ((f.keys.drop (1968 * k + 16)).take 1952) else none

/-- Is a binary32 word NaN? -/
def nanWord (x : Word) : Bool := nisNan (ofF32 x)

/-- The format of a table file (R191, R193). -/
def tableForm (tb : List Byte) : Bool :=
  let w := tbLog2W tb
  decide (rdN tb 0 4 = 0x4C425458 ∧ rdN tb 4 4 = 1 ∧ rdN tb 0x10 8 < 16 ∧ rdN tb 0x1D 3 = 0) && zerosAt tb 0x38 0x48
  && tbMono tb ≠ 3 && decide (-24 ≤ w ∧ w ≤ 24)
  && !nanWord (tbLo tb) && !nanWord (tbHi tb)
  && ((List.range 256).all fun g => (List.range 4).all fun k => !nanWord (tbCoef tb g k))
  && (if tbExp2 tb then
        let ks := ofF32 (tbWord tb 0x20)
        nisFin ks && nlt nzero ks && decide (tbULo tb < tbUHi tb ∧ -160 ≤ tbULo tb ∧ tbUHi tb ≤ 160) && tbMono tb ≠ 2 && !tbE1 tb
      else true)
  && (if tbE1 tb then !tbExp2 tb && tbMono tb = 0 else true)

/-- The seam conditions (R198). -/
def tableSeams (tb : List Byte) : Bool :=
  let v (k : Nat) : FNum := ofF32 (tbV tb k)
  let scaled (n : Int) : FNum := ofF32 (toF32 (nmul (v 0) (npow2 n)))
  let lo := ofF32 (tbLo tb)
  let hi := ofF32 (tbHi tb)
  if tbMono tb = 1 then
    ((List.range 256).all fun k => nle (v k) (v (k + 1)))
    && (if tbExp2 tb then nle lo (scaled (tbULo tb)) && nle (scaled (tbUHi tb)) hi else nle lo (v 0))
  else if tbMono tb = 2 then nle (v 0) lo && (List.range 256).all fun k => nle (v (k + 1)) (v k)
  else true

/-- The owner of a table slot of a die. -/
def State.slotOwner (s : State) (die slot : Nat) : Option Nat :=
  (s.eng.tables.find? fun t => decide (t.die = die ∧ t.slot = slot)).map (·.part)

/-- The RESULT of a load of partition p from address a, in the order of R193; bad tells that the read met a fault or poison. -/
def State.tableResult (s : State) (die slot p a : Nat) (file : List Byte) (bad : Bool) : Nat :=
  let head := file.take 0x1080
  if !rangeInPart p a 7533 then 5
  else if bad then 4
  else match s.tableKey (rdN file 0x30 8) with
    | none => 6
    | some pk =>
      if !Config.mlDsaVerify pk (shake256 64 head) (file.drop 0x1080) then 2
      else if !tableForm head then 1
      else if !tableSeams head then 3
      else match s.slotOwner die slot with
        | none => 0
        | some q => if q = p then 0 else 7

/-- A slot's table replaced. -/
def State.putTable (s : State) (t : TableSlot) : State :=
  let rest := s.eng.tables.filter fun x => !(decide (x.die = t.die ∧ x.slot = t.slot))
  { s with eng := { s.eng with tables := rest ++ [t] } }

/-- A load that has begun reads its file, or waits for its pages, and then ends with its RESULT (R193). -/
def State.tableRun (s : State) (die : Nat) (ue : Bool) : State :=
  let w := s.reg (rVxeTblCmd die)
  let slot := bits 5 0 w
  let p := bits 20 16 w
  let a := s.reg64 (rVxeTblAddrLo die)
  let inP := rangeInPart p a 7533
  let reads := if inP then [(a, 7533)] else []
  let (ok, s1) := s.prepareFor (2 ^ 64 + die) 0 reads []
  if !ok then s1
  else
    let bad := ue || reads.any fun x => s1.readBad x.1 x.2
    let file := if inP then s1.readBytes a 7533 else []
    let r := s1.tableResult die slot p a file bad
    let s2 := reads.foldl (fun s x => s.noteRead s.sched.nextWid x.1 x.2) s1
    let s3 := if r = 0 then s2.putTable { die := die, slot := slot, part := p, bytes := file.take 0x1080 } else s2
    (s3.setFld (rVxeTblStatus die) 0 0 0).setFld (rVxeTblStatus die) 7 4 r

/-- TABLE_LOAD: w is the word written to VXE_TBL_CMD with OP 1, lost while a command is in progress; none lets the load in progress,
which may wait for its pages, go on (R193, R205). -/
def tableLoadStep (die : Nat) (w : Option Word) (ue : Bool) (s : State) : State :=
  let busy := bit 0 (s.reg (rVxeTblStatus die))
  if !(decide (die < 4) && s.barOpen (rVxeTblCmd die)) then s
  else match w with
    | none => if busy && bits 9 8 (s.reg (rVxeTblCmd die)) = 1 then (s.tableRun die ue).settle else s
    | some w =>
      if bits 9 8 w ≠ 1 then s
      else if busy then s.setFld (rVxeTblStatus die) 1 1 1
      else (((s.setReg (rVxeTblCmd die) w).setFld (rVxeTblStatus die) 0 0 1).tableRun die ue).settle

/-- TABLE_LOAD (R193). -/
def execTableLoad (die : Nat) (c : TableCmd) (s : State) : Host.Outcome State Fault Refusal :=
  .next (tableLoadStep die c.word (Marks.sramUe c.marks) (s.noteMarks c.marks 0 0xFFFFFFFF (srcOf 1 die) none)).served

/-- TABLE_CLEAR: VXE_TBL_CMD written with OP 2 frees the slot of its owner, else RESULT reads OWNER; lost while a command is in
progress (R205). -/
def tableClearStep (die : Nat) (w : Word) (s : State) : State :=
  if 4 ≤ die || bits 9 8 w ≠ 2 then s
  else s.byCmd (rVxeTblCmd die) (rVxeTblStatus die) (fun x => x = w) fun s =>
    let slot := bits 5 0 w
    if s.slotOwner die slot = some (bits 20 16 w) then
      let rest := s.eng.tables.filter fun x => !(decide (x.die = die ∧ x.slot = slot))
      ({ s with eng := { s.eng with tables := rest } }).setFld (rVxeTblStatus die) 7 4 0
    else s.setFld (rVxeTblStatus die) 7 4 7

/-- TABLE_CLEAR (R205). -/
def execTableClear (die : Nat) (w : Word) (s : State) : Host.Outcome State Fault Refusal := .next (tableClearStep die w s)

end Sys2Proof.Machine
end

