-- ==== Sys2Proof/Machine/SecOps.lean ====
section
/-! DEFINITION. Shared operations of chapter 16: the firmware image and its checks (R491 to R493), boot and recovery (R494, R495), keys
and certificates (R500, R501), seal digests (R504). -/

namespace Sys2Proof.Machine

open Sys2Proof

/-! ### The firmware image (R491) -/

/-- The first n bytes of the module flash; what has not been written since an erase reads as ones (log entry 28). -/
def State.flashBytes (s : State) (n : Nat) : List Byte := s.sec.flash.take n ++ List.replicate (n - s.sec.flash.length) 0xFF

/-- Offset of a key table entry. -/
def keyOff (k : Nat) : Nat := 0x7C0 + 1968 * k

/-- Is a size legal for an image (R491, R511)? -/
def imageSizeOk (n : Nat) : Bool := decide (25600 ≤ n ∧ n ≤ 66060288 ∧ n % 512 = 0)

/-- Entries that the key table says it uses. -/
def imageKeys (h : List Byte) : Nat := rdBits h 0x18 3 0

/-- Check 2 of R493. -/
def imageFormOk (h : List Byte) : Bool :=
  let n := imageKeys h
  decide (rdN h 4 2 = 1 ∧ rdN h 8 1 ≤ 64 ∧ n ≤ 8) && zerosAt h 6 2 && zerosAt h 9 3 && decide (rdBits h 0x18 63 4 = 0)
  && zerosAt h 0x4540 0xC0 && zerosAt h 0x52ED 0x113
  && zerosAt h (keyOff n) (1968 * (8 - n))
  && ((List.range n).all fun k => decide (rdN h (keyOff k + 8) 8 = 1 ∨ rdN h (keyOff k + 8) 8 = 2)
        && (List.range k).all fun j => rdN h (keyOff j) 8 ≠ rdN h (keyOff k) 8)

/-- Checks 1 to 4 and 6 of R493 in their order: the code of the first that fails, or 0. -/
def State.headCheck (s : State) (h : List Byte) : Nat :=
  if rdN h 0 4 ≠ 0x57465842 then 1
  else if !imageFormOk h then 2
  else if !imageSizeOk (rdN h 0xC 4) then 3
  else if s.sec.vkd ≠ some (shake256 64 ((h.drop 0x20).take 1952)) then 4
  else if rdN h 8 1 < s.sec.svnFuse then 6
  else 0

/-- FW_DIGEST of the image in flash (R492). -/
def State.flashDigest (s : State) : List Byte :=
  let img := s.flashBytes (rdN (s.flashBytes 0x5400) 0xC 4)
  shake256 64 (img.take 0x4600 ++ List.replicate 3309 0 ++ img.drop 0x52ED)

/-- Does SIG of the image in flash verify (R492)? -/
def State.flashSigned (s : State) : Bool :=
  let h := s.flashBytes 0x5400
  Config.mlDsaVerify ((h.drop 0x20).take 1952) s.flashDigest ((h.drop 0x4600).take 3309)

/-- Code of the first check that the image in flash fails, or 0 (R493). -/
def State.flashCheck (s : State) : Nat :=
  match s.headCheck (s.flashBytes 0x5400) with
  | 0 => if s.flashSigned then 0 else 5
  | c => c

/-! ### Keys and certificates (R500, R501) -/

/-- A string's ASCII bytes. -/
def ascii (t : List Char) : List Byte := t.map fun c => BitVec.ofNat 8 c.toNat

/-- Seed of the device identity key. -/
def State.deviceSeed (s : State) : List Byte := shake256 32 (1 :: (ascii "BXV1 DEVICE ID".toList ++ s.sec.secret))

/-- Seed of the alias key of an image. -/
def State.aliasSeed (s : State) (digest : List Byte) (svn : Nat) : List Byte :=
  shake256 32 (2 :: (ascii "BXV1 ALIAS".toList ++ s.sec.secret ++ digest ++ leBytes 1 svn))

/-- The alias certificate that the ROM issues; its serial number is the first 8 bytes of the digest of the alias public key. -/
def State.aliasCert (s : State) (digest : List Byte) (svn version : Nat) : List Byte :=
  let key := Config.mlDsaPublic (s.aliasSeed digest svn)
  Config.aliasCertificate s.deviceSeed key ((shake256 64 key).take 8) (digest ++ leBytes 1 svn ++ leBytes 8 version ++ leBytes 1 s.sec.svnFuse)

/-! ### Boot and recovery -/

/-- What the ROM leaves when the image in flash has passed every check (R494). -/
def State.bootGood (s : State) : State :=
  let h := s.flashBytes 0x5400
  let svn := rdN h 8 1
  let version := rdN h 0x10 8
  let digest := s.flashDigest
  let fw : Firmware := { svn := svn, version := version, digest := digest, keys := (h.drop 0x7C0).take (1968 * imageKeys h),
                         cert := s.aliasCert digest svn version }
  (({ s with sec := { s.sec with fw := some fw, recovery := false }, clk := { s.clk with booted := true } }).setReg rSecBoot
    (packed [(0, 1), (16, svn)])).freeDies

/-- The ROM enters recovery (R493, R495). -/
def State.bootBad (s : State) (code : Nat) : State :=
  (({ s with sec := { s.sec with recovery := true } }).setReg rSecBoot (packed [(0, 2), (8, code)])).keepDies

/-- The ROM checks the flash and starts the firmware or enters recovery. Which check a flash left unspecified fails is free
(R493, R497, R498; log entry 5). -/
def State.boot (s : State) (flashOk : Bool) : State :=
  if !flashOk then s.bootBad 7
  else if s.sec.spoilt then ({ s with free := s.free + 1 }).bootBad (1 + (Config.freeWord s.free).toNat % 7)
  else match s.flashCheck with
    | 0 => s.bootGood
    | c => s.bootBad c

/-- Is a transfer of an image into flash under way? -/
def State.updating (s : State) : Bool := s.sec.update.isSome

/-- Change the transfer under way. -/
def State.setUpdate (s : State) (u : Option Update) : State := { s with sec := { s.sec with update := u } }

/-- In recovery a transfer shows in SEC_RCV_STATUS, whichever path it takes. -/
def State.rcvShow (s : State) (busy : Nat) (result : Option Nat) : State :=
  if !s.sec.recovery then s
  else
    let s := s.setFld rSecRcvStatus 0 0 busy
    match result with
    | some r => s.setFld rSecRcvStatus 7 4 r
    | none => s

/-- The image region is erased and a transfer begins to write it. -/
def State.eraseFlash (s : State) : State := { s with sec := { s.sec with flash := [], spoilt := false } }

/-! ### Seals (R504) -/

/-- Offsets of the registers with an RWL field, in ascending order; an I/O die that is not fitted has none (R3). -/
def State.rwlOffsets (s : State) : List Nat :=
  let one (n st : Nat) : List Nat := (List.range (max n 1)).map (· * st)
  let all := (regTable.filter fun r => r.fields.any fun f => f.acc = .rwl).flatMap fun r =>
    (one r.dies 0x400000).flatMap fun d => (one r.per r.inner).flatMap fun i =>
      (one r.jCount r.jStride).flatMap fun j => (one r.kCount r.kStride).map fun k => r.base + d + i + j + k
  sortByKey id (all.filter fun off => !decide (0x3000000 + asmIoDies s.assy * 0x400000 ≤ off)).eraseDups

/-- The seal digest of a partition, or with none of the device: every register word that holds a field sealed with it. -/
def State.sealDigest (s : State) (scope : Option Nat) : List Byte :=
  shake256 64 ((s.rwlOffsets.filter fun off => s.sealScope off = scope).flatMap fun off => leBytes 4 (s.present off).toNat)

/-- At debug level 3 the Waybills of sealed partitions that are ready but have not started complete with SEC_DENIED (R508; DEDUCED, log
entry 30: at the unlock or the seal, and not when they would start). -/
def State.denyUnstarted (s : State) : State :=
  if s.fld rSecDbg 1 0 ≠ 3 then s
  else ((s.sched.wbs.filter fun w => decide (w.phase = .ready) && s.sealed w.part).foldl (fun s w => s.cancelWb w.wid stSecDenied) s).settle

/-- SEAL (R510). -/
def State.sealEvent (s : State) (p : Option Nat) (digest : List Byte) : State :=
  s.emit (ev 0x0700 lvChip p 0 [if p.isSome then 1 else 0, leNat (digest.take 8), s.fld rSecDbg 1 0])

/-- RESULT of SEC_SEAL_CMD. -/
def State.sealResult (s : State) (r : Nat) : State := s.setFld rSecSealStatus 7 4 r

end Sys2Proof.Machine
end

