-- ==== Sys2Proof/Machine/Sec.lean ====
section
/-! DEFINITION. The meanings of the commands of chapter 16: boot, recovery and firmware update, anti-rollback, seals, attestation over
SPDM, and debug (R489 to R512). The numbers of SPDM's, PLDM's and IDE_KM's own messages are log entry 29's. -/

namespace Sys2Proof.Machine

open Sys2Proof

/-! ### Boot and recovery -/

/-- BOOT_VERIFY: after the release of MGT in a CHIP or POWER_ON reset the ROM runs once (R493, R494). -/
def bootVerifyStep (flashOk : Bool) (s : State) : State :=
  if s.clk.booted || s.sec.recovery || s.sec.fw.isSome || !s.pins.aux || s.clk.run.any (fun r => r.inReset.contains 1) then s
  else s.boot flashOk

/-- BOOT_VERIFY (R493). -/
def execBootVerify (flashOk : Bool) (s : State) : Host.Outcome State Fault Refusal := .next (bootVerifyStep flashOk s)

/-- RCV_START: 1 written to SEC_RCV_CMD.START (R496, R497, R511, R512). -/
def rcvStartStep (host : BytesRead) (s : State) : State :=
  let n := (s.reg rSecRcvSize).toNat
  let result (r : Nat) (s : State) : State := s.setFld rSecRcvStatus 7 4 r
  if bit 0 (s.reg rSecRcvStatus) && !bit 0 (s.reg rSecRcvCmd) && s.barOpen rSecRcvCmd then result 8 (s.setFld rSecRcvStatus 1 1 1)
  else s.byCmd rSecRcvCmd rSecRcvStatus (fun w => bit 0 w) fun s =>
  if !s.sec.recovery then result 9 s
  else if !imageSizeOk n then result 3 s
  else match host with
    | .ok bytes =>
      let image := bytes.take n ++ List.replicate (n - bytes.length) 0
      match s.headCheck (image.take 0x5400) with
      | 0 =>
        let u : Update := { pldm := false, size := n, headOk := true, result := none, verified := none, ended := false }
        let s := s.eraseFlash.setUpdate (some u)
        (({ s with sec := { s.sec with flash := image } }).setReg rSecRcvDone 0).setFld rSecRcvStatus 0 0 1
      | c => result c s
    | _ => result (1 + (Config.freeWord s.free).toNat % 7) { s with free := s.free + 1 }

/-- RCV_START (R496). -/
def execRcvStart (host : BytesRead) (s : State) : Host.Outcome State Fault Refusal := .next (rcvStartStep host s)

/-- RCV_TRANSFER_DONE: the image of a CXL transfer is written: SIG decides, and a good image boots without a reset (R496). -/
def rcvTransferDoneStep (s : State) : State :=
  match s.sec.update with
  | none => s
  | some u =>
    if u.pldm then s
    else
      let s := ((s.setUpdate none).setReg rSecRcvDone (w32 u.size)).setFld rSecRcvStatus 0 0 0
      if s.flashSigned then (s.setFld rSecRcvStatus 7 4 0).boot true else s.setFld rSecRcvStatus 7 4 5

/-- RCV_TRANSFER_DONE (R496). -/
def execRcvTransferDone (s : State) : Host.Outcome State Fault Refusal := .next (rcvTransferDoneStep s)

/-! ### Firmware update over PLDM -/

/-- Does anything answer PLDM firmware update: the firmware, or the ROM in recovery (R495, R498)? -/
def State.pldmOn (s : State) : Bool := s.firmwareOn || s.sec.recovery

/-- A PLDM transfer that is under way. -/
def State.pldm (s : State) : Option Update := if s.pldmOn then s.sec.update.filter (·.pldm) else none

/-- An answer on the management connector: message, completion code. -/
def State.mgmtSay (s : State) (msg code : Nat) : State := s.put (.mgmt msg (leBytes 1 code))

/-- REQUEST_UPDATE: an image of a size is offered; refused as busy while a transfer runs (R496 to R498). -/
def requestUpdateStep (size : Nat) (s : State) : State :=
  if !s.pldmOn then s
  else if s.updating || (s.sec.recovery && bit 0 (s.reg rSecRcvStatus)) then s.mgmtSay 0x10 1
  else
    let u : Update := { pldm := true, size := size, headOk := false, result := none, verified := none, ended := false }
    ((s.setUpdate (some u)).rcvShow 1 none).mgmtSay 0x10 0

/-- REQUEST_UPDATE (R496). -/
def execRequestUpdate (size : Nat) (s : State) : Host.Outcome State Fault Refusal := .next (requestUpdateStep size s)

/-- PASS_COMPONENT_TABLE: answered while a transfer runs (R495). -/
def passComponentTableStep (s : State) : State := if s.pldm.isSome then s.mgmtSay 0x11 0 else s

/-- PASS_COMPONENT_TABLE (R495). -/
def execPassComponentTable (s : State) : Host.Outcome State Fault Refusal := .next (passComponentTableStep s)

/-- A transfer ends with a code; the next boot meets what stands in flash. -/
def State.pldmFail (s : State) (msg code : Nat) : State := ((s.setUpdate none).rcvShow 0 (some code)).mgmtSay msg code

/-- UPDATE_COMPONENT: the offered header is checked; only then is the image region erased (R496, R498). -/
def updateComponentStep (head : List Byte) (s : State) : State :=
  match s.pldm with
  | none => s
  | some u =>
    if u.headOk then s
    else
      let h := head.take 0x5400 ++ List.replicate (0x5400 - head.length) 0
      match s.headCheck h with
      | 0 =>
        if !imageSizeOk u.size then s.pldmFail 0x12 3
        else
          let s := (s.eraseFlash.setUpdate (some { u with headOk := true })).mgmtSay 0x12 0
          if s.sec.recovery then s.setReg rSecRcvDone 0 else s
      | c => s.pldmFail 0x12 c

/-- UPDATE_COMPONENT (R496). -/
def execUpdateComponent (head : List Byte) (s : State) : Host.Outcome State Fault Refusal := .next (updateComponentStep head s)

/-- REQUEST_FIRMWARE_DATA: the next bytes that the block asked for arrive, in order, and are written (R496, R498). -/
def requestFirmwareDataStep (off : Nat) (bytes : List Byte) (s : State) : State :=
  match s.pldm with
  | none => s
  | some u =>
    if !u.headOk || decide (off ≠ s.sec.flash.length) || decide (u.size < off + bytes.length) then s
    else
      let s := { s with sec := { s.sec with flash := s.sec.flash ++ bytes } }
      if s.sec.recovery then s.setReg rSecRcvDone (w32 s.sec.flash.length) else s

/-- REQUEST_FIRMWARE_DATA (R496). -/
def execRequestFirmwareData (off : Nat) (bytes : List Byte) (s : State) : Host.Outcome State Fault Refusal :=
  .next (requestFirmwareDataStep off bytes s)

/-- TRANSFER_COMPLETE: every byte offered has been written. -/
def transferCompleteStep (s : State) : State :=
  match s.pldm with
  | none => s
  | some u =>
    if u.headOk && !u.ended && decide (s.sec.flash.length = u.size) then
      (s.setUpdate (some { u with ended := true })).mgmtSay 0x14 0
    else s

/-- TRANSFER_COMPLETE (R496). -/
def execTransferComplete (s : State) : Host.Outcome State Fault Refusal := .next (transferCompleteStep s)

/-- VERIFY_COMPLETE: SIG is checked after the writing; a bad one ends the transfer with code 5 (R496, R498). -/
def verifyCompleteStep (s : State) : State :=
  match s.pldm with
  | none => s
  | some u =>
    if !u.ended || u.verified.isSome then s
    else if s.flashSigned then (s.setUpdate (some { u with verified := some true })).mgmtSay 0x15 0
    else s.pldmFail 0x15 5

/-- VERIFY_COMPLETE (R498). -/
def execVerifyComplete (s : State) : Host.Outcome State Fault Refusal := .next (verifyCompleteStep s)

/-- APPLY_COMPLETE: the transfer is over. In recovery the ROM boots the image without a reset; with the firmware running it waits for
the next CHIP or POWER_ON reset (R496, R498). -/
def applyCompleteStep (s : State) : State :=
  match s.pldm with
  | none => s
  | some u =>
    if u.verified ≠ some true then s
    else
      let t := ((s.setUpdate none).rcvShow 0 (some 0)).mgmtSay 0x16 0
      if s.sec.recovery then t.boot true else t

/-- APPLY_COMPLETE (R498). -/
def execApplyComplete (s : State) : Host.Outcome State Fault Refusal := .next (applyCompleteStep s)

/-! ### Anti-rollback -/

/-- SVN_COMMIT: SVN_COUNT rises to the SVN of the running image, by SEC_SVN_CMD or by the BMC (R499, R510). In recovery the register
command gives NOT_RUNNING, which SEC_SVN_STATUS shows once it answers again (R512; DEDUCED, log entry 30). -/
def svnCommitStep (mctp : Bool) (s : State) : State :=
  let result (r : Nat) (s : State) : State := if mctp then s.mgmtSay 0x21 r else s.setFld rSecSvnStatus 7 4 r
  let run (s : State) : State := match s.sec.fw with
    | none => result 1 s
    | some f =>
      let old := s.sec.svnFuse
      let new := max old f.svn
      (result 0 { s with sec := { s.sec with svnFuse := new } }).emit (ev 0x0703 lvChip none 0 [old, new])
  if mctp then (if s.firmwareOn then run s else s)
  else if s.sec.recovery then (if s.ready then result 1 s else s)
  else s.byCmd rSecSvnCmd rSecSvnStatus (fun w => bit 0 w) run

/-- SVN_COMMIT (R499). -/
def execSvnCommit (mctp : Bool) (s : State) : Host.Outcome State Fault Refusal := .next (svnCommitStep mctp s)

/-! ### Seals -/

/-- SEAL_DEVICE: always succeeds; a sealed device stays as it is (R504). -/
def sealDeviceStep (s : State) : State :=
  s.byCmd rSecSealCmd rSecSealStatus (fun w => bits 9 8 w = 2) fun s =>
  if s.devSealed then s.sealResult 0
  else
    let d := s.sealDigest none
    (({ s with sec := { s.sec with devSeal := some d } }).sealResult 0).sealEvent none d

/-- SEAL_DEVICE (R504). -/
def execSealDevice (s : State) : Host.Outcome State Fault Refusal := .next (sealDeviceStep s)

/-- SEAL_PARTITION (R504, R512). -/
def sealPartitionStep (p : Nat) (s : State) : State :=
  s.byCmd rSecSealCmd rSecSealStatus (fun w => bits 4 0 w = p && bits 9 8 w = 1) fun s =>
  if (s.part p).isNone then s.sealResult 1
  else if !s.devSealed then s.sealResult 3
  else if s.partState p = 5 || s.sealed p then s.sealResult 2
  else
    let d := s.sealDigest (some p)
    let s := { s with sec := { s.sec with partSeals := s.sec.partSeals ++ [(p, d)] } }
    (((s.setFld rSecPartSealed p p 1).sealResult 0).sealEvent (some p) d).denyUnstarted

/-- SEAL_PARTITION (R504). -/
def execSealPartition (p : Nat) (s : State) : Host.Outcome State Fault Refusal := .next (sealPartitionStep p s)

/-! ### Attestation -/

/-- What a requester on a transport has negotiated. -/
def State.spdmOf (s : State) (t : Nat) : Spdm :=
  (s.sec.spdm.find? fun x => x.transport = t).getD
    { transport := t, version := false, caps := false, algs := [], handshake := none, session := none }

/-- Change it. -/
def State.setSpdm (s : State) (x : Spdm) : State :=
  { s with sec := { s.sec with spdm := s.sec.spdm.filter (fun y => y.transport ≠ x.transport) ++ [x] } }

/-- A response: 0x100 on MCTP or 0x200 on the CXL DOE mailbox, plus SPDM's response code. -/
def State.spdmSay (s : State) (t code : Nat) (data : List Byte) : State := s.put (.mgmt (0x100 * (t + 1) + code) data)

/-- ERROR with a code: 0x01 InvalidRequest, 0x04 UnexpectedRequest, 0x05 Unspecified, 0x06 DecryptError, 0x07 UnsupportedRequest. -/
def State.spdmError (s : State) (t code : Nat) : State := s.spdmSay t 0x7F (leBytes 1 code)

/-- A request is processed when the firmware runs and the transport works, and once what must come before it has been
negotiated. -/
def State.spdmOn (s : State) (t : Nat) (need : Spdm → Bool) (f : Firmware → State → State) : State :=
  match s.sec.fw with
  | none => s
  | some fw =>
    if !s.firmwareOn || (decide (t = 1) && s.hifReset) || decide (2 ≤ t) then s
    else if need (s.spdmOf t) then f fw s else s.spdmError t 4

/-- A response within a handshake or a session, sealed with its key (R502). -/
def State.spdmSeal (s : State) (t code : Nat) (key : List Byte) (n : Nat) (data : List Byte) : State :=
  s.spdmSay t code (Config.sessionSeal key n (leBytes 1 code ++ data))

/-- A signature of the alias key over the digest of a message, or ERROR with Unspecified once that key is erased (R502, R508). -/
def State.signed (s : State) (t : Nat) (fw : Firmware) (code : Nat) (body seen : List Byte) : State :=
  if s.sec.aliasGone then s.spdmError t 5
  else s.spdmSay t code (body ++ Config.mlDsaSign (s.aliasSeed fw.digest fw.svn) (shake256 64 (seen ++ body)))

/-- The certificate chain that slot 0 holds (R501): the root is supplied out of band. -/
def State.certChain (s : State) (fw : Firmware) : List Byte := s.sec.certs.flatten ++ fw.cert

/-- GET_VERSION starts a negotiation (R502). -/
def getVersionStep (t : Nat) (s : State) : State :=
  s.spdmOn t (fun _ => true) fun _ s =>
    (s.setSpdm { transport := t, version := true, caps := false, algs := [], handshake := none, session := none }).spdmSay t
      0x04 [0x12]

/-- GET_VERSION (R502). -/
def execGetVersion (t : Nat) (s : State) : Host.Outcome State Fault Refusal := .next (getVersionStep t s)

/-- Flags of what R502 and R503 have the responder do: certificates, challenges, fresh signed measurements, encryption, authentication
and key exchange (log entry 29). -/
def spdmFlags : Nat := 0x2F6

/-- GET_CAPABILITIES: the flags stand amid the responder's time and sizes, which the manual does not give (R502, log entry 29). -/
def getCapabilitiesStep (t : Nat) (s : State) : State :=
  s.spdmOn t (·.version) fun _ s =>
    let (own, s) := s.drawBytes 9
    (s.setSpdm { s.spdmOf t with caps := true }).spdmSay t 0x61
      ([0] ++ own.take 1 ++ [0, 0] ++ leBytes 4 spdmFlags ++ own.drop 1)

/-- GET_CAPABILITIES (R502). -/
def execGetCapabilities (t : Nat) (s : State) : Host.Outcome State Fault Refusal := .next (getCapabilitiesStep t s)

/-- ALGORITHMS: those selected, each as an extended algorithm: signature and hash in lists of their own, key exchange and AEAD in
structures of type 2 and 3 (R502, log entry 29). -/
def algorithmsBody (l : List SpdmAlg) : List Byte :=
  let id (a : SpdmAlg) : List Byte := if l.contains a then leBytes 4 (Config.extAlgorithm a).toNat else []
  let table (k : Nat) (a : SpdmAlg) : List Byte := if l.contains a then leBytes 1 k ++ [0x21, 0, 0] ++ id a else []
  let one (a : SpdmAlg) : List Byte := leBytes 1 (if l.contains a then 1 else 0)
  let rest := one .mlDsa65 ++ one .shake256 ++ [0, 0] ++ id .mlDsa65 ++ id .shake256 ++ table 2 .mlKem768 ++ table 3 .aes256Gcm
  leBytes 2 (32 + rest.length) ++ [1, 0] ++ List.replicate 24 0 ++ rest

/-- NEGOTIATE_ALGORITHMS: of the algorithm set the requester's are selected; one that has none of them is told UnsupportedRequest
(R502). -/
def negotiateAlgorithmsStep (t : Nat) (offered : List SpdmAlg) (s : State) : State :=
  s.spdmOn t (·.caps) fun _ s =>
    if offered.isEmpty then s.spdmError t 7
    else (s.setSpdm { s.spdmOf t with algs := offered.eraseDups }).spdmSay t 0x63 (algorithmsBody offered)

/-- NEGOTIATE_ALGORITHMS (R502). -/
def execNegotiateAlgorithms (t : Nat) (offered : List SpdmAlg) (s : State) : Host.Outcome State Fault Refusal :=
  .next (negotiateAlgorithmsStep t offered s)

/-- GET_DIGESTS (R502). -/
def getDigestsStep (t : Nat) (s : State) : State :=
  s.spdmOn t (!·.algs.isEmpty) fun fw s => s.spdmSay t 0x01 (shake256 64 (s.certChain fw))

/-- GET_DIGESTS (R502). -/
def execGetDigests (t : Nat) (s : State) : Host.Outcome State Fault Refusal := .next (getDigestsStep t s)

/-- GET_CERTIFICATE: a portion of the chain in slot 0; there is no other slot (R502). -/
def getCertificateStep (t slot off len : Nat) (s : State) : State :=
  s.spdmOn t (!·.algs.isEmpty) fun fw s =>
    let c := s.certChain fw
    if slot ≠ 0 || c.length ≤ off then s.spdmError t 1
    else
      let part := (c.drop off).take len
      s.spdmSay t 0x02 (leBytes 2 part.length ++ leBytes 2 (c.length - off - part.length) ++ part)

/-- GET_CERTIFICATE (R502). -/
def execGetCertificate (t slot off len : Nat) (s : State) : Host.Outcome State Fault Refusal :=
  .next (getCertificateStep t slot off len s)

/-- CHALLENGE: signed by the alias key (R502, R508). -/
def challengeStep (t slot : Nat) (nonce : List Byte) (s : State) : State :=
  s.spdmOn t (!·.algs.isEmpty) fun fw s =>
    if slot ≠ 0 then s.spdmError t 1
    else
      let (own, s) := s.drawBytes 32
      s.signed t fw 0x03 (shake256 64 (s.certChain fw) ++ own) nonce

/-- CHALLENGE (R502). -/
def execChallenge (t slot : Nat) (nonce : List Byte) (s : State) : Host.Outcome State Fault Refusal :=
  .next (challengeStep t slot nonce s)

/-- 64 bytes: a value followed by zeros. -/
def in64 (bs : List Byte) : List Byte := (bs ++ List.replicate 64 0).take 64

/-- The 64-byte value of a measurement block, when the index has one (R503). -/
def State.measurement (s : State) (fw : Firmware) (i : Nat) : Option (List Byte) :=
  if i = 1 then some (in64 Config.romDigest)
  else if i = 2 then some (in64 fw.digest)
  else if i = 3 then some (in64 (leBytes 1 fw.svn ++ leBytes 1 s.sec.svnFuse ++ leBytes 8 fw.version))
  else if i = 4 then some (in64 (leBytes 1 (s.fld rSecDbg 1 0) ++ leBytes 1 (if s.sec.dbgOff then 1 else 0)))
  else if i = 5 then some (in64 (s.sec.devSeal.getD []))
  else if i = 6 then some (shake256 64 (fw.keys ++ List.replicate (0x3D80 - fw.keys.length) 0))
  else if 0x10 ≤ i ∧ i < 0x30 then some (in64 (((s.sec.partSeals.find? fun x => x.1 = i - 0x10).map (·.2)).getD []))
  else none

/-- The indices that have a value. -/
def measureIndices : List Nat := [1, 2, 3, 4, 5, 6] ++ (List.range 32).map (0x10 + ·)

/-- Type of a value in the DMTF measurement format, bit 7 marking a raw one: immutable ROM, mutable firmware, its SVN, debug mode,
firmware configuration (R503, log entry 29). -/
def measureType (i : Nat) : Nat := if i = 1 then 0 else if i = 2 then 1 else if i = 3 then 0x87 else if i = 4 then 0x85 else 3

/-- A measurement block in the DMTF measurement format: index, specification, size, value type, value size, value (R503). -/
def measureBlock (i : Nat) (v : List Byte) : List Byte :=
  leBytes 1 i ++ [1] ++ leBytes 2 (3 + v.length) ++ leBytes 1 (measureType i) ++ leBytes 2 v.length ++ v

/-- GET_MEASUREMENTS: values as they stand when the request is processed; signed when asked (R502, R503, R508). -/
def getMeasurementsStep (t : Nat) (index : Option Nat) (sign : Bool) (nonce : List Byte) (s : State) : State :=
  s.spdmOn t (!·.algs.isEmpty) fun fw s =>
    let want := match index with
      | none => measureIndices
      | some i => [i]
    let blocks := want.filterMap fun i => (s.measurement fw i).map (measureBlock i)
    if blocks.isEmpty then s.spdmError t 1
    else if sign then
      let (own, s) := s.drawBytes 32
      s.signed t fw 0x60 (blocks.flatten ++ own) nonce
    else s.spdmSay t 0x60 blocks.flatten

/-- GET_MEASUREMENTS (R503). -/
def execGetMeasurements (t : Nat) (index : Option Nat) (sign : Bool) (nonce : List Byte) (s : State) :
    Host.Outcome State Fault Refusal := .next (getMeasurementsStep t index sign nonce s)

/-- KEY_EXCHANGE opens a handshake; its response is signed (R502, R508). -/
def keyExchangeStep (t : Nat) (key : List Byte) (s : State) : State :=
  s.spdmOn t (!·.algs.isEmpty) fun fw s =>
    let (m, s) := s.drawBytes 32
    let s := s.signed t fw 0x64 (Config.mlKemEncapsulate key m) key
    if s.sec.aliasGone then s else s.setSpdm { s.spdmOf t with handshake := some (Config.mlKemSecret key m), session := none }

/-- KEY_EXCHANGE (R502). -/
def execKeyExchange (t : Nat) (key : List Byte) (s : State) : Host.Outcome State Fault Refusal := .next (keyExchangeStep t key s)

/-- FINISH: a handshake whose check value is right opens the session (R502). -/
def finishStep (t : Nat) (ok : Bool) (s : State) : State :=
  s.spdmOn t (·.handshake.isSome) fun _ s =>
    let secret := (s.spdmOf t).handshake.getD []
    if ok then
      (s.setSpdm { s.spdmOf t with handshake := none, session := some (Config.sessionKey secret, 0) }).spdmSeal t 0x65 secret 0 []
    else (s.setSpdm { s.spdmOf t with handshake := none, session := none }).spdmError t 6

/-- FINISH (R502). -/
def execFinish (t : Nat) (ok : Bool) (s : State) : Host.Outcome State Fault Refusal := .next (finishStep t ok s)

/-- A response within the session: it is sealed with the session's key and counts under it (R502). -/
def State.inSession (s : State) (t code : Nat) (data : List Byte) : State :=
  let (key, n) := (s.spdmOf t).session.getD ([], 0)
  (s.setSpdm { s.spdmOf t with session := some (key, n + 1) }).spdmSeal t code key n data

/-- END_SESSION: the last response of the session is sealed with its key (R502). -/
def endSessionStep (t : Nat) (s : State) : State :=
  s.spdmOn t (·.session.isSome) fun _ s =>
    let s := s.inSession t 0x6C []
    s.setSpdm { s.spdmOf t with session := none }

/-- END_SESSION (R502). -/
def execEndSession (t : Nat) (s : State) : Host.Outcome State Fault Refusal := .next (endSessionStep t s)

/-- IDE_KM: within a session on the DOE mailbox, keys are programmed, and IDE is started or stopped on CXL.io or on CXL.cachemem
(R33, R75, R502). The message: object (2 KEY_PROG, 4 K_SET_GO, 5 K_SET_STOP), stream (0 CXL.io, 1 CXL.cachemem), key. -/
def ideKmStep (t : Nat) (key : List Byte) (s : State) : State :=
  s.spdmOn t (·.session.isSome) fun _ s =>
    let op := rdN key 0 1
    let b := if rdN key 1 1 = 0 then 12 else 13
    if t ≠ 1 || !(decide (op = 2 ∨ op = 4 ∨ op = 5)) then s.inSession t 0x7F [7]
    else if op = 2 then ({ s with sec := { s.sec with ideKeys := s.sec.ideKeys ++ [key.drop 1] } }).inSession t 0x7E [0x03]
    else if op = 4 && !s.sec.ideKeys.any fun k => rdN k 0 1 = rdN key 1 1 then s.inSession t 0x7F [1]
    else (s.setFld rHifLinkStatus b b (if op = 4 then 1 else 0)).inSession t 0x7E [0x06]

/-- IDE_KM (R33). -/
def execIdeKm (t : Nat) (key : List Byte) (s : State) : Host.Outcome State Fault Refusal := .next (ideKmStep t key s)

/-! ### Debug -/

/-- DEBUG_CHALLENGE_READ: a new challenge at each read, refused after three failures (R507). -/
def debugChallengeReadStep (mctp : Bool) (s : State) : State :=
  if !s.firmwareOn then s
  else
    let msg := if mctp then 0x30 else 0x31
    if s.sec.lockout then s.put (.mgmt msg [])
    else
      let (c, s) := s.drawBytes 32
      ({ s with sec := { s.sec with challenge := some c } }).put (.mgmt msg c)

/-- DEBUG_CHALLENGE_READ (R507). -/
def execDebugChallengeRead (mctp : Bool) (s : State) : Host.Outcome State Fault Refusal := .next (debugChallengeReadStep mctp s)

/-- KEY_ID of a key of USAGE 2 under which an unlock response verifies (R507). -/
def State.unlockKey (s : State) (level : Nat) (sig : List Byte) : Option Nat :=
  match s.sec.fw, s.sec.challenge with
  | some f, some c =>
    let msg := shake256 64 (c ++ leBytes 8 s.sec.uid.toNat ++ leBytes 1 level)
    (List.range (f.keys.length / 1968)).findSome? fun k =>
      if rdN f.keys (1968 * k + 8) 8 = 2 ∧ Config.mlDsaVerify ((f.keys.drop (1968 * k + 16)).take 1952) msg sig then
        some (rdN f.keys (1968 * k) 8)
      else none
  | _, _ => none

/-- DEBUG_UNLOCK: a level and a signature are returned; the challenge is used up either way (R506 to R508, R510, R511). -/
def debugUnlockStep (level : Nat) (sig : List Byte) (mctp : Bool) (s : State) : State :=
  if !s.firmwareOn then s
  else
    let key := if s.sec.dbgOff || decide (3 < level) then none else s.unlockKey level sig
    let s := { s with sec := { s.sec with challenge := none } }
    match key with
    | none =>
      let n := s.sec.failsNow + 1
      let s := { s with sec := { s.sec with failsNow := n, lockout := s.sec.lockout || n % 3 = 0 } }
      s.emit (ev 0x0702 lvChip none 0 [level, n])
    | some id =>
      let new := max level (s.fld rSecDbg 1 0)
      let s := { s with sec := { s.sec with failsNow := 0, aliasGone := s.sec.aliasGone || new = 3 } }
      ((s.setFld rSecDbg 1 0 new).emit (ev 0x0701 lvChip none 0 [new, id, if mctp then 2 else 1])).denyUnstarted

/-- DEBUG_UNLOCK (R507). -/
def execDebugUnlock (level : Nat) (sig : List Byte) (mctp : Bool) (s : State) : Host.Outcome State Fault Refusal :=
  .next (debugUnlockStep level sig mctp s)

/-- DEBUG_CHALLENGE_EXPIRE: a challenge is valid for 60 s (R507). -/
def debugChallengeExpireStep (s : State) : State := { s with sec := { s.sec with challenge := none } }

/-- DEBUG_CHALLENGE_EXPIRE (R507). -/
def execDebugChallengeExpire (s : State) : Host.Outcome State Fault Refusal := .next (debugChallengeExpireStep s)

/-- DEBUG_LOCKOUT_END: 10 s after the third failure new challenges are drawn again (R507). -/
def debugLockoutEndStep (s : State) : State := { s with sec := { s.sec with lockout := false } }

/-- DEBUG_LOCKOUT_END (R507). -/
def execDebugLockoutEnd (s : State) : Host.Outcome State Fault Refusal := .next (debugLockoutEndStep s)

/-! ### The management connector -/

/-- MCTP_CONTROL_MESSAGE: answered by the firmware, in recovery by the ROM; its content is MCTP's own (R495, log entry 29). -/
def mctpControlMessageStep (msg : List Byte) (s : State) : State :=
  if s.pldmOn then s.put (.mgmt 0 (msg.take 1 ++ [0])) else s

/-- MCTP_CONTROL_MESSAGE (R495). -/
def execMctpControlMessage (msg : List Byte) (s : State) : Host.Outcome State Fault Refusal := .next (mctpControlMessageStep msg s)

end Sys2Proof.Machine
end

