-- ==== Sys2Proof/Machine/Registers.lean ====
section
/-! DEFINITION. Host accesses: BAR0 writes to registers without a command of their own, reads of `_LO` registers, accesses of a wrong
size, and configuration requests (R9, R10, R31, R36, R75 to R77, R147, R476). -/

namespace Sys2Proof.Machine

open Sys2Proof

/-! ### Reads -/

/-- BAR0_BAD_ACCESS: an access that is not an aligned 32-bit one is answered with unsupported request and writes nothing (R36). -/
def bar0BadAccessStep (off size : Nat) (s : State) : State :=
  if s.hifReset || decide (off % 4 = 0 ∧ size = 4) then s else s.put .unsupported

/-- BAR0_BAD_ACCESS (R36). -/
def execBar0BadAccess (off size : Nat) (_write : Bool) (s : State) : Host.Outcome State Fault Refusal :=
  .next (bar0BadAccessStep off size s)

/-- LO_READ_LATCH: a read of the `_LO` register of a latching pair latches its `_HI` (R147, R438). -/
def loReadLatchStep (off : Nat) (s : State) : State :=
  if s.barOpen off && isPairLo off then
    let rest := s.host.latches.filter fun x => x.1 ≠ off + 4
    { s with host := { s.host with latches := rest ++ [(off + 4, s.highWord off)] } }
  else s

/-- LO_READ_LATCH (R147). -/
def execLoReadLatch (off : Nat) (s : State) : Host.Outcome State Fault Refusal := .next (loReadLatchStep off s)

/-! ### Writes -/

/-- First offsets of the registers whose writes are commands of their own. -/
def ownRows : List Nat :=
  [rRngCtl, rRngCmd, rRngEvqCfg, rRngGrpCfg 0, rRngGrpStatus 0, rMxeCtrClr 0, rMxeNfClr 0, rMxeThdClr 0, rVxeCtrClr 0, rVxeTblCmd 0,
   rGazCfg 0, rGazCtrClr 0, rExpCtrClr 0, rSrvCtrClr 0, rXfeCtrClr 0, rCveCtrClr 0, rCdeCtrClr 0, rCleCtrClr 0] ++
  [rSrvQuotaHbm 0 0, rSrvQuotaSid 0 0, rSrvHostpoolLo 0, rSrvHostpoolHi 0, rSrvHostpoolPages 0, rSrvFabpoolLo 0 0, rSrvFabpoolHi 0 0,
   rSrvFabpoolPages 0 0, rSrvPoolFault 0, rVrlPortCtl 0, rVrlPortClr 0, rVrlCtrClr] ++
  [rPrtCmd, rPrtSemValHi, rPrtCfg 0, rPrtShare 0, rPrtSemBase 0, rPrtSemCount 0, rPrtCtrClr 0, rPwrStatClr, rClkForce, rRstBlock, rRstDie,
   rSecSealCmd, rSecSvnCmd, rSecRcvCmd, rErrCtrClr, rBstCmd, rBstCtrClr]

/-- Has a write to a register a command of its own? -/
def ownRow (off : Nat) : Bool := (regAt off).any fun r => ownRows.contains r.1.base

/-- The ring group whose address registers hold an offset (R76). -/
def groupOf (off : Nat) : Option Nat :=
  if 0x108000 ≤ off ∧ off < 0x110000 ∧ off % 32 < 16 then some ((off - 0x108000) / 32) else none

/-- The fabric window that an offset belongs to (R333). -/
def windowOf (off : Nat) : Option Nat :=
  if rVrlWinLo 0 ≤ off ∧ off < rVrlWinLo 64 then some ((off - rVrlWinLo 0) / 16) else none

/-- The engine that a CFG register with AVAIL belongs to. -/
def cfgOwner (off : Nat) : Option (EngKind × Nat) :=
  [EngKind.mxe, .vxe, .cve, .cde, .xfe, .cle].findSome? fun k =>
    ((List.range (kindCount .h12f4 k)).find? fun i => cfgReg k i = off).map fun i => (k, i)

/-- Is a write to an address register of the rings ignored (R38, R75, R76)? -/
def State.ringShut (s : State) (off : Nat) : Bool :=
  if off = rRngCtxBaseLo ∨ off = rRngCtxBaseHi ∨ off = rRngDbBaseLo ∨ off = rRngDbBaseHi then s.rngOn
  else if off = rRngEvqBaseLo ∨ off = rRngEvqBaseHi ∨ off = rRngEvqHeadLo ∨ off = rRngEvqHeadHi then s.evqOn
  else match groupOf off with
    | some g => bit 31 (s.reg (rRngGrpCfg g))
    | none => false

/-- Is a write to a swap arena or a fabric window ignored (R333, R438)? -/
def State.writeShut (s : State) (off : Nat) (w : Word) : Bool :=
  if rPrtSwapHbm 0 ≤ off ∧ off < rPrtSwapSid 4 then s.sched.swapOwner.isSome
  else match windowOf off with
    | some k => bit 31 (s.reg (rVrlWinHi k)) && !(decide (off = rVrlWinHi k) && !bit 31 w)
    | none => false

/-- A field of a word written put back to what the register holds when its value may not be written. -/
def State.keepIf (s : State) (off hi lo : Nat) (bad : Bool) (w : Word) : Word :=
  if bad then setBits hi lo w (s.fld off hi lo) else w

/-- A word with the fields kept whose written values are ignored: the boundary tables of the chapters (R179, R331, R361, R443, R461,
R463, R467, R518, R532). -/
def State.legalWord (s : State) (off : Nat) (w : Word) : Word :=
  if off = rVrlTimeout then s.keepIf off 15 0 (decide (bits 15 0 w < 10)) w
  else if off = rPwrLimit then s.keepIf off 15 0 (decide (bits 15 0 w < 1000 ∨ asmWatts s.assy < bits 15 0 w)) w
  else if off = rPwrIlim then s.keepIf off 6 0 (decide (bits 6 0 w < 10 ∨ 65 < bits 6 0 w)) w
  else if off = rPwrRamp then s.keepIf off 7 0 (bits 7 0 w = 0) (s.keepIf off 15 8 (bits 15 8 w = 0) w)
  else if off = rPwrFlowCfg then s.keepIf off 15 0 (bits 15 0 w = 0) w
  else if off = rPwrTherm then s.keepIf off 7 0 (decide (105 < bits 7 0 w ∨ bits 7 0 w ≤ bits 15 8 w)) w
  else if off = rErrCfg then s.keepIf off 15 8 (decide (bits 15 8 w = 0 ∨ 168 < bits 15 8 w)) w
  else if off = rBstCfg then s.keepIf off 31 16 (decide (bits 31 16 w = 0 ∨ 1440 < bits 31 16 w)) w
  else if rClkWarm 0 ≤ off ∧ off < rClkWarm 32 then w &&& maskOf ((List.range 25).filter (sleeps s.assy))
  else if (List.range 4).any fun d => off = rMxeThdCfg d then
    let r := bits 4 0 w
    s.keepIf off 4 0 (decide ((1 ≤ r ∧ r ≤ 3) ∨ 21 ≤ r)) w
  else match cfgOwner off with
    | none => w
    | some (k, i) =>
      let w := s.keepIf off 0 0 (bit 0 w && s.failed k i) w
      if k = .cle then s.keepIf off 31 16 (bits 31 16 w = 0) w else w

/-- REGISTER_WRITE: a write to a register that has no command of its own: by the access codes and seals, past the rules that make a
write ignored; what the new value lets go on goes on (R9, R10, R140, R417, R438, R505). A write of a command register puts its
command in progress. -/
def registerWriteStep (off : Nat) (w : Word) (s : State) : State :=
  if !s.barOpen off then s
  else match cmdStatus off with
  | some st => s.cmdWrite off st w
  | none =>
  if ownRow off then s
  else if 0x110000 ≤ off ∧ off < 0x118000 then
    let v := (off - 0x110000) / 16
    let part := off % 16
    let w := if part = 0 then setBits 1 0 w 0 else if part = 12 then w &&& 1 else w
    (s.setReg off w).unmask v
  else if s.ringShut off || s.writeShut off w then s.noteBreak off w
  else
    let t := s.writeRegAs off w (s.legalWord off w)
    if rPrtSwapHbm 0 ≤ off ∧ off < rPrtSwapSid 4 then
      if !s.isSealed off && t.arenaBad ((off - rPrtSwapHbm 0) / 4 % 4) (decide (off < rPrtSwapSid 0)) then s.setFld rPrtErr 2 2 1 else t
    else if (cfgOwner off).isSome || (List.range 32).any (fun p => off = rPrtEngMxe p || off = rPrtEngOther p) then t.sweepBusy.rePlace.reCle.settle
    else t

/-- REGISTER_WRITE (R9). -/
def execRegisterWrite (off : Nat) (w : Word) (s : State) : Host.Outcome State Fault Refusal := .next (registerWriteStep off w s)

/-! ### Configuration requests -/

/-- A word of configuration space as the host reads it. The manual gives the identifiers (R4, R37), BAR0 of 64 MiB, 64 bits wide and
not prefetchable, and an MSI-X capability of 2048 vectors with table and pending bits in BAR0 (R33, R77), laid out as PCIe does, the
capability at a place of the part's own; other words read as last written (log entry 31). -/
def State.cfgWord (s : State) (off : Nat) : Word :=
  let held : Word := ((s.pins.cfg.find? fun x => x.1 = off).map (·.2)).getD 0
  if off = 0 then s.reg rGlbId
  else if off = 0x10 then setBits 25 0 held 4
  else if off = 0x14 then held
  else if off = Config.msixCap then
    setBits 31 30 (setBits 26 16 (setBits 7 0 (Config.msixNext) 0x11) 2047)
      ((if s.host.msixOn then 2 else 0) + (if s.host.msixMask then 1 else 0))
  else if off = Config.msixCap + 4 then 0x110000
  else if off = Config.msixCap + 8 then 0x118000
  else held

/-- What a configuration request does once it is served (R33, R35, R75, R77). -/
def State.cfgServe (s : State) (speed width : Nat) : CfgOp → State
  | .cache true => if s.host.lostSince.isSome then withIo [] (cacheReturnStep speed width []) s else s.setFld rHifLinkStatus 10 10 1
  | .cache false => if s.cacheEn then cacheLossStep false s else s
  | .mem on => s.setFld rHifLinkStatus 11 11 (if on then 1 else 0)
  | .msix on mask => ({ s with host := { s.host with msixOn := on, msixMask := mask } }).unmaskAll
  | .ideMode skid => { s with pins := { s.pins with ideSkid := skid } }
  | .read off => s.put (.cfgData off (s.cfgWord off))
  | .write off w =>
    if off = Config.msixCap then
      ({ s with host := { s.host with msixOn := bit 31 w, msixMask := bit 30 w } }).unmaskAll else
    let rest := s.pins.cfg.filter fun x => x.1 ≠ off
    { s with pins := { s.pins with cfg := rest ++ [(off, w)] } }

/-- CONFIG_REQUEST: answered with retry status until READY is 1, and otherwise served; the link that carries it is up at a rate and
width, with 256-byte flits (R33, R75, R476). -/
def configRequestStep (speed width : Nat) (op : CfgOp) (s : State) : State :=
  if s.hifReset || !linkOk speed width then s
  else
    let s := ((s.setFld rHifLinkStatus 3 0 speed).setFld rHifLinkStatus 8 4 width).setFld rHifLinkStatus 9 9 1
    if s.ready then (s.cfgServe speed width op).put .cfgDone else s.put .cfgRetry

/-- CONFIG_REQUEST (R476). -/
def execConfigRequest (speed width : Nat) (op : CfgOp) (s : State) : Host.Outcome State Fault Refusal :=
  .next (configRequestStep speed width op s)

end Sys2Proof.Machine
end

