-- ==== Sys2Proof/Machine/Run.lean ====
section
/-! DEFINITION. The meanings of RUN_TIMETABLE, of room freed in a Timetable store and of a position report (R84 to R91, R107,
R108, R140, R143, R270, R271). -/

namespace Sys2Proof.Machine

open Sys2Proof

/-- The die that takes a RUN_TIMETABLE: of those where its partition has usable engines of the kind read at acceptance, the one with the
most idle ones, ties to the lower; with no kind, or none usable, the lowest that is not fenced (R86, R282, R447). -/
def State.receivingDie (s : State) (w : Wb) : Nat :=
  let dies := (List.range 4).filter fun d => !s.fenced 1 d
  match kindOf w with
  | none => dies.headD 0
  | some k =>
    let mine := s.usable w.part k
    let idle (d : Nat) : Nat := (mine.filter fun i => decide ((dieOf k i).2 = d) && (s.useOf k i).isNone).length
    let some := dies.filter fun d => mine.any fun i => (dieOf k i).2 = d
    (sortByKey (fun d => (16 - idle d) * 4 + d) some).headD (dies.headD 0)

/-- Does a slot of a die hold a table for a partition (R127, R193)? -/
def State.tableAt (s : State) (die part slot : Nat) : Option (List Byte) :=
  (s.eng.tables.find? fun x => decide (x.die = die ∧ x.slot = slot ∧ x.part = part)).map (·.bytes)

/-- The tables that a program names, as they stand at issue (R133). -/
def State.issueTables (s : State) (die part : Nat) (c : RunCtx) : List (Nat × List Byte) :=
  (((progOf c).filter fun o => o.op = 5 || o.op = 0x30).map (·.arg)).eraseDups.filterMap fun k =>
    (s.tableAt die part k).map fun b => (k, b)

/-- Checks 4 to 10 of R84 on the bytes that were read: the status and DETAIL of the first that fails (R85, R370), or the selected
bucket. -/
def State.ttChecks (s : State) (w : Wb) (die : Nat) (t : List Byte) (shapes : List Nat) : Nat ⊕ (Nat × Nat) :=
  let h := ttHead t
  let slotOk (k : Nat) : Bool := (s.tableAt die w.part k).isSome
  let kind : EngKind := if h.engine = 1 then .mxe else if h.engine = 2 then .vxe else .cve
  match ttCheck4 t shapes slotOk with
  | some d => .inr (stTtShape, d)
  | none => match ttCheck5 t shapes with
    | some d => .inr (stOkEmpty, d)
    | none => match ttBucket t shapes with
      | .inr k => .inr (stTtBucket, k)
      | .inl b =>
        let c := runCtx t shapes b
        match ttCheck7 t shapes b (s.usable w.part kind).length with
        | some d => .inr (stTtShape, d)
        | none =>
          let acc := ttAccDemand t b
          if h.engine = 3 && ([0, 1, 2].any fun x => outExt c x = 0) then .inr (stOkEmpty, 0xFFFFFFFF)
          else if acc.2 < acc.1 then .inr (stTtAcc, acc.1)
          else match (ttOpbDemand t b).find? fun x => decide (x.2 < x.1) with
            | some x => .inr (stTtOpb, x.1)
            | none => if ttCheck10 c w.part then .inl b else .inr (stWbBounds, 0)

/-- The status of the reads that check a Timetable, when one of them met a fault, no room or poison (R84, R265). -/
def State.readStatus (s : State) (wid : Nat) : Option Nat :=
  match s.wb wid with
  | none => none
  | some w => if accStatus w 0 = 0 then none else some (accStatus w 0)

/-- The entry of a Waybill that its receiving die checks. -/
def newRun (w : Wb) (recv : Nat) : Run :=
  { wid := w.wid, part := w.part, kind := .mxe, addr := wArg w.slot 0, tt := [], shapes := [], bucket := 0, recv := recv, insts := [], unplaced := [],
    dirty := [], thd := [], nfCfg := [], tables := [], storeWait := [], waits := 0, sat := 0, ovf := 0, nonfin := 0, laneBad := 0, laneAt := none }

/-- A Waybill is handed to its receiving die, once (R86). -/
def State.handed (s : State) (w : Wb) : State :=
  if (s.run w.wid).isSome then s
  else { s with eng := { s.eng with runs := s.eng.runs ++ [newRun w (s.receivingDie w)] } }

/-- A Waybill that fails a check ends, and its receiving die lets go of it (R84). -/
def State.failTt (s : State) (w : Wb) (st detail : Nat) : State := (s.dropRun w.wid).endWb w.wid st detail 0

/-- A check waits for room in a die's store; each Waybill counts once there (R143). -/
def State.waitRoom (s : State) (w : Wb) (die : Nat) : State :=
  match s.run w.wid with
  | some r =>
    if r.storeWait.contains die then s
    else (s.updRun w.wid fun r => { r with storeWait := r.storeWait ++ [die] }).bump (rMxeTstoreWaits die) 1
  | none => s

/-- A Timetable that passed every check: the run is issued and asks for engines (R86, R91, R133, R140, R177). -/
def State.issue (s : State) (w : Wb) (die : Nat) (t : List Byte) (shapes : List Nat) (b : Nat) : State :=
  let c := runCtx t shapes b
  let k : EngKind := if c.h.engine = 1 then .mxe else if c.h.engine = 2 then .vxe else .cve
  let n := (s.usable w.part k).length
  if n = 0 then s.failTt w stBlkBusy 0
  else
    let u := min c.h.spread (min (ttTrip0 c.ls) n)
    let waited := ((s.run w.wid).map (·.storeWait)).getD []
    let r : Run := { newRun w die with
      kind := k, tt := t, shapes := shapes, bucket := b, storeWait := waited,
      thd := (List.range 4).map (fun (d : Nat) => (s.reg (rMxeThdCfg d), s.reg (rMxeThdSeed d))),
      nfCfg := (List.range 4).map fun (d : Nat) => s.eff (rMxeNfCfg d),
      tables := s.issueTables die w.part c }
    let s := s.dropRun w.wid
    let s := { s with eng := { s.eng with runs := s.eng.runs ++ [r] } }
    ((s.addCopy die w.wid t.length).updWb w.wid fun w => { w with resSince := none }).schedule w.wid k u

/-- The ten checks of R84 in their order, then the issue. -/
def State.checkTt (s : State) (w : Wb) : State :=
  let a := wArg w.slot 0
  let shapes := shapeVals (wArg w.slot 1) (wArg w.slot 2) (wArg w.slot 3)
  let s := s.handed w
  let die := ((s.run w.wid).map (·.recv)).getD 0
  let (ok, s1) := s.prepareFor w.wid 0 [(a, 256)] []
  if !ok then s1
  else
    let hd := s1.readBytes a 256
    let s2 := s1.noteRead w.wid a 256
    match s2.readStatus w.wid with
    | some st => s2.failTt w st 0
    | none => match ttCheckHeader hd with
      | some d => s2.failTt w stTtSeal d
      | none =>
        let size := rdN hd 8 4
        if !rangeInPart w.part a size then s2.failTt w stWbBounds 0
        else if !s1.storeRoom die size then s1.waitRoom w die
        else
          let (ok, s3) := s1.prepareFor w.wid 1 [(a, size)] []
          if !ok then s3
          else
            let t := s3.readBytes a size
            let s4 := s3.noteRead w.wid a size
            match s4.readStatus w.wid with
            | some st => s4.failTt w st 0
            | none =>
              if !ttSealOk t then s4.failTt w stTtSeal 0
              else match s4.ttChecks w die t shapes with
                | .inr (st, d) => s4.failTt w st d
                | .inl b => s4.issue w die t shapes b

/-- RUN_TIMETABLE: the checks of R53 and R509, the ten checks of R84, and the issue of the run. While pages of the Timetable must
come, or its die's store lacks room, the check waits. -/
def runTimetableStep (wid : Nat) (s : State) : State :=
  match s.begin? wid opRunTt with
  | none => s
  | some w => s.checked w fun s => s.checkTt w

/-- RUN_TIMETABLE (R84). -/
def execRunTimetable (b : WbRead) (s : State) : Host.Outcome State Fault Refusal :=
  .next (runTimetableStep b.wid (s.meetsErr b.wid b.marks)).served

/-- TSTORE_ROOM_FREE: room is free in a die's store; checks and engines that wait there go on, in the order of their runs (R143). -/
def tstoreRoomFreeStep (die : Nat) (s : State) : State :=
  (s.eng.runs.filter fun r => r.storeWait.contains die).foldl (fun s r =>
    if s.hasCopy die r.wid then s
    else if r.tt.isEmpty then runTimetableStep r.wid s
    else if r.insts.any fun x => !x.started && decide ((dieOf r.kind x.inst).2 = die) then
      (if s.storeRoom die r.tt.length then (s.addCopy die r.wid r.tt.length).beginInsts r.wid else s)
    else s) s

/-- TSTORE_ROOM_FREE (R143). -/
def execTstoreRoomFree (die : Nat) (s : State) : Host.Outcome State Fault Refusal := .next (tstoreRoomFreeStep die s).served

/-- POSITION_REPORT: an engine reports its position to the Surveyors, ns after its last report, when it has passed 64 positions or
reached a DUE since; the time per position and with it the queueing of its intents follow (R108, R270, R271). The 64 positions count
from the start of the engine's range (DESIGN CHOICE, log entry 94). -/
def positionReportStep (kind : EngKind) (inst ns : Nat) (s : State) : State :=
  match s.runOn kind inst with
  | none => s
  | some (r, x) =>
    match s.place.reports.find? fun p => decide (p.wid = r.wid ∧ p.inst = inst) with
    | none => s
    | some p =>
      let dues := (ttPrefetch r.tt (ttHead r.tt) r.bucket).map fun e => e.2.2.2
      let due := (decide (p.pos < x.pos) && decide ((p.pos - x.lo) / 64 < (x.pos - x.lo) / 64))
        || dues.any fun d => decide (p.pos < d ∧ d ≤ x.pos)
      if !due then s
      else
        let l := updIf (fun (q : Report) => decide (q.wid = r.wid ∧ q.inst = inst))
          (fun (q : Report) => { q with pos := x.pos, nsPer := some (ns, x.pos - p.pos) }) s.place.reports
        ({ s with place := { s.place with reports := l } }).requeue r.wid inst

/-- POSITION_REPORT (R270). -/
def execPositionReport (kind : EngKind) (inst ns : Nat) (s : State) : Host.Outcome State Fault Refusal :=
  .next (positionReportStep kind inst ns s)

end Sys2Proof.Machine
end

