-- ==== Sys2Proof/Machine/Dispatch.lean ====
section
/-! DEFINITION. One arm per command: each calls its meaning. -/

namespace Sys2Proof.Machine

open Sys2Proof

/-- The effect of a command on everything but the queue. -/
def exec (i : Instr) (s : State) : Host.Outcome State Fault Refusal :=
  match i with
  | .doorbellInvalidation line => Sys2Proof.Machine.execDoorbellInvalidation line s
  | .doorbellReread line rd io => Sys2Proof.Machine.execDoorbellReread line rd io s
  | .consistAccept ring slots io => Sys2Proof.Machine.execConsistAccept ring slots io s
  | .cacheLoss linkDown => Sys2Proof.Machine.execCacheLoss linkDown s
  | .cacheReturn speed width reads io => Sys2Proof.Machine.execCacheReturn speed width reads io s
  | .nop wid => Sys2Proof.Machine.execNop wid s
  | .timestamp wid io => Sys2Proof.Machine.execTimestamp wid io s
  | .runTimetable wid => Sys2Proof.Machine.execRunTimetable wid s
  | .xfer wid => Sys2Proof.Machine.execXfer wid s
  | .fill wid => Sys2Proof.Machine.execFill wid s
  | .map wid => Sys2Proof.Machine.execMap wid s
  | .unmap wid => Sys2Proof.Machine.execUnmap wid s
  | .hint wid => Sys2Proof.Machine.execHint wid s
  | .lendHost wid => Sys2Proof.Machine.execLendHost wid s
  | .lendFabric wid => Sys2Proof.Machine.execLendFabric wid s
  | .reclaim wid => Sys2Proof.Machine.execReclaim wid s
  | .reclaimDone wid => Sys2Proof.Machine.execReclaimDone wid s
  | .unmapRelease wid => Sys2Proof.Machine.execUnmapRelease wid s
  | .hash wid ns => Sys2Proof.Machine.execHash wid ns s
  | .lookup wid ns => Sys2Proof.Machine.execLookup wid ns s
  | .insert wid ns => Sys2Proof.Machine.execInsert wid ns s
  | .release wid ns => Sys2Proof.Machine.execRelease wid ns s
  | .remove wid ns => Sys2Proof.Machine.execRemove wid ns s
  | .viewOpen wid ns => Sys2Proof.Machine.execViewOpen wid ns s
  | .viewClose wid ns => Sys2Proof.Machine.execViewClose wid ns s
  | .viewCloseDone wid => Sys2Proof.Machine.execViewCloseDone wid s
  | .viewRead wid addr len m => Sys2Proof.Machine.execViewRead wid addr len m s
  | .codecOpen wid => Sys2Proof.Machine.execCodecOpen wid s
  | .codecClose wid => Sys2Proof.Machine.execCodecClose wid s
  | .decode wid => Sys2Proof.Machine.execDecode wid s
  | .encode wid => Sys2Proof.Machine.execEncode wid s
  | .codecRelease wid => Sys2Proof.Machine.execCodecRelease wid s
  | .pictureDone cde pic m => Sys2Proof.Machine.execPictureDone cde pic m s
  | .tileRowBoundary cde row => Sys2Proof.Machine.execTileRowBoundary cde row s
  | .classAge wid => Sys2Proof.Machine.execClassAge wid s
  | .allReduce wid ns => Sys2Proof.Machine.execAllReduce wid ns s
  | .reduceScatter wid ns => Sys2Proof.Machine.execReduceScatter wid ns s
  | .allGather wid ns => Sys2Proof.Machine.execAllGather wid ns s
  | .allToAllV wid ns => Sys2Proof.Machine.execAllToAllV wid ns s
  | .collOpen wid => Sys2Proof.Machine.execCollOpen wid s
  | .join port => Sys2Proof.Machine.execJoin port s
  | .joinResend wid => Sys2Proof.Machine.execJoinResend wid s
  | .grant port => Sys2Proof.Machine.execGrant port s
  | .data port ns => Sys2Proof.Machine.execData port ns s
  | .check port => Sys2Proof.Machine.execCheck port s
  | .verdict port => Sys2Proof.Machine.execVerdict port s
  | .poison port => Sys2Proof.Machine.execPoison port s
  | .abort port => Sys2Proof.Machine.execAbort port s
  | .collStepTimeout wid member => Sys2Proof.Machine.execCollStepTimeout wid member s
  | .tileNotice inst => Sys2Proof.Machine.execTileNotice inst s
  | .tstoreRoomFree die => Sys2Proof.Machine.execTstoreRoomFree die s
  | .mxeStep inst cycles ns m => Sys2Proof.Machine.execMxeStep inst cycles ns m s
  | .positionReport kind inst ns => Sys2Proof.Machine.execPositionReport kind inst ns s
  | .epilogueDrainDone inst cycles ns m => Sys2Proof.Machine.execEpilogueDrainDone inst cycles ns m s
  | .theodoliteCheckDone die => Sys2Proof.Machine.execTheodoliteCheckDone die s
  | .vxeStep inst cycles ns m => Sys2Proof.Machine.execVxeStep inst cycles ns m s
  | .cveStep inst cycles ns m => Sys2Proof.Machine.execCveStep inst cycles ns m s
  | .waybillComplete wid io => Sys2Proof.Machine.execWaybillComplete wid io s
  | .msixGapExpire g => Sys2Proof.Machine.execMsixGapExpire g s
  | .grpHeadPoll g io => Sys2Proof.Machine.execGrpHeadPoll g io s
  | .cqStall g => Sys2Proof.Machine.execCqStall g s
  | .evqHeadPoll io => Sys2Proof.Machine.execEvqHeadPoll io s
  | .ringDrainEnd ring io => Sys2Proof.Machine.execRingDrainEnd ring io s
  | .rngEnable => Sys2Proof.Machine.execRngEnable s
  | .rngDisable io => Sys2Proof.Machine.execRngDisable io s
  | .attach ring ctx rd io => Sys2Proof.Machine.execAttach ring ctx rd io s
  | .detach ring io => Sys2Proof.Machine.execDetach ring io s
  | .evqEnable w io => Sys2Proof.Machine.execEvqEnable w io s
  | .grpEnable g w io => Sys2Proof.Machine.execGrpEnable g w io s
  | .grpFaultRetry g io => Sys2Proof.Machine.execGrpFaultRetry g io s
  | .bar0BadAccess off size write => Sys2Proof.Machine.execBar0BadAccess off size write s
  | .loReadLatch off => Sys2Proof.Machine.execLoReadLatch off s
  | .registerWrite off w => Sys2Proof.Machine.execRegisterWrite off w s
  | .mxeCtrClr unit => Sys2Proof.Machine.execMxeCtrClr unit s
  | .mxeNfClr unit => Sys2Proof.Machine.execMxeNfClr unit s
  | .thdClrEntry die => Sys2Proof.Machine.execThdClrEntry die s
  | .thdClrAll die => Sys2Proof.Machine.execThdClrAll die s
  | .vxeCtrClr unit => Sys2Proof.Machine.execVxeCtrClr unit s
  | .tableLoad die w => Sys2Proof.Machine.execTableLoad die w s
  | .tableClear die w => Sys2Proof.Machine.execTableClear die w s
  | .gazEnable unit w => Sys2Proof.Machine.execGazEnable unit w s
  | .gazCtrClr unit => Sys2Proof.Machine.execGazCtrClr unit s
  | .expCtrClr unit => Sys2Proof.Machine.execExpCtrClr unit s
  | .srvCtrClr unit => Sys2Proof.Machine.execSrvCtrClr unit s
  | .xfeCtrClr unit => Sys2Proof.Machine.execXfeCtrClr unit s
  | .cveCtrClr unit => Sys2Proof.Machine.execCveCtrClr unit s
  | .cdeCtrClr unit => Sys2Proof.Machine.execCdeCtrClr unit s
  | .cleCtrClr unit => Sys2Proof.Machine.execCleCtrClr unit s
  | .quotaWrite off w => Sys2Proof.Machine.execQuotaWrite off w s
  | .poolFaultClear off w => Sys2Proof.Machine.execPoolFaultClear off w s
  | .moveStart die => Sys2Proof.Machine.execMoveStart die s
  | .moveSwitch page c => Sys2Proof.Machine.execMoveSwitch page c s
  | .moveDrainEnd page ns => Sys2Proof.Machine.execMoveDrainEnd page ns s
  | .poolFault page ns => Sys2Proof.Machine.execPoolFault page ns s
  | .heatDecay die => Sys2Proof.Machine.execHeatDecay die s
  | .xferPieceDone wid idx ns host m io => Sys2Proof.Machine.execXferPieceDone wid idx ns host m io s
  | .hostHdmAccess off wr poison => Sys2Proof.Machine.execHostHdmAccess off wr poison s
  | .portEnable n => Sys2Proof.Machine.execPortEnable n s
  | .portDisable n => Sys2Proof.Machine.execPortDisable n s
  | .portRetrain n => Sys2Proof.Machine.execPortRetrain n s
  | .linkTrained n lanes => Sys2Proof.Machine.execLinkTrained n lanes s
  | .frameLock n => Sys2Proof.Machine.execFrameLock n s
  | .lockLost n => Sys2Proof.Machine.execLockLost n s
  | .laneLost n => Sys2Proof.Machine.execLaneLost n s
  | .flitData n f => Sys2Proof.Machine.execFlitData n f s
  | .flitNak n f => Sys2Proof.Machine.execFlitNak n f s
  | .flitIdle n f => Sys2Proof.Machine.execFlitIdle n f s
  | .replayTimeout n => Sys2Proof.Machine.execReplayTimeout n s
  | .ackTimeout n => Sys2Proof.Machine.execAckTimeout n s
  | .assign port => Sys2Proof.Machine.execAssign port s
  | .noAssign n => Sys2Proof.Machine.execNoAssign n s
  | .read port m => Sys2Proof.Machine.execRead port m s
  | .write port => Sys2Proof.Machine.execWrite port s
  | .atomicAdd port => Sys2Proof.Machine.execAtomicAdd port s
  | .atomicSwap port => Sys2Proof.Machine.execAtomicSwap port s
  | .atomicCas port => Sys2Proof.Machine.execAtomicCas port s
  | .readRsp port => Sys2Proof.Machine.execReadRsp port s
  | .writeRsp port => Sys2Proof.Machine.execWriteRsp port s
  | .atomicRsp port => Sys2Proof.Machine.execAtomicRsp port s
  | .resolveRsp port => Sys2Proof.Machine.execResolveRsp port s
  | .resolveTimeout ep => Sys2Proof.Machine.execResolveTimeout ep s
  | .notice port => Sys2Proof.Machine.execNotice port s
  | .resetCmd port => Sys2Proof.Machine.execResetCmd port s
  | .fabTimeout tag => Sys2Proof.Machine.execFabTimeout tag s
  | .tagQuarantineEnd tag => Sys2Proof.Machine.execTagQuarantineEnd tag s
  | .vrlPortClr n => Sys2Proof.Machine.execVrlPortClr n s
  | .vrlCtrClr => Sys2Proof.Machine.execVrlCtrClr s
  | .create p => Sys2Proof.Machine.execCreate p s
  | .partitionRemove p => Sys2Proof.Machine.execPartitionRemove p s
  | .evict p => Sys2Proof.Machine.execEvict p s
  | .suspend p => Sys2Proof.Machine.execSuspend p s
  | .resume p => Sys2Proof.Machine.execResume p s
  | .instanceFree kind inst => Sys2Proof.Machine.execInstanceFree kind inst s
  | .semSet w => Sys2Proof.Machine.execSemSet w s
  | .semRangeWrite off w => Sys2Proof.Machine.execSemRangeWrite off w s
  | .modeWrite p w => Sys2Proof.Machine.execModeWrite p w s
  | .shareWrite p w => Sys2Proof.Machine.execShareWrite p w s
  | .prtCtrClr p => Sys2Proof.Machine.execPrtCtrClr p s
  | .managementEpoch e io => Sys2Proof.Machine.execManagementEpoch e io s
  | .governorEval iin vin => Sys2Proof.Machine.execGovernorEval iin vin s
  | .brownout vin iin => Sys2Proof.Machine.execBrownout vin iin s
  | .brownoutEnd => Sys2Proof.Machine.execBrownoutEnd s
  | .currentLimit iin vin => Sys2Proof.Machine.execCurrentLimit iin vin s
  | .ilimRelease => Sys2Proof.Machine.execIlimRelease s
  | .dieHot die temp => Sys2Proof.Machine.execDieHot die temp s
  | .flowLow => Sys2Proof.Machine.execFlowLow s
  | .flowRelease => Sys2Proof.Machine.execFlowRelease s
  | .leak asserted => Sys2Proof.Machine.execLeak asserted s
  | .sensorRefFail die reading => Sys2Proof.Machine.execSensorRefFail die reading s
  | .sensorRefPass die => Sys2Proof.Machine.execSensorRefPass die s
  | .ballastHoldExpire mxe => Sys2Proof.Machine.execBallastHoldExpire mxe s
  | .pwrStatClr => Sys2Proof.Machine.execPwrStatClr s
  | .domainSleep d => Sys2Proof.Machine.execDomainSleep d s
  | .domainWake d => Sys2Proof.Machine.execDomainWake d s
  | .pllLock d => Sys2Proof.Machine.execPllLock d s
  | .clkForceWrite w => Sys2Proof.Machine.execClkForceWrite w s
  | .crystalLost => Sys2Proof.Machine.execCrystalLost s
  | .aonRailUp busSel addr => Sys2Proof.Machine.execAonRailUp busSel addr s
  | .powerGoodFall => Sys2Proof.Machine.execPowerGoodFall s
  | .inputSwitchOpen => Sys2Proof.Machine.execInputSwitchOpen s
  | .thermalTrip die => Sys2Proof.Machine.execThermalTrip die s
  | .watchdogExpire => Sys2Proof.Machine.execWatchdogExpire s
  | .perstAssert => Sys2Proof.Machine.execPerstAssert s
  | .hotReset => Sys2Proof.Machine.execHotReset s
  | .functionLevelReset => Sys2Proof.Machine.execFunctionLevelReset s
  | .mctpReset kind => Sys2Proof.Machine.execMctpReset kind s
  | .resetHoldEnd source => Sys2Proof.Machine.execResetHoldEnd source s
  | .resetRelease => Sys2Proof.Machine.execResetRelease s
  | .pllLockTimeout d => Sys2Proof.Machine.execPllLockTimeout d s
  | .deviceReady failed => Sys2Proof.Machine.execDeviceReady failed s
  | .blockReset w => Sys2Proof.Machine.execBlockReset w s
  | .dieFence kind die cause => Sys2Proof.Machine.execDieFence kind die cause s
  | .dieRestart kind die => Sys2Proof.Machine.execDieRestart kind die s
  | .dieRestarted ok => Sys2Proof.Machine.execDieRestarted ok s
  | .bootVerify flashOk => Sys2Proof.Machine.execBootVerify flashOk s
  | .rcvStart host => Sys2Proof.Machine.execRcvStart host s
  | .rcvTransferDone => Sys2Proof.Machine.execRcvTransferDone s
  | .requestUpdate size => Sys2Proof.Machine.execRequestUpdate size s
  | .passComponentTable => Sys2Proof.Machine.execPassComponentTable s
  | .updateComponent head => Sys2Proof.Machine.execUpdateComponent head s
  | .requestFirmwareData off bytes => Sys2Proof.Machine.execRequestFirmwareData off bytes s
  | .transferComplete => Sys2Proof.Machine.execTransferComplete s
  | .verifyComplete => Sys2Proof.Machine.execVerifyComplete s
  | .applyComplete => Sys2Proof.Machine.execApplyComplete s
  | .svnCommit mctp => Sys2Proof.Machine.execSvnCommit mctp s
  | .sealDevice => Sys2Proof.Machine.execSealDevice s
  | .sealPartition p => Sys2Proof.Machine.execSealPartition p s
  | .getVersion t => Sys2Proof.Machine.execGetVersion t s
  | .getCapabilities t => Sys2Proof.Machine.execGetCapabilities t s
  | .negotiateAlgorithms t offered => Sys2Proof.Machine.execNegotiateAlgorithms t offered s
  | .getDigests t => Sys2Proof.Machine.execGetDigests t s
  | .getCertificate t slot off len => Sys2Proof.Machine.execGetCertificate t slot off len s
  | .challenge t slot nonce => Sys2Proof.Machine.execChallenge t slot nonce s
  | .getMeasurements t index sign nonce => Sys2Proof.Machine.execGetMeasurements t index sign nonce s
  | .keyExchange t key => Sys2Proof.Machine.execKeyExchange t key s
  | .finish t ok => Sys2Proof.Machine.execFinish t ok s
  | .endSession t => Sys2Proof.Machine.execEndSession t s
  | .ideKm t key => Sys2Proof.Machine.execIdeKm t key s
  | .debugChallengeRead mctp => Sys2Proof.Machine.execDebugChallengeRead mctp s
  | .debugUnlock level sig mctp => Sys2Proof.Machine.execDebugUnlock level sig mctp s
  | .debugChallengeExpire => Sys2Proof.Machine.execDebugChallengeExpire s
  | .debugLockoutEnd => Sys2Proof.Machine.execDebugLockoutEnd s
  | .blockIdleTimeout kind inst => Sys2Proof.Machine.execBlockIdleTimeout kind inst s
  | .junctionFlitBad recvKind recvDie farKind farDie retrained => Sys2Proof.Machine.execJunctionFlitBad recvKind recvDie farKind farDie retrained s
  | .junctionLinkFail recvKind recvDie farKind farDie => Sys2Proof.Machine.execJunctionLinkFail recvKind recvDie farKind farDie s
  | .chipFatal cause io => Sys2Proof.Machine.execChipFatal cause io s
  | .scrubRead die addr symbols ue => Sys2Proof.Machine.execScrubRead die addr symbols ue s
  | .bstSliceDue kind inst slice => Sys2Proof.Machine.execBstSliceDue kind inst slice s
  | .bstSliceOverdue kind inst slice => Sys2Proof.Machine.execBstSliceOverdue kind inst slice s
  | .bstSliceStart kind inst slice => Sys2Proof.Machine.execBstSliceStart kind inst slice s
  | .bstSliceDone kind inst want got => Sys2Proof.Machine.execBstSliceDone kind inst want got s
  | .bstCmd w sigs => Sys2Proof.Machine.execBstCmd w sigs s
  | .bstCtrClr => Sys2Proof.Machine.execBstCtrClr s
  | .errCtrClr => Sys2Proof.Machine.execErrCtrClr s
  | .hbmPhyMarginCheck stack value channel => Sys2Proof.Machine.execHbmPhyMarginCheck stack value channel s
  | .lpddrPhyCheck pkg value channel => Sys2Proof.Machine.execLpddrPhyCheck pkg value channel s
  | .portLoopbackCheck n errors => Sys2Proof.Machine.execPortLoopbackCheck n errors s
  | .cxlMarginCheck lane value => Sys2Proof.Machine.execCxlMarginCheck lane value s
  | .collPoisonTimeout wid => Sys2Proof.Machine.execCollPoisonTimeout wid s
  | .controlParityFailure u => Sys2Proof.Machine.execControlParityFailure u s
  | .watchdogRestart => Sys2Proof.Machine.execWatchdogRestart s
  | .auxiliaryRailLoss => Sys2Proof.Machine.execAuxiliaryRailLoss s
  | .cxlReferenceClockChange present => Sys2Proof.Machine.execCxlReferenceClockChange present s
  | .mctpControlMessage msg => Sys2Proof.Machine.execMctpControlMessage msg s
  | .configRequest speed width op => Sys2Proof.Machine.execConfigRequest speed width op s
  | .brownoutReleaseLevel rise vin => Sys2Proof.Machine.execBrownoutReleaseLevel rise vin s

end Sys2Proof.Machine
end

