-- ==== Sys2Proof/Safety.lean ====
section
/-! DEFINITION. What counts as a sound state, a safe step, and the frames that statements are made in. -/

namespace Sys2Proof.Machine

open Sys2Proof

/-- Device memory holds its canonical form: addresses strictly rising, no byte listed that equals what an unlisted one
reads as. -/
def Memory.wf (m : List Host.Cell) : Bool := swf memReset m

/-- The BAR0 registers are in canonical form: one entry for an offset, none at its reset value. -/
def State.regsWf (s : State) : Prop := swf (regReset s.assy) s.regs = true

/-- What every step keeps: device memory, poison marks, semaphores, registers and their values of the last epoch boundary are in
canonical form, and nothing of a command is left over in the fields that serve one command only. -/
structure Inv (s : State) : Prop where
  mem     : Memory.wf s.mem = true
  marks   : swf markReset s.marks = true
  sems    : swf semReset s.sems = true
  regs    : s.regsWf
  latched : swf (regReset s.assy) s.latched = true
  io      : s.io = []
  fresh   : s.err.fresh = []
  serving : s.place.serving = []
  via     : s.place.via = none
  ctxs    : ∀ c ∈ s.codec.ctxs, c.marks.length = 64

/-- A step is safe when it answers a next state. -/
def Safe (s : State) : Prop := ∃ t, step s = .next t

/-- Device memory and its poison marks read the same everywhere. -/
def SameMemory (s t : State) : Prop := (∀ a, t.memByte a = s.memByte a) ∧ ∀ a, t.poisoned a = s.poisoned a

/-- Nothing but registers, the host interface and what is put out has moved. -/
def HostOnly (s t : State) : Prop := t = { s with regs := t.regs, out := t.out, host := t.host, io := t.io }

/-- Nothing but registers has moved, and of those none outside a set. -/
def RegsOnly (p : Nat → Bool) (s t : State) : Prop :=
  t = { s with regs := t.regs } ∧ ∀ off, p off = false → t.reg off = s.reg off

/-- A Waybill's work is over with a status, a DETAIL and a SOURCE; its completion record is still to be made (R54, R59). -/
def State.endedWith (t : State) (wid st detail src : Nat) : Prop :=
  ∃ w, t.wb wid = some w ∧ w.phase = .ended ∧ w.status = st ∧ w.detail = detail ∧ w.src = src

/-- Every Waybill but one has its entry unchanged. -/
def OtherWbs (wid : Nat) (s t : State) : Prop := ∀ n, n ≠ wid → t.wb n = s.wb n

/-- Nothing but the entries of Waybills has moved, and of those only that of one. -/
def WbOnly (wid : Nat) (s t : State) : Prop :=
  t = { s with sched := { s.sched with wbs := t.sched.wbs } } ∧ OtherWbs wid s t

/-- A Waybill has ended: of Waybills only its entry has moved; its leases and the accesses it had begun are over, with the counters of
pages read across a switch (R222, R256); nothing else has moved. -/
def EndOnly (wid : Nat) (s t : State) : Prop :=
  t = { s with
    regs := (s.endLeases fun l => decide (l.wid = wid)).regs
    place := { s.place with
      leases := s.place.leases.filter (fun l => !decide (l.wid = wid))
      begun := s.place.begun.filter (fun x => x.1 ≠ wid) }
    sched := { s.sched with wbs := t.sched.wbs } } ∧ OtherWbs wid s t

/-- Every placement page of a range is mapped, resident in HBM that is awake or in the Siding, not being unmapped, and its home die neither
fenced nor behind a fenced die on the way from the die that makes the access, when one does (R17, R23, R466). -/
def State.inPlace (s : State) (via : Option (Nat × Nat)) (a n : Nat) : Prop :=
  ∀ p ∈ pagesOf a n, ∃ g, s.page p = some g ∧ g.place.isLocal = true ∧ g.gone = none ∧ (g.place = .hbm → s.hbmAwake g.die = true)
    ∧ (match via with
      | some d => s.outOf d g.die
      | none => s.fenced 2 g.die) = false

/-- A KV Waybill has begun, it is its Gazetteer's turn, and the descriptor it executes next is d, of an operation (R230, R233). -/
def State.kvAt (s : State) (wid op : Nat) (w : Wb) (j : KvJob) (d : List Byte) : Prop :=
  s.wb wid = some w ∧ w.phase = .running ∧ s.kvJob wid = some j ∧ j.closing = false ∧ j.descs.getD j.next [] = d ∧ kvCode d = op
    ∧ s.kvTurn j.gaz = some wid

/-- A range of device memory is in place, no view window is open, and none of its lines is marked: a read of it is clean. -/
def State.cleanAt (s : State) (via : Option (Nat × Nat)) (a n : Nat) : Prop :=
  s.kv.views = [] ∧ s.inPlace via a n ∧ ∀ l ∈ linesOf a n, s.poisoned (64 * l) = false

/-- A command clears the counters of a list of registers and moves nothing else. -/
def ClearsCounters (c : Instr) (s : State) (l : List Nat) : Prop :=
  ∃ t, exec c s = .next t ∧ RegsOnly (fun off => l.contains off) s t ∧ ∀ off ∈ l, t.reg off = 0

/-- No view window is open, and ranges of device memory are in place with none of their lines marked. -/
def State.cleanAll (s : State) (via : Option (Nat × Nat)) (l : List (Nat × Nat)) : Prop :=
  s.kv.views = [] ∧ ∀ x ∈ l, s.cleanAt via x.1 x.2

/-- No PLACE Waybill that came earlier waits at a Surveyor of a Waybill's pages (R258). -/
def State.placeFirst (s : State) (w : Wb) : Prop :=
  ∀ x ∈ s.placeWaits.takeWhile (fun x => x.wid ≠ w.wid), ∀ d ∈ placeDies x.slot, d ∉ placeDies w.slot

/-- Does an address lie in none of a list of ranges? -/
def outside (l : List (Nat × Nat)) (a : Nat) : Prop := ∀ x ∈ l, a < x.1 ∨ x.1 + x.2 ≤ a

/-- An engine's part of the run of a Waybill. -/
def State.instOf (s : State) (wid i : Nat) : Option RunInst := (s.run wid).bind fun r => runInst r i

/-- What the step of an engine may move besides device memory: registers, records and events put out, Waybills, the heat of pages,
runs, the errors met, and transactions that write again what it wrote to a page under its copy to a fabric pool. -/
def EngineOnly (s t : State) : Prop :=
  t = { s with regs := t.regs, out := t.out, host := t.host, io := t.io, free := t.free, sched := t.sched, place := t.place,
               eng := t.eng, vrl := { s.vrl with txns := t.vrl.txns }, err := t.err }

/-- An engine runs a position of a Waybill's run that is not SPARSE. -/
def State.atStep (s : State) (k : EngKind) (inst : Nat) (r : Run) (x : RunInst) (w : Wb) : Prop :=
  s.runOn k inst = some (r, x) ∧ s.wb r.wid = some w ∧ ttSparse (ctxOf r).ls = false ∧ x.pos < x.hi

/-- A codec Waybill may begin, passes R53 and R509, its partition has a CDE, its context has nothing under way or waiting, and its command block
is in place, clean, and of a command with legal arguments (R388, R394 to R396, R435). -/
def State.codecAt (s : State) (wid cmd : Nat) (w : Wb) : Prop :=
  let a := wArg w.slot 0
  s.begin? wid opCodec = some w ∧ s.r53 w.part w.slot = none ∧ s.secCheck w.part = none ∧ w.lost = none ∧ accStatus w 0 = 0
    ∧ s.ctxBusy wid (wArg w.slot 1) = false ∧ (∀ c ∈ s.codec.cdes, ∀ q ∈ c.queue, q.ctx ≠ wArg w.slot 1 ∧ q.wid ≠ wid)
    ∧ (∃ i, i < 4 ∧ s.inMask w.part .cde i = true ∧ s.fenced 2 i = false) ∧ s.cleanAt (s.accDie wid 0) a 256 ∧ Memory.wf s.mem = true ∧ s.regsWf
    ∧ (s.memByte a).toNat = cmd ∧ cmdArgsBad (s.memRead a 64) = false

/-- A codec command has been executed without a picture: its record is written, nothing else in memory, and its Waybill ended OK. -/
def State.codecDone (s t : State) (wid : Nat) (w : Wb) (cde pics : Nat) : Prop :=
  t.endedWith wid 0x00 0 (engSrc .cde cde) ∧ t.memRead (wArg w.slot 0 + 0x40) 64 = codecRecord 0 255 0 0 noPicture pics
    ∧ ∀ x, outside [(wArg w.slot 0 + 0x40, 192)] x → t.memByte x = s.memByte x

/-- The message that a collective command takes: of an open collective, from another of its members, with no
fenced die on its way to the CLE (R343, R519). s1 is the state without
the message. -/
def State.collMsg (s : State) (port : Option Nat) (kind : Nat → Bool) (c : Coll) (i : Nat) (m : Msg) (s1 : State) : Prop :=
  s.takeMsg port (fun m => m.op = 0x10 && kind (m.off % 16)) = some (m, s1) ∧ m.off % 16 ≠ 0 ∧ m.off % 16 ≤ 7
    ∧ s1.colls.list.find? (fun c => c.opened && cdWireId c.desc = m.tag && cdSeq c.desc = m.mdata % 2 ^ 32 && (c.indexOf m.src).isSome) = some c
    ∧ c.indexOf m.src = some i ∧ i ≠ c.me ∧ s.coll c.wid = some c ∧ s1.routeOut (portDie port) (3, c.cle) = false

/-- Nothing but the entry of one collective has moved. -/
def CollOnly (wid : Nat) (s u : State) : Prop := u = { s with colls := u.colls } ∧ ∀ n, n ≠ wid → u.coll n = s.coll n

/-- Chunk buffers that a member has granted to a collective (R346). -/
def Coll.granted (c : Coll) (i : Nat) : Nat := ((c.grants.find? fun x => x.1 = i).map (·.2)).getD 0

/-- The governor's own state, registers and what is put out have moved, and nothing else. -/
def PowerOnly (s t : State) : Prop := t = { s with regs := t.regs, out := t.out, host := t.host, io := t.io, pwr := t.pwr }

/-- Every C domain that is not fenced runs at the higher of its old step and what is requested, a fenced one at step 0; while a
protective source acts there is no ballast (R445, R449). -/
def Raised (s t : State) : Prop :=
  (∀ d, d < 4 → t.stepOf d = if s.fenced 1 d then 0 else max (s.stepOf d) (t.target d)) ∧ (t.protecting = true → t.pwr.ballast = [])

/-- A DEVICE or CHIP reset has been taken from a source: recorded, its scope in reset, everything it clears gone, RST_OUT_N low. -/
def ResetTaken (s t : State) (source kind : Nat) (held : Bool) : Prop :=
  t.reg rRstCause = w32 (source + 256 * kind) ∧ t.reg64 rRstTimeLo = s.aon % 2 ^ 64
  ∧ (t.reg rRstCount).toNat = satAdd 32 (s.reg rRstCount).toNat 1
  ∧ t.reg (rRstHist 0) = w32 (source + 256 * kind + (t.reg rRstCount).toNat % 65536 * 65536)
  ∧ (∀ i, i < 7 → t.reg (rRstHist (i + 1)) = s.reg (rRstHist i)) ∧ t.fld rRstStatus 0 0 = 0
  ∧ (∃ r, t.clk.run = some r ∧ r.kind = kind ∧ r.start = s.aon ∧ (r.holds = if held then [source] else [])
      ∧ r.inReset = ((resetScope s.assy kind).filter fun d => !t.clk.kept.contains d) ∧ ∀ d ∈ r.inReset, bit d (t.reg rClkRun) = false)
  ∧ t.clk.kept = (if kind = 3 then s.clk.kept else [])
  ∧ t.mem = [] ∧ t.marks = [] ∧ t.sems = [] ∧ t.sched.parts = [] ∧ t.sched.consists = [] ∧ t.sched.wbs = [] ∧ t.host = HostIf.reset
  ∧ t.place = Placing.reset ∧ t.kv.nodes = [] ∧ t.vrl.ports = [] ∧ t.colls.list = [] ∧ t.codec.ctxs = [] ∧ t.sec.devSeal = none
  ∧ t.out = s.out ++ [.pin 17 0] ∧ t.pending = s.pending ∧ t.aon = s.aon

/-- The ROM has checked the flash: the image runs, and dies that recovery kept in reset are being released; or the device is in recovery with
the check that failed, and the memory-side and compute dies are held off (R493 to R495). -/
def Booted (s t : State) (flashOk : Bool) : Prop :=
  t = { s with regs := t.regs, free := t.free, clk := { s.clk with booted := t.clk.booted, run := t.clk.run, kept := t.clk.kept },
               sec := { s.sec with fw := t.sec.fw, recovery := t.sec.recovery } }
  ∧ (∀ off, off ≠ rSecBoot → off ≠ rClkRun → off ≠ rClkLocking → t.reg off = s.reg off)
  ∧ if flashOk = true ∧ s.sec.spoilt = false ∧ s.flashCheck = 0 then
      t.sec.recovery = false ∧ t.clk.booted = true ∧ t.reg rSecBoot = packed [(0, 1), (16, rdN (s.flashBytes 0x5400) 8 1)]
        ∧ ∃ f, t.sec.fw = some f ∧ f.svn = rdN (s.flashBytes 0x5400) 8 1 ∧ f.version = rdN (s.flashBytes 0x5400) 0x10 8
          ∧ f.digest = s.flashDigest
        ∧ (s.clk.kept = [] → t.clk.run = s.clk.run ∧ t.reg rClkRun = s.reg rClkRun)
        ∧ (s.clk.kept ≠ [] → t.clk.kept = [] ∧ ∃ r, t.clk.run = some r ∧ ∀ d ∈ s.clk.kept, d ∈ r.inReset ∧ t.domainOff d = true)
    else
      (∀ d, (asmDomains s.assy).contains d = true → ((domainDie d).any fun x => decide (x.1 ≤ 2)) = true →
        t.domainOff d = true ∧ (((domainDie d).any fun x => s.fenced x.1 x.2) = false → bit d (t.reg rClkRun) = false))
      ∧ t.sec.recovery = true ∧ t.clk.booted = s.clk.booted ∧ t.sec.fw = s.sec.fw
        ∧ ∃ c, 1 ≤ c ∧ c ≤ 7 ∧ t.reg rSecBoot = packed [(0, 2), (8, c)] ∧ (flashOk = false → c = 7)
          ∧ (flashOk = true → s.sec.spoilt = false → c = s.flashCheck)

/-- A request has been answered with one message: what its requester has negotiated is x, other requesters' is unchanged, and nothing
else has moved. -/
def SpdmTo (s u : State) (t : Nat) (x : Spdm) (o : Out) : Prop :=
  u = { s with sec := { s.sec with spdm := u.sec.spdm }, out := s.out ++ [o], free := u.free } ∧ u.spdmOf t = x
    ∧ ∀ n, n ≠ t → u.spdmOf n = s.spdmOf n

/-- A die is fenced, other dies are as before, its clocks stop, its engines are free and memory
stands (of an I/O die: with no transaction in being); or, where the device cannot do
without it, the reset of code 13 is taken in its place (R471, R479, R481). -/
def Fences (s : State) (o : Host.Outcome State Fault Refusal) (kind die : Nat) : Prop :=
  if (kind = 2 ∨ kind = 3) ∧ die = 0 then o = .next (s.assertReset 13 (if kind = 3 then 3 else 4) false)
  else ∃ u : State, o = .next u.sweepBusy.settle ∧ u.fenced kind die = true
    ∧ (∀ k n, (k, n) ≠ (kind, die) → u.fenced k n = s.fenced k n) ∧ (∀ d ∈ dieDomains kind die, bit d (u.reg rClkRun) = false)
    ∧ (∀ k i, dieOf k i = (kind, die) → u.useOf k i = none) ∧ (kind ≠ 3 ∨ s.vrl.txns = [] → u.mem = s.mem)

/-- An analogue check of an item has been made: an item below its limit stands in an episode, the check's bit of BST_ANA_STATUS tells
whether any item does, and a record is gathered when an episode begins and only then (R523, R531). -/
def AnalogShown (s t : State) (check item : Nat) (bad : Bool) (src value : Nat) : Prop :=
  t = { s with regs := t.regs, err := { s.err with merged := t.err.merged, episodes := t.err.episodes } }
  ∧ (∀ off, off ≠ rBstAnaStatus → t.reg off = s.reg off)
  ∧ (∀ x, x ∈ t.err.episodes ↔ ((x ≠ (check, item) ∧ x ∈ s.err.episodes) ∨ (x = (check, item) ∧ bad = true)))
  ∧ (bit (check - 1) (t.reg rBstAnaStatus) = true ↔ ∃ x ∈ t.err.episodes, x.1 = check)
  ∧ if bad = true ∧ (check, item) ∉ s.err.episodes then
      ∃ m ∈ t.err.merged, m.code = 0x0812 ∧ m.src = src ∧ m.d0 = check ∧ m.d1 = value
    else t.err.merged = s.err.merged

end Sys2Proof.Machine
end

