-- ==== Sys2Proof/WellFormed.lean ====
section
/-! DEFINITION. Which commands can be sent at all: the instance, die, port, ring, group and partition numbers that the
register files and fields of the manual have room for (R1, R14, R37, R38, R249, R298, R463), a flit of 256 bytes, a
register offset that is a multiple of four. A number with room that an assembly does not fit is well formed: its command
finds nothing there (R3). -/

namespace Sys2Proof

/-- A die number of any of the die kinds (R14). -/
def dieOk (d : Nat) : Bool := decide (d < 4)

/-- A port, or none for a message that the module has turned back to itself (R312). -/
def portOk : Option Nat → Bool
  | none => true
  | some n => decide (n < 100)

/-- An instance number of an engine kind (R14). -/
def instOk (k : EngKind) (i : Nat) : Bool :=
  match k with
  | .mxe => decide (i < 16)
  | .vxe => decide (i < 8)
  | .cve => decide (i < 4)
  | .cde => decide (i < 4)
  | .xfe => decide (i < 8)
  | .cle => decide (i < 4)
  | .gaz => decide (i < 4)

/-- Is a command well formed? -/
def Instr.wf : Instr → Bool
  | .doorbellInvalidation line => decide (line < 4096)
  | .doorbellReread line _ _ => decide (line < 4096)
  | .consistAccept ring _ _ => decide (ring < 32768)
  | .cacheLoss _ => true
  | .cacheReturn _ _ _ _ => true
  | .nop _ => true
  | .timestamp _ _ => true
  | .runTimetable _ => true
  | .xfer _ => true
  | .fill _ => true
  | .map _ => true
  | .unmap _ => true
  | .hint _ => true
  | .lendHost _ => true
  | .lendFabric _ => true
  | .reclaim _ => true
  | .reclaimDone _ => true
  | .unmapRelease _ => true
  | .hash _ _ => true
  | .lookup _ _ => true
  | .insert _ _ => true
  | .release _ _ => true
  | .remove _ _ => true
  | .viewOpen _ _ => true
  | .viewClose _ _ => true
  | .viewCloseDone _ => true
  | .viewRead _ _ _ _ => true
  | .codecOpen _ => true
  | .codecClose _ => true
  | .decode _ => true
  | .encode _ => true
  | .codecRelease _ => true
  | .pictureDone cde _ _ => decide (cde < 4)
  | .tileRowBoundary cde _ => decide (cde < 4)
  | .classAge _ => true
  | .allReduce _ _ => true
  | .reduceScatter _ _ => true
  | .allGather _ _ => true
  | .allToAllV _ _ => true
  | .collOpen _ => true
  | .join b => portOk b.port
  | .joinResend _ => true
  | .grant b => portOk b.port
  | .data port _ => portOk port
  | .check port => portOk port
  | .verdict port => portOk port
  | .poison port => portOk port
  | .abort port => portOk port
  | .collStepTimeout _ member => decide (member < 1024)
  | .tileNotice _ => true
  | .tstoreRoomFree die => dieOk die
  | .mxeStep inst _ _ _ => decide (inst < 16)
  | .positionReport kind inst _ => instOk kind inst
  | .epilogueDrainDone inst _ _ _ => decide (inst < 16)
  | .theodoliteCheckDone b => dieOk b.die
  | .vxeStep inst _ _ _ => decide (inst < 8)
  | .cveStep inst _ _ _ => decide (inst < 4)
  | .waybillComplete _ _ => true
  | .msixGapExpire g => decide (g < 1024)
  | .grpHeadPoll g _ => decide (g < 1024)
  | .cqStall g => decide (g < 1024)
  | .evqHeadPoll _ => true
  | .ringDrainEnd ring _ => decide (ring < 32768)
  | .rngEnable => true
  | .rngDisable _ => true
  | .attach ring _ _ _ => decide (ring < 32768)
  | .detach ring _ => decide (ring < 32768)
  | .evqEnable _ _ => true
  | .grpEnable g _ _ => decide (g < 1024)
  | .grpFaultRetry g _ => decide (g < 1024)
  | .bar0BadAccess _ _ _ => true
  | .loReadLatch off => decide (off % 4 = 0)
  | .registerWrite off _ => decide (off % 4 = 0)
  | .mxeCtrClr i => decide (i < 16)
  | .mxeNfClr i => decide (i < 4)
  | .thdClrEntry die => dieOk die
  | .thdClrAll die => dieOk die
  | .vxeCtrClr i => decide (i < 8)
  | .tableLoad die _ => dieOk die
  | .tableClear die _ => dieOk die
  | .gazEnable i _ => decide (i < 4)
  | .gazCtrClr i => decide (i < 4)
  | .expCtrClr i => decide (i < 4)
  | .srvCtrClr i => decide (i < 4)
  | .xfeCtrClr i => decide (i < 8)
  | .cveCtrClr i => decide (i < 4)
  | .cdeCtrClr i => decide (i < 4)
  | .cleCtrClr i => decide (i < 4)
  | .quotaWrite off _ => decide (off % 4 = 0)
  | .poolFaultClear off _ => decide (off % 4 = 0)
  | .moveStart die => dieOk die
  | .moveSwitch _ _ => true
  | .moveDrainEnd _ _ => true
  | .poolFault _ _ => true
  | .heatDecay die => dieOk die
  | .xferPieceDone _ _ _ _ _ _ => true
  | .hostHdmAccess _ _ _ => true
  | .portEnable n => decide (n < 100)
  | .portDisable n => decide (n < 100)
  | .portRetrain n => decide (n < 100)
  | .linkTrained n lanes => decide (n < 100) && decide (lanes < 16)
  | .frameLock n => decide (n < 100)
  | .lockLost n => decide (n < 100)
  | .laneLost n => decide (n < 100)
  | .flitData n f => decide (n < 100) && decide (f.bytes.length = 256)
  | .flitNak n f => decide (n < 100) && decide (f.bytes.length = 256)
  | .flitIdle n f => decide (n < 100) && decide (f.bytes.length = 256)
  | .replayTimeout n => decide (n < 100)
  | .ackTimeout n => decide (n < 100)
  | .assign port => portOk port
  | .noAssign n => decide (n < 100)
  | .read port _ => portOk port
  | .write port => portOk port
  | .atomicAdd b => portOk b.port
  | .atomicSwap b => portOk b.port
  | .atomicCas b => portOk b.port
  | .readRsp port => portOk port
  | .writeRsp port => portOk port
  | .atomicRsp port => portOk port
  | .resolveRsp port => portOk port
  | .resolveTimeout ep => decide (ep < 65536)
  | .notice port => portOk port
  | .resetCmd port => portOk port
  | .fabTimeout tag => decide (tag < 65536)
  | .tagQuarantineEnd tag => decide (tag < 65536)
  | .vrlPortClr n => decide (n < 100)
  | .vrlCtrClr => true
  | .create p => decide (p < 32)
  | .partitionRemove p => decide (p < 32)
  | .evict p => decide (p < 32)
  | .suspend p => decide (p < 32)
  | .resume p => decide (p < 32)
  | .instanceFree kind inst => instOk kind inst
  | .semSet _ => true
  | .semRangeWrite off _ => decide (off % 4 = 0)
  | .modeWrite p _ => decide (p < 32)
  | .shareWrite p _ => decide (p < 32)
  | .prtCtrClr p => decide (p < 32)
  | .managementEpoch _ _ => true
  | .governorEval _ _ => true
  | .brownout _ _ => true
  | .brownoutEnd => true
  | .currentLimit _ _ => true
  | .ilimRelease => true
  | .dieHot die _ => dieOk die
  | .flowLow => true
  | .flowRelease => true
  | .leak _ => true
  | .sensorRefFail die _ => dieOk die
  | .sensorRefPass die => dieOk die
  | .ballastHoldExpire mxe => decide (mxe < 16)
  | .pwrStatClr => true
  | .domainSleep d => decide (d < 25)
  | .domainWake d => decide (d < 25)
  | .pllLock d => decide (d < 25)
  | .clkForceWrite _ => true
  | .crystalLost => true
  | .aonRailUp _ _ => true
  | .powerGoodFall => true
  | .inputSwitchOpen => true
  | .thermalTrip die => dieOk die
  | .watchdogExpire => true
  | .perstAssert => true
  | .hotReset => true
  | .functionLevelReset => true
  | .mctpReset _ => true
  | .resetHoldEnd source => decide (source < 16)
  | .resetRelease => true
  | .pllLockTimeout d => decide (d < 25)
  | .deviceReady _ => true
  | .blockReset _ => true
  | .dieFence _ die _ => decide (die < 4)
  | .dieRestart _ die => dieOk die
  | .dieRestarted _ => true
  | .bootVerify _ => true
  | .rcvStart _ => true
  | .rcvTransferDone => true
  | .requestUpdate _ => true
  | .passComponentTable => true
  | .updateComponent _ => true
  | .requestFirmwareData _ _ => true
  | .transferComplete => true
  | .verifyComplete => true
  | .applyComplete => true
  | .svnCommit _ => true
  | .sealDevice => true
  | .sealPartition p => decide (p < 32)
  | .getVersion t => decide (t < 2)
  | .getCapabilities t => decide (t < 2)
  | .negotiateAlgorithms t _ => decide (t < 2)
  | .getDigests t => decide (t < 2)
  | .getCertificate t _ _ _ => decide (t < 2)
  | .challenge t _ nonce => decide (t < 2) && decide (nonce.length = 32)
  | .getMeasurements t _ _ nonce => decide (t < 2) && decide (nonce.length = 32)
  | .keyExchange t _ => decide (t < 2)
  | .finish t _ => decide (t < 2)
  | .endSession t => decide (t < 2)
  | .ideKm t _ => decide (t < 2)
  | .debugChallengeRead _ => true
  | .debugUnlock _ _ _ => true
  | .debugChallengeExpire => true
  | .debugLockoutEnd => true
  | .blockIdleTimeout kind inst => instOk kind inst
  | .junctionFlitBad _ _ _ _ _ => true
  | .junctionLinkFail _ _ _ _ => true
  | .chipFatal _ _ => true
  | .scrubRead die _ _ _ => dieOk die
  | .bstSliceDue kind inst _ => instOk kind inst
  | .bstSliceOverdue kind inst _ => instOk kind inst
  | .bstSliceStart kind inst _ => instOk kind inst
  | .bstSliceDone kind inst _ _ => instOk kind inst
  | .bstCmd _ _ => true
  | .bstCtrClr => true
  | .errCtrClr => true
  | .hbmPhyMarginCheck stack _ _ => decide (stack < 12)
  | .lpddrPhyCheck pkg _ _ => decide (pkg < 24)
  | .portLoopbackCheck n _ => decide (n < 100)
  | .cxlMarginCheck _ _ => true
  | .collPoisonTimeout _ => true
  | .controlParityFailure _ => true
  | .watchdogRestart => true
  | .auxiliaryRailLoss => true
  | .cxlReferenceClockChange _ => true
  | .mctpControlMessage _ => true
  | .configRequest _ _ _ => true
  | .brownoutReleaseLevel _ _ => true

end Sys2Proof
end

