-- ==== Sys2Proof/Certificates/Slice0/Obligations.lean ====
section
/-! DEFINITION. The statements of this model for the provers. `exec c s = .next t` says that the command c completes from state s
in state t. A host access outcome that a command is not given succeeds (log entry 3). -/

open Sys2Proof Sys2Proof.Machine

/-- A step takes the command at the front of the queue and is that command's meaning on the state with the queue's rest. -/
def Obligations.StepRunsTheFront : Prop :=
  ∀ (c : Instr) (q : List Instr) (s : State), step { s with pending := c :: q } = exec c { s with pending := q }

/-- The tick on an empty queue is the model's choice (log entry 15); what an AON cycle does is R462, R464 and R473. -/
def Obligations.IdleStepIsOneAonCycle : Prop :=
  ∀ s : State, s.pending = [] → s.regsWf →
    ∃ t, step s = .next t
      ∧ (s.pins.aux = false ∨ (s.aon + 1) % 1200 = 0 → t = s)
      ∧ (s.pins.aux = true → (s.aon + 1) % 1200 ≠ 0 →
          t = { s with aon := s.aon + 1, regs := t.regs }
          ∧ (t.reg rRstWdog).toNat = (s.reg rRstWdog).toNat - 1
          ∧ t.reg64 rPwrThrCycLo = (s.reg64 rPwrThrCycLo + if s.pwr.steps.all (· = 0) then 0 else 1) % 2 ^ 64
          ∧ ∀ off, off ≠ rRstWdog → off ≠ rPwrThrCycLo → off ≠ rPwrThrCycLo + 4 → t.reg off = s.reg off)

/-- The invariant holds right after reset. -/
def Obligations.ResetIsSound : Prop := Inv State.reset

/-- Device memory, poison marks, semaphores, registers and the settings of the last epoch stay in canonical form, every codec context keeps
64 marks, and no outcome of a host access or count of one command reaches the next, whatever command runs. -/
def Obligations.StepKeepsTheStateSound : Prop := ∀ s t : State, Inv s → step s = .next t → Inv t

/-- The manual gives every command an effect, so no step stops. -/
def Obligations.EveryStepAnswers : Prop := ∀ s : State, Safe s

/-- A command's effect lies beside the queue, and no command changes which dies are fitted. -/
def Obligations.NoCommandTouchesTheQueue : Prop :=
  ∀ (c : Instr) (s t : State), exec c s = .next t → t.pending = s.pending ∧ t.assy = s.assy

/-- The write of bytes that every engine and every transfer makes (R260): whole lines lose their mark, others keep it. -/
def Obligations.MemoryWrite : Prop :=
  ∀ (s : State) (a : Nat) (bs : List Byte), Memory.wf s.mem = true → swf markReset s.marks = true →
    (∀ i b, bs[i]? = some b → (s.memWrite a bs).memByte (a + i) = b)
    ∧ (∀ x, x < a ∨ a + bs.length ≤ x → (s.memWrite a bs).memByte x = s.memByte x)
    ∧ (∀ l, (s.memWrite a bs).poisoned (64 * l) =
        if a ≤ 64 * l ∧ 64 * l + 64 ≤ a + bs.length then false else s.poisoned (64 * l))
    ∧ Memory.wf (s.memWrite a bs).mem = true
    ∧ s.memWrite a bs = { s with mem := (s.memWrite a bs).mem, marks := (s.memWrite a bs).marks }

/-- A write of poison, and the clearing of a page at MAP (R255). -/
def Obligations.PoisonWriteAndClear : Prop :=
  (∀ (s : State) (a : Nat) (bs : List Byte), swf markReset s.marks = true →
    ∀ x, (s.memWritePoison a bs).poisoned x =
      if bs ≠ [] ∧ a / 64 ≤ x / 64 ∧ x / 64 ≤ (a + bs.length - 1) / 64 then true else s.poisoned x)
  ∧ ∀ (s : State) (l k : Nat),
      (∀ x, (s.memClear (64 * l) (64 * k)).memByte x = if 64 * l ≤ x ∧ x < 64 * (l + k) then 0 else s.memByte x)
      ∧ ∀ x, (s.memClear (64 * l) (64 * k)).poisoned x = if 64 * l ≤ x ∧ x < 64 * (l + k) then false else s.poisoned x

/-- The laws of the named operations on registers and semaphores that the other statements are written in. -/
def Obligations.RegisterOperations : Prop :=
  (∀ (s : State) (off : Nat) (w : Word), s.regsWf →
    (s.setReg off w).regsWf ∧ (s.setReg off w).reg off = w ∧ ∀ o, o ≠ off → (s.setReg off w).reg o = s.reg o)
  ∧ (∀ (s : State) (off hi lo v : Nat), s.regsWf → lo ≤ hi → hi < 32 →
      (s.setFld off hi lo v).fld off hi lo = v % 2 ^ (hi + 1 - lo)
      ∧ ∀ i, i < lo ∨ hi < i → bit i ((s.setFld off hi lo v).reg off) = bit i (s.reg off))
  ∧ (∀ (s : State) (off n : Nat), s.regsWf → ((s.bump off n).reg off).toNat = min ((s.reg off).toNat + n) (2 ^ 32 - 1))
  ∧ (∀ (s : State) (off v : Nat), s.regsWf → v < 2 ^ 64 → (s.setReg64 off v).reg64 off = v)
  ∧ ∀ (s : State) (i : Nat) (v : DWord), swf semReset s.sems = true →
      (s.setSem i v).sem i = v ∧ ∀ j, j ≠ i → (s.setSem i v).sem j = s.sem j

/-- The write that R9 and R505 describe, for a register that is not one of the two that R505 counts in. -/
def Obligations.WriteByAccessCodes : Prop :=
  ∀ (s : State) (off : Nat) (w : Word) (r : RegSpec) (at_ : Nat × Nat × Nat), s.regsWf → regAt off = some (r, at_) →
    off ≠ rSecRwlViol → off ≠ rSecRwlAddr →
    (∀ f ∈ r.fields, ∀ i, f.lo ≤ i → i ≤ f.hi →
      bit i ((s.writeReg off w).reg off) = match f.acc with
        | .rw => bit i w
        | .rwl => if s.isSealed off then bit i (s.reg off) else bit i w
        | .w1c => bit i (s.reg off) && !bit i w
        | _ => bit i (s.reg off))
    ∧ (∀ i, i < 32 → (∀ f ∈ r.fields, i < f.lo ∨ f.hi < i) → bit i ((s.writeReg off w).reg off) = bit i (s.reg off))
    ∧ (let broken := s.isSealed off = true ∧ ∃ f ∈ r.fields, f.acc = .rwl ∧ bits f.hi f.lo w ≠ bits f.hi f.lo (s.reg off)
       (broken → ((s.writeReg off w).reg rSecRwlViol).toNat = min ((s.reg rSecRwlViol).toNat + 1) (2 ^ 32 - 1)
          ∧ (s.writeReg off w).reg rSecRwlAddr = BitVec.ofNat 32 off)
       ∧ (¬broken → ∀ o, o ≠ off → (s.writeReg off w).reg o = s.reg o))

/-- What the loss of a line and of CXL.cache do (R35, R45). -/
def Obligations.LinesAndCacheLoss : Prop :=
  (∀ (line : Nat) (s : State),
    exec (.doorbellInvalidation line) s = .next { s with host := { s.host with
      lines := s.host.lines.map fun x => if x.line = line then { x with await := true } else x } })
  ∧ (∀ (down : Bool) (s : State), s.regsWf →
    ∃ t, exec (.cacheLoss down) s = .next t
      ∧ t.cacheEn = false
      ∧ (down = true → t.fld rHifLinkStatus 3 0 = 0 ∧ t.fld rHifLinkStatus 8 4 = 0)
      ∧ (∀ off, off ≠ rHifLinkStatus → t.reg off = s.reg off)
      ∧ t = { s with regs := t.regs, host := if s.rngOn = true ∧ s.host.lostSince = none then
                { s.host with lines := [], lostSince := some s.aon } else s.host })

/-- The doorbell path (R43, R45, R47, R49, R58). Ring numbers are listed once each. -/
def Obligations.RereadIsActedOn : Prop :=
  ∀ (line : Nat) (s : State), s.cacheOk = true → (s.host.rings.map (·.n)).Nodup →
    ∀ l ∈ s.host.lines, l.line = line → l.await = true →
      s.host.lines.find? (fun x => decide (x.line = line)) = some l →
    (∀ words : List DWord, ∃ t, exec (.doorbellReread line (.ok words) []) s = .next t
      ∧ HostOnly s t
      ∧ (∀ x ∈ t.host.lines, x.line = line → x.words = words ∧ x.await = false)
      ∧ (∀ n r, s.ring n = some r → r.state = 1 → n / 8 = line →
          (l.words = [] ∨ prodOf words n ≠ prodOf l.words n) →
          t.ring n = some (if (prodOf words n - r.cons).toNat ≤ 2 ^ r.log2 then { r with prod := prodOf words n }
            else { r with prod := prodOf words n, state := 2, cause := 1 }))
      ∧ (∀ n, n / 8 ≠ line → t.ring n = s.ring n)
      ∧ ∀ n r, s.ring n = some r → (r.state ≠ 1 ∨ (l.words ≠ [] ∧ prodOf words n = prodOf l.words n)) → t.ring n = some r)
    ∧ (∀ (rd : LineRead) (io : List IoRes), rd = .poisoned ∨ rd = .failed → ∃ t, exec (.doorbellReread line rd io) s = .next t
      ∧ HostOnly s t
      ∧ ∀ n r, s.ring n = some r →
          if r.state = 1 ∧ n / 8 = line then
            ∃ c, t.ring n = some { r with state := 2, cause := c } ∧ (c = 6 ∨ c = 7) ∧ (io = [] → c = 6)
          else t.ring n = some r)

/-- The three ways an acceptance goes (R56, R57, R58). -/
def Obligations.AcceptTakesAConsist : Prop :=
  ∀ (n : Nat) (slots : List SlotRead) (s : State) (r : Ring),
    s.ring n = some r → r.state = 1 → s.rngOn = true → s.cacheOk = true → s.grpOpen r.group = true →
    (∀ ws, scanSlots none [] (slots.take (r.prod - r.cons).toNat) = .whole ws → (s.queueSwap r).roomFor r.part = true →
      ∃ u : State, exec (.consistAccept n slots []) s = .next { u.examine with io := [] }
        ∧ u.ring n = some { r with cons := r.cons + BitVec.ofNat 32 ws.length,
                                   lastStep := ((ws.head?.map wStep).map (BitVec.ofNat 32)).getD r.lastStep }
        ∧ (∃ c, u.sched.consists = s.sched.consists ++ [c] ∧ c.cid = s.sched.nextCid ∧ c.ring = n ∧ c.part = r.part
            ∧ c.group = r.group ∧ c.split = false ∧ c.endWid = some (s.sched.nextWid + ws.length - 1))
        ∧ (∃ l, u.sched.wbs = s.sched.wbs.map (fun w => if w.cid = s.sched.nextCid then
                { w with kind := (s.hintOf w.part w.slot).map (·.1) } else w) ++ l
            ∧ l.map (·.slot) = ws ∧ l.map (·.wid) = (List.range ws.length).map (s.sched.nextWid + ·)
            ∧ ∀ w ∈ l, w.phase = .waiting ∧ w.preset = none ∧ w.part = r.part ∧ w.ring = n)
        ∧ u.sched.nextWid = s.sched.nextWid + ws.length ∧ u.sched.nextCid = s.sched.nextCid + 1)
    ∧ (∀ ws, scanSlots none [] (slots.take (r.prod - r.cons).toNat) = .split ws →
      ∃ t, exec (.consistAccept n slots []) s = .next t
        ∧ t.ring n = some { r with cons := r.cons + BitVec.ofNat 32 ws.length }
        ∧ ∃ l, t.sched.wbs = s.sched.wbs ++ l ∧ l.map (·.slot) = ws ∧ ∀ w ∈ l, w.preset = some 0x10)
    ∧ (∀ k, scanSlots none [] (slots.take (r.prod - r.cons).toNat) = .bad k →
      ∃ t, exec (.consistAccept n slots []) s = .next t
        ∧ t.ring n = some { r with state := 2, cause := 7 } ∧ t.sched = s.sched)

/-- MAX_OPEN and an absent partition hold a Consist back (R420). -/
def Obligations.ConsistStaysInItsRing : Prop :=
  ∀ (n : Nat) (slots : List SlotRead) (io : List IoRes) (s : State) (r : Ring) (ws : List Slot),
    s.ring n = some r → scanSlots none [] (slots.take (r.prod - r.cons).toNat) = .whole ws → s.grpFull r.group = false →
    (s.part r.part = none ∨ s.maxOpen r.part ≤ (s.openOf r.part).length) →
    ∃ t, exec (.consistAccept n slots io) s = .next t
      ∧ t.sched.consists = s.sched.consists ∧ t.sched.wbs = s.sched.wbs ∧ t.host = s.host
      ∧ t.regs = s.regs

/-- The return of CXL.cache (R33, R35). Outcomes of host accesses are those of this command only. -/
def Obligations.CacheReturnWritesWhatWasHeld : Prop :=
  ∀ (speed width : Nat) (reads : List (Nat × LineRead)) (io : List IoRes) (s : State), s.regsWf →
    (s.ready = true → 1 ≤ speed → speed ≤ 4 → width = 16 ∨ width = 8 ∨ width = 4 →
      (s.host.lostSince = none →
        ∃ t, exec (.cacheReturn speed width reads io) s = .next t
          ∧ t = { s with regs := t.regs, out := t.out, host := { s.host with pba := t.host.pba }, io := [] }
          ∧ t.cacheEn = true ∧ t.fld rHifLinkStatus 3 0 = speed ∧ t.fld rHifLinkStatus 8 4 = width
          ∧ ∀ off, off ≠ rHifLinkStatus → t.reg off = s.reg off)
      ∧ (s.host.lostSince ≠ none → (∀ r ∈ s.host.rings, r.state ≠ 0) →
        ∃ u : State, exec (.cacheReturn speed width reads io) s = .next { u.settle with io := [] }
          ∧ u.cacheEn = true ∧ u.fld rHifLinkStatus 3 0 = speed ∧ u.fld rHifLinkStatus 8 4 = width
          ∧ u.host.lostSince = none ∧ u.host.held = []
          ∧ ∀ r ∈ u.host.rings, (∃ l ∈ u.host.lines, l.line = r.n / 8) ∨ (r.n / 8, LineRead.failed) ∈ reads))
    ∧ (s.ready = false ∨ speed = 0 ∨ 4 < speed ∨ (width ≠ 16 ∧ width ≠ 8 ∧ width ≠ 4) →
        exec (.cacheReturn speed width reads io) s = .next { s with io := [] })

/-- RNG_CTL.ENABLE (R34, and the base checks of R38). -/
def Obligations.RingEngineEnable : Prop :=
  ∀ s : State, s.barOpen rRngCtl = true → s.rngOn = false →
    (s.cacheEn = false → exec .rngEnable s = .next (s.setFld rRngCmdStatus 7 4 3))
    ∧ (s.cacheEn = true →
        (s.reg64 rRngCtxBaseLo % 2 ^ 21 ≠ 0 ∨ 2 ^ 52 ≤ s.reg64 rRngCtxBaseLo ∨ s.reg64 rRngDbBaseLo % 2 ^ 18 ≠ 0
          ∨ 2 ^ 52 ≤ s.reg64 rRngDbBaseLo) → exec .rngEnable s = .next (s.setFld rRngCmdStatus 7 4 2))
    ∧ (s.cacheEn = true → s.reg64 rRngCtxBaseLo % 2 ^ 21 = 0 → s.reg64 rRngCtxBaseLo < 2 ^ 52 →
        s.reg64 rRngDbBaseLo % 2 ^ 18 = 0 → s.reg64 rRngDbBaseLo < 2 ^ 52 →
        exec .rngEnable s = .next (s.setFld rRngCtl 0 0 1))

/-- Ring states (R75, R78, R79). LAST_STEP of a new ring is a free value (log entry 5). That rings drain when the engine is turned off while
CXL.cache is away is R35; that stopped ones are forgotten then is the model's reading (log entry 87). -/
def Obligations.AttachAndDetach : Prop :=
  (∀ (n : Nat) (w : Slot) (words : List DWord) (s : State),
    s.barOpen rRngCmd = true → bit 0 (s.reg rRngCmdStatus) = false → s.rngOn = true → s.ring n = none → s.cacheOk = true →
    s.ctxBad w = false → (prodOf words n - cConsInit w).toNat ≤ 2 ^ cLog2 w → s.regsWf →
    ∃ t, exec (.attach n (.ok w) (.ok words) []) s = .next t
      ∧ t = { s with regs := t.regs, out := t.out, host := t.host, io := [], free := s.free + 1 }
      ∧ t.fld rRngCmdStatus 7 4 = 0
      ∧ (∃ r, t.ring n = some r ∧ r.state = 1 ∧ r.cause = 0 ∧ r.cons = cConsInit w ∧ r.prod = prodOf words n
          ∧ r.group = cGroup w ∧ r.part = cPart w ∧ r.log2 = cLog2 w)
      ∧ ∃ l ∈ t.host.lines, l.line = n / 8)
  ∧ (∀ (n : Nat) (s : State), s.barOpen rRngCmd = true → bit 0 (s.reg rRngCmdStatus) = false → s.regsWf →
    let done (ring : Option Ring) (result : Nat) : Prop := ∃ t, exec (.detach n []) s = .next t ∧ HostOnly s t ∧ t.ring n = ring
      ∧ t.fld rRngCmdStatus 7 4 = result ∧ ∀ k, k ≠ n → t.ring k = s.ring k
    (s.ring n = none → done none 0)
    ∧ ∀ r, s.ring n = some r →
      (r.state = 3 → done (some r) 1) ∧ (r.state = 1 → done (some { r with state := 3 }) 0) ∧ (r.state = 2 → done none 0))
  ∧ (∀ (n : Nat) (io : List IoRes) (s : State) (r : Ring), s.ring n = some r → r.state = 3 →
      (∀ c ∈ s.sched.consists, c.ring ≠ n) →
      ∃ t, exec (.ringDrainEnd n io) s = .next t ∧ HostOnly s t ∧ t.ring n = none ∧ ∀ k, k ≠ n → t.ring k = s.ring k)
  ∧ ∀ (io : List IoRes) (s : State), s.barOpen rRngCtl = true → s.rngOn = true → s.regsWf → (s.host.rings.map (·.n)).Nodup →
      (∀ r ∈ s.host.rings, r.state = 1 ∨ r.state = 2 ∨ r.state = 3) →
      (s.cacheOk = true → ∃ t, exec (.rngDisable io) s = .next t ∧ HostOnly s t ∧ t.rngOn = false ∧ ∀ r ∈ t.host.rings, r.state = 3)
      ∧ (s.cacheOk = false → ∃ u : State, exec (.rngDisable io) s = .next { u.settle with io := [] } ∧ u.rngOn = false
          ∧ u.host.lines = [] ∧ u.host.held = [] ∧ u.host.lostSince = none
          ∧ u.host.rings = (s.host.rings.filter fun r => decide (r.state ≠ 2)).map fun r => { r with state := 3, mute := true })

/-- EN bits and moderation (R38, R60, R62, R63, R75, R76, R553). -/
def Obligations.RingEnables : Prop :=
  (∀ (w : Word) (io : List IoRes) (s : State), s.barOpen rRngEvqCfg = true → s.evqOn = false → bit 16 w = true →
    s.reg rRngEvqLost = 0 → s.regsWf →
    let legal := 4 ≤ bits 4 0 w ∧ bits 4 0 w ≤ 16 ∧ baseHeadOk (s.reg64 rRngEvqBaseLo) (s.reg64 rRngEvqHeadLo) = true
    ∃ t, exec (.evqEnable w io) s = .next t ∧ t.fld rRngEvqCfg 15 0 = bits 15 0 w
      ∧ (legal → t.evqOn = true ∧ t = { s with regs := t.regs, host := { s.host with evqCount := 0, evqHead := 0 }, io := [] })
      ∧ (¬legal → t.evqOn = false ∧ t = { s with regs := t.regs, io := [] }))
  ∧ (∀ (g : Nat) (w : Word) (io : List IoRes) (s : State), s.barOpen (rRngGrpCfg g) = true → s.regsWf →
    (s.grp g = none → bit 31 w = true → bit 31 (s.reg (rRngGrpCfg g)) = false →
      let legal := 4 ≤ bits 4 0 w ∧ bits 4 0 w ≤ 16 ∧ baseHeadOk (s.reg64 (rRngGrpBaseLo g)) (s.reg64 (rRngGrpHeadLo g)) = true
      ∃ t, exec (.grpEnable g w io) s = .next t ∧ t.fld (rRngGrpCfg g) 21 0 = bits 21 0 w
        ∧ (legal → bit 31 (t.reg (rRngGrpCfg g)) = true ∧ ∃ x, t = { s with regs := t.regs, host := { s.host with
              groups := s.host.groups ++ [x] } } ∧ x.g = g ∧ x.written = 0 ∧ x.head = 0 ∧ x.held = [] ∧ x.fault = false)
        ∧ (¬legal → bit 31 (t.reg (rRngGrpCfg g)) = false ∧ t = { s with regs := t.regs }))
    ∧ ∀ x, s.grp g = some x → x.held = [] →
        exec (.grpEnable g w io) s = .next (if bit 31 w = false ∧ ∀ r ∈ s.host.rings, r.group ≠ g then
          { s.setFld (rRngGrpCfg g) 31 31 0 with host := { s.host with groups := s.host.groups.filter (fun x => x.g ≠ g) } } else s))
  ∧ (∀ (g : Nat) (io : List IoRes) (s : State) (x : Group), s.barOpen (rRngGrpStatus g) = true → s.grp g = some x →
      x.fault = true →
      exec (.grpFaultRetry g io) s =
        .next { (State.flush ({ s with io := io }.updGrp g fun x => { x with fault := false }) g).settle with io := [] })
  ∧ ∀ (g : Nat) (s : State) (x : Group), s.grp g = some x → x.gapRun = true →
      (x.gapPend = false → exec (.msixGapExpire g) s = .next (s.updGrp g fun x => { x with gapRun := false }))
      ∧ (x.gapPend = true →
          exec (.msixGapExpire g) s = .next ((s.raise (s.fld (rRngGrpCfg g) 15 5)).updGrp g fun x => { x with gapPend := false }))

/-- Held records and lost events (R61, R67). -/
def Obligations.HeadPolls : Prop :=
  (∀ (g : Nat) (v : Word) (s : State) (x : Group), s.cacheOk = true → s.grp g = some x → x.held ≠ [] → x.fault = false →
    exec (.grpHeadPoll g [.head v]) s =
      .next { (State.flush ({ s with io := [] }.updGrp g fun x => { x with head := v }) g).settle with io := [] })
  ∧ (∀ (g : Nat) (s : State) (x : Group), s.grp g = some x → x.stalled = true → x.held ≠ [] →
    (x.reported = true → exec (.cqStall g) s = .next s)
    ∧ (x.reported = false → exec (.cqStall g) s =
        .next ((s.updGrp g fun x => { x with reported := true }).emit
          (ev 0x0004 lvBlock (some (s.fld (rRngGrpCfg g) 21 17)) (srcOf 14 g) [g, x.held.length]))))
  ∧ ∀ (v : Word) (s : State), s.cacheOk = true → s.cacheEn = true → s.evqOn = true → s.reg rRngEvqLost ≠ 0 →
    exec (.evqHeadPoll [.head v]) s =
      .next { State.evqLostPut { s with io := [], host := { s.host with evqHead := v } } with io := [] }

/-- Host accesses other than register writes (R33, R36, R147, R476). -/
def Obligations.HostAccesses : Prop :=
  (∀ (off size : Nat) (wr : Bool) (s : State), s.hifReset = false → (off % 4 ≠ 0 ∨ size ≠ 4) →
    exec (.bar0BadAccess off size wr) s = .next { s with out := s.out ++ [.unsupported] })
  ∧ (∀ (off : Nat) (s : State), s.barOpen off = true → isPairLo off = true →
    ∃ t, exec (.loReadLatch off) s = .next t ∧ t = { s with host := { s.host with latches := t.host.latches } }
      ∧ ∀ u : State, u.host = t.host → u.barOpen (off + 4) = true → u.readReg (off + 4) = s.highWord off)
  ∧ ∀ (speed width : Nat) (s : State), s.hifReset = false → 1 ≤ speed → speed ≤ 4 → width = 16 ∨ width = 8 ∨ width = 4 →
    ∃ u : State, u = ((s.setFld rHifLinkStatus 3 0 speed).setFld rHifLinkStatus 8 4 width).setFld rHifLinkStatus 9 9 1
      ∧ ∀ op, exec (.configRequest speed width op) s =
          .next (if u.ready then (u.cfgServe speed width op).put .cfgDone else u.put .cfgRetry)

/-- Writes of registers without a command of their own (R9, R38, R75, R76). -/
def Obligations.RegisterWrite : Prop :=
  (∀ (off : Nat) (w : Word) (s : State), s.barOpen off = false → exec (.registerWrite off w) s = .next s)
  ∧ (∀ (off : Nat) (w : Word) (s : State), off ∈ [rRngCtxBaseLo, rRngCtxBaseHi, rRngDbBaseLo, rRngDbBaseHi] →
      s.barOpen off = true →
      exec (.registerWrite off w) s = .next (if s.rngOn then s.noteBreak off w else s.writeReg off w))
  ∧ (∀ (off : Nat) (w : Word) (s : State), off ∈ [rRngEvqBaseLo, rRngEvqBaseHi, rRngEvqHeadLo, rRngEvqHeadHi] →
      s.barOpen off = true →
      exec (.registerWrite off w) s = .next (if s.evqOn then s.noteBreak off w else s.writeReg off w))
  ∧ ∀ (g i : Nat) (w : Word) (s : State), g < 1024 → i < 4 → s.barOpen (0x108000 + 32 * g + 4 * i) = true →
      exec (.registerWrite (0x108000 + 32 * g + 4 * i) w) s =
        .next (if bit 31 (s.reg (rRngGrpCfg g)) then s.noteBreak (0x108000 + 32 * g + 4 * i) w else s.writeReg (0x108000 + 32 * g + 4 * i) w)

/-- NOP and the completion record (R51, R53, R54, R59 to R61). -/
def Obligations.NopAndCompletion : Prop :=
  (∀ (wid : Nat) (s : State) (w : Wb), s.begin? wid opNop = some w → w.lost = none →
    ∃ t, exec (.nop wid) s = .next t ∧ EndOnly wid s t
      ∧ t.endedWith wid (if wbReservedBad w.slot then 0x10 else 0x01) 0 0)
  ∧ (∀ (wid : Nat) (io : List IoRes) (s : State) (w : Wb), s.wb wid = some w →
    (w.phase = .ended →
      exec (.waybillComplete wid io) s = .next { (State.finish { s with io := io } w).settle with io := [] })
    ∧ ∀ st, w.phase ≠ .ended → s.earlyEnd w = some st → w.lost = none →
      ∃ w', w'.wid = wid ∧ w'.phase = .ended ∧ w'.status = st ∧ w'.slot = w.slot
        ∧ exec (.waybillComplete wid io) s =
            .next { (State.finish ({ s with io := io }.endWb wid st 0 0) w').settle with io := [] })
  ∧ ∀ (s : State) (w : Wb) (c : Consist) (x : Group), s.cacheOk = true → s.io = [] → s.wb w.wid = some w →
      s.consist w.cid = some c → s.grp c.group = some x → x.held = [] → x.fault = false → s.grpFull c.group = false →
      stSuccess w.status = true → wIrq w.slot = false → wQuiet w.slot = false →
      (s.record w).out = s.out ++ [.hostWrite (s.reg64 (rRngGrpBaseLo c.group) + 32 * (x.written % s.grpSize c.group))
        (recBytes (recOf w) (lapPhase x.written (s.grpSize c.group)))]
      ∧ (s.record w).wb w.wid = none ∧ OtherWbs w.wid s (s.record w)
      ∧ (∃ y, (s.record w).grp c.group = some y ∧ y.written = x.written + 1 ∧ y.held = [])
      ∧ (recBytes (recOf w) (lapPhase x.written (s.grpSize c.group))).length = 32

/-- The checks that come before an opcode's own work (R53, R509). -/
def Obligations.ChecksComeFirst : Prop :=
  ∀ (wid : Nat) (s : State) (w : Wb) (st : Nat), w.lost = none →
    (s.r53 w.part w.slot = some st ∨ (s.r53 w.part w.slot = none ∧ s.secCheck w.part = some st)) →
    ∃ t, EndOnly wid s t ∧ t.endedWith wid st 0 0
      ∧ (s.begin? wid opRunTt = some w → ∀ (s0 : State) (m : Marks), s0.meetsErr wid m = s →
          exec (.runTimetable ⟨wid, m⟩) s0 = .next t.served)
      ∧ (s.begin? wid opXfer = some w → exec (.xfer wid) s = .next t)
      ∧ (s.begin? wid opFill = some w → exec (.fill wid) s = .next t)

/-- Issue of a run (R84, R86, R91, R133, R143). -/
def Obligations.TimetableIsIssued : Prop :=
  ∀ (wid : Nat) (m : Marks) (s0 s s1 s3 : State) (w : Wb) (b : Nat), s0.meetsErr wid m = s →
    s.begin? wid opRunTt = some w → s.r53 w.part w.slot = none → s.secCheck w.part = none →
    let a := wArg w.slot 0
    let shapes := shapeVals (wArg w.slot 1) (wArg w.slot 2) (wArg w.slot 3)
    (s.handed w).prepareFor wid 0 [(a, 256)] [] = (true, s1) →
    let size := rdN (s1.readBytes a 256) 8 4
    let s2 := s1.noteRead wid a 256
    s2.readStatus wid = none → ttCheckHeader (s1.readBytes a 256) = none →
    let die := (((s.handed w).run wid).map (·.recv)).getD 0
    rangeInPart w.part a size = true → s1.storeRoom die size = true → s1.prepareFor wid 1 [(a, size)] [] = (true, s3) →
    let t := s3.readBytes a size
    let s4 := s3.noteRead wid a size
    s4.readStatus wid = none → ttSealOk t = true → s4.ttChecks w die t shapes = .inl b →
    let c := runCtx t shapes b
    let k : EngKind := if c.h.engine = 1 then .mxe else if c.h.engine = 2 then .vxe else .cve
    s4.usable w.part k ≠ [] →
    ∃ (u : State) (r : Run),
      exec (.runTimetable ⟨wid, m⟩) s0 = .next (u.schedule wid k (min c.h.spread (min (ttTrip0 c.ls) (s4.usable w.part k).length))).served
      ∧ u.run wid = some r ∧ r.part = w.part ∧ r.kind = k ∧ r.tt = t ∧ r.shapes = shapes ∧ r.bucket = b ∧ r.recv = die
      ∧ r.tables = s4.issueTables die w.part c ∧ r.insts = []
      ∧ u.hasCopy die wid = true ∧ u.mem = s4.mem ∧ u.regs = s4.regs

/-- What frees waiting work (R108, R143, R270, R271, R418). -/
def Obligations.WaitingWorkGoesOn : Prop :=
  (∀ (die : Nat) (s : State) (r : Run), (s.eng.runs.filter fun r => r.storeWait.contains die) = [r] →
    s.hasCopy die r.wid = false → r.tt ≠ [] → (∃ x ∈ r.insts, x.started = false ∧ (dieOf r.kind x.inst).2 = die) →
    s.storeRoom die r.tt.length = true →
    exec (.tstoreRoomFree die) s = .next ((s.addCopy die r.wid r.tt.length).beginInsts r.wid).served)
  ∧ (∀ (k : EngKind) (inst ns : Nat) (s : State) (r : Run) (x : RunInst) (p : Report), s.runOn k inst = some (r, x) →
    s.place.reports.find? (fun p => decide (p.wid = r.wid ∧ p.inst = inst)) = some p → x.lo ≤ p.pos → p.pos + 64 ≤ x.pos →
    ∃ u : State, exec (.positionReport k inst ns) s = .next (u.requeue r.wid inst)
      ∧ u = { s with place := { s.place with reports := u.place.reports } }
      ∧ u.place.reports.find? (fun p => decide (p.wid = r.wid ∧ p.inst = inst)) =
          some { p with pos := x.pos, nsPer := some (ns, x.pos - p.pos) })
  ∧ ∀ (k : EngKind) (i : Nat) (s : State), k = .mxe ∨ k = .vxe ∨ k = .cve →
    (kindCount s.assy k ≤ i ∨ s.fenced (dieOf k i).1 (dieOf k i).2 = true ∨ s.avail k i = false →
      exec (.instanceFree k i) s = .next s)
    ∧ (i < kindCount s.assy k → s.fenced (dieOf k i).1 (dieOf k i).2 = false → s.avail k i = true → s.useOf k i = none →
      (s.taker k i = none ∨ s.sliceFirst k i = true → exec (.instanceFree k i) s = .next s.settleTakings)
      ∧ ∀ w, s.sliceFirst k i = false → s.taker k i = some w → s.wb w.wid = some w → w.phase = .ready → w.held.length + 1 < w.need →
          ∃ (u : State) (w' : Wb), exec (.instanceFree k i) s = .next u.settleTakings ∧ u.useOf k i = some (.reserved w.wid)
            ∧ u.wb w.wid = some w' ∧ w'.held = w.held ++ [i] ∧ w'.resSince.isSome = true ∧ OtherWbs w.wid s u)

/-- CREATE and REMOVE (R415, R416). -/
def Obligations.PartitionsComeAndGo : Prop :=
  ∀ (p : Nat) (s : State), p < 32 → s.regsWf → s.barOpen rPrtCmd = true → bit 0 (s.reg rPrtCmdStatus) = false →
    (s.part p = none → ∃ (t : State) (x : Partn), exec (.create p) s = .next t
      ∧ t = { s with regs := t.regs, sched := { s.sched with parts := t.sched.parts } }
      ∧ t.part p = some x ∧ x.v = 0 ∧ x.rem = 0 ∧ x.useNs = 0 ∧ x.drvSusp = false ∧ x.evict = none
      ∧ (∀ q, q ≠ p → t.part q = s.part q)
      ∧ (∀ i, i < 16 → t.reg (rPrtCfg p + 4 * i) = regReset s.assy (rPrtCfg p + 4 * i))
      ∧ t.fld rPrtCmdStatus 7 4 = 0)
    ∧ ((s.part p).isSome = true → exec (.create p) s = .next (s.setFld rPrtCmdStatus 7 4 1))
    ∧ (s.part p = none → exec (.partitionRemove p) s = .next (s.setFld rPrtCmdStatus 7 4 1))
    ∧ ((s.part p).isSome = true → s.partBusy p = true →
        exec (.partitionRemove p) s = .next (s.setFld rPrtCmdStatus 7 4 2))
    ∧ ((s.part p).isSome = true → s.partBusy p = false → ∃ t, exec (.partitionRemove p) s = .next t
      ∧ t.part p = none ∧ (∀ q, q ≠ p → t.part q = s.part q)
      ∧ (∀ g ∈ t.place.pages, g.num / 2 ^ 31 ≠ p) ∧ (∀ v ∈ t.kv.views, v.part ≠ p) ∧ (∀ n ∈ t.kv.nodes, n.part ≠ p)
      ∧ (∀ e ∈ t.eng.tables, e.part ≠ p)
      ∧ (∀ g ∈ s.place.pages, g.num / 2 ^ 31 = p → ∀ x, 2097152 * g.num ≤ x → x < 2097152 * (g.num + 1) → t.memByte x = 0)
      ∧ t.sealed p = false ∧ t.fld rPrtCmdStatus 7 4 = 0)

/-- EVICT, SUSPEND, RESUME (R422, R425, R427, R437). -/
def Obligations.EvictSuspendResume : Prop :=
  ∀ (p : Nat) (s : State), s.regsWf → s.barOpen rPrtCmd = true → bit 0 (s.reg rPrtCmdStatus) = false →
    (s.part p = none →
      exec (.evict p) s = .next (s.setFld rPrtCmdStatus 7 4 1).settle
      ∧ exec (.suspend p) s = .next (s.setFld rPrtCmdStatus 7 4 1).settle
      ∧ exec (.resume p) s = .next (s.setFld rPrtCmdStatus 7 4 1).settle)
    ∧ ∀ x, s.part p = some x →
      (s.openOf p ≠ [] → (s.sched.wbs.map (·.wid)).Nodup → (∀ w ∈ s.sched.wbs, w.lost = none) →
        ∃ u : State, exec (.evict p) s = .next u.settle
          ∧ bit 0 (u.reg rPrtCmdStatus) = true
          ∧ (∃ y, u.part p = some y ∧ y.evict = some ((s.openOf p).map (·.cid)))
          ∧ (∀ c ∈ u.openOf p, c.evicted = true)
          ∧ ∀ w ∈ s.sched.wbs, (w.phase = .waiting ∨ w.phase = .ready) → (∃ c ∈ s.openOf p, c.cid = w.cid) →
              u.endedWith w.wid 0x60 0 0)
      ∧ (x.drvSusp = false → ∃ u : State, exec (.suspend p) s = .next u.settle
          ∧ (∃ y, u.part p = some y ∧ y.drvSusp = true) ∧ u.fld rPrtCmdStatus 7 4 = 0
          ∧ ∀ k i, i < kindCount s.assy k → u.suspOn p k i = true)
      ∧ (x.drvSusp = true → ∃ u : State, exec (.resume p) s = .next u.settle
          ∧ (∃ y, u.part p = some y ∧ y.drvSusp = false) ∧ u.fld rPrtCmdStatus 7 4 = 0
          ∧ ∀ y ∈ u.sched.susps, y.part = p → y.taker ≠ none)

/-- Writes of partition registers with an effect of their own (R419, R428, R429, R432, R437, R439). -/
def Obligations.PartitionRegisters : Prop :=
  (∀ (w : Word) (s : State), s.barOpen rPrtSemValHi = true → s.regsWf → swf semReset s.sems = true →
    ∃ u : State, exec (.semSet w) s = .next u.settle ∧ u = { s.setReg rPrtSemValHi w with sems := u.sems }
      ∧ (u.sem (s.fld rPrtSemSel 15 0)).toNat = (s.reg rPrtSemValLo).toNat + 2 ^ 32 * w.toNat
      ∧ ∀ i, i ≠ s.fld rPrtSemSel 15 0 → u.sem i = s.sem i)
  ∧ (∀ (p off : Nat) (w : Word) (s : State), p < 32 → off = rPrtSemBase p ∨ off = rPrtSemCount p → s.barOpen off = true →
    s.isSealed off = false → s.regsWf →
    let b := (s.writeReg off w).fld (rPrtSemBase p) 15 0
    let n := (s.writeReg off w).fld (rPrtSemCount p) 16 0
    let bad := (∃ q, q < 32 ∧ q ≠ p ∧ semMeets b n (s.fld (rPrtSemBase q) 15 0) (s.fld (rPrtSemCount q) 16 0) = true)
      ∨ 65536 < b + n ∨ ∃ r ∈ s.host.rings, r.part = p
    (bad → exec (.semRangeWrite off w) s = .next (s.setFld rPrtErr 0 0 1))
    ∧ (¬bad → ∃ t, exec (.semRangeWrite off w) s = .next t ∧ t = { s.writeReg off w with sems := t.sems }
        ∧ ∀ i, t.sem i = if b ≤ i ∧ i < b + n then 0 else s.sem i))
  ∧ (∀ (p : Nat) (w : Word) (s : State), p < 32 → s.barOpen (rPrtCfg p) = true → bits 0 0 w = 0 → bits 14 8 w ≤ 64 →
      exec (.modeWrite p w) s = .next (s.writeReg (rPrtCfg p) w).examine)
  ∧ (∀ (p : Nat) (w : Word) (s : State), p < 32 → s.barOpen (rPrtCfg p) = true → bits 0 0 w = 1 → s.isSealed (rPrtCfg p) = false →
      ((∃ d, d < 4 ∧ (s.fld (rSrvQuotaHbm d p) 19 0 ≠ 0 ∨ s.fld (rSrvQuotaSid d p) 19 0 ≠ 0))
        ∨ ∃ g ∈ s.place.pages, g.part = p ∧ g.lent ≠ .no) →
      exec (.modeWrite p w) s = .next (s.setFld rPrtErr 1 1 1))
  ∧ (∀ (p : Nat) (w : Word) (s : State), p < 32 → s.barOpen (rPrtShare p) = true →
      (bits 15 0 w = 0 → exec (.shareWrite p w) s = .next s)
      ∧ (bits 15 0 w ≠ 0 → s.isSealed (rPrtShare p) = false →
          exec (.shareWrite p w) s = .next ((s.writeReg (rPrtShare p) w).updPart p fun x => { x with rem := 0 }))
      ∧ (bits 15 0 w ≠ 0 → s.isSealed (rPrtShare p) = true →
          exec (.shareWrite p w) s = .next (s.writeReg (rPrtShare p) w)))
  ∧ ∀ (p : Nat) (s : State), p < 32 → s.barOpen (rPrtCtrClr p) = true → s.regsWf →
      ∃ t, exec (.prtCtrClr p) s = .next t ∧ t = { s with regs := t.regs, sched := { s.sched with parts := t.sched.parts } }
        ∧ t.reg (rPrtPreempts p) = 0 ∧ t.reg (rPrtPreemptMax p) = 0
        ∧ (∀ off, off ≠ rPrtPreempts p → off ≠ rPrtPreemptMax p → t.reg off = s.reg off)
        ∧ t.part p = (s.part p).map (fun x => { x with useNs := 0 }) ∧ ∀ q, q ≠ p → t.part q = s.part q

/-- TIMESTAMP, XFER, FILL (R32, R52, R284 to R286, R289). -/
def Obligations.TransfersBegin : Prop :=
  (∀ (wid : Nat) (s : State) (w : Wb), s.begin? wid opStamp = some w → w.lost = none →
    let a := wArg w.slot 0
    (∀ st, s.r53 w.part w.slot = some st →
        ∃ t, exec (.timestamp wid []) s = .next t.served ∧ EndOnly wid { s with io := [] } t ∧ t.endedWith wid st 0 0)
    ∧ (s.r53 w.part w.slot = none →
      (wDstSpace w.slot = 1 → ∃ t, exec (.timestamp wid []) s = .next t.served
        ∧ t.out = s.out ++ [.hostWrite a (leBytes 8 s.aon)] ∧ t.endedWith wid 0x00 0 0
        ∧ EndOnly wid { s.startWb w with out := t.out, io := [] } t)
      ∧ (wDstSpace w.slot = 0 → s.kv.views = [] → s.inPlace (s.accDie wid 0) a 8 → Memory.wf s.mem = true → accStatus w 0 = 0 →
          ∃ t, exec (.timestamp wid []) s = .next t ∧ t.endedWith wid 0x00 0 0
            ∧ t.memRead a 8 = leBytes 8 s.aon ∧ ∀ x, x < a ∨ a + 8 ≤ x → t.memByte x = s.memByte x)
      ∧ (wDstSpace w.slot = 2 → ∃ u : State, exec (.timestamp wid []) s = .next ({ u.pump with io := [] } : State).served
          ∧ ∃ x, x.op = 2 ∧ x.dst = a / 2 ^ 48 ∧ x.off = a % 2 ^ 48 ∧ x.len = 8 ∧ x.data = leBytes 8 s.aon ∧ x.poison = 0
            ∧ x.owner = .stamp wid ∧ x.sent = false
            ∧ u = { s.startWb w with io := [], vrl := { s.vrl with txns := s.vrl.txns ++ [x] } })))
  ∧ ∀ (wid : Nat) (s : State) (w : Wb) (isFill : Bool),
      s.begin? wid (if isFill then opFill else opXfer) = some w → s.r53 w.part w.slot = none → s.secCheck w.part = none →
      let c := if isFill then Instr.fill wid else Instr.xfer wid
      let src := if isFill then 0 else wArg w.slot 0
      let dst := if isFill then wArg w.slot 0 else wArg w.slot 1
      let cut := if isFill then dst else if wSrcSpace w.slot = 0 then src else if wDstSpace w.slot = 0 then dst else src
      (s.usable w.part .xfe = [] → w.lost = none →
        ∃ t, exec c s = .next t ∧ EndOnly wid s t ∧ t.endedWith wid 0x61 0 0)
      ∧ (s.usable w.part .xfe ≠ [] → s.xferOf wid = none → ∃ (u : State) (x : Xfer),
          exec c s = .next (match u.serveXfes.wb wid with
            | some w => if w.phase = .ready then u.serveXfes.preemptFor w .xfe else u.serveXfes
            | none => u.serveXfes)
          ∧ u.xferOf wid = some x ∧ x.fill = isFill ∧ x.src = src ∧ x.dst = dst ∧ x.len = wArg w.slot 2
          ∧ x.srcSpace = wSrcSpace w.slot ∧ x.dstSpace = wDstSpace w.slot
          ∧ (x.pieces.map (·.len)).sum = wArg w.slot 2
          ∧ (∀ j q, x.pieces[j]? = some q → q.idx = j ∧ q.off = ((x.pieces.take j).map (·.len)).sum ∧ 0 < q.len
              ∧ (cut + q.off) / 2 ^ 21 = (cut + q.off + q.len - 1) / 2 ^ 21 ∧ (0 < j → (cut + q.off) % 2 ^ 21 = 0)
              ∧ q.run = false ∧ ∃ i, q.xfe = some i ∧ s.mayUse w.part .xfe i = true)
          ∧ u.mem = s.mem ∧ u.regs = s.regs)

/-- The bytes a piece moves (R284 to R286). -/
def Obligations.PieceMovesItsBytes : Prop :=
  ∀ (wid idx ns : Nat) (host : BytesRead) (io : List IoRes) (s : State) (w : Wb) (x : Xfer) (q : Piece) (i : Nat),
    s.wb wid = some w → s.xferOf wid = some x → x.piece idx = some q → q.run = true → q.sent = true → q.failed = false →
    q.xfe = some i → q.lost = 0 → s.xfeReturns i = false → x.dstSpace = 0 → s.kv.views = [] →
    s.inPlace (some (dieOf .xfe i)) (x.dst + q.off) q.len →
    (∀ t ∈ s.vrl.txns, t.owner ≠ .piece wid idx) → Memory.wf s.mem = true → s.regsWf →
    (x.fill = true → ∃ u : State, exec (.xferPieceDone wid idx ns host ⟨[], [], []⟩ io) s =
          .next ({ u.endPiece wid idx with io := [] } : State).seen
        ∧ (∀ k, k < q.len → u.memByte (x.dst + q.off + k) = BitVec.ofNat 8 (wArg w.slot 1 / 256 ^ ((x.dst + q.off + k) % 8)))
        ∧ (∀ a, a < x.dst + q.off ∨ x.dst + q.off + q.len ≤ a → u.memByte a = s.memByte a)
        ∧ u.reg64 (rXfeBytesLo i) = (s.reg64 (rXfeBytesLo i) + q.len) % 2 ^ 64)
    ∧ (x.fill = false → x.srcSpace = 0 → s.inPlace (some (dieOf .xfe i)) (x.src + q.off) q.len →
        (∀ l ∈ linesOf (x.src + q.off) q.len, s.poisoned (64 * l) = false) →
        (x.src + x.len ≤ x.dst + q.off ∨ x.dst + q.off + q.len ≤ x.src) →
        ∃ u : State, exec (.xferPieceDone wid idx ns host ⟨[], [], []⟩ io) s = .next ({ u.endPiece wid idx with io := [] } : State).seen
          ∧ (∀ k, k < q.len → u.memByte (x.dst + q.off + k) = s.memByte (x.src + q.off + k))
          ∧ (∀ a, a < x.dst + q.off ∨ x.dst + q.off + q.len ≤ a → u.memByte a = s.memByte a)
          ∧ u.reg64 (rXfeBytesLo i) = (s.reg64 (rXfeBytesLo i) + q.len) % 2 ^ 64)

/-- PLACE actions 1 to 3 (R254 to R257). -/
def Obligations.PlacementMap : Prop :=
  (∀ (wid act : Nat) (s : State) (w : Wb), s.begin? wid opPlace = some w → placeAct w.slot = act →
    s.r53 w.part w.slot = none → s.secCheck w.part = none → w.lost = none →
    (∀ n ∈ placePages w.slot, s.moveOf n = none ∧ ∀ g, s.page n = some g → g.busy = false) → s.placeFirst w →
    let l := placePages w.slot
    let cold := decide (bitsN 8 8 (wArg w.slot 2) = 1)
    (act = 1 → (∀ n ∈ l, s.page n = none) → s.kv.views = [] →
      (((s.startWb w).mapPages cold l).shortfall w.part = 0 → ((s.startWb w).mapPages cold l).tableExcess = 0 →
        ∃ t, exec (.map wid) s = .next t ∧ t.endedWith wid 0x00 0 0
          ∧ (∀ n ∈ l, ∃ g, t.page n = some g ∧ g.cold = cold ∧ g.place = .none ∧ g.lent = .no ∧ g.heat = 0
              ∧ ∀ a, n * 2 ^ 21 ≤ a → a < (n + 1) * 2 ^ 21 → t.memByte a = 0 ∧ t.poisoned a = false)
          ∧ (∀ n, n ∉ l → t.page n = s.page n) ∧ OtherWbs wid s t
          ∧ t.regs = (s.endLeases fun l => decide (l.wid = wid)).regs)
      ∧ (0 < max (((s.startWb w).mapPages cold l).shortfall w.part) ((s.startWb w).mapPages cold l).tableExcess →
        ∃ t, exec (.map wid) s = .next t ∧ t.place.pages = s.place.pages ∧ t.place.moves = s.place.moves ∧ t.mem = s.mem
          ∧ ∃ n, n ≠ 0 ∧ t.endedWith wid 0x32 n 0))
    ∧ (act = 1 → ∀ i n, i < 2 ^ 32 → l[i]? = some n → (s.page n).isSome = true → (∀ j m, j < i → l[j]? = some m → s.page m = none) →
        s.kv.views = [] → ∃ t, exec (.map wid) s = .next t ∧ t.place.pages = s.place.pages ∧ t.mem = s.mem ∧ t.endedWith wid 0x30 i 0)
    ∧ (act = 2 → (∀ n ∈ l, s.pageLent n = false) →
      ((∀ n ∈ l, s.pageInUse n = false) →
        ∃ t, exec (.unmap wid) s = .next t ∧ t.endedWith wid 0x00 0 0 ∧ (∀ n ∈ l, t.page n = none)
          ∧ (∀ n ∈ l, (s.page n).isSome = true → ∀ a, n * 2 ^ 21 ≤ a → a < (n + 1) * 2 ^ 21 → t.memByte a = 0)
          ∧ ∀ n, n ∉ l → t.page n = s.page n)
      ∧ ∀ n ∈ l, ∀ g, s.page n = some g → s.pageInUse n = true →
          ∃ t, exec (.unmap wid) s = .next t ∧ t.page n = some { g with gone := some wid })
    ∧ (act = 3 → (∀ n ∈ l, (s.page n).isSome = true ∧ s.pageLent n = false) →
        ∃ t, exec (.hint wid) s = .next t ∧ t.endedWith wid 0x00 0 0
          ∧ (∀ n ∈ l, t.page n = (s.page n).map fun g => { g with cold := cold })
          ∧ (∀ n, n ∉ l → t.page n = s.page n) ∧ SameMemory s t))
  ∧ ∀ (wid : Nat) (s : State) (w : Wb) (n : Nat) (g : Page), s.wb wid = some w → w.lost = none →
      s.place.pages.filter (fun g => decide (g.gone = some wid)) = [g] → g.num = n → s.pageHeld n = false →
      ∃ t : State, exec (.unmapRelease wid) s = .next t.pumpColls ∧ (∀ l ∈ t.place.leases, l.page ≠ n) ∧ t.endedWith wid 0x00 0 0 ∧ t.page n = none
        ∧ (∀ m, m ≠ n → t.page m = s.page m) ∧ ∀ a, n * 2 ^ 21 ≤ a → a < (n + 1) * 2 ^ 21 → t.memByte a = 0

/-- PLACE actions 4 to 6 (R275, R278, R279). -/
def Obligations.LendingAndReclaim : Prop :=
  (∀ (wid act : Nat) (s : State) (w : Wb), s.begin? wid opPlace = some w → placeAct w.slot = act →
    s.r53 w.part w.slot = none → s.secCheck w.part = none → w.lost = none →
    (∀ n ∈ placePages w.slot, s.moveOf n = none ∧ ∀ g, s.page n = some g → g.busy = false) → s.placeFirst w →
    let l := placePages w.slot
    let c := if act = 4 then Instr.lendHost wid else Instr.lendFabric wid
    let off (i : Nat) : Nat := placeOff w.slot + i * 2 ^ 21
    let mark (i : Nat) : Lent := if act = 4 then .host (off i) else .fabric (off i) (bitsN 9 8 (wArg w.slot 2))
    let free (i : Nat) : Prop := ∀ g ∈ s.place.pages, if act = 4 then g.lent ≠ .host (off i) else ∀ t, g.lent ≠ .fabric (off i) t
    let good (i n : Nat) : Prop := (s.page n).isSome = true ∧ s.pageLent n = false ∧ free i
    (act = 4 ∨ act = 5 → (∀ i n, l[i]? = some n → good i n) →
      ((∃ n ∈ l, s.fenced 2 (n % 4) = true) →
        ∃ t, exec c s = .next t ∧ t.place.pages = s.place.pages ∧ t.endedWith wid 0x31 0 0)
      ∧ ((∀ n ∈ l, s.fenced 2 (n % 4) = false) →
        ∃ u : State, u = { s with sched := u.sched, place := u.place }
          ∧ (∀ i n, l[i]? = some n → u.page n = (s.page n).map fun g => { g with lent := mark i })
          ∧ (∀ n, n ∉ l → u.page n = s.page n)
          ∧ (max (u.shortfall w.part) u.tableExcess = 0 → exec c s = .next u.lendsDone)
          ∧ (max (u.shortfall w.part) u.tableExcess ≠ 0 →
              ∃ t, exec c s = .next t ∧ t.place.pages = s.place.pages ∧ ∃ k, k ≠ 0 ∧ t.endedWith wid 0x32 k 0)))
    ∧ (act = 4 ∨ act = 5 → ∀ i n, i < 2 ^ 32 → l[i]? = some n → ¬good i n → (∀ j m, j < i → l[j]? = some m → good j m) →
        ∃ t, exec c s = .next t ∧ t.place.pages = s.place.pages ∧ t.endedWith wid 0x30 i 0)
    ∧ (act = 6 → (∀ n ∈ l, s.heldLines n = []) →
        ∃ t, exec (.reclaim wid) s = .next t ∧ t.endedWith wid 0x00 0 0 ∧ (∀ n ∈ l, t.pageLent n = false)
          ∧ ∀ n, n ∉ l → t.page n = s.page n)
    ∧ (act = 6 → ∀ n ∈ l, ∀ g, s.page n = some g → s.pageLent n = true → s.heldLines n ≠ [] →
        ∃ t, exec (.reclaim wid) s = .next t ∧ t.page n = some { g with taking := some wid }
          ∧ ∀ k ∈ s.heldLines n, Out.backInvalidate k ∈ t.out))
  ∧ ∀ (wid : Nat) (s : State) (w : Wb), s.wb wid = some w → w.lost = none →
      (∃ g ∈ s.place.pages, g.taking = some wid) →
      ∃ t, exec (.reclaimDone wid) s = .next t ∧ t.endedWith wid 0x00 0 0
        ∧ (∀ g ∈ s.place.pages, g.taking = some wid → t.pageLent g.num = false ∧ t.heldLines g.num = [])
        ∧ (∀ n, (∀ g ∈ s.place.pages, g.taking = some wid → g.num ≠ n) → t.page n = s.page n) ∧ SameMemory s t

/-- Moves and quotas (R222, R264, R268, R269, R273, R274). -/
def Obligations.MovesAndQuotas : Prop :=
  (∀ (off : Nat) (w : Word) (s : State) (d p : Nat) (pool : Option Nat), s.barOpen off = true → quotaReg off = some (d, p, pool) →
    exec (.quotaWrite off w) s =
      .next (if !s.isSealed off && s.quotaBad (s.writeReg off w) off d p pool then s.setFld (rSrvQuotaErr d) 0 0 1 else s.writeReg off w))
  ∧ (∀ (p : Nat) (w : Word) (s : State), p < 32 → s.barOpen (rSrvPoolFault p) = true → s.regsWf →
    ∃ t, exec (.poolFaultClear (rSrvPoolFault p) w) s = .next t ∧ t = { s with regs := t.regs }
      ∧ ∀ i, i < 5 → t.poolFaulted p i = (s.poolFaulted p i && !bit i w))
  ∧ (∀ (d : Nat) (s : State),
    (4 ≤ (s.place.moves.filter fun m => decide (m.die = d)).length → exec (.moveStart d) s = .next s)
    ∧ ∀ m, (s.place.moves.filter fun m => decide (m.die = d)).length < 4 → s.fenced 2 d = false →
      (s.moveList d).find? (fun m => !m.usesPool || (decide (((s.place.moves.filter fun m => decide (m.die = d)).filter Move.usesPool).length < 2)
          && (s.moveXfe m.page).isSome)) = some m →
      let v := if m.usesPool then { m with xfe := s.moveXfe m.page } else m
      let lost := m.cause = .demand ∧ ∃ g i, s.page m.page = some g ∧ g.place.pool = some i ∧ s.poolFaulted g.part i = true
      ∃ u : State, u.place.pages = s.place.pages ∧ SameMemory s u
        ∧ (¬lost → u.place.moves = s.place.moves ++ [v] ∧ exec (.moveStart d) s = .next (u.moveTxns v))
        ∧ (lost → u.place.moves = s.place.moves ∧ exec (.moveStart d) s = .next (u.returnLost v)))
  ∧ (∀ (n : Nat) (bad ended : List Nat) (s p : State) (v : Move) (g : Page), s.pump = p → p.moveOf n = some v → v.switched = false →
      v.failed = none → p.behindReturn v = false → (∀ t ∈ p.vrl.txns, t.owner ≠ .move n) → p.page n = some g → swf markReset p.marks = true →
      (v.src.pool = some 0 ∨ v.dst.pool = some 0 → p.routeOut (2, v.die) (3, 0) = false) →
    ∃ u : State, exec (.moveSwitch n ⟨bad, ⟨[], [], []⟩, ended⟩) s = .next (u.serveXfes.pumpColls).seen
      ∧ u.page n = some { g with place := v.dst } ∧ u.moveOf n = some { v with switched := true }
      ∧ (∀ m, m ≠ n → u.page m = p.page m ∧ u.moveOf m = p.moveOf m) ∧ (∀ a, u.memByte a = p.memByte a)
      ∧ ∀ a, u.poisoned a =
          (p.poisoned a || decide (v.src.pool = some 0 ∧ n * 2 ^ 21 ≤ a ∧ a < (n + 1) * 2 ^ 21 ∧ (a - n * 2 ^ 21) / 64 ∈ bad)))
  ∧ (∀ (n ns : Nat) (s : State) (v : Move), s.moveOf n = some v → v.switched = true → s.regsWf →
    ∃ t : State, exec (.moveDrainEnd n ns) s = .next t.pumpColls ∧ t.moveOf n = none ∧ (∀ m, m ≠ n → t.moveOf m = s.moveOf m)
      ∧ t.reg64 (rSrvMovesLo v.die) = (s.reg64 (rSrvMovesLo v.die) + 1) % 2 ^ 64
      ∧ (∀ l, l ∈ t.place.leases ↔ l ∈ s.place.leases ∧ ¬(l.page = n ∧ l.before = true))
      ∧ t.place.pages = s.place.pages ∧ SameMemory s t)
  ∧ (∀ (n ns : Nat) (s : State) (v : Move) (g : Page) (i : Nat), s.moveOf n = some v → v.switched = false →
      (v.dst.isFabric || v.src.isFabric → v.failed ≠ none ∧ ∀ t ∈ s.vrl.txns, t.owner ≠ .move n) → s.page n = some g → s.regsWf → swf markReset s.marks = true → i < 5 →
      (if v.dst.isPool then v.dst.pool = some i else v.src.pool = some i) →
      ∃ u : State, exec (.poolFault n ns) s = .next u.serveXfes.pumpColls ∧ u.moveOf n = none ∧ u.poolFaulted (n / 2 ^ 31) i = true
        ∧ (v.dst.isPool = true → v.cause ≠ .swapOut → u.page n = some g ∧ SameMemory s u)
        ∧ (v.dst.isPool = false ∨ v.cause = .swapOut → u.page n = some { g with place := v.dst }
            ∧ ∀ a, n * 2 ^ 21 ≤ a → a < (n + 1) * 2 ^ 21 → u.poisoned a = true))
  ∧ ∀ (d : Nat) (s : State), exec (.heatDecay d) s = .next { s with place := { s.place with
      pages := s.place.pages.map fun g => if g.die = d then { g with heat := g.heat / 2 } else g } }

/-- Stray accesses (R277). -/
def Obligations.StrayHostAccess : Prop :=
  ∀ (off : Nat) (bs : List Byte) (beat : HdmBeat) (s : State), s.ready = true → s.clk.trained = true → bit 9 (s.reg rHifLinkStatus) = true →
    (∀ g ∈ s.place.pages, g.lent ≠ .host (off / 2 ^ 21 * 2 ^ 21)) →
    (∃ d, exec (.hostHdmAccess off none beat) s = .next ((s.bump rSrvHdmStray 1).put (.hdmData off d true)).seen)
    ∧ exec (.hostHdmAccess off (some bs) beat) s = .next (s.bump rSrvHdmStray 1).seen

/-- Accesses to lent memory (R276). A write is in memory at once: log entry 18. -/
def Obligations.HostAccessesLentPages : Prop :=
  ∀ (off : Nat) (s : State) (g : Page), s.ready = true → s.clk.trained = true → bit 9 (s.reg rHifLinkStatus) = true → s.hdmPage off = some g →
    s.outOf (3, 0) g.die = false → s.place.snoop.length < 8388608 → Memory.wf s.mem = true →
    let a := g.num * 2 ^ 21 + off % 2 ^ 21
    (∃ t, exec (.hostHdmAccess off none ⟨false, ⟨[], [], []⟩⟩) s = .next t ∧ SameMemory s t ∧ a / 64 ∈ t.place.snoop
      ∧ t.out = s.out ++ [.hdmData off (s.memRead (a / 64 * 64) 64) (s.poisoned a)])
    ∧ ∀ bs m, ∃ t, exec (.hostHdmAccess off (some bs) ⟨false, m⟩) s = .next t ∧ a / 64 ∈ t.place.snoop ∧ t.out = s.out
        ∧ (∀ k b, bs[k]? = some b → t.memByte (a + k) = b)
        ∧ ∀ x, x < a ∨ a + bs.length ≤ x → t.memByte x = s.memByte x

/-- One descriptor, whatever its COUNT; what each operation does is the statement KvOperations. -/
def Obligations.KvDescriptor : Prop :=
  ∀ (wid ns op : Nat) (m : Marks) (s0 s s1 : State) (w : Wb) (j : KvJob) (d : List Byte), s0.meetsErr wid m = s →
    s.kvAt wid op w j d →
    s.prepareFor wid 2 (s.kvTouches w.part d).1 ((s.kvTouches w.part d).2 ++ j.place w) = (true, s1) →
    let k := (s1.chargeWb wid ns).kvExec wid w.part d
    let t := (k.s.kvWritten w j k.result k.matched k.done).served
    (op = 0x01 → exec (.hash wid ⟨ns, m⟩) s0 = .next t) ∧ (op = 0x02 → exec (.lookup wid ⟨ns, m⟩) s0 = .next t)
    ∧ (op = 0x03 → exec (.insert wid ⟨ns, m⟩) s0 = .next t) ∧ (op = 0x04 → exec (.release wid ⟨ns, m⟩) s0 = .next t)
    ∧ (op = 0x05 → exec (.remove wid ⟨ns, m⟩) s0 = .next t)

/-- Operations on one block (R226, R231, R235, R236, R238). The rest of a chain repeats them (the statement KvDescriptor). -/
def Obligations.KvOperations : Prop :=
  ∀ (wid ns op : Nat) (s : State) (w : Wb) (j : KvJob) (d : List Byte), s.kvAt wid op w j d → kvCount d = 1 →
    Memory.wf s.mem = true →
    let v := s.accDie wid 2
    let k : Took := ⟨ns, ⟨[], [], []⟩⟩
    s.inPlace v (wArg w.slot 0 + 64 * j.next) 64 →
    let h := chainVal (kvStart d) (s.memRead (kvIds d) 2048)
    let e := s.memRead (kvHashes d) 16
    (op = 0x01 → s.cleanAt v (kvIds d) 2048 → s.inPlace v (kvHashes d) 16 → kvHashes d ≠ 0 → kvIds d ≠ 0 →
      ∃ u : State, exec (.hash wid k) s = .next (u.kvWritten w j 0 0 1).served ∧ u.memRead (kvHashes d) 16 = h ∧ u.kv = s.kv
        ∧ ∀ a, a < kvHashes d ∨ kvHashes d + 16 ≤ a → u.memByte a = s.memByte a)
    ∧ (op = 0x02 → s.cleanAt v (kvIds d) 2048 → s.inPlace v (kvHandles d) 8 → kvHashes d = 0 → kvIds d ≠ 0 → kvHandles d ≠ 0 →
      (s.node w.part h = none →
        ∃ u : State, exec (.lookup wid k) s = .next (u.kvWritten w j 0 0 1).served ∧ u.kv = s.kv ∧ SameMemory s u)
      ∧ ∀ n, s.node w.part h = some n → n.refs < 0xFFFFFFFF →
          ∃ u : State, exec (.lookup wid k) s = .next (u.kvWritten w j 0 1 1).served
            ∧ u.memRead (kvHandles d) 8 = leBytes 8 n.handle
            ∧ u.node w.part h = some { n with last := s.aon, refs := if kvAcquire d then n.refs + 1 else n.refs })
    ∧ (op = 0x03 → s.cleanAt v (kvIds d) 2048 → s.cleanAt v (kvHandles d) 8 → kvHashes d = 0 → kvEvicts d = 0 → kvIds d ≠ 0 →
        kvHandles d ≠ 0 → kvRoot d = true → s.node w.part h = none → s.noRoom w.part (nodeDie h) = none → s.regsWf →
        ∃ (u : State) (n : Node), exec (.insert wid k) s = .next (u.kvWritten w j 0 0 1).served ∧ u.node w.part h = some n
          ∧ n.handle = leNat (s.memRead (kvHandles d) 8) ∧ n.root = true ∧ n.kids = 0 ∧ n.die = nodeDie h
          ∧ n.refs = (if kvAcquire d then 1 else 0) ∧ n.last = s.aon ∧ SameMemory s u)
    ∧ (op = 0x04 ∨ op = 0x05 → s.cleanAt v (kvHashes d) 16 → kvHashes d ≠ 0 →
      let c := if op = 0x04 then Instr.release wid k else Instr.remove wid k
      (s.node w.part e = none → ∃ u : State, exec c s = .next (u.kvWritten w j 4 0 0).served ∧ u.kv = s.kv)
      ∧ ∀ n, s.node w.part e = some n →
        (op = 0x04 → n.refs = 0 → ∃ u : State, exec c s = .next (u.kvWritten w j 5 0 0).served ∧ u.kv = s.kv)
        ∧ (op = 0x04 → n.refs ≠ 0 → ∃ u : State, exec c s = .next (u.kvWritten w j 0 0 1).served
            ∧ u.node w.part e = some { n with refs := n.refs - 1 })
        ∧ (op = 0x05 → n.refs ≠ 0 ∨ n.kids ≠ 0 → ∃ u : State, exec c s = .next (u.kvWritten w j 7 0 0).served ∧ u.kv = s.kv)
        ∧ (op = 0x05 → n.refs = 0 → n.kids = 0 → ∃ u : State, exec c s = .next (u.kvWritten w j 0 0 1).served
            ∧ u.node w.part e = none))

/-- Views and the node tables (R215, R220, R222, R229, R241). -/
def Obligations.ViewsAndTables : Prop :=
  (∀ (wid ns : Nat) (s : State) (w : Wb) (j : KvJob) (d : List Byte), s.kvAt wid 0x10 w j d → s.inPlace (s.accDie wid 2) (wArg w.slot 0 + 64 * j.next) 64 → s.cleanAt (s.accDie wid 2) (kvIds d) 128 →
    kvIds d ≠ 0 →
    let sp := s.memRead (kvIds d) 128
    let v : View := { base := kvHandles d, part := w.part, spec := sp, list := [], closing := none, holeSaid := false }
    vList sp = 0 → (∀ g ∈ s.place.pages, v.crosses g.addr 2097152 = false) →
      ∃ u : State, exec (.viewOpen wid ⟨ns, ⟨[], [], []⟩⟩) s = .next (u.kvWritten w j 0 0 1).served ∧ u.kv.views = [v] ∧ u.mem = s.mem)
  ∧ (∀ (wid ns : Nat) (s s1 : State) (w : Wb) (j : KvJob) (d : List Byte), s.kvAt wid 0x11 w j d →
    s.prepareFor wid 2 (s.kvTouches w.part d).1 ((s.kvTouches w.part d).2 ++ j.place w) = (true, s1) →
    let b := kvHandles d
    let here := ∃ v ∈ s.kv.views, v.base = b ∧ v.part = w.part ∧ v.closing = none
    (¬here → ∃ u : State, exec (.viewClose wid ⟨ns, ⟨[], [], []⟩⟩) s = .next (u.kvWritten w j 4 0 0).served ∧ u.kv.views = s.kv.views)
    ∧ (here → s.viewBusy b = false → ∃ u : State, exec (.viewClose wid ⟨ns, ⟨[], [], []⟩⟩) s = .next (u.kvWritten w j 0 0 1).served
        ∧ u.kv.views = s.kv.views.filter fun v => v.base ≠ b)
    ∧ (here → s.viewBusy b = true → ∃ t, exec (.viewClose wid ⟨ns, ⟨[], [], []⟩⟩) s = .next t
        ∧ (∀ v ∈ t.kv.views, v.base = b → v.closing = some wid) ∧ ∃ j', t.kvJob wid = some j' ∧ j'.closing = true))
  ∧ (∀ (wid : Nat) (s s1 : State) (w : Wb) (j : KvJob) (v : View), s.wb wid = some w → s.kvJob wid = some j → j.closing = true →
      s.kv.views.find? (fun v => decide (v.closing = some wid)) = some v →
      s.prepareFor wid 2 [] (j.place w) = (true, s1) →
      ∃ u t : State, u.kvWritten w j 0 0 1 = t
        ∧ exec (.viewCloseDone wid) s = .next { t with place := { t.place with serving := s.place.serving, via := s.place.via } } ∧ (∀ x ∈ u.kv.views, x.base ≠ v.base)
        ∧ ∀ l ∈ u.place.leases, l.view ≠ v.base)
  ∧ (∀ (wid a n : Nat) (s s1 : State) (w : Wb) (v : View), s.wb wid = some w → w.phase = .running → s.viewAt a = some v → 0 < n →
      a + n ≤ v.base + windowSize v.spec v.list → s.prepareFor wid 1000000 [(a, n)] [] = (true, s1) → s.run wid = none →
      ∃ t, exec (.viewRead wid a n ⟨[], [], []⟩) s = .next t ∧ t.kv.nodes = s.kv.nodes
        ∧ (∀ l ∈ s.place.leases, l ∈ t.place.leases)
        ∧ ∀ x ∈ s1.viewRows v a n, (s1.page (x.1 / 131072 / 16)).isSome = true →
            ∃ l ∈ t.place.leases, l.page = x.1 / 131072 / 16 ∧ l.frame = x.1 / 131072 ∧ l.view = v.base ∧ l.wid = wid ∧ l.before = false
              ∧ (l.copy = true ↔ ∃ m, s1.moveOf l.page = some m ∧ m.switched = false))
  ∧ ∀ (i : Nat) (w : Word) (s : State), i < 4 → s.barOpen (rGazCfg i) = true → s.regsWf →
      ∃ t, exec (.gazEnable i w) s = .next t ∧ bit 0 (t.reg (rGazCfg i)) = (bit 0 w && !s.failed .gaz i)
        ∧ (∀ off, off ≠ rGazCfg i → t.reg off = s.reg off)
        ∧ (bit 0 (s.reg (rGazCfg i)) = false → 16 ≤ bits 12 8 w → bits 12 8 w ≤ 22 → t.fld (rGazCfg i) 12 8 = bits 12 8 w)
        ∧ (bit 0 (s.reg (rGazCfg i)) = true → t.fld (rGazCfg i) 12 8 = s.fld (rGazCfg i) 12 8)
        ∧ t.kv.nodes = if bit 0 (s.reg (rGazCfg i)) = true ∧ bit 0 w = false then s.kv.nodes.filter fun n => n.die ≠ i else s.kv.nodes

/-- The CTR_CLR registers of the blocks. -/
def Obligations.CountersAreCleared : Prop :=
  ∀ s : State, s.regsWf →
    (∀ i, i < 16 → s.barOpen (rMxeCtrClr i) = true → ClearsCounters (.mxeCtrClr i) s (engineCounters .mxe i))
    ∧ (∀ i, i < 4 → s.barOpen (rMxeNfClr i) = true →
        ClearsCounters (.mxeNfClr i) s [rMxeNfSatLo i, rMxeNfSatHi i, rMxeNfOvfLo i, rMxeNfOvfHi i, rMxeNfLaneBad i])
    ∧ (∀ i, i < 8 → s.barOpen (rVxeCtrClr i) = true → ClearsCounters (.vxeCtrClr i) s (engineCounters .vxe i))
    ∧ (∀ i, i < 4 → s.barOpen (rGazCtrClr i) = true → ClearsCounters (.gazCtrClr i) s (engineCounters .gaz i))
    ∧ (∀ i, i < 4 → s.barOpen (rExpCtrClr i) = true → ClearsCounters (.expCtrClr i) s (expCounters i))
    ∧ (∀ i, i < 4 → s.barOpen (rSrvCtrClr i) = true → ClearsCounters (.srvCtrClr i) s (srvCounters i))
    ∧ (∀ i, i < 8 → s.barOpen (rXfeCtrClr i) = true → ClearsCounters (.xfeCtrClr i) s (engineCounters .xfe i))
    ∧ (∀ i, i < 4 → s.barOpen (rCveCtrClr i) = true → ClearsCounters (.cveCtrClr i) s (engineCounters .cve i))
    ∧ (∀ i, i < 4 → s.barOpen (rCdeCtrClr i) = true → ClearsCounters (.cdeCtrClr i) s (engineCounters .cde i))
    ∧ (∀ i, i < kindCount s.assy .cle → s.barOpen (rCleCtrClr i) = true → ClearsCounters (.cleCtrClr i) s (engineCounters .cle i))
    ∧ (∀ n, s.hasPort n = true → s.barOpen (rVrlPortClr n) = true → ClearsCounters (.vrlPortClr n) s (portCounters n))
    ∧ (s.barOpen rVrlCtrClr = true → ClearsCounters .vrlCtrClr s
        [rVrlResolvesLo, rVrlResolvesHi, rVrlTimeouts, rVrlPeerGone, rVrlLateRsp, rVrlMisroute, rVrlDenied, rVrlPeerFull])
    ∧ (s.barOpen rErrCtrClr = true → ClearsCounters .errCtrClr s ((List.range 14).map fun i => rErrCeHbmLo + 4 * i))
    ∧ (s.barOpen rBstCtrClr = true → ClearsCounters .bstCtrClr s [rBstSlicesLo, rBstSlicesHi, rBstCycles, rBstFails, rBstOverdue])

/-- Histogram entries and tables (R173, R175, R180, R193, R205). -/
def Obligations.TheodoliteAndTables : Prop :=
  (∀ (die : Nat) (s : State), s.barOpen (rMxeThdClr die) = true →
    exec (.thdClrEntry die) s = .next { s with eng := { s.eng with
      thd := s.eng.thd.filter fun x => !(decide (x.die = die ∧ x.slot = s.fld (rMxeThdSel die) 6 0)) } }
    ∧ exec (.thdClrAll die) s = .next { s with eng := { s.eng with thd := s.eng.thd.filter fun x => x.die ≠ die } })
  ∧ (∀ (die : Nat) (w : Word) (s : State), die < 4 → s.barOpen (rVxeTblCmd die) = true → bits 9 8 w = 1 →
    bit 0 (s.reg (rVxeTblStatus die)) = false → s.regsWf → s.kv.views = [] →
    let a := s.reg64 (rVxeTblAddrLo die)
    let r := s.tableResult die (bits 5 0 w) (bits 20 16 w) a (s.memRead a 7533) (s.poisonedIn a 7533)
    rangeInPart (bits 20 16 w) a 7533 = true → s.inPlace (some (1, die)) a 7533 →
    ∃ u : State, exec (.tableLoad die ⟨some w, ⟨[], [], []⟩⟩) s = .next u.settle.served
      ∧ bit 0 (u.reg (rVxeTblStatus die)) = false ∧ u.fld (rVxeTblStatus die) 7 4 = r
      ∧ (r ≠ 0 → u.eng.tables = s.eng.tables)
      ∧ (r = 0 → u.tableAt die (bits 20 16 w) (bits 5 0 w) = some ((s.memRead a 7533).take 0x1080)))
  ∧ (∀ (die : Nat) (w : Word) (s : State), die < 4 → s.barOpen (rVxeTblCmd die) = true → bits 9 8 w = 2 →
    bit 0 (s.reg (rVxeTblStatus die)) = false →
    exec (.tableClear die w) s = .next (if s.slotOwner die (bits 5 0 w) = some (bits 20 16 w) then
        State.setFld { s with eng := { s.eng with
          tables := s.eng.tables.filter fun x => !(decide (x.die = die ∧ x.slot = bits 5 0 w)) } } (rVxeTblStatus die) 7 4 0
      else s.setFld (rVxeTblStatus die) 7 4 7))
  ∧ ∀ (die : Nat) (m : Marks) (s : State) (q : ThdCheck) (x : ThdEntry), Marks.sramUe m = false → s.eng.checks.find? (fun x => decide (x.die = die)) = some q →
      (s.eng.thd.filter fun x => decide (x.die = die)).find? (fun x => decide (x.part = q.part ∧ x.dig = q.dig)) = some x →
      (∀ y ∈ s.eng.thd, y.die = die → y.slot = x.slot → y = x) →
      ∃ t, exec (.theodoliteCheckDone ⟨die, m⟩) s = .next t ∧ (∀ c ∈ t.eng.checks, c.die ≠ die)
        ∧ ∃ y, t.eng.thd.find? (fun y => decide (y.die = die ∧ y.slot = x.slot)) = some y
          ∧ y.part = x.part ∧ y.dig = x.dig
          ∧ (thdBin q.pairs = none → y.skipNf = satAdd 32 x.skipNf 1 ∧ y.bins = x.bins ∧ y.samples = x.samples)
          ∧ ∀ b e, thdBin q.pairs = some (b, e) → y.samples = satAdd 32 x.samples 1 ∧ y.last = s.aon
              ∧ (∀ i n, x.bins[i]? = some n → y.bins[i]? = some (if i = b then satAdd 32 n 1 else n))
              ∧ y.drifting = if b ≤ bits 9 5 q.drift then satAdd 32 x.drifting 1 else x.drifting

/-- MXE (R98, R105, R113, R120) and its epilogue and notices (R134, R135, R348). -/
def Obligations.MxeStepsAndDrains : Prop :=
  (∀ (inst cycles ns : Nat) (s : State) (r : Run) (x : RunInst) (w : Wb), s.atStep .mxe inst r x w →
    let c := ctxOf r
    let ds := digs c x.pos
    let row (j i : Nat) := s.mxeRow c ds (dieOf .mxe inst).2 j i
    (c.h.lap ≠ 0 ∨ ∀ t ∈ x.tiles, t.draining = false) → skips c ds = false → s.cleanAll (some (dieOf .mxe inst)) (natRanges (stepRanges c ds)) →
    ∀ t, tileFor c x ds = some t →
    ∃ (v : State) (x' : RunInst), exec (.mxeStep inst cycles ns ⟨[], [], []⟩) s = .next v ∧ EngineOnly s v
      ∧ v.instOf r.wid inst = some x' ∧ x'.pos = x.pos + 1
      ∧ (∃ t' ∈ x'.tiles, t'.key = t.key ∧ t'.draining = finishesTile c.h c.ls c.counts ds ∧ t'.poison = t.poison
          ∧ t'.vals = accumulate c t.vals ((rowsOf c ds 1).map (row 0)) ((rowsOf c ds 2).map (row 1)))
      ∧ ∀ y ∈ x.tiles, y.draining = true ∨ y.key ≠ t.key → y ∈ x'.tiles)
  ∧ (∀ (inst cycles ns : Nat) (s : State) (r : Run) (x : RunInst) (w : Wb) (t : AccTile),
    s.runOn .mxe inst = some (r, x) → s.wb r.wid = some w → x.tiles.find? (fun t => t.draining) = some t →
    let c := ctxOf r
    let ds := t.digits
    c.h.engine = 1 → usesD c = false → s.cleanAll (some (dieOf .mxe inst)) (natRanges (tileC c ds ++ tileStats c ds)) → Memory.wf s.mem = true →
    ∃ u : State, exec (.epilogueDrainDone inst cycles ns ⟨[], [], []⟩) s = .next (u.mxeEnd r.wid inst).served
      ∧ u.instOf r.wid inst = some { x with tiles := x.tiles.filter fun y => !(y.draining && decide (y.key = t.key)) }
      ∧ EngineOnly { s with mem := u.mem, marks := u.marks } u
      ∧ (∀ a, outside (natRanges (tileC c ds ++ tileStats c ds)) a → u.memByte a = s.memByte a)
      ∧ ∀ k a n, rowsOf c ds 1 = [k] → statSlots c = [] → r.dirty = [] → foreign c r.addr ds = [] → t.poison = false →
          atRow c ds 2 k (liveOf c ds 2) = [(a, n)] →
          let acc := (chunksOf c.h.tn c.h.tm t.vals).getD k []
          let xs := (acc.take (liveOf c ds 2)).map some ++ List.replicate (c.h.tn - liveOf c ds 2) none
          let o := rowRun { tables := r.tables, d0 := [], d1 := [], b := [], eps := 0, chans := 0 } (progOf c) xs
          let bs := (convertRow c ds (c.shift (dieOf .mxe inst).2) k (liveOf c ds 2) o).c
          bs.length = n → u.memRead a n = bs)
  ∧ ∀ (inst : Nat) (s : State) (n : TileNotice), s.nextNotice inst = some n →
      let rest := s.eng.notices.filter fun y => y ≠ n
      (s.openColl n.part n.coll = none → exec (.tileNotice inst) s = .next { s with eng := { s.eng with notices := rest } })
      ∧ ∀ c, s.openColl n.part n.coll = some c →
          (s.routeOut (dieOf .mxe inst) (3, c.cle) = true →
            exec (.tileNotice inst) s = .next { s with eng := { s.eng with notices := rest } })
          ∧ (s.routeOut (dieOf .mxe inst) (3, c.cle) = false →
            ∃ u : State, exec (.tileNotice inst) s = .next u.pumpColls
              ∧ u = { s with eng := { s.eng with notices := rest }, colls := u.colls }
              ∧ u.colls.list = s.colls.list.map fun d => if d.wid = c.wid then { d with ready := d.ready ++ n.ranges } else d)

/-- Steps of the engines whose tiles finish within a step (R105, R187, R202, R203, R374 to R377). -/
def Obligations.VectorAndConvolutionSteps : Prop :=
  (∀ (k : EngKind) (inst cycles ns : Nat) (s : State) (r : Run) (x : RunInst) (w : Wb), k = .vxe ∨ k = .cve → s.atStep k inst r x w →
    let c := ctxOf r
    let ds := digs c x.pos
    let cmd := if k = .vxe then Instr.vxeStep inst cycles ns ⟨[], [], []⟩ else Instr.cveStep inst cycles ns ⟨[], [], []⟩
    let fresh := if k = .vxe then vxeTile c ds else newTile c ds
    let t0 : AccTile := { (x.tiles.find? fun t => t.key = tileKey c.h c.ls ds).getD fresh with pos := x.pos, digits := ds }
    let enter : AccTile := if k = .vxe then
        (rowsOf c ds 1).foldl (fun t j => s.vxeEnter r c ds t j (s.vxeRow c ds 0 j).1) t0
      else s.cveEnter c ds t0
    let fin := finishesTile c.h c.ls c.counts ds && !dead c ds
    skips c ds = false → s.cleanAll (some (dieOf k inst)) (natRanges (stepRanges c ds)) →
    (fin = false → (∀ t ∈ x.tiles, t.draining = false) →
      ∃ (u : State) (x' : RunInst), exec cmd s = .next (u.vecEnd r.wid k inst).served ∧ EngineOnly s u
        ∧ u.instOf r.wid inst = some x' ∧ x'.pos = x.pos + 1 ∧ enter ∈ x'.tiles ∧ ∀ y ∈ x.tiles, y.key ≠ enter.key → y ∈ x'.tiles)
    ∧ (fin = true → c.h.engine = (if k = .vxe then 2 else 3) → (k = .cve → (oper c 2).fmt ∈ [1, 2, 3, 9]) →
        s.cleanAll (some (dieOf k inst)) (natRanges (tileReads c ds)) → s.cleanAll (some (dieOf k inst)) (natRanges (tileC c ds ++ tileStats c ds)) →
        Memory.wf s.mem = true →
        ∃ (u : State) (x' : RunInst), exec cmd s = .next (u.vecEnd r.wid k inst).served
          ∧ EngineOnly { s with mem := u.mem, marks := u.marks } u
          ∧ u.instOf r.wid inst = some x' ∧ x'.pos = x.pos + 1 ∧ x'.tiles = x.tiles.filter (fun y => decide (y.key ≠ enter.key))
          ∧ (∀ a, outside (natRanges (tileC c ds ++ tileStats c ds)) a → u.memByte a = s.memByte a)
          ∧ ∀ j a n, k = .vxe → x.tiles = [] → rowsOf c ds 1 = [j] → merges c = false → usesB c = false → usesD c = false →
              statSlots c = [] → r.dirty = [] → foreign c r.addr ds = [] → atRow c ds 2 j c.h.tn = [(a, n)] →
              (s.vxeRow c ds 0 j).1.length = c.h.tn →
              let eps := BitVec.ofNat 32 (rdN c.t (c.h.epiOff + 12) 4)
              let o := rowRun { tables := r.tables, d0 := [], d1 := [], b := [], eps := eps, chans := 0 } (progOf c)
                ((s.vxeRow c ds 0 j).1.map some)
              let bs := (convertRow c ds (c.shift (dieOf .vxe inst).2) j c.h.tn o).c
              bs.length = n → u.memRead a n = bs))
  ∧ ∀ (k : EngKind) (inst cycles ns : Nat) (s : State) (r : Run) (x : RunInst) (w : Wb), k = .mxe ∨ k = .vxe ∨ k = .cve →
      s.atStep k inst r x w → x.pos + 1 < x.hi → skips (ctxOf r) (digs (ctxOf r) x.pos) = true →
      finishesTile (ctxOf r).h (ctxOf r).ls (ctxOf r).counts (digs (ctxOf r) x.pos) = false →
      (∀ t ∈ x.tiles, t.draining = false) → (∀ y ∈ s.place.intents, y.wid ≠ r.wid) → s.regsWf →
      let cmd := if k = .mxe then Instr.mxeStep inst cycles ns ⟨[], [], []⟩
        else if k = .vxe then Instr.vxeStep inst cycles ns ⟨[], [], []⟩ else Instr.cveStep inst cycles ns ⟨[], [], []⟩
      ∃ t, exec cmd s = .next t ∧ t = { s.served with regs := t.regs, eng := t.eng }
        ∧ t.instOf r.wid inst = some { x with pos := x.pos + 1 }
        ∧ t.reg64 (skipsReg k inst) = (s.reg64 (skipsReg k inst) + 1) % 2 ^ 64
        ∧ ∀ off, off ≠ skipsReg k inst → off ≠ skipsReg k inst + 4 → t.reg off = s.reg off

/-- OPEN, CLOSE and RELEASE (R387, R391, R397 to R399). -/
def Obligations.CodecContexts : Prop :=
  (∀ (wid : Nat) (m : Marks) (s0 s : State) (w : Wb), s0.meetsErr wid m = s → s.codecAt wid 1 w →
    let b := s.memRead (wArg w.slot 0) 64
    let (pa, ta, sa, sn) := (rdN b 8 8, rdN b 0x10 8, rdN b 0x18 8, rdN b 0x20 8)
    let p := s.memRead pa 64
    let tb := bufTable (s.memRead ta 1024)
    let ex := (tb.filter fun e => e.1 ≠ 0).map (bufExtent p)
    rangeInPart w.part pa 64 = true → rangeInPart w.part ta 1024 = true → s.cleanAt (s.accDie wid 0) pa 64 →
    s.cleanAt (s.accDie wid 0) ta 1024 →
    paramsBad p = false → (∀ i, i < 64 → s.memByte (ta + 16 * i + 11) = 0) → s.ctx (wArg w.slot 1) = none →
    s.openCdes w.part (cpSel p) ≠ [] → tableBufBad p tb (sa, sn) = false → saveNeed p ≤ sn →
    pa % 64 = 0 → ta % 64 = 0 → sa % 4096 = 0 → (∀ r ∈ ex, r.1 % 256 = 0 ∧ rangeInPart w.part r.1 r.2 = true) →
    rangeInPart w.part sa sn = true →
    ∃ (t : State) (c : Ctx), exec (.codecOpen ⟨wid, m⟩) s0 = .next t ∧ s.codecDone t wid w c.cde 0
      ∧ t.ctx (wArg w.slot 1) = some c ∧ c.cde ∈ s.openCdes w.part (cpSel p) ∧ c = newCtx (wArg w.slot 1) w.part c.cde p tb sa sn
      ∧ ∀ n, n ≠ wArg w.slot 1 → t.ctx n = s.ctx n)
  ∧ (∀ (wid : Nat) (s : State) (w : Wb), s.codecAt wid 2 w →
    (s.ctxFor w = none → ∃ t, exec (.codecClose wid) s = .next t ∧ t.codec = s.codec ∧ t.endedWith wid 0x10 2 0)
    ∧ ∀ c, s.ctxFor w = some c → c.marks.length = 64 → ∃ t, exec (.codecClose wid) s = .next t ∧ s.codecDone t wid w c.cde c.picNum
        ∧ t.ctx c.id = none ∧ ∀ n, n ≠ c.id → t.ctx n = s.ctx n)
  ∧ ∀ (wid : Nat) (s : State) (w : Wb), s.codecAt wid 5 w →
    (s.ctxFor w = none → ∃ t, exec (.codecRelease wid) s = .next t ∧ t.codec = s.codec ∧ t.endedWith wid 0x10 2 0)
    ∧ ∀ c, s.ctxFor w = some c → c.marks.length = 64 → cmdCtxBad (s.memRead (wArg w.slot 0) 64) c = false →
        let b := s.memRead (wArg w.slot 0) 64
        ∃ (t : State) (c' : Ctx), exec (.codecRelease wid) s = .next t ∧ s.codecDone t wid w c.cde c.picNum
          ∧ t.ctx c.id = some c' ∧ c' = { c with marks := c'.marks } ∧ (∀ n, n ≠ c.id → t.ctx n = s.ctx n)
          ∧ ∀ i m, c.marks[i]? = some m → m < 65536 → ∃ m', c'.marks[i]? = some m' ∧ m' / 16 = m / 16 ∧ markConc m' = markConc m
              ∧ markOut m' = (markOut m && !(rdN b 8 8).testBit i)
              ∧ markRef m' = if (rdN b 0x10 8).testBit i then 0 else markRef m

/-- Pictures (R396, R397, R399, R402, R407 to R409). -/
def Obligations.CodecPictures : Prop :=
  (∀ (wid : Nat) (enc : Bool) (s : State) (w : Wb), s.codecAt wid (if enc then 4 else 3) w →
    let cmd := if enc then Instr.encode wid else Instr.decode wid
    let b := s.memRead (wArg w.slot 0) 64
    (s.ctxFor w = none → ∃ t, exec cmd s = .next t ∧ t.codec = s.codec ∧ t.endedWith wid 0x10 2 0)
    ∧ ∀ c, s.ctxFor w = some c → cpEncode c.params = enc → s.inMask w.part .cde c.cde = true → s.failed .cde c.cde = false →
      (enc = false → c.has (rdN b 0x18 1) = true ∧ c.isFree (rdN b 0x18 1) = true
        ∧ rangeInPart w.part (rdN b 8 8) (rdN b 0x10 4) = true ∧ (rdN b 0x10 4 ≠ 0 ∨ rdBits b 0x18 8 8 ≠ 0)) →
      (enc = true → cmdCtxBad b c = false ∧ c.has (rdN b 0x28 1) = true ∧ c.isFree (rdN b 0x28 1) = true
        ∧ (∀ k, k < 7 → rdN b (0x30 + k) 1 ≠ 255 →
            c.has (rdN b (0x30 + k) 1) = true ∧ markRef (c.marks.getD (rdN b (0x30 + k) 1) 0) ≠ 0)
        ∧ (cpCodec c.params = 1 → ((encodeMarks b c).marks.filter fun m => markRef m ≠ 0).length ≤ 8)
        ∧ encodeCap c.params ≤ rdN b 0x20 4 ∧ (srcExtent b c).1 % 256 = 0
        ∧ rangeInPart w.part (srcExtent b c).1 (srcExtent b c).2 = true
        ∧ rangeInPart w.part (rdN b 0x18 8) (rdN b 0x20 4) = true) →
      let q := s.cde c.cde
      (q.queue = [] → q.run = none → q.asides = [] → s.fenced 2 c.cde = false → s.useOf .cde c.cde = none → s.sched.susps = [] →
        ∃ (t : State) (r : CdRun), exec cmd s = .next t ∧ (t.cde c.cde).run = some r ∧ r.wid = wid ∧ r.ctx = c.id ∧ r.rows = 0
          ∧ (t.cde c.cde).queue = [] ∧ t.useOf .cde c.cde = some (.running wid) ∧ t.mem = s.mem ∧ t.codec.ctxs = s.codec.ctxs)
      ∧ (q.run.isSome = true → ∃ (u : State) (w' : Wb) (x : CdCmd), exec cmd s = .next (u.preemptFor w' .cde).served
          ∧ u.wb wid = some w' ∧ w'.phase = .ready ∧ (u.cde c.cde).queue = q.queue ++ [x] ∧ x.wid = wid ∧ x.ctx = c.id
          ∧ x.cls = cpClass c.params ∧ x.aged = false ∧ x.checked = true ∧ (u.cde c.cde).run = q.run ∧ u.mem = s.mem))
  ∧ (∀ (n : Nat) (p : Picture) (s : State) (r : CdRun) (w : Wb) (c : Ctx), n < 4 →
    (s.cde n).run = some r → s.wb r.wid = some w → s.ctx r.ctx = some c → cpEncode c.params = false → w.lost = none →
    accStatus w 0 = 0 → Memory.wf s.mem = true → s.regsWf → c.marks.length = 64 →
    let a := wArg w.slot 0
    let b := s.memRead a 64
    let t := rdN b 0x18 1
    let e := bufExtent c.params (c.bufs.getD t (0, 0, 0))
    let via := s.accDie r.wid 2
    let v : State := { s with place := { s.place with via := via } }
    let x := v.decodeEnd c b p.decoded
    s.cleanAt via a 256 → s.cleanAt via (rdN b 8 8) (rdN b 0x10 4) → s.inPlace via e.1 e.2 → s.inPlace via c.save c.saveSize →
    (∀ y ∈ v.pictureReads c b p.decoded, s.cleanAt via y.1 y.2) →
    ∃ (u : State) (c' : Ctx), exec (.pictureDone n p ⟨[], [], []⟩) s = .next (((u.codecTurn c.id).serveCde n).settleTakings).served
      ∧ (x.result = 0 ∨ x.result = 4 → u.endedWith r.wid 0x00 0 (engSrc .cde n))
      ∧ (1 ≤ x.result ∧ x.result ≤ 3 →
          u.endedWith r.wid stOkConcealed (if x.result = 3 then 0xFFFFFFFF else x.units) (engSrc .cde n))
      ∧ (u.cde n).run = none ∧ u.useOf .cde n = none
      ∧ (∀ y, outside [(a + 0x40, 192), e, (c.save, c.saveSize)] y → u.memByte y = s.memByte y)
      ∧ u.ctx c.id = some c' ∧ c' = x.after ∧ (∀ m, m ≠ c.id → u.ctx m = s.ctx m)
      ∧ u.reg64 (rCdeDecSamplesLo n) = (s.reg64 (rCdeDecSamplesLo n) + x.count) % 2 ^ 64
      ∧ (rdN b 0x10 4 = 0 → x.result = 4)
      ∧ (x.result ≤ 2 → c'.picNum = c.picNum + 1 ∧ c'.seqBad = false ∧ x.count = x.head.size.1 * x.head.size.2
          ∧ c'.recent = (t, x.head.size.1, x.head.size.2) :: c.recent.filter (fun y => y.1 ≠ t))
      ∧ (x.result ≤ 1 → cpCodec c.params = 1 →
          ∀ i m, c'.marks[i]? = some m → markRef m = if c'.slots.contains i then 1 else 0)
      ∧ (x.result = 3 → c'.marks = c.marks ∧ c'.seqBad = true)
      ∧ (2 < x.result → c'.picNum = c.picNum ∧ c'.recent = c.recent ∧ x.count = 0)
      ∧ (x.result ≠ 3 → rdBits b 0x18 8 8 = 1 → c'.due = []))
  ∧ (∀ (n row : Nat) (s : State) (r : CdRun), (s.cde n).run = some r →
    (row ≤ r.rows ∨ s.tileRows r ≤ row → exec (.tileRowBoundary n row) s = .next s)
    ∧ (r.rows < row → row < s.tileRows r →
      let q := s.cde n
      let live := q.queue.any fun x => x.checked && decide (x.cls = 0) && s.cdeMay x.wid n
      (s.cdeMay r.wid n = true → r.cls = 0 ∨ live = false →
        exec (.tileRowBoundary n row) s = .next (s.setCde { q with run := some { r with rows := row } }))
      ∧ (s.cdeMay r.wid n = false → ∃ u : State, exec (.tileRowBoundary n row) s = .next (u.serveCde n).settleTakings
          ∧ (u.cde n).run = none ∧ u.useOf .cde n = none
          ∧ (u.cde n).asides = q.asides ++ [{ r with rows := row, saves := r.saves + 1, parked := true }]
          ∧ ((∀ c, s.ctx r.ctx = some c → s.inPlace s.place.via c.save c.saveSize) → u.regs = s.regs))
      ∧ (s.cdeMay r.wid n = true → r.cls ≠ 0 → live = true → (∀ x ∈ q.asides, x.parked = true) → s.regsWf →
          ∃ u : State, exec (.tileRowBoundary n row) s = .next (u.serveCde n)
            ∧ (u.cde n).run = none ∧ u.useOf .cde n = none
            ∧ (u.cde n).asides = q.asides ++ [{ r with rows := row, saves := r.saves + 1, parked := false }]
            ∧ (u.reg (rCdeDisplaced n)).toNat = satAdd 32 (s.reg (rCdeDisplaced n)).toNat 1
            ∧ ((∀ c, s.ctx r.ctx = some c → s.inPlace s.place.via c.save c.saveSize) →
                ∀ off, off ≠ rCdeDisplaced n → u.reg off = s.reg off))))
  ∧ ∀ (wid : Nat) (s : State),
    let old (q : CdCmd) : Prop := 2 ≤ q.cls ∧ s.fld (rCdeCfg (((s.ctx q.ctx).map (·.cde)).getD 0)) 31 16 ≠ 0
    ((∀ x ∈ s.codec.cdes, ∀ q ∈ x.queue, q.wid = wid → old q) →
      exec (.classAge wid) s = .next { s with codec := { s.codec with cdes := s.codec.cdes.map fun x =>
        { x with queue := x.queue.map fun q => if q.wid = wid then { q with aged := true } else q } } })
    ∧ ((∀ x ∈ s.codec.cdes, ∀ q ∈ x.queue, q.wid = wid → ¬old q) → exec (.classAge wid) s = .next s)

/-- The life of a collective (R334 to R336, R345, R346, R351, R354). -/
def Obligations.CollectivesBeginAndEnd : Prop :=
  (∀ (wid ns op : Nat) (m : Marks) (s0 s : State) (w : Wb), s0.meetsErr wid m = s → 1 ≤ op → op ≤ 4 →
    s.begin? wid opColl = some w → s.r53 w.part w.slot = none → s.secCheck w.part = none → w.lost = none → accStatus w 0 = 0 →
    s.regsWf → s.coll wid = none →
    let a := wArg w.slot 0
    let d := s.memRead a 128
    let n := cdMembers d
    let t := tableOf n (s.memRead (cdTable d) (4 * n))
    let me := t.findIdx (fun x => x.1 = s.vrl.ep)
    let cmd := if op = 1 then Instr.allReduce wid ⟨ns, m⟩ else if op = 2 then Instr.reduceScatter wid ⟨ns, m⟩
      else if op = 3 then Instr.allGather wid ⟨ns, m⟩ else Instr.allToAllV wid ⟨ns, m⟩
    s.cleanAll (s.accDie wid 0) [(a, 128), (cdTable d, 4 * n)] → bitsN 3 0 (s.memByte a).toNat = op → cdBad s.assy d = false →
    rangeInPart w.part (cdTable d) (4 * n) = true → tableBad t = false → s.vrl.ep ≠ 0 →
    (t.filter fun x => x.1 = s.vrl.ep).length = 1 → stagingOf d t ≤ 67108864 → cdMisaligned d = false →
    rdBits d 0x50 15 0 < s.fld (rPrtSemCount w.part) 16 0 → rdBits d 0x50 47 32 < s.fld (rPrtSemCount w.part) 16 0 →
    rdBits d 0x50 63 48 < s.fld (rPrtSemCount w.part) 16 0 →
    (∀ x ∈ t, x.1 = s.vrl.ep ∨ (bits 15 0 (s.reg (rVrlPartFab w.part)) ≤ x.1 ∧ x.1 ≤ bits 31 16 (s.reg (rVrlPartFab w.part)))) →
    (∀ c : Coll, c.desc = d → c.table = t → c.me = me → ∀ b ∈ c.buffers.1 ++ c.buffers.2, b.2 = 0 ∨ rangeInPart w.part b.1 b.2 = true) →
    s.cleFor w.part d ≠ [] →
    ∃ (u : State) (w' : Wb) (c : Coll), exec cmd s0 = .next (u.preemptFor w' .cle).served ∧ c.ns = ns
      ∧ u.coll wid = some c ∧ c.desc = d ∧ c.table = t ∧ c.me = me ∧ c.part = w.part ∧ c.opened = false ∧ c.joins = [] ∧ c.rx = []
      ∧ c.finals = [] ∧ c.poisoned = none ∧ c.cle ∈ s.cleFor w.part d ∧ u.wb wid = some w' ∧ w'.phase = .ready
      ∧ (∀ m, m ≠ wid → u.coll m = s.coll m) ∧ u.mem = s.mem)
  ∧ (∀ (wid : Nat) (m : Marks) (s0 s : State) (c : Coll) (w : Wb), s0.meetsErr wid m = s → s.coll wid = some c → s.wb wid = some w →
    c.opened = false → s.cleNext c.cle = some wid → s.cleRoom c c.cle = true → s.useOf .cle c.cle = none →
    bit (21 + c.cle) (s.reg rClkRun) = true →
    (cdStream c.desc = true → ∀ x ∈ s.colls.list, x.opened = true → x.part = c.part → cdStream x.desc = true → cdId x.desc ≠ cdId c.desc) →
    swf semReset s.sems = true →
    ∃ (u : State) (c' : Coll) (w' : Wb), exec (.collOpen ⟨wid, m⟩) s0 = .next ((u.pumpColl wid).examine).seen ∧ u.coll wid = some c'
      ∧ c' = { c with opened := true, openSaid := c'.openSaid } ∧ u.wb wid = some w' ∧ w'.phase = .running
      ∧ (∀ m, m ≠ wid → u.coll m = s.coll m) ∧ u.mem = s.mem
      ∧ ∀ i k, cdSem c.desc 16 0 = some i → s.semIndex c.part i = some k → u.sem k = s.sem k + 1 ∧ c'.openSaid = true)
  ∧ (∀ (wid : Nat) (s : State) (c : Coll), s.coll wid = some c → c.opened = true →
    let missing := c.others.filter fun i => (c.rcount i).isNone && c.said.contains i
    (c.parked = true → exec (.joinResend wid) s = .next s)
    ∧ (c.parked = false → missing = [] → exec (.joinResend wid) s = .next (s.pumpColl wid))
    ∧ ∀ j, c.parked = false → missing = [j] → exec (.joinResend wid) s = .next ((s.sendJoin c j).pumpColl wid))
  ∧ (∀ (wid i ph : Nat) (s : State) (c : Coll) (w : Wb), s.coll wid = some c → s.wb wid = some w → w.lost = none →
    Memory.wf s.mem = true → c.poisoned = none → s.awaits c i = some ph →
    ∃ u : State, exec (.collStepTimeout wid i) s = .next u.examine ∧ u.coll wid = none
      ∧ (∀ x, outside c.undelivered x → u.memByte x = s.memByte x)
      ∧ u.endedWith wid stCollStall (i % 65536 + 65536 + ph % 256 * 2 ^ 24) (engSrc .cle c.cle))
  ∧ ∀ (wid : Nat) (s : State) (c : Coll) (w : Wb) (p : Nat × Nat × Nat), s.coll wid = some c → s.wb wid = some w → w.lost = none →
      c.poisoned = some p → s.regsWf → Memory.wf s.mem = true →
      (c.parked = true → exec (.collPoisonTimeout wid) s = .next s)
      ∧ (c.parked = false → ∃ t, exec (.collPoisonTimeout wid) s = .next t ∧ t.coll wid = none
        ∧ (∀ x, outside c.undelivered x → t.memByte x = s.memByte x)
        ∧ t.endedWith wid stCollPoison (poisonDetail p) (engSrc .cle c.cle) ∧ (∀ m, m ≠ wid → t.coll m = s.coll m)
        ∧ (t.reg (rClePoisons c.cle)).toNat = satAdd 32 (s.reg (rClePoisons c.cle)).toNat 1
        ∧ ((∀ r ∈ c.undelivered, s.inPlace s.place.via r.1 r.2) → ∀ off, off ≠ rClePoisons c.cle →
            t.reg off = (s.endLeases fun l => decide (l.wid = wid)).reg off))

/-- Collective messages (R343, R345 to R347, R349, R351, R354). -/
def Obligations.CollectiveMessages : Prop :=
  ∀ (port : Option Nat) (b : Marks) (s : State),
    (∀ (c : Coll) (i : Nat) (m : Msg) (s1 : State), s.collMsg port (fun k => k ≤ 1 || 7 < k) c i m s1 →
      ∃ u : State, exec (.join ⟨port, b⟩) s = .next ((u.pumpColl c.wid).examine).seen
        ∧ ((c.rcount i).isSome = true → u = s1.meetsErr c.wid b)
        ∧ (c.rcount i = none → m.mdata / 2 ^ 32 = c.shape.toNat → CollOnly c.wid (s1.meetsErr c.wid b) u
            ∧ u.coll c.wid = some { c with joins := c.joins ++ [(i, m.off / 2 ^ 16)]
                                           grants := c.grants ++ [(i, if c.a2a then 0 else cdGrants c.desc)] })
        ∧ (c.rcount i = none → m.mdata / 2 ^ 32 ≠ c.shape.toNat → c.poisoned = none →
            ∀ c', u.coll c.wid = some c' → c'.poisoned = some (c.me, 3, 0)))
    ∧ (∀ (c : Coll) (i : Nat) (m : Msg) (s1 : State), s.collMsg port (· = 2) c i m s1 →
      ∃ (u : State) (c' : Coll), exec (.grant ⟨port, b⟩) s = .next ((u.pumpColl c.wid).examine).seen
        ∧ CollOnly c.wid (s1.meetsErr c.wid b) u
        ∧ u.coll c.wid = some c' ∧ c' = { c with grants := c'.grants } ∧ c'.granted i = c.granted i + m.mdata / 2 ^ 32
        ∧ ∀ j, j ≠ i → c'.granted j = c.granted j)
    ∧ (∀ (c : Coll) (i ns : Nat) (m : Msg) (s1 : State), s.collMsg port (· = 3) c i m s1 → s.regsWf →
      let (ph, _, k) := chunkKey m
      let off := m.mdata / 2 ^ 32
      ∀ t, let same (x : RxChunk) : Prop := x.phase = ph ∧ x.t = t ∧ x.chunk = k ∧ x.src = i
      c.stepFor i m = some t → (∀ x ∈ c.rx, same x → ∀ g ∈ x.got, g.1 ≠ off) →
      ∃ (u : State) (c' : Coll), exec (.data port ⟨ns, b⟩) s = .next ((u.pumpColl c.wid).examine).seen ∧ u.coll c.wid = some c'
        ∧ c' = { c with rx := c'.rx } ∧ (∃ x ∈ c'.rx, same x ∧ (off, m.body.take m.len, if Marks.sramUe b then 15 else m.poison) ∈ x.got)
        ∧ (∀ x ∈ c.rx, ¬same x → x ∈ c'.rx) ∧ (∀ n, n ≠ c.wid → u.coll n = s.coll n) ∧ u.mem = s.mem
        ∧ (c.cle < 4 → u.reg64 (rCleRxLo c.cle) = (s.reg64 (rCleRxLo c.cle) + m.len) % 2 ^ 64))
    ∧ (∀ (c : Coll) (i : Nat) (m : Msg) (s1 : State), s.collMsg port (· = 4) c i m s1 →
      let (ph, _, k) := chunkKey m
      ∀ t, let same (x : RxChunk) : Prop := x.phase = ph ∧ x.t = t ∧ x.chunk = k ∧ x.src = i
      c.stepFor i m = some t →
      ∃ (u : State) (c' : Coll), exec (.check port) s = .next ((u.pumpColl c.wid).examine) ∧ CollOnly c.wid s1 u
        ∧ u.coll c.wid = some c' ∧ c' = { c with rx := c'.rx }
        ∧ (∃ x ∈ c'.rx, same x) ∧ (∀ x ∈ c'.rx, same x → x.check = some (BitVec.ofNat 32 (m.mdata / 2 ^ 32)))
        ∧ ∀ x ∈ c.rx, ¬same x → x ∈ c'.rx)
    ∧ (∀ (c : Coll) (i : Nat) (m : Msg) (s1 : State), s.collMsg port (· = 5) c i m s1 → c.poisoned = none →
      ∃ u : State, exec (.verdict port) s = .next ((u.pumpColl c.wid).examine) ∧ CollOnly c.wid s1 u
        ∧ u.coll c.wid = some { c with verdicts := addOnce i c.verdicts })
    ∧ (∀ (c : Coll) (i : Nat) (m : Msg) (s1 : State), s.collMsg port (· = 6) c i m s1 → c.poisoned = none →
      Memory.wf s.mem = true → ∃ u : State, exec (.poison port) s = .next ((u.pumpColl c.wid).examine)
        ∧ (∀ x, outside c.undelivered x → u.memByte x = s.memByte x)
        ∧ ∀ c', u.coll c.wid = some c' → c'.poisoned =
            some (bitsN 15 0 (m.mdata / 2 ^ 32), bitsN 23 16 (m.mdata / 2 ^ 32), bitsN 7 4 m.off) ∧ i ∈ c'.poisons)
    ∧ (∀ (c : Coll) (i : Nat) (m : Msg) (s1 : State) (w : Wb), s.collMsg port (· = 7) c i m s1 → s.wb c.wid = some w → w.lost = none →
      Memory.wf s.mem = true → ∃ u : State, exec (.abort port) s = .next ((u.pumpColl c.wid).examine) ∧ u.coll c.wid = none
        ∧ (∀ x, outside c.undelivered x → u.memByte x = s.memByte x)
        ∧ u.endedWith c.wid stCollStall (bitsN 47 32 m.mdata % 65536 + 3 * 65536 + bitsN 7 4 m.off % 256 * 2 ^ 24) (engSrc .cle c.cle))
    ∧ ∀ ns, ∀ x ∈ ([(.join ⟨port, b⟩, fun k => k ≤ 1 || 7 < k, State.seen), (.grant ⟨port, b⟩, (· = 2), State.seen),
          (.data port ⟨ns, b⟩, (· = 3), State.seen), (.check port, (· = 4), id), (.verdict port, (· = 5), id),
          (.poison port, (· = 6), id), (.abort port, (· = 7), id)] : List (Instr × (Nat → Bool) × (State → State))),
        ∀ m s1, s.takeMsg port (fun m => m.op = 0x10 && x.2.1 (m.off % 16)) = some (m, s1) →
          (∀ c ∈ s.colls.list, c.opened = true → cdWireId c.desc = m.tag → cdSeq c.desc = m.mdata % 2 ^ 32 → c.indexOf m.src = none) →
          exec x.1 s = .next (x.2.2 (s1.bump (rCleStray ((port.map (· / 25)).getD 0)) 1))

/-- Port states (R294, R295, R297, R301 to R303, R326, R328). -/
def Obligations.PortsComeUpAndGoDown : Prop :=
  (∀ (n : Nat) (s : State), s.hasPort n = true → s.barOpen (rVrlPortCtl n) = true → s.regsWf →
    ∃ (t : State) (p : Port), exec (.portEnable n) s = .next t ∧ t = { s with regs := t.regs, vrl := { s.vrl with ports := t.vrl.ports } }
      ∧ bit 0 (t.reg (rVrlPortCtl n)) = true ∧ (∀ off, off ≠ rVrlPortCtl n → off ≠ rClkLocking → off ≠ rClkWakes → t.reg off = s.reg off)
      ∧ t.port n = some p ∧ p.en = true ∧ (∀ k, k ≠ n → t.port k = s.port k)
      ∧ ((s.port n).all (fun q => !q.en) = true → p.state = if s.fenced 3 (n / 25) then 6 else 1)
      ∧ ∀ q, s.port n = some q → q.en = true → p = q)
  ∧ (∀ (n cause : Nat) (s : State) (p : Port), s.port n = some p →
    let shut (q : Port) : Port := { q with locked := false, lanes := 0, unacked := [], queue := [], txPart := [], txTags := [], rxPart := [],
                                           nakOut := false, badRun := 0, replays := 0, uncorr := 0 }
    let down (cmd : Instr) (q : Port) : Prop := ∃ t, exec cmd s = .next t ∧ (s.vrl.txns = [] → t.mem = s.mem)
      ∧ t.port n = some { shut q with cause := cause, state := if q.en then 3 else 0 }
    (cause = 1 → s.hasPort n = true → s.barOpen (rVrlPortCtl n) = true → p.en = true →
      if p.state = 5 ∨ p.state = 6 then ∃ t, exec (.portDisable n) s = .next t ∧ t.mem = s.mem
        ∧ t.port n = some { p with en := false, state := 0 }
      else down (.portDisable n) { p with en := false })
    ∧ (cause = 8 → s.barOpen (rVrlPortCtl n) = true → p.en = true → p.state ≠ 5 → p.state ≠ 6 →
        down (.portRetrain n) { p with fails := 0 })
    ∧ (cause = 6 → p.locked = true → down (.lockLost n) p)
    ∧ (cause = 5 → p.lanes = 15 → down (.laneLost n) p)
    ∧ (cause = 7 → p.locked = true → p.trains = true → down (.noAssign n) p)
    ∧ (cause = 4 → p.unacked ≠ [] → down (.ackTimeout n) p))
  ∧ ∀ (n : Nat) (s : State) (p : Port), s.port n = some p → p.trains = true →
      (∀ lanes, p.lanes ≠ 15 → exec (.linkTrained n lanes) s = .next (s.updPort n fun p =>
        if lanes % 16 = 15 then { p with lanes := 15, fails := 0 }
        else { p with lanes := lanes % 16, fails := p.fails + 1, state := if 3 ≤ p.fails + 1 then 5 else p.state }))
      ∧ (p.lanes = 15 → p.locked = false → ∃ (u : State) (q : Port),
          exec (.frameLock n) s = .next (u.queueMsg n 3 (msgBytes (mgtMsg s.vrl.ep 0x20 (s.vrl.ep + s.vrl.inc * 2 ^ 16 + n * 2 ^ 32))) .none)
          ∧ u = { s with vrl := { s.vrl with ports := u.vrl.ports, mgtOrder := s.vrl.mgtOrder.filter fun x => x.1 ≠ n } } ∧ (∀ k, k ≠ n → u.port k = s.port k)
          ∧ u.port n = some q ∧ q.locked = true ∧ q.state = p.state ∧ q.lanes = 15 ∧ q.nextSeq = 1 ∧ q.rxSeq = 0 ∧ q.unacked = []
          ∧ q.freed = [0, 0, 0, 0] ∧ q.held = [0, 0, 0, 0] ∧ q.owed = [2048, 4096, 4096, 256] ∧ q.queue = [] ∧ q.inbox = [])

/-- Flits (R297 to R301). -/
def Obligations.FlitsAreTaken : Prop :=
  (∀ (n : Nat) (f : Flit) (s : State) (p : Port), s.port n = some p → p.locked = true →
    let left := p.unacked.filter fun x => decide (2048 ≤ (rdBits f.bytes 0 23 12 + 4096 - x.seq) % 4096)
    (flitGood f = true → rdBits f.bytes 0 25 24 = 1 → rdBits f.bytes 0 11 0 = (p.rxSeq + 1) % 4096 →
      ∃ (u : State) (q : Port), exec (.flitData n f) s = .next (u.pumpPort n) ∧ u.port n = some q ∧ q.unacked = left
        ∧ q.rxSeq = (p.rxSeq + 1) % 4096 ∧ q.nakOut = false ∧ q.badRun = 0
        ∧ q.inbox = p.inbox ++ ((takeMsgs 1024 (p.rxPart ++ (f.bytes.drop 8).take 240)).1.filter fun b =>
            (opVc (msgOf b).op).isSome && !outOnly (msgOf b))
        ∧ q.rxPart = (takeMsgs 1024 (p.rxPart ++ (f.bytes.drop 8).take 240)).2 ∧ u.mem = s.mem)
    ∧ (flitGood f = true → rdBits f.bytes 0 25 24 = 1 → rdBits f.bytes 0 11 0 ≠ (p.rxSeq + 1) % 4096 →
      ∃ (t : State) (q : Port), exec (.flitData n f) s = .next t ∧ t.port n = some q ∧ q.unacked = left ∧ q.rxSeq = p.rxSeq
        ∧ q.inbox = p.inbox ∧ q.nakOut = true ∧ t.out.length = s.out.length + if p.nakOut then 0 else 1)
    ∧ (flitGood f = false → p.badRun + 1 < 8 → ∀ c ∈ [(Instr.flitData n f, true), (.flitNak n f, false), (.flitIdle n f, false)],
      ∃ (u : State) (q : Port), exec c.1 s = .next (u.pumpPort n) ∧ u.port n = some q ∧ q.rxSeq = p.rxSeq ∧ q.inbox = p.inbox
        ∧ q.unacked = (if crcGood f then left else p.unacked) ∧ q.badRun = p.badRun + 1 ∧ q.nakOut = (p.nakOut || c.2)
        ∧ u.out.length = s.out.length + if c.2 && !p.nakOut then 1 else 0)
    ∧ (flitGood f = false → 8 ≤ p.badRun + 1 → ∀ c ∈ [Instr.flitData n f, .flitNak n f, .flitIdle n f],
      ∃ (t : State) (q : Port), exec c s = .next t ∧ t.port n = some q ∧ q.locked = false ∧ q.cause = 2
        ∧ q.state = if p.en then 3 else 0)
    ∧ (flitGood f = true → rdBits f.bytes 0 25 24 = 2 → ∃ (u : State) (q : Port), exec (.flitNak n f) s = .next ((u.replay n).pumpPort n)
        ∧ u.port n = some q ∧ q.unacked = left ∧ q.inbox = p.inbox ∧ q.rxSeq = p.rxSeq ∧ u.out = s.out)
    ∧ (flitGood f = true → rdBits f.bytes 0 25 24 = 0 → ∃ (u : State) (q : Port), exec (.flitIdle n f) s = .next (u.pumpPort n)
        ∧ u.port n = some q ∧ q.unacked = left ∧ q.inbox = p.inbox ∧ q.rxSeq = p.rxSeq ∧ u.out = s.out))
  ∧ ∀ (n : Nat) (s : State) (p : Port), s.port n = some p → p.unacked ≠ [] →
      ((∀ x ∈ p.unacked, x.replays < 16) → ∃ (u : State) (q : Port), exec (.replayTimeout n) s = .next (u.pumpPort n)
        ∧ u.port n = some q ∧ q.replays = p.replays + 1 ∧ q.unacked = p.unacked.map (fun x => { x with replays := x.replays + 1 })
        ∧ u.out.length = s.out.length + p.unacked.length ∧ u.mem = s.mem)
      ∧ ((∃ x ∈ p.unacked, 16 ≤ x.replays) → ∃ (t : State) (q : Port), exec (.replayTimeout n) s = .next t
          ∧ t.port n = some q ∧ q.cause = 3 ∧ q.locked = false ∧ q.unacked = [] ∧ q.state = if p.en then 3 else 0)

/-- Inbound service (R278, R307, R308, R319, R320). -/
def Obligations.InboundRequestsAreServed : Prop :=
  ∀ (port : Option Nat) (s : State), s.err.fresh = [] →
    let served (op : Nat) (m : Msg) (s1 : State) (a : Nat) : Prop :=
      s.takeOp port op = some (m, s1) ∧ m.dst = s.vrl.ep ∧ s.vrl.ep ≠ 0 ∧ m.inc = s.vrl.inc ∧ malformed m = false
        ∧ s.outOf (portDie port) (homeOf a) = false
        ∧ ∃ k g, s.windowFor m = some k ∧ s.fabPage m.off = some g ∧ g.part = s.fld (rVrlWinHi k) 20 16 ∧ a = g.addr + m.off % 2 ^ 21
    (∀ m s1 a, served 1 m s1 a → ∃ u : State,
      exec (.read port ⟨[], [], []⟩) s = .next (u.answer port m 8 0 (s.poisonBits a m.len) (s.memRead a m.len))
        ∧ u = { s1 with regs := u.regs })
    ∧ (∀ m s1 a, served 2 m s1 a → Memory.wf s.mem = true → swf markReset s.marks = true → m.len ≤ m.body.length → ∃ u : State,
      exec (.write port) s = .next (u.answer port m 9 0 0 []) ∧ u = { s1 with mem := u.mem, marks := u.marks }
        ∧ u.memRead a m.len = m.body.take m.len ∧ (∀ x, outside [(a, m.len)] x → u.memByte x = s.memByte x)
        ∧ ∀ x, x < m.len → m.poison.testBit (x / 64) = true → u.poisoned (a + x) = true)
    ∧ (∀ op m s1 a, served op m s1 a → Memory.wf s.mem = true →
      let old := leNat (s.memRead a 8)
      let x := rdN m.body 0 8
      let y := rdN m.body 8 8
      let b : PortRead := ⟨port, ⟨[], [], []⟩⟩
      let cmd := if op = 3 then Instr.atomicAdd b else if op = 4 then Instr.atomicSwap b else Instr.atomicCas b
      let new := if op = 3 then (old + x) % 2 ^ 64 else if op = 4 then x else if old = y then x else old
      op = 3 ∨ op = 4 ∨ op = 5 → ∃ u : State, exec cmd s = .next (u.answer port m 10 0 (s.poisonBits a 8) (s.memRead a 8))
        ∧ u = { s1 with mem := u.mem, marks := u.marks, regs := u.regs }
        ∧ u.memRead a 8 = leBytes 8 new ∧ (∀ x, outside [(a, 8)] x → u.memByte x = s.memByte x)
        ∧ (op = 5 → old ≠ y → u.mem = s.mem ∧ u.marks = s.marks))
    ∧ ∀ k, ∀ x ∈ ([(.read port k, 1, 8), (.write port, 2, 9), (.atomicAdd ⟨port, k⟩, 3, 10), (.atomicSwap ⟨port, k⟩, 4, 10),
          (.atomicCas ⟨port, k⟩, 5, 10)] : List (Instr × Nat × Nat)), ∀ m s1, s.takeOp port x.2.1 = some (m, s1) →
        (m.dst ≠ s.vrl.ep ∨ s.vrl.ep = 0 → exec x.1 s = .next (s1.bump rVrlMisroute 1))
        ∧ (m.dst = s.vrl.ep → s.vrl.ep ≠ 0 → m.inc ≠ s.vrl.inc → exec x.1 s = .next (s1.answer port m x.2.2 3 0 []))
        ∧ (m.dst = s.vrl.ep → s.vrl.ep ≠ 0 → m.inc = s.vrl.inc → malformed m = true → exec x.1 s = .next (s1.answer port m x.2.2 4 0 []))
        ∧ (m.dst = s.vrl.ep → s.vrl.ep ≠ 0 → m.inc = s.vrl.inc → malformed m = false →
          (s.windowFor m = none → exec x.1 s = .next ((s1.deny m).answer port m x.2.2 2 0 []))
          ∧ ∀ k, s.windowFor m = some k →
            (s.fabPage m.off = none → exec x.1 s = .next (s1.answer port m x.2.2 1 0 []))
            ∧ ∀ g, s.fabPage m.off = some g → g.part ≠ s.fld (rVrlWinHi k) 20 16 →
                exec x.1 s = .next ((s1.deny m).answer port m x.2.2 2 0 []))

/-- Responses, peers and the endpoint (R309, R311, R313, R316 to R318, R321, R323 to R325). -/
def Obligations.ResponsesAndPeers : Prop :=
  let plain (p : Option Peer) : Option Peer := p.map fun p => { p with used := 0, out := 0 }
  ∀ (port : Option Nat) (s : State),
    let ended (ep : Nat) (u : State) : Prop := ∀ t ∈ u.vrl.txns, t.dst = ep →
      t.tag.isSome = true ∨ ∃ n, t.owner = .move n ∧ (s.moveOf n).isSome = true
    (∀ op, op = 8 ∨ op = 9 ∨ op = 10 → ∀ (m : Msg) (s1 : State), s.takeOp port op = some (m, s1) → m.dst = s.vrl.ep → s.vrl.ep ≠ 0 →
      let cmd := if op = 8 then Instr.readRsp port else if op = 9 then Instr.writeRsp port else Instr.atomicRsp port
      (s.vrl.quar.contains m.tag = true → exec cmd s = .next (s1.bump rVrlLateRsp 1))
      ∧ (s.vrl.quar.contains m.tag = false → ∀ t, s.vrl.txns.find? (fun t => t.tag = some m.tag && t.sent) = some t →
        (m.status = 0 → m.poison = 0 → ∀ wid idx x q, t.owner = .piece wid idx →
          (op ≠ 8 → ∃ u : State, exec cmd s = .next u.pump ∧ u = { s1 with vrl := u.vrl } ∧ t ∉ u.vrl.txns ∧ u.vrl.quar = s.vrl.quar)
          ∧ (op = 8 → s.xferOf wid = some x → x.piece idx = some q → x.wid = wid → x.dstSpace = 0 → x.srcSpace = 2 → t.len ≤ 256 →
              t.len ≤ m.body.length → s.kv.views = [] → s.inPlace s.place.via (x.dst + t.place) t.len → Memory.wf s.mem = true →
              ∃ u : State, exec cmd s = .next u.pump ∧ t ∉ u.vrl.txns ∧ u.vrl.quar = s.vrl.quar
                ∧ u.memRead (x.dst + t.place) t.len = m.body.take t.len
                ∧ ∀ a, outside [(x.dst + t.place, t.len)] a → u.memByte a = s.memByte a))
        ∧ (m.status ≠ 0 → ∃ u : State, exec cmd s = .next u.pump ∧ t ∉ u.vrl.txns
            ∧ (∀ wid idx w, t.owner = .piece wid idx → s.wb wid = some w → ∃ w', u.wb wid = some w'
                ∧ if m.status = 3 ∨ m.status = 5 then w'.fabGone = true else w'.linkBad = true)
            ∧ ∀ wid w, t.owner = .stamp wid → s.wb wid = some w → w.lost = none → s.coll wid = none →
                (∀ y ∈ s.vrl.txns, y.owner = .stamp wid → y = t) → u.endedWith wid (if m.status = 3 ∨ m.status = 5 then stFabGone else stMemFault) 0 0)))
    ∧ (∀ (tag : Nat) (t : Txn) (w : Wb) (wid idx : Nat), s.vrl.txns.find? (fun t => t.tag = some tag) = some t →
      t.owner = .piece wid idx → s.wb wid = some w →
      ∃ (u : State) (w' : Wb), exec (.fabTimeout tag) s = .next u.pump ∧ t ∉ u.vrl.txns ∧ tag ∈ u.vrl.quar
        ∧ u.wb wid = some w' ∧ w'.fabTime = true ∧ ((s.xferOf wid).all (fun x => x.dstSpace ≠ 0) = true → u.mem = s.mem))
    ∧ (∀ tag : Nat, ∃ u : State, exec (.tagQuarantineEnd tag) s = .next u.pump ∧ tag ∉ u.vrl.quar
        ∧ (∀ k, k ≠ tag → (k ∈ u.vrl.quar ↔ k ∈ s.vrl.quar)) ∧ u = { s with vrl := { s.vrl with quar := u.vrl.quar } })
    ∧ (∀ (n : Nat) (m : Msg) (s1 : State) (p : Port), port = some n → s.takeMgt port 0x21 = some (m, s1) → m.src = 0xFFFF →
      s1.port n = some p → p.locked = true → p.state ≠ 2 →
      let ep := bitsN 15 0 m.mdata
      let fabric := bitsN 31 16 m.mdata
      (s.upPorts = [] → s.vrl.ep = 0 ∨ s.vrl.ep = ep → ∃ (u : State) (q : Port), exec (.assign port) s = .next u.pump.pumpColls
        ∧ u.vrl.ep = ep ∧ u.vrl.fabric = fabric ∧ u.port n = some q ∧ q.state = 2 ∧ q.swId = bitsN 47 32 m.mdata
        ∧ q.swPort = bitsN 63 48 m.mdata ∧ u.mem = s.mem)
      ∧ (s.upPorts ≠ [] → ep ≠ s.vrl.ep ∨ fabric ≠ s.vrl.fabric → ∃ t, exec (.assign port) s = .next t
          ∧ t.vrl = (s1.updPort n fun p => { p with state := 4 }).vrl))
    ∧ (∀ (m : Msg) (s1 : State) (p : Peer), s.takeMgt port 0x23 = some (m, s1) → m.src = 0xFFFF →
      let ep := bitsN 15 0 m.mdata
      let told := s1.updPeer ep fun p => { p with asked := p.asked - 1, stale := p.stale - 1 }
      s1.peer ep = some p →
      (p.stale ≠ 0 → exec (.resolveRsp port) s = .next (if p.asked ≤ p.stale then told.sendResolve ep else told))
      ∧ (p.st = .resolving → p.stale = 0 → bitsN 32 32 m.mdata = 1 → ∃ u : State, exec (.resolveRsp port) s = .next u.pump.pumpColls
          ∧ plain (u.peer ep) = plain (some { p with st := .present, inc := bitsN 31 16 m.mdata, asked := p.asked - 1 })
          ∧ ∀ e, e ≠ ep → plain (u.peer e) = plain (s.peer e))
      ∧ (p.st = .resolving → p.stale = 0 → bitsN 32 32 m.mdata ≠ 1 → ∃ (u : State) (q : Peer), exec (.resolveRsp port) s = .next u.pump
          ∧ u.peer ep = some q ∧ q.st = .gone ∧ ended ep u))
    ∧ (∀ (ep : Nat) (p : Peer), s.peer ep = some p → p.st = .resolving → ∃ u : State, exec (.resolveTimeout ep) s = .next u.pump
        ∧ u.peer ep = none ∧ ended ep u)
    ∧ ∀ (m : Msg) (s1 : State) (p : Peer), s.takeMgt port 0x24 = some (m, s1) → m.src = 0xFFFF →
        let ep := bitsN 15 0 m.mdata
        let kind := bitsN 33 32 m.mdata
        s1.peer ep = some p →
        (kind = 1 → ∃ (u : State) (q : Peer), exec (.notice port) s = .next u.pump
            ∧ u.peer ep = some q ∧ q.st = .gone ∧ q.stale = p.asked ∧ ∀ t ∈ u.vrl.txns, t.dst = ep → t.tag = none)
        ∧ (kind = 2 → ∃ u : State, exec (.notice port) s = .next u.pump.pumpColls
            ∧ plain (u.peer ep) = plain (some { p with st := .present, inc := bitsN 31 16 m.mdata, stale := p.asked })
            ∧ ∀ e, e ≠ ep → plain (u.peer e) = plain (s.peer e))
        ∧ (kind ≠ 1 → kind ≠ 2 → exec (.notice port) s = .next (s1.updPeer ep fun p => { p with stale := p.asked }))

/-- The sources of throttling (R445, R446, R449, R450, R453, R457, R459, R531). -/
def Obligations.GovernorSources : Prop :=
  ∀ s : State,
    (s.govOn = true →
      (∀ vin iin : Nat,
        (s.pwr.brown = none → ∃ t, exec (.brownout vin iin) s = .next t ∧ PowerOnly s t ∧ Raised s t
          ∧ (∃ b, t.pwr.brown = some b ∧ b.since = s.aon ∧ b.lowest = vin ∧ b.counting = none) ∧ t.pwr.up = 0 ∧ t.pwr.down = 0
          ∧ ∀ d, d < 4 → s.fenced 1 d = false → 4 ≤ t.stepOf d)
        ∧ (∀ b, s.pwr.brown = some b → exec (.brownout vin iin) s =
            .next { s with pwr := { s.pwr with brown := some { b with counting := none, lowest := min b.lowest vin } } })
        ∧ (iin ≤ 1000 * s.effFld rPwrIlim 6 0 → exec (.currentLimit iin vin) s = .next s)
        ∧ (1000 * s.effFld rPwrIlim 6 0 < iin → s.pwr.ilim = none → ∃ t, exec (.currentLimit iin vin) s = .next t ∧ PowerOnly s t ∧ Raised s t
          ∧ t.pwr.ilim = some { since := s.aon, peak := iin, vin := vin, low := none } ∧ t.regs = s.regs ∧ t.out = s.out
          ∧ ∀ d, d < 4 → s.fenced 1 d = false → 4 ≤ t.stepOf d)
        ∧ (∀ e, 1000 * s.effFld rPwrIlim 6 0 < iin → s.pwr.ilim = some e →
            let x : IlimEp := if e.peak < iin then { e with peak := iin, vin := vin, low := none } else { e with low := none }
            exec (.currentLimit iin vin) s = .next { s with pwr := { s.pwr with ilim := some x } }))
      ∧ (∀ (die : Nat) (temp : Int), die < 4 → s.fenced 1 die = false → 10 * (s.effFld rPwrTherm 7 0 : Int) ≤ temp → s.regsWf →
          let old := (((s.pwr.hot.find? fun h => h.die = die).map (·.step)).getD 0)
          ∃ (t : State) (h : HotEp), exec (.dieHot die temp) s = .next t ∧ PowerOnly s t ∧ Raised s t ∧ h ∈ t.pwr.hot ∧ h.die = die
            ∧ h.step = min 7 (old + 1) ∧ min 7 (old + 1) ≤ t.stepOf die ∧ t.reg (rPwrTj die) = w32 (twos 12 temp)
            ∧ (∀ off, off ≠ rPwrTj die → t.reg off = s.reg off) ∧ ∀ x ∈ s.pwr.hot, x.die ≠ die → x ∈ t.pwr.hot)
      ∧ (s.pwr.flowAct = false → s.effFld rPwrFlowLim 15 0 ≠ 0 → s.regsWf → ∃ t, exec .flowLow s = .next t ∧ PowerOnly s t ∧ Raised s t
          ∧ t.pwr.flowAct = true ∧ t.fld rPwrValve 10 0 = 1000 ∧ ∀ d, d < 4 → s.fenced 1 d = false → 4 ≤ t.stepOf d)
      ∧ (∀ up : Bool, up ≠ s.pwr.leakIn → s.regsWf → ∃ t, exec (.leak up) s = .next t ∧ PowerOnly s t ∧ Raised s t ∧ t.pwr.leakIn = up
          ∧ (up = true → bit 1 (s.eff rPwrCfg) = true → ∀ d, d < 4 → s.fenced 1 d = false → 7 ≤ t.stepOf d))
      ∧ ∀ (die : Nat) (v : Int), die < 4 → s.pwr.sensor.contains die = false → ∃ t, exec (.sensorRefFail die v) s = .next t
          ∧ PowerOnly s t ∧ Raised s t ∧ (∀ k, k ∈ t.pwr.sensor ↔ (k = die ∨ k ∈ s.pwr.sensor))
          ∧ (s.fenced 1 die = false → 4 ≤ t.stepOf die))
    ∧ (∀ (up : Bool) (vin : Nat) (b : Brown), s.pwr.brown = some b → exec (.brownoutReleaseLevel up vin) s = .next { s with pwr := { s.pwr with
        brown := some (if up then (if b.counting.isSome then b
            else { b with counting := some s.aon, counted := true, restarts := b.restarts + if b.counted then 1 else 0 })
          else { b with counting := none, lowest := min b.lowest vin }) } })
    ∧ (∀ b, s.pwr.brown = some b → (∀ c, b.counting = some c → s.aon < c + 1200) → exec .brownoutEnd s = .next s)
    ∧ (∀ b c, s.pwr.brown = some b → b.counting = some c → c + 1200 ≤ s.aon → ∃ t, exec .brownoutEnd s = .next t ∧ PowerOnly s t ∧ t.pwr.brown = none
        ∧ t.pwr.up = 0 ∧ t.pwr.down = 0 ∧ t.pwr.steps = s.pwr.steps)
    ∧ (∀ e, s.pwr.ilim = some e → (∀ c, e.low = some c → s.aon < c + 1200) → exec .ilimRelease s = .next s)
    ∧ (∀ e c, s.pwr.ilim = some e → e.low = some c → c + 1200 ≤ s.aon → ∃ t, exec .ilimRelease s = .next t ∧ PowerOnly s t ∧ t.pwr = { s.pwr with ilim := none })
    ∧ exec .flowRelease s = .next { s with pwr := { s.pwr with flowAct := false } }
    ∧ (∀ die, ∃ t, exec (.sensorRefPass die) s = .next t ∧ t = { s with pwr := { s.pwr with sensor := t.pwr.sensor } }
        ∧ ∀ k, k ∈ t.pwr.sensor ↔ (k ∈ s.pwr.sensor ∧ k ≠ die))
    ∧ ∀ m, ∃ t, exec (.ballastHoldExpire m) s = .next t ∧ t = { s with pwr := { s.pwr with ballast := t.pwr.ballast } }
        ∧ (∀ b ∈ t.pwr.ballast, b.mxe = m → b.lower = true) ∧ (∀ b ∈ s.pwr.ballast, b.mxe ≠ m → b ∈ t.pwr.ballast)
        ∧ t.pwr.ballast.map (·.mxe) = s.pwr.ballast.map (·.mxe)

/-- Epochs, evaluation and clocks (R31, R446, R462, R464 to R467, R523). -/
def Obligations.EpochsAndDomains : Prop :=
  ∀ s : State, s.regsWf →
    (∀ (e : EpochIn) (io : List IoRes), s.pins.aux = true → ∃ t, exec (.managementEpoch e io) s = .next t
      ∧ t.aon = s.aon + (1200 - s.aon % 1200) ∧ t.latched = t.regs ∧ t.eng.ovfEpoch = [] ∧ t.vrl.denied = 0 ∧ t.err.merged = []
      ∧ t.io = [] ∧ t.mem = s.mem ∧ t.sched = s.sched ∧ ∀ d, d < 4 → s.fenced 1 d = false → t.target d ≤ t.stepOf d)
    ∧ (∀ iin vin : Nat, s.govOn = true → ∃ t, exec (.governorEval iin vin) s = .next t ∧ PowerOnly s t ∧ t.pwr.iin = iin
      ∧ t.pwr.vin = vin ∧ t.fld rPwrVin 15 0 = min (vin / 10) 0xFFFF ∧ t.fld rPwrIin 15 0 = min (iin / 10) 0xFFFF
      ∧ t.fld rPwrVin 31 16 = min (s.fld rPwrVin 31 16) (min (vin / 10) 0xFFFF)
      ∧ t.fld rPwrIin 31 16 = max (s.fld rPwrIin 31 16) (min (iin / 10) 0xFFFF)
      ∧ (∀ d, d < 4 → s.fenced 1 d = false → t.target d ≤ t.stepOf d ∧ s.stepOf d ≤ t.stepOf d + 1)
      ∧ t.pwr.up ≤ 10 * s.effFld rPwrRamp 7 0 + t.stepRise 4)
    ∧ (s.barOpen rPwrStatClr = true → ∃ t, exec .pwrStatClr s = .next t
      ∧ RegsOnly (fun off => [rPwrVin, rPwrIin, rPwrBrownouts, rPwrThrCycLo, rPwrThrCycHi].contains off) s t
      ∧ t.fld rPwrVin 31 16 = 0xFFFF ∧ t.fld rPwrVin 15 0 = s.fld rPwrVin 15 0 ∧ t.fld rPwrIin 31 16 = 0
      ∧ t.fld rPwrIin 15 0 = s.fld rPwrIin 15 0 ∧ t.reg rPwrBrownouts = 0 ∧ t.reg64 rPwrThrCycLo = 0)
    ∧ (∀ d : Nat,
      (sleeps s.assy d = true → s.clk.run = none → s.effFld rClkSleep 16 16 = 1 → s.heldOn d = false → s.domainOff d = false → s.domainBusy d = false →
        bit d (s.reg rClkRun) = true → ∃ t, exec (.domainSleep d) s = .next t ∧ RegsOnly (fun off => off = rClkRun) s t
          ∧ bit d (t.reg rClkRun) = false ∧ ∀ k, k ≠ d → bit k (t.reg rClkRun) = bit k (s.reg rClkRun))
      ∧ (s.heldOn d = true ∨ s.domainBusy d = true ∨ sleeps s.assy d = false → exec (.domainSleep d) s = .next s)
      ∧ (d ∈ asmDomains s.assy → s.domainOff d = false → bit d (s.reg rClkRun) = false → bit d (s.reg rClkLocking) = false →
        ∃ t, exec (.domainWake d) s = .next t ∧ RegsOnly (fun off => off = rClkLocking || off = rClkWakes) s t
          ∧ bit d (t.reg rClkLocking) = true ∧ (t.reg rClkWakes).toNat = satAdd 32 (s.reg rClkWakes).toNat 1)
      ∧ (d < 32 → bit d (s.reg rClkLocking) = true → s.domainOff d = false →
        (∀ x, s.clk.restart = some x → d ∉ dieDomains x.kind x.die) →
        ∃ t, exec (.pllLock d) s = .next t ∧ RegsOnly (fun off => off = rClkLocking || off = rClkRun) s t
          ∧ bit d (t.reg rClkLocking) = false ∧ bit d (t.reg rClkRun) = true)
      ∧ (∀ x, bit d (s.reg rClkLocking) = true → s.clk.run = none → s.clk.restart = some x → d ∈ dieDomains x.kind x.die →
          ∃ t, exec (.pllLock d) s = .next t ∧ t.clk = { s.clk with restart := some { x with locked := x.locked ++ [(d, s.aon)] } }
            ∧ bit d (t.reg rClkLocking) = false ∧ t.reg rClkRun = s.reg rClkRun)
      ∧ ∀ r, bit d (s.reg rClkLocking) = true → s.clk.run = some r → r.inReset.contains d = true →
          ∃ t r', exec (.pllLock d) s = .next t ∧ t.clk.run = some r' ∧ r' = { r with locked := r.locked ++ [(d, s.aon)] }
            ∧ bit d (t.reg rClkLocking) = false ∧ t.reg rClkRun = s.reg rClkRun)
    ∧ ∀ w : Word, s.barOpen rClkForce = true → s.clk.run = none → s.clk.fenced = [] → s.clk.kept = [] → ∃ t, exec (.clkForceWrite w) s = .next t
        ∧ RegsOnly (fun off => off = rClkForce || off = rClkLocking || off = rClkWakes) s t
        ∧ (∀ d, d < 25 → bit d (t.reg rClkForce) = (bit d w && sleeps s.assy d))
        ∧ ∀ d, d < 32 → sleeps s.assy d = true → bit d w = true → bit d (t.reg rClkRun) = true ∨ bit d (t.reg rClkLocking) = true

/-- Reset sources (R441, R451, R464, R468, R469, R471, R474, R475, R541, R544). -/
def Obligations.ResetsAreTaken : Prop :=
  ∀ s : State, s.regsWf →
    (s.clk.run = none →
      (∃ t, exec .powerGoodFall s = .next t ∧ ResetTaken s t 2 4 true ∧ bit 1 (t.reg rPwrTrip) = true)
      ∧ (∃ t, exec .inputSwitchOpen s = .next t ∧ ResetTaken s t 3 4 true)
      ∧ (∀ die, die < 4 → ∃ t, exec (.thermalTrip die) s = .next t ∧ ResetTaken s t 4 4 true ∧ bit 0 (t.reg rPwrTrip) = true
          ∧ t.fld rPwrTrip 3 2 = die)
      ∧ (∃ t, exec .crystalLost s = .next t ∧ ResetTaken s t 5 4 true ∧ t.clk.xtalOk = false)
      ∧ (s.reg rRstWdog = 0 → ∃ t, exec .watchdogExpire s = .next t ∧ ResetTaken s t 6 4 false)
      ∧ (∃ t, exec .perstAssert s = .next t ∧ ResetTaken s t 7 3 true ∧ t.pins.perst = true ∧ t.sec.fw = s.sec.fw)
      ∧ (∃ t, exec .hotReset s = .next t ∧ ResetTaken s t 8 3 false ∧ t.sec.fw = s.sec.fw)
      ∧ ∃ t, exec .functionLevelReset s = .next t ∧ t.reg rRstCause = w32 0x209 ∧ t.clk.run = none ∧ t.host = HostIf.reset
          ∧ t.sched.consists = [] ∧ t.sched.wbs = [] ∧ t.eng.runs = [] ∧ t.colls.list = [] ∧ t.codec.ctxs = []
          ∧ t.sems = s.sems ∧ t.kv.nodes = s.kv.nodes ∧ t.marks = s.marks ∧ t.vrl.ports = s.vrl.ports
          ∧ t.place.pages.map (·.num) = s.place.pages.map (·.num)
          ∧ (t.reg rRstCount).toNat = satAdd 32 (s.reg rRstCount).toNat 1)
    ∧ (∀ r, s.clk.run = some r → 4 ≤ r.kind → ∀ x ∈ ([(.inputSwitchOpen, 3, 4, true), (.hotReset, 8, 3, false),
          (.functionLevelReset, 9, 2, false)] : List (Instr × Nat × Nat × Bool)),
        ∃ t, exec x.1 s = .next t ∧ t = { s with regs := t.regs, clk := t.clk } ∧ t.reg rRstCause = s.reg rRstCause
          ∧ t.reg rRstCount = s.reg rRstCount ∧ (∀ i, i < 7 → t.reg (rRstHist (i + 1)) = s.reg (rRstHist i))
          ∧ t.fld (rRstHist 0) 10 0 = x.2.1 + 256 * x.2.2.1
          ∧ ∃ r', t.clk.run = some r' ∧ r' = { r with holds := r'.holds } ∧ (x.2.2.2 = true → x.2.1 ∈ r'.holds)
              ∧ ∀ h ∈ r.holds, h ∈ r'.holds)
    ∧ (∀ (sel : Bool) (a : Nat), ∃ t, exec (.aonRailUp sel a) s = .next t ∧ t.reg rRstCause = w32 0x501 ∧ t.mem = [] ∧ t.aon = 0
        ∧ t.pins.aux = true ∧ t.pins.busSel = sel ∧ t.pins.addr = a % 4 ∧ t.sec.secret = s.sec.secret ∧ t.sec.flash = s.sec.flash
        ∧ t.sec.fw = none ∧ ∃ r, t.clk.run = some r ∧ r.kind = 5 ∧ r.inReset = resetScope s.assy 5 ∧ r.holds = [1])
    ∧ (∃ t, exec .auxiliaryRailLoss s = .next t ∧ t.pins.aux = false ∧ t.mem = [] ∧ t.aon = 0 ∧ t.reg rClkRun = 0
        ∧ t.sec.secret = s.sec.secret ∧ t.sec.flash = s.sec.flash ∧ t.sec.fw = none ∧ t.out = s.out ++ [.pin 17 0]
        ∧ ∃ r, t.clk.run = some r ∧ r.kind = 5 ∧ r.inReset = resetScope s.assy 5 ∧ r.holds = [1])
    ∧ (s.firmwareOn = true → ∃ t, exec .watchdogRestart s = .next t ∧ RegsOnly (fun off => off = rRstWdog) s t
        ∧ t.reg rRstWdog = 2400000)
    ∧ ∀ on : Bool, exec (.cxlReferenceClockChange on) s = .next { s with pins := { s.pins with refClk := on } }

/-- The kind codes of reset commands (R472; RESET_EN is R327). -/
def Obligations.ResetCommandsCarryAKind : Prop :=
  (∀ (kind : Nat) (s : State), s.firmwareOn = true →
    (kind = 1 ∨ kind = 3 ∨ kind = 4 → exec (.mctpReset kind) s = .next ((s.put (.mgmt 0x20 [0])).assertReset 11 kind false))
    ∧ (kind ≠ 1 → kind ≠ 3 → kind ≠ 4 → exec (.mctpReset kind) s = .next (s.put (.mgmt 0x20 [1]))))
  ∧ (∀ (port : Option Nat) (s s1 : State) (m : Msg), s.takeMgt port 0x26 = some (m, s1) → m.src = 0xFFFF →
    let kind := bitsN 7 0 m.mdata
    (bit 0 (s.reg rVrlMgtCfg) = true → kind = 1 ∨ kind = 3 ∨ kind = 4 → exec (.resetCmd port) s = .next (s1.assertReset 10 kind false))
    ∧ (kind ≠ 1 → kind ≠ 3 → kind ≠ 4 → exec (.resetCmd port) s = .next (s1.bump rVrlMisroute 1))
    ∧ (bit 0 (s.reg rVrlMgtCfg) = false → exec (.resetCmd port) s = .next (s1.bump rVrlMisroute 1)))
  ∧ ∀ (source kind : Nat) (s : State), s.regsWf → s.clk.run = none → source < 32 → kind = 3 ∨ kind = 4 →
      ResetTaken s (s.assertReset source kind false) source kind false

/-- Release, block resets, fences and restarts (R313, R471, R476 to R481, R483, R484, R488). -/
def Obligations.ReleaseAndFences : Prop :=
  ∀ s : State, s.regsWf →
    (∀ r, s.clk.run = some r → s.aon < r.trip + 1200000 → exec (.resetHoldEnd 4) s = .next s)
    ∧ (∀ source : Nat, (source = 4 → ∀ r, s.clk.run = some r → r.trip + 1200000 ≤ s.aon) → ∃ t, exec (.resetHoldEnd source) s = .next t ∧ t = { s with pins := t.pins, clk := t.clk }
      ∧ (∀ r, s.clk.run = some r → t.clk.run = some { r with holds := r.holds.filter fun h => h ≠ source })
      ∧ (source = 7 → t.pins.perst = false) ∧ (source = 5 → t.clk.xtalOk = true))
    ∧ (∀ r, s.clk.run = some r →
      (r.holds ≠ [] → exec .resetRelease s = .next s)
      ∧ (r.holds = [] → r.stuck = false → s.pins.aux = true →
        (s.assy = .h12f4 → s.commonEdge r = true → ∃ t, exec .resetRelease s = .next t ∧ t.clk = { s.clk with run := none }
          ∧ RegsOnly (fun off => off = rClkRun) { s with clk := t.clk } t ∧ ∀ d ∈ r.inReset, d < 32 → bit d (t.reg rClkRun) = true)
        ∧ ∀ d, s.assy ≠ .h12f4 → r.nextDomain s.assy = some d → r.lastRel + r.gap d ≤ s.aon →
            (r.locked.any fun x => decide (x.1 = d ∧ x.2 < s.aon)) = true → ∃ t, exec .resetRelease s = .next t
            ∧ RegsOnly (fun off => off = rClkRun) { s with clk := t.clk } t ∧ bit d (t.reg rClkRun) = true
            ∧ t.clk.run = let left := r.inReset.filter fun k => k ≠ d
                if left = [] then none else some { r with inReset := left, lastRel := s.aon })
      ∧ ∀ d, r.inReset.contains d = true → r.scope.contains d = true → (∀ x ∈ r.locked, x.1 ≠ d) → bit d (s.reg rClkLocking) = true →
          r.start + 1200 ≤ s.aon →
          (d ∈ [1, 2, 3, 13, 21] → ∃ t, exec (.pllLockTimeout d) s = .next t ∧ bit d (t.reg rRstLockfail) = true
            ∧ t.clk = { s.clk with run := some { r with stuck := true, failed := r.failed ++ [d] } })
          ∧ ∀ kind die, d ∉ [1, 2, 3, 13, 21] → domainDie d = some (kind, die) → (kind, die) ≠ (2, 0) →
              ∃ t, exec (.pllLockTimeout d) s = .next t ∧ bit d (t.reg rRstLockfail) = true ∧ t.fenced kind die = true
                ∧ ∀ k ∈ dieDomains kind die, bit k (t.reg rClkRun) = false ∧ ∀ r', t.clk.run = some r' → k ∉ r'.inReset)
    ∧ (∀ (x : DieRun) (d : Nat) (rest : List Nat), s.clk.run = none → s.clk.restart = some x → s.assy ≠ .h12f4 →
      (releaseOrder s.assy).filter (fun k => (dieDomains x.kind x.die).contains k && !bit k (s.reg rClkRun)) = d :: rest →
      x.lastRel + 4 ≤ s.aon → (∃ y ∈ x.locked, y.1 = d ∧ y.2 + 1 ≤ s.aon) →
      ∃ t, exec .resetRelease s = .next t ∧ t.clk = { s.clk with restart := some { x with lastRel := s.aon } }
        ∧ RegsOnly (fun off => off = rClkRun) { s with clk := t.clk } t
        ∧ ∀ k, bit k (t.reg rClkRun) = (bit k (s.reg rClkRun) || decide (k = d)))
    ∧ (∀ failed, s.clk.run = none → s.clk.trained = false → s.clk.booted = true → s.sec.recovery = false → s.pins.aux = true →
      ∃ t, exec (.deviceReady failed) s = .next t ∧ t.fld rRstStatus 0 0 = 1 ∧ t.clk.trained = true ∧ t.vrl.inc ≠ 0
        ∧ t.vrl.inc ≠ s.vrl.inc ∧ t.out = s.out ++ [.pin 17 1] ∧ t.mem = s.mem)
    ∧ (∀ (w : Word) (k : EngKind), s.barOpen rRstBlock = true → bit 0 (s.reg rRstBlockStatus) = false →
      kindOfCode (bits 15 12 w) = some k →
      let i := bits 11 0 w
      (kindCount s.assy k ≤ i → exec (.blockReset w) s = .next (s.setFld rRstBlockStatus 7 4 2))
      ∧ (i < kindCount s.assy k → s.fenced (dieOf k i).1 (dieOf k i).2 = true →
          exec (.blockReset w) s = .next (s.setFld rRstBlockStatus 7 4 1))
      ∧ (i < kindCount s.assy k → s.fenced (dieOf k i).1 (dieOf k i).2 = false →
        (s.blockIdle k i = false → exec (.blockReset w) s = .next (s.setFld rRstBlockStatus 7 4 1))
        ∧ (s.blockIdle k i = true → ∃ t, exec (.blockReset w) s = .next t ∧ t.fld rRstBlockStatus 7 4 = 0
            ∧ (∀ off ∈ engineCounters k i ++ engineEcc k i, t.reg off = 0) ∧ bit 0 (t.reg (cfgReg k i)) = false
            ∧ t.useOf k i = none ∧ t.mem = s.mem ∧ t.place = s.place ∧ t.kv = s.kv)))
    ∧ (∀ kind die : Nat, s.barOpen rRstDie = true → bit 0 (s.reg rRstDieStatus) = false → die < dieCount s.assy kind →
      (s.fenced kind die = false → ¬((kind = 2 ∨ kind = 3) ∧ die = 0) →
        ∃ u : State, exec (.dieFence kind die 3) s = .next u.sweepBusy.settle ∧ u.fenced kind die = true
          ∧ (∀ k n, (k, n) ≠ (kind, die) → u.fenced k n = s.fenced k n) ∧ u.fld rRstDieStatus 7 4 = 0
          ∧ (∀ d ∈ dieDomains kind die, bit d (u.reg rClkRun) = false) ∧ (∀ k i, dieOf k i = (kind, die) → u.useOf k i = none)
          ∧ (kind ≠ 3 ∨ s.vrl.txns = [] → u.mem = s.mem))
      ∧ (s.fenced kind die = true → ¬((kind = 2 ∨ kind = 3) ∧ die = 0) →
          exec (.dieFence kind die 3) s = .next (s.setFld rRstDieStatus 7 4 2))
      ∧ (s.fenced kind die = false → exec (.dieRestart kind die) s = .next (s.setFld rRstDieStatus 7 4 1))
      ∧ (s.fenced kind die = true → ∃ t, exec (.dieRestart kind die) s = .next t ∧ t.fld rRstDieStatus 7 4 = 0
          ∧ t.fld rRstDieStatus 0 0 = 1 ∧ (∀ d ∈ dieDomains kind die, bit d (t.reg rClkLocking) = true)
          ∧ t.clk = { s.clk with restart := some { kind := kind, die := die, start := s.aon, lastRel := s.aon, locked := [] } }
          ∧ t.mem = s.mem))
    ∧ ∀ (x : DieRun), s.clk.restart = some x → x.die < dieCount s.assy x.kind →
      ((∀ d ∈ dieDomains x.kind x.die, bit d (s.reg rRstLockfail) = false ∧ bit d (s.reg rClkRun) = true) → swf markReset s.marks = true →
        ∃ u : State, exec (.dieRestarted true) s = .next u.settle ∧ u.fenced x.kind x.die = false ∧ u.clk.restart = none
          ∧ u.fld rRstDieStatus 7 4 = 0 ∧ u.fld rRstDieStatus 0 0 = 0
          ∧ (∀ k i, i < kindCount s.assy k → dieOf k i = (x.kind, x.die) → bit 0 (u.reg (cfgReg k i)) = false ∧ u.useOf k i = none)
          ∧ (x.kind = 2 → ∀ g ∈ s.place.pages, g.num % 4 = x.die → g.place.isLocal = true →
              ∀ a, g.num * 2 ^ 21 ≤ a → a < (g.num + 1) * 2 ^ 21 → u.poisoned a = true))
      ∧ ((∃ d ∈ dieDomains x.kind x.die, bit d (s.reg rClkRun) = false ∧ bit d (s.reg rRstLockfail) = false) →
        exec (.dieRestarted true) s = .next s)
      ∧ ∃ t, exec (.dieRestarted false) s = .next t ∧ t.clk.fenced = s.clk.fenced ∧ t.clk.restart = none
          ∧ (∀ d ∈ dieDomains x.kind x.die, bit d (t.reg rClkRun) = false)
          ∧ t.fld rRstDieStatus 7 4 = 5 ∧ t.fld rRstDieStatus 0 0 = 0 ∧ t.mem = s.mem

/-- Boot, recovery, update and anti-rollback (R491, R493 to R499, R510 to R512). The numbers of PLDM's answers are the model's (log
entry 29). -/
def Obligations.BootRecoveryAndUpdate : Prop :=
  ∀ s : State, s.regsWf →
    (s.clk.booted = false → s.sec.recovery = false → s.sec.fw = none → s.pins.aux = true →
      (∀ r, s.clk.run = some r → 1 ∉ r.inReset) → ∀ ok : Bool, ∃ t, exec (.bootVerify ok) s = .next t ∧ Booted s t ok)
    ∧ (s.barOpen rSecRcvCmd = true →
      let n := (s.reg rSecRcvSize).toNat
      (∀ host, bit 0 (s.reg rSecRcvStatus) = true → bit 0 (s.reg rSecRcvCmd) = false → ∃ t, exec (.rcvStart host) s = .next t
        ∧ RegsOnly (fun off => off = rSecRcvStatus) s t ∧ t.fld rSecRcvStatus 7 4 = 8 ∧ t.fld rSecRcvStatus 1 0 = 3)
      ∧ (bit 0 (s.reg rSecRcvStatus) = false →
        (∀ host, s.sec.recovery = false ∨ imageSizeOk n = false → ∃ t, exec (.rcvStart host) s = .next t
          ∧ RegsOnly (fun off => off = rSecRcvStatus) s t ∧ t.fld rSecRcvStatus 1 0 = s.fld rSecRcvStatus 1 0
          ∧ t.fld rSecRcvStatus 7 4 = if s.sec.recovery then 3 else 9)
        ∧ (∀ bytes, s.sec.recovery = true → imageSizeOk n = true →
          let image := bytes.take n ++ List.replicate (n - bytes.length) 0
          (∀ c, s.headCheck (image.take 0x5400) = c → c ≠ 0 → ∃ t, exec (.rcvStart (.ok bytes)) s = .next t
            ∧ RegsOnly (fun off => off = rSecRcvStatus) s t ∧ t.fld rSecRcvStatus 7 4 = c)
          ∧ (s.headCheck (image.take 0x5400) = 0 → ∃ t, exec (.rcvStart (.ok bytes)) s = .next t
            ∧ t = { s with regs := t.regs, sec := { s.sec with flash := image, spoilt := false, update := (some
                { pldm := false, size := n, headOk := true, result := none, verified := none, ended := false }) } }
            ∧ t.reg rSecRcvDone = 0 ∧ t.fld rSecRcvStatus 0 0 = 1
            ∧ ∀ off, off ≠ rSecRcvDone → off ≠ rSecRcvStatus → t.reg off = s.reg off))
        ∧ ∀ host, (∀ bytes, host ≠ .ok bytes) → s.sec.recovery = true → imageSizeOk n = true →
            ∃ t, exec (.rcvStart host) s = .next t ∧ RegsOnly (fun off => off = rSecRcvStatus) { s with free := s.free + 1 } t
              ∧ t.fld rSecRcvStatus 7 4 ≠ 0))
    ∧ (∀ u, s.sec.update = some u → u.pldm = false →
        ∃ v : State, v = { s with regs := v.regs, sec := { s.sec with update := none } } ∧ v.reg rSecRcvDone = w32 u.size
          ∧ v.fld rSecRcvStatus 0 0 = 0 ∧ v.fld rSecRcvStatus 7 4 = (if s.flashSigned then 0 else 5)
          ∧ ∃ t, exec .rcvTransferDone s = .next t ∧ if s.flashSigned then Booted v t true else t = v)
    ∧ (s.pldmOn = true → ∀ size,
      (s.sec.update ≠ none ∨ (s.sec.recovery = true ∧ bit 0 (s.reg rSecRcvStatus) = true) →
        exec (.requestUpdate size) s = .next (s.mgmtSay 0x10 1))
      ∧ (s.sec.update = none → s.sec.recovery = false ∨ bit 0 (s.reg rSecRcvStatus) = false → ∃ t, exec (.requestUpdate size) s = .next t ∧ t.out = s.out ++ [.mgmt 0x10 [0]]
          ∧ t = { s with regs := t.regs, out := t.out, sec := { s.sec with update := (some
                { pldm := true, size := size, headOk := false, result := none, verified := none, ended := false }) } }))
    ∧ (∀ u, s.pldm = some u →
      exec .passComponentTable s = .next (s.mgmtSay 0x11 0)
      ∧ (∀ head : List Byte, u.headOk = false →
        let h := head.take 0x5400 ++ List.replicate (0x5400 - head.length) 0
        (s.headCheck h = 0 → imageSizeOk u.size = true → ∃ t, exec (.updateComponent head) s = .next t
          ∧ t.out = s.out ++ [.mgmt 0x12 [0]] ∧ t = { s with regs := t.regs, out := t.out, sec :=
                { s.sec with flash := [], spoilt := false, update := some { u with headOk := true } } })
        ∧ ∀ c, (s.headCheck h = c ∧ c ≠ 0) ∨ (s.headCheck h = 0 ∧ imageSizeOk u.size = false ∧ c = 3) →
            ∃ t, exec (.updateComponent head) s = .next t ∧ t.out = s.out ++ [.mgmt 0x12 (leBytes 1 c)]
              ∧ t = { s with regs := t.regs, out := t.out, sec := { s.sec with update := none } })
      ∧ (∀ (off : Nat) (bytes : List Byte),
        (u.headOk = true → off = s.sec.flash.length → off + bytes.length ≤ u.size → ∃ t,
          exec (.requestFirmwareData off bytes) s = .next t ∧ RegsOnly (fun o => o = rSecRcvDone) { s with sec := t.sec } t
            ∧ t.sec = { s.sec with flash := s.sec.flash ++ bytes }
            ∧ (s.sec.recovery = true → t.reg rSecRcvDone = w32 (off + bytes.length)))
        ∧ (u.headOk = false ∨ off ≠ s.sec.flash.length ∨ u.size < off + bytes.length →
            exec (.requestFirmwareData off bytes) s = .next s))
      ∧ (exec .transferComplete s = .next (if u.headOk = true ∧ u.ended = false ∧ s.sec.flash.length = u.size then
            { s with sec := { s.sec with update := some { u with ended := true } }, out := s.out ++ [.mgmt 0x14 [0]] } else s))
      ∧ (u.ended = true → u.verified = none → ∃ t, exec .verifyComplete s = .next t
          ∧ t.out = s.out ++ [.mgmt 0x15 [if s.flashSigned then 0 else 5]]
          ∧ t = { s with regs := t.regs, out := t.out, sec := { s.sec with
              update := if s.flashSigned then some { u with verified := some true } else none } })
      ∧ (u.verified = some true → ∃ v t : State, exec .applyComplete s = .next t
          ∧ v = { s with regs := v.regs, out := s.out ++ [.mgmt 0x16 [0]], sec := { s.sec with update := none } }
          ∧ if s.sec.recovery = true then v.fld rSecRcvStatus 7 4 = 0 ∧ Booted v t true else t = v))
    ∧ (s.sec.recovery = true → s.ready = true → exec (.svnCommit false) s = .next (s.setFld rSecSvnStatus 7 4 1))
    ∧ ∀ f, s.sec.fw = some f →
      (s.firmwareOn = true → ∃ t, exec (.svnCommit true) s = .next t ∧ t.sec = { s.sec with svnFuse := max s.sec.svnFuse f.svn }
        ∧ t = { s with regs := t.regs, out := t.out, host := t.host, io := t.io, sec := t.sec })
      ∧ (s.sec.recovery = false → s.barOpen rSecSvnCmd = true → bit 0 (s.reg rSecSvnStatus) = false → ∃ t, exec (.svnCommit false) s = .next t
        ∧ t.sec = { s.sec with svnFuse := max s.sec.svnFuse f.svn } ∧ t.fld rSecSvnStatus 7 4 = 0
        ∧ t = { s with regs := t.regs, out := t.out, host := t.host, io := t.io, sec := t.sec })

/-- Seals and debug (R504 to R508, R512). -/
def Obligations.SealsAndDebug : Prop :=
  ∀ s : State, s.regsWf →
    (s.barOpen rSecSealCmd = true → bit 0 (s.reg rSecSealStatus) = false →
      (s.sec.devSeal ≠ none → ∃ t, exec .sealDevice s = .next t ∧ RegsOnly (fun off => off = rSecSealStatus) s t
        ∧ t.fld rSecSealStatus 7 4 = 0)
      ∧ (s.sec.devSeal = none → ∃ t, exec .sealDevice s = .next t ∧ t.fld rSecSealStatus 7 4 = 0
        ∧ t = { s with regs := t.regs, out := t.out, host := t.host, io := t.io, sec := { s.sec with devSeal := some (s.sealDigest none) } })
      ∧ ∀ p, p < 32 →
        (s.part p = none ∨ s.sec.devSeal = none ∨ s.partState p = 5 ∨ s.sealed p = true → ∃ t, exec (.sealPartition p) s = .next t
          ∧ RegsOnly (fun off => off = rSecSealStatus) s t
          ∧ t.fld rSecSealStatus 7 4 = if s.part p = none then 1 else if s.sec.devSeal = none then 3 else 2)
        ∧ (s.part p ≠ none → s.sec.devSeal ≠ none → s.partState p ≠ 5 → s.sealed p = false → ∃ t : State,
          exec (.sealPartition p) s = .next t.denyUnstarted ∧ (s.fld rSecDbg 1 0 ≠ 3 → t.denyUnstarted = t)
          ∧ t.fld rSecSealStatus 7 4 = 0 ∧ t.sealed p = true ∧ (∀ q, q ≠ p → t.sealed q = s.sealed q)
          ∧ t = { s with regs := t.regs, out := t.out, host := t.host, io := t.io, sec :=
                    { s.sec with partSeals := s.sec.partSeals ++ [(p, s.sealDigest (some p))] } }))
    ∧ (s.firmwareOn = true →
      (∀ mctp : Bool, let msg := if mctp then 0x30 else 0x31
        (s.sec.lockout = true → exec (.debugChallengeRead mctp) s = .next (s.put (.mgmt msg [])))
        ∧ (s.sec.lockout = false → ∃ t c, exec (.debugChallengeRead mctp) s = .next t ∧ c.length = 32
            ∧ t = { s with free := t.free, out := s.out ++ [.mgmt msg c], sec := { s.sec with challenge := some c } }))
      ∧ ∀ (level : Nat) (sig : List Byte) (mctp : Bool),
        (s.sec.dbgOff = true ∨ 3 < level ∨ s.unlockKey level sig = none → ∃ t, exec (.debugUnlock level sig mctp) s = .next t
          ∧ t.reg rSecDbg = s.reg rSecDbg ∧ t.sec =
              { s.sec with challenge := none, failsNow := s.sec.failsNow + 1, lockout := s.sec.lockout || (s.sec.failsNow + 1) % 3 = 0 }
          ∧ t = { s with regs := t.regs, out := t.out, host := t.host, io := t.io, sec := t.sec })
        ∧ (s.sec.challenge = none → s.unlockKey level sig = none)
        ∧ (∀ id, s.sec.dbgOff = false → level ≤ 3 → s.unlockKey level sig = some id → ∃ t : State,
          exec (.debugUnlock level sig mctp) s = .next t.denyUnstarted ∧ (max level (s.fld rSecDbg 1 0) ≠ 3 → t.denyUnstarted = t)
          ∧ t.fld rSecDbg 1 0 = max level (s.fld rSecDbg 1 0) ∧ t.sec =
              { s.sec with challenge := none, failsNow := 0, aliasGone := s.sec.aliasGone || (max level (s.fld rSecDbg 1 0) = 3) }
          ∧ t = { s with regs := t.regs, out := t.out, host := t.host, io := t.io, sec := t.sec }))
    ∧ (s.fld rSecDbg 1 0 = 3 → (s.sched.wbs.map (·.wid)).Nodup → ∃ v : State, s.denyUnstarted = v.settle
      ∧ ∀ w ∈ s.sched.wbs, w.phase = .ready → s.sealed w.part = true → w.lost = none → v.endedWith w.wid stSecDenied 0 0)
    ∧ exec .debugChallengeExpire s = .next { s with sec := { s.sec with challenge := none } }
    ∧ exec .debugLockoutEnd s = .next { s with sec := { s.sec with lockout := false } }

/-- Attestation (R33, R75, R495, R500 to R503, R508). The numbers of the messages and the composition of what is signed are the
model's (log entry 29). -/
def Obligations.Attestation : Prop :=
  ∀ (s : State) (fw : Firmware) (t : Nat), s.sec.fw = some fw → s.firmwareOn = true → t < 2 → (t = 1 → s.hifReset = false) →
    let x := s.spdmOf t
    let say (code : Nat) (data : List Byte) : Out := .mgmt (0x100 * (t + 1) + code) data
    let err (code : Nat) : Out := say 0x7F [BitVec.ofNat 8 code]
    let chain := s.sec.certs.flatten ++ fw.cert
    let sig (body nonce : List Byte) : List Byte := Config.mlDsaSign (s.aliasSeed fw.digest fw.svn) (shake256 64 (nonce ++ body))
    (∃ u, exec (.getVersion t) s = .next u ∧ SpdmTo s u t
        { transport := t, version := true, caps := false, algs := [], handshake := none, session := none } (say 0x04 [0x12]))
    ∧ (∀ (b : Bool) (l : List SpdmAlg) (n off len : Nat) (i : Option Nat) (bs : List Byte), ∀ c ∈ ([(.getCapabilities t, x.version),
          (.negotiateAlgorithms t l, x.caps), (.getDigests t, !x.algs.isEmpty), (.getCertificate t n off len, !x.algs.isEmpty),
          (.challenge t n bs, !x.algs.isEmpty), (.getMeasurements t i b bs, !x.algs.isEmpty), (.keyExchange t bs, !x.algs.isEmpty),
          (.finish t b, x.handshake.isSome), (.endSession t, x.session.isSome), (.ideKm t bs, x.session.isSome)] : List (Instr × Bool)),
        c.2 = false → exec c.1 s = .next { s with out := s.out ++ [err 4] })
    ∧ (x.version = true → ∃ (u : State) (own : List Byte), exec (.getCapabilities t) s = .next u ∧ own.length = 9 ∧ SpdmTo s u t { x with caps := true }
        (say 0x61 ([0] ++ own.take 1 ++ [0, 0] ++ leBytes 4 spdmFlags ++ own.drop 1)))
    ∧ (x.caps = true → (∀ l, l ≠ [] → ∃ u, exec (.negotiateAlgorithms t l) s = .next u
          ∧ SpdmTo s u t { x with algs := l.eraseDups } (say 0x63 (algorithmsBody l)))
        ∧ exec (.negotiateAlgorithms t []) s = .next { s with out := s.out ++ [err 7] })
    ∧ (x.algs ≠ [] →
      exec (.getDigests t) s = .next { s with out := s.out ++ [say 0x01 (shake256 64 chain)] }
      ∧ (∀ slot off len, exec (.getCertificate t slot off len) s = .next { s with out := s.out ++
          [if slot ≠ 0 ∨ chain.length ≤ off then err 1
           else let part := (chain.drop off).take len
             say 0x02 (leBytes 2 part.length ++ leBytes 2 (chain.length - off - part.length) ++ part)] })
      ∧ (∀ slot nonce, slot ≠ 0 → exec (.challenge t slot nonce) s = .next { s with out := s.out ++ [err 1] })
      ∧ (∀ nonce, ∃ (u : State) (own : List Byte), exec (.challenge t 0 nonce) s = .next u ∧ own.length = 32
          ∧ let body := shake256 64 chain ++ own
            SpdmTo s u t x (if s.sec.aliasGone then err 5 else say 0x03 (body ++ sig body nonce)))
      ∧ (∀ (index : Option Nat) (nonce : List Byte),
          let want := match index with
            | none => measureIndices
            | some i => [i]
          let blocks := want.filterMap fun i => (s.measurement fw i).map (measureBlock i)
          (blocks = [] → ∀ sign, exec (.getMeasurements t index sign nonce) s = .next { s with out := s.out ++ [err 1] })
          ∧ (blocks ≠ [] → exec (.getMeasurements t index false nonce) s = .next { s with out := s.out ++ [say 0x60 blocks.flatten] }
            ∧ ∃ (u : State) (own : List Byte), exec (.getMeasurements t index true nonce) s = .next u ∧ own.length = 32
              ∧ let body := blocks.flatten ++ own
                SpdmTo s u t x (if s.sec.aliasGone then err 5 else say 0x60 (body ++ sig body nonce))))
      ∧ (∀ i, (s.measurement fw i).isSome = decide ((1 ≤ i ∧ i ≤ 6) ∨ (0x10 ≤ i ∧ i < 0x30)))
      ∧ ∀ key, ∃ u m, exec (.keyExchange t key) s = .next u ∧ m.length = 32
          ∧ let body := Config.mlKemEncapsulate key m
            SpdmTo s u t (if s.sec.aliasGone then x else { x with handshake := some (Config.mlKemSecret key m), session := none })
              (if s.sec.aliasGone then err 5 else say 0x64 (body ++ sig body key)))
    ∧ (∀ secret, x.handshake = some secret →
        (∃ u, exec (.finish t true) s = .next u
          ∧ SpdmTo s u t { x with handshake := none, session := some (Config.sessionKey secret, 0) }
              (say 0x65 (Config.sessionSeal secret 0 [0x65])))
        ∧ ∃ u, exec (.finish t false) s = .next u ∧ SpdmTo s u t { x with handshake := none, session := none } (err 6))
    ∧ (∀ key n, x.session = some (key, n) →
      let within (code : Nat) (data : List Byte) : Out := say code (Config.sessionSeal key n (leBytes 1 code ++ data))
      let y : Spdm := { x with session := some (key, n + 1) }
      (∃ u, exec (.endSession t) s = .next u ∧ SpdmTo s u t { x with session := none } (within 0x6C []))
      ∧ (∀ k, t = 0 ∨ rdN k 0 1 ∉ [2, 4, 5] → ∃ u, exec (.ideKm t k) s = .next u ∧ SpdmTo s u t y (within 0x7F [7]))
      ∧ (∀ k, t = 1 → rdN k 0 1 = 2 → ∃ u, exec (.ideKm t k) s = .next u
          ∧ SpdmTo { s with sec := { s.sec with ideKeys := s.sec.ideKeys ++ [k.drop 1] } } u t y (within 0x7E [0x03]))
      ∧ (∀ k, t = 1 → rdN k 0 1 = 4 → (∀ z ∈ s.sec.ideKeys, rdN z 0 1 ≠ rdN k 1 1) →
            ∃ u, exec (.ideKm t k) s = .next u ∧ SpdmTo s u t y (within 0x7F [1]))
      ∧ ∀ k, s.regsWf → t = 1 → (rdN k 0 1 = 5 ∨ (rdN k 0 1 = 4 ∧ ∃ z ∈ s.sec.ideKeys, rdN z 0 1 = rdN k 1 1)) →
            let b := if rdN k 1 1 = 0 then 12 else 13
            ∃ v u, exec (.ideKm t k) s = .next u ∧ RegsOnly (fun off => off = rHifLinkStatus) s v ∧ SpdmTo v u t y (within 0x7E [0x06])
              ∧ bit b (v.reg rHifLinkStatus) = decide (rdN k 0 1 = 4)
              ∧ ∀ j, j ≠ b → bit j (v.reg rHifLinkStatus) = bit j (s.reg rHifLinkStatus))
    ∧ ∀ msg, exec (.mctpControlMessage msg) s = .next { s with out := s.out ++ [.mgmt 0 (msg.take 1 ++ [0])] }

/-- A block that no partition owns has failed: an Expander (unit 1) or a Theodolite (unit 2). -/
def UnitFailed (s t : State) (u die src : Nat) : Prop :=
  t.err.badUnits = s.err.badUnits ++ [(u, die)]
  ∧ (t.reg rErrParity).toNat = satAdd 32 (s.reg rErrParity).toNat 1 ∧ (t.reg rErrBlockFail).toNat = satAdd 32 (s.reg rErrBlockFail).toNat 1
  ∧ t = { s with regs := t.regs, out := t.out, host := t.host, io := t.io, free := t.free, eng := { s.eng with checks := t.eng.checks },
                 err := { s.err with badUnits := t.err.badUnits } }
  ∧ ∃ (v : State) (c : Nat), c < 12 ∧ v.host = s.host ∧ v.io = s.io ∧ t.host = (v.emit (ev 0x0804 lvBlock none src [1, c, 0xFFFFFFFF])).host

/-- Errors and analogue checks (R513 to R523, R531). -/
def Obligations.ErrorsAreHandled : Prop :=
  ∀ s : State, s.regsWf →
    (∀ (k : EngKind) (i : Nat), i < kindCount s.assy k → s.fenced (dieOf k i).1 (dieOf k i).2 = false →
      (s.failed k i = false → ∃ u : State, exec (.controlParityFailure (.block k i)) s = .next u.sweepBusy.settle ∧ u.useOf k i = none
        ∧ (s.useOf k i = none → k = .mxe ∨ k = .vxe ∨ k = .cve → u.failed k i = true ∧ u.avail k i = false
            ∧ (u.reg rErrBlockFail).toNat = satAdd 32 (s.reg rErrBlockFail).toNat 1
            ∧ (u.reg rErrParity).toNat = satAdd 32 (s.reg rErrParity).toNat 1
            ∧ u = { s with regs := u.regs, out := u.out, host := u.host, io := u.io, free := u.free, err := u.err, sched := u.sched }))
      ∧ (s.failed k i = true → Fences s (exec (.blockIdleTimeout k i) s) (dieOf k i).1 (dieOf k i).2)
      ∧ (s.failed k i = false → exec (.blockIdleTimeout k i) s = .next s))
    ∧ (∀ die, die < 4 →
      (s.fenced 2 die = false → (1, die) ∉ s.err.badUnits → ∃ t, exec (.controlParityFailure (.expander die)) s = .next t
        ∧ UnitFailed s t 1 die (srcOf 2 die) ∧ t.eng = s.eng)
      ∧ (s.fenced 1 die = false → (2, die) ∉ s.err.badUnits → ∃ t, exec (.controlParityFailure (.theodolite die)) s = .next t
        ∧ UnitFailed s t 2 die (srcOf 1 die) ∧ ∀ c, c ∈ t.eng.checks ↔ c ∈ s.eng.checks ∧ c.die ≠ die))
    ∧ ((∀ kind die, die < dieCount s.assy kind → s.fenced kind die = false →
        Fences (s.bump rErrParity 1) (exec (.controlParityFailure (.signalBox kind die)) s) kind die)
      ∧ (∀ die, die < 4 → s.fenced 2 die = false →
        Fences (s.bump rErrUeSram 1) (exec (.controlParityFailure (.surveyor die)) s) 2 die)
      ∧ ∀ k d k2 d2, junctionLink s.assy k d k2 d2 = true → s.fenced k d = false → s.fenced k2 d2 = false →
        let gone := if k = 3 then (k, d) else if k2 = 3 then (k2, d2) else if k = 1 then (k, d) else (k2, d2)
        Fences s (exec (.junctionLinkFail k d k2 d2) s) gone.1 gone.2)
    ∧ (∀ (k d k2 d2 : Nat) (re : Bool), junctionLink s.assy k d k2 d2 = true → s.fenced k d = false → s.fenced k2 d2 = false →
        ∃ t, exec (.junctionFlitBad k d k2 d2 re) s = .next t
          ∧ t = { s with regs := t.regs, err := { s.err with merged := t.err.merged } }
          ∧ (t.reg rErrLinkRetry).toNat = satAdd 32 (s.reg rErrLinkRetry).toNat 1
          ∧ (∀ off, off ≠ rErrLinkRetry → t.reg off = s.reg off)
          ∧ if s.err.merged.any (fun x => x.code = 0x0805 ∧ x.src = srcOf k d) then
              ∀ x ∈ s.err.merged, x.code = 0x0805 → x.src = srcOf k d → ∃ y ∈ t.err.merged, y.code = 0x0805 ∧ y.src = srcOf k d
                ∧ y.count = x.count + 1 ∧ y.d1 = x.d1 + 1 ∧ y.d2 = x.d2 + if re then 1 else 0
            else ∃ y, t.err.merged = s.err.merged ++ [y] ∧ y.code = 0x0805 ∧ y.src = srcOf k d ∧ y.count = 1 ∧ y.d0 = srcOf k2 d2
              ∧ y.d1 = 1 ∧ y.d2 = if re then 1 else 0)
    ∧ (∀ (cause : Nat) (io : List IoRes), s.clk.run = none → s.pins.aux = true →
      (cause = 1 → ∃ t, exec (.chipFatal cause io) s = .next t ∧ ResetTaken s t 12 3 false ∧ t.fld rErrFatal 7 0 = 1
        ∧ t.reg64 rErrFatalTimeLo = s.aon % 2 ^ 64)
      ∧ (cause = 2 → ∃ t, exec (.chipFatal cause io) s = .next t ∧ t.reg rRstCause = w32 0x30C ∧ t.fld rErrFatal 7 0 = 2
        ∧ t.reg64 rErrFatalTimeLo = s.aon % 2 ^ 64 ∧ t.mem = [] ∧ t.sems = [] ∧ t.sched.wbs = [] ∧ t.host = HostIf.reset
        ∧ ∃ r, t.clk.run = some r ∧ r.kind = 3 ∧ r.inReset = (resetScope s.assy 3).filter fun d => !s.clk.kept.contains d))
    ∧ (∀ (die addr symbols : Nat) (ue : Bool), bit 1 (s.reg rErrCfg) = true → die < 4 → s.fenced 2 die = false → homeOf addr = die →
      swf markReset s.marks = true → ∃ t, exec (.scrubRead die addr symbols ue) s = .next t
        ∧ t = { s with regs := t.regs, out := t.out, host := t.host, io := t.io, free := t.free, err := t.err, marks := t.marks }
        ∧ (t.reg rErrScrubPass).toNat = (if (s.err.scrubAt.find? fun x => decide (x.1 = die)).any (fun x => decide (addr ≤ x.2)) then
            satAdd 32 (s.reg rErrScrubPass).toNat 1 else (s.reg rErrScrubPass).toNat)
        ∧ t.err.scrubAt.find? (fun x => decide (x.1 = die)) = some (die, addr) ∧ t.reg rErrPoisonRead = s.reg rErrPoisonRead
        ∧ let hbm : Prop := ∀ g, s.page (pageOf addr) = some g → g.place ≠ .siding
          let lost : Prop := ue = true ∨ (hbm ∧ 1 < symbols ∧ symbols ≤ 3) ∨ (¬hbm ∧ 3 < symbols ∧ symbols ≤ 5)
          let mended : Prop := ue = false ∧ symbols ≠ 0 ∧ ((hbm ∧ symbols ≤ 1) ∨ (¬hbm ∧ symbols ≤ 3))
          (∀ a, t.poisoned a = true ↔ s.poisoned a = true ∨ (lost ∧ a / 64 = addr / 64))
          ∧ (¬lost → ¬mended → ∀ off, off ≠ rErrScrubPass → t.reg off = s.reg off)
          ∧ (s.poisoned addr = true → ∀ off, off ≠ rErrScrubPass → t.reg off = s.reg off)
          ∧ (s.poisoned addr = false → lost →
              (hbm → (t.reg rErrUeHbm).toNat = satAdd 32 (s.reg rErrUeHbm).toNat 1)
              ∧ (¬hbm → (t.reg rErrUeSid).toNat = satAdd 32 (s.reg rErrUeSid).toNat 1))
          ∧ (s.poisoned addr = false → mended →
              (hbm → t.reg64 rErrCeHbmLo = (s.reg64 rErrCeHbmLo + 1) % 2 ^ 64)
              ∧ (¬hbm → t.reg64 rErrCeSidLo = (s.reg64 rErrCeSidLo + 1) % 2 ^ 64)))
    ∧ (∀ n value ch, (n < asmStacks s.assy → ∃ t, exec (.hbmPhyMarginCheck n value ch) s = .next t
          ∧ AnalogShown s t 4 n (decide (value < 15)) (srcOf 12 n) value)
        ∧ (n < 24 → ∃ t, exec (.lpddrPhyCheck n value ch) s = .next t ∧ AnalogShown s t 5 n (decide (value < 15)) (srcOf 13 n) value)
        ∧ (n < 16 → ∃ t, exec (.cxlMarginCheck n value) s = .next t ∧ AnalogShown s t 6 n (decide (value < 15)) (srcOf 3 0) value))
    ∧ ∀ n errors, s.hasPort n = true → s.fenced 3 (n / 25) = false → bit 0 (s.reg (rVrlPortCtl n)) = false →
        (∀ p, s.port n = some p → p.en = false) → ∃ t, exec (.portLoopbackCheck n errors) s = .next t
          ∧ AnalogShown { s with vrl := t.vrl } t 2 n (decide (errors ≠ 0)) (srcOf 10 n) errors
          ∧ t.vrl = { s.vrl with ports := t.vrl.ports } ∧ (∀ k, k ≠ n → t.port k = s.port k)
          ∧ (errors = 0 → t.vrl = s.vrl) ∧ (errors ≠ 0 → ∃ p, t.port n = some p ∧ p.state = 5 ∧ p.en = false)

/-- Self-test (R525 to R529, R534). A slice that no signatures are given for passes (the model's choice, log entry 1). -/
def Obligations.SelfTest : Prop :=
  ∀ (s : State) (k : EngKind) (i slice : Nat), s.regsWf →
    let this (d : Due) : Prop := d.kind = k ∧ d.inst = i ∧ d.slice = slice
    (s.bstOn = true → s.sliceOk k i slice = true →
      exec (.bstSliceDue k i slice) s = .next (if ∃ d ∈ s.err.due, this d then s
        else { s with err := { s.err with due := s.err.due ++ [{ kind := k, inst := i, slice := slice, overdue := false }] } }))
    ∧ (s.bstOn = true → (∃ d ∈ s.err.due, this d ∧ d.overdue = false) → ∃ t, exec (.bstSliceOverdue k i slice) s = .next t
        ∧ (t.reg rBstOverdue).toNat = satAdd 32 (s.reg rBstOverdue).toNat 1 ∧ (∀ d ∈ t.err.due, this d → d.overdue = true)
        ∧ (∀ d, ¬this d → (d ∈ t.err.due ↔ d ∈ s.err.due))
        ∧ t = { s with regs := t.regs, err := { s.err with due := t.err.due, tally := t.err.tally } }
        ∧ (engDomain k i ∈ asmDomains s.assy → s.domainOff (engDomain k i) = false → bit (engDomain k i) (t.reg rClkRun) = true ∨ bit (engDomain k i) (t.reg rClkLocking) = true))
    ∧ (let may : Prop := s.bstOn = true ∧ s.sliceOk k i slice = true ∧ (∃ d ∈ s.err.due, this d)
          ∧ (∀ x ∈ s.err.slices, dieOf x.kind x.inst ≠ dieOf k i) ∧ s.testIdle k i = true ∧ bit (engDomain k i) (s.reg rClkRun) = true
          ∧ (s.longIdle k i = true ∨ ∃ d ∈ s.err.due, this d ∧ d.overdue = true)
      (may → ∃ t, exec (.bstSliceStart k i slice) s = .next t ∧ t.useOf k i = some .selfTest
        ∧ (∀ k2 i2, (k2, i2) ≠ (k, i) → t.useOf k2 i2 = s.useOf k2 i2)
        ∧ t.err = { s.err with due := t.err.due, slices := s.err.slices ++ [{ kind := k, inst := i, slice := slice, second := false }] }
        ∧ (∀ d, d ∈ t.err.due ↔ (d ∈ s.err.due ∧ ¬this d)) ∧ t.fld rBstStatus 11 8 = kindCode k ∧ t.fld rBstStatus 27 16 = i
        ∧ bit 0 (t.reg rBstStatus) = true
        ∧ t = { s with regs := t.regs, sched := { s.sched with insts := t.sched.insts }, err := t.err, pwr := t.pwr })
      ∧ (¬may → exec (.bstSliceStart k i slice) s = .next s))
    ∧ (∀ (want got : Word) (x : SliceRun), s.err.slices.find? (fun x => decide (x.kind = k ∧ x.inst = i)) = some x →
      (want = got → ∃ u : State, exec (.bstSliceDone k i want got) s = .next u.settle ∧ u.useOf k i = none ∧ u.failed k i = s.failed k i
        ∧ (∀ y ∈ u.err.slices, ¬(y.kind = k ∧ y.inst = i)) ∧ u.reg rBstFails = s.reg rBstFails
        ∧ u.reg64 rBstSlicesLo = (s.reg64 rBstSlicesLo + 1) % 2 ^ 64)
      ∧ (want ≠ got → x.second = false → ∃ t, exec (.bstSliceDone k i want got) s = .next t ∧ t.useOf k i = s.useOf k i
        ∧ (∃ y ∈ t.err.slices, y = { x with second := true }) ∧ (t.reg rBstFails).toNat = satAdd 32 (s.reg rBstFails).toNat 1
        ∧ t = { s with regs := t.regs, err := t.err })
      ∧ (want ≠ got → x.second = true → s.failed k i = false → ∃ u : State,
          exec (.bstSliceDone k i want got) s = .next (u.failBlock k i 2 x.slice).endCycle.settle ∧ u.useOf k i = none
          ∧ (u.reg rBstFails).toNat = satAdd 32 (s.reg rBstFails).toNat 1 ∧ u.failed k i = false))
    ∧ ∀ (w : Word) (sigs : List (Word × Word)), s.barOpen rBstCmd = true → bit 0 (s.reg rBstCmdStatus) = false →
      let i := bits 11 0 w
      let refused (r : Nat) : Prop := ∃ t, exec (.bstCmd w sigs) s = .next t ∧ RegsOnly (fun off => off = rBstCmdStatus) s t
          ∧ t.fld rBstCmdStatus 7 4 = r
      (kindOfCode (bits 15 12 w) = none → refused 3)
      ∧ ∀ k, kindOfCode (bits 15 12 w) = some k →
        (kindCount s.assy k ≤ i → refused 3)
        ∧ (i < kindCount s.assy k →
          (s.fenced (dieOf k i).1 (dieOf k i).2 = true → refused 4)
          ∧ (s.fenced (dieOf k i).1 (dieOf k i).2 = false → bit 0 (s.reg rBstStatus) = false → refused 5)
          ∧ (s.fenced (dieOf k i).1 (dieOf k i).2 = false → bit 0 (s.reg rBstStatus) = true →
            (s.blockIdle k i = false → refused 2)
            ∧ (s.blockIdle k i = true →
              ((∀ p ∈ sigs, p.1 = p.2) → ∃ u : State, exec (.bstCmd w sigs) s = .next u.settle ∧ u.fld rBstCmdStatus 7 4 = 0
                ∧ u.failed k i = false ∧ u.reg rBstFails = s.reg rBstFails ∧ u.fld rBstStatus 11 8 = kindCode k
                ∧ u.fld rBstStatus 27 16 = i ∧ u.reg64 rBstSlicesLo = (s.reg64 rBstSlicesLo + sliceCount k) % 2 ^ 64)
              ∧ (∀ p q rest, sigs = p :: q :: rest → p.1 ≠ p.2 → q.1 ≠ q.2 → ∃ u : State, exec (.bstCmd w sigs) s = .next u.settle
                ∧ u.fld rBstCmdStatus 7 4 = 1))))
end

