-- ==== Sys2Proof/Laws/Sparse.lean ====
section
/-! SUPPORT. Laws of the canonical sparse map: what a read gives after a write, and that every change keeps the canonical form. -/

namespace Sys2Proof.Machine

variable {α : Type} [DecidableEq α] {d : Nat → α}

/-- The canonical form of a tail, spelled out. -/
theorem swfFrom_cons {lo : Option Nat} {k : Nat} {v : α} {r : List (Nat × α)} :
    swfFrom d lo ((k, v) :: r) = true ↔ (∀ b, lo = some b → b < k) ∧ v ≠ d k ∧ swfFrom d (some k) r = true := by
  cases lo <;> simp [swfFrom, and_assoc]

/-- A lower bound may be lowered. -/
theorem swfFrom_mono {a b : Nat} (h : a ≤ b) {m : List (Nat × α)} (hm : swfFrom d (some b) m = true) :
    swfFrom d (some a) m = true := by
  cases m with
  | nil => rfl
  | cons x r =>
    obtain ⟨k, v⟩ := x
    rw [swfFrom_cons] at hm ⊢
    exact ⟨fun c hc => by cases hc; exact lt_of_le_of_lt h (hm.1 b rfl), hm.2⟩

/-- A bound may be left out. -/
theorem swfFrom_none {lo : Option Nat} {m : List (Nat × α)} (hm : swfFrom d lo m = true) : swfFrom d none m = true := by
  cases m with
  | nil => rfl
  | cons x r =>
    obtain ⟨k, v⟩ := x
    rw [swfFrom_cons] at hm ⊢
    exact ⟨fun c hc => (nomatch hc), hm.2⟩

/-- A key at or below the bound of a canonical list is not listed. -/
theorem sget_below {m : List (Nat × α)} {b k : Nat} (hm : swfFrom d (some b) m = true) (hk : k ≤ b) : sget d m k = d k := by
  induction m generalizing b with
  | nil => rfl
  | cons x r ih =>
    obtain ⟨k', v⟩ := x
    rw [swfFrom_cons] at hm
    have hb := hm.1 b rfl
    rw [sget, if_neg (by omega), ih hm.2.2 (by omega)]

/-- A write keeps the canonical form. -/
theorem swfFrom_sset {lo : Option Nat} {m : List (Nat × α)} {k : Nat} {v : α} (hm : swfFrom d lo m = true)
    (hk : ∀ b, lo = some b → b < k) : swfFrom d lo (sset d m k v) = true := by
  induction m generalizing lo with
  | nil =>
    rw [sset]; split
    · rfl
    · rename_i h; exact swfFrom_cons.2 ⟨hk, h, rfl⟩
  | cons x r ih =>
    obtain ⟨k', v'⟩ := x
    have hm' := swfFrom_cons.1 hm
    rw [sset]
    split
    · split
      · exact hm
      · rename_i h1 h2; exact swfFrom_cons.2 ⟨hk, h2, swfFrom_cons.2 ⟨fun b hb => by cases hb; exact h1, hm'.2⟩⟩
    · split
      · rename_i h1 h2; subst h2
        split
        · cases lo with
          | none => exact swfFrom_none hm'.2.2
          | some b => exact swfFrom_mono (le_of_lt (hk b rfl)) hm'.2.2
        · rename_i h3; exact swfFrom_cons.2 ⟨hk, h3, hm'.2.2⟩
      · rename_i h1 h2
        exact swfFrom_cons.2 ⟨hm'.1, hm'.2.1, ih hm'.2.2 fun b hb => by cases hb; omega⟩

/-- A write keeps the canonical form. -/
theorem swf_sset {m : List (Nat × α)} {k : Nat} {v : α} (hm : swf d m = true) : swf d (sset d m k v) = true :=
  swfFrom_sset hm fun _ h => nomatch h

/-- What a key reads as after a write. -/
theorem sget_sset {lo : Option Nat} {m : List (Nat × α)} {k j : Nat} {v : α} (hm : swfFrom d lo m = true) :
    sget d (sset d m k v) j = if j = k then v else sget d m j := by
  induction m generalizing lo with
  | nil =>
    rw [sset]; split
    · rename_i h; split
      · rename_i hj; subst hj; exact h.symm
      · rfl
    · by_cases hj : j = k
      · simp [sget, hj]
      · simp [sget, hj, Ne.symm hj]
  | cons x r ih =>
    obtain ⟨k', v'⟩ := x
    have hm' := swfFrom_cons.1 hm
    rw [sset]
    split
    · rename_i hlt
      split
      · rename_i hv; split
        · rename_i hj; subst hj
          rw [sget, if_neg (by omega), sget_below hm'.2.2 (by omega), hv]
        · rfl
      · by_cases hj : j = k
        · simp [sget, hj]
        · simp [sget, hj, Ne.symm hj]
    · split
      · rename_i h1 h2; subst h2
        split
        · rename_i hv; split
          · rename_i hj; subst hj; rw [sget_below hm'.2.2 le_rfl, hv]
          · rename_i hj; rw [sget, if_neg (fun h => hj h.symm)]
        · by_cases hj : j = k
          · simp [sget, hj]
          · simp [sget, hj, Ne.symm hj]
      · rename_i h1 h2
        rw [sget, sget]
        by_cases hk' : k' = j
        · simp [hk']; intro hj; omega
        · rw [if_neg hk', if_neg hk', ih hm'.2.2]

/-- A canonical map reads back what was written. -/
theorem sget_sset_same {m : List (Nat × α)} {k : Nat} {v : α} (hm : swf d m = true) : sget d (sset d m k v) k = v := by
  rw [sget_sset hm, if_pos rfl]

/-- A write leaves every other key alone. -/
theorem sget_sset_other {m : List (Nat × α)} {k j : Nat} {v : α} (hm : swf d m = true) (h : j ≠ k) :
    sget d (sset d m k v) j = sget d m j := by rw [sget_sset hm, if_neg h]

/-- Writing many values keeps the canonical form. -/
theorem swf_ssetMany {m : List (Nat × α)} {k : Nat} {vs : List α} (hm : swf d m = true) : swf d (ssetMany d m k vs) = true := by
  induction vs generalizing m k with
  | nil => exact hm
  | cons v vs ih => exact ih (swf_sset hm)

/-- What a key reads as after values were written at consecutive keys. -/
theorem sget_ssetMany {m : List (Nat × α)} {k j : Nat} {vs : List α} (hm : swf d m = true) :
    sget d (ssetMany d m k vs) j = if k ≤ j then vs.getD (j - k) (sget d m j) else sget d m j := by
  induction vs generalizing m k with
  | nil => simp [ssetMany]
  | cons v vs ih =>
    rw [ssetMany, ih (swf_sset hm), sget_sset hm]
    by_cases h : j = k
    · subst h; simp
    · by_cases h2 : k ≤ j
      · obtain ⟨i, rfl⟩ : ∃ i, j = k + 1 + i := ⟨j - (k + 1), by omega⟩
        rw [if_pos (by omega), if_neg h, if_pos h2, show k + 1 + i - (k + 1) = i by omega, show k + 1 + i - k = i + 1 by omega,
          List.getD_cons_succ]
      · rw [if_neg (by omega), if_neg h, if_neg h2]

/-- Leaving entries out keeps the canonical form. -/
theorem swfFrom_filter {lo : Option Nat} {m : List (Nat × α)} {p : Nat × α → Bool} (hm : swfFrom d lo m = true) :
    swfFrom d lo (m.filter p) = true := by
  induction m generalizing lo with
  | nil => exact hm
  | cons x r ih =>
    obtain ⟨k, v⟩ := x
    have hm' := swfFrom_cons.1 hm
    rw [List.filter_cons]
    split
    · exact swfFrom_cons.2 ⟨hm'.1, hm'.2.1, ih hm'.2.2⟩
    · cases lo with
      | none => exact swfFrom_none (ih hm'.2.2)
      | some b => exact swfFrom_mono (le_of_lt (hm'.1 b rfl)) (ih hm'.2.2)

/-- Leaving entries out keeps the canonical form. -/
theorem swf_filter {m : List (Nat × α)} {p : Nat × α → Bool} (hm : swf d m = true) : swf d (m.filter p) = true := swfFrom_filter hm

omit [DecidableEq α] in
/-- What a key reads as when entries are left out by their key. -/
theorem sget_filter {m : List (Nat × α)} {p : Nat → Bool} {j : Nat} :
    sget d (m.filter fun x => p x.1) j = if p j then sget d m j else d j := by
  induction m with
  | nil => simp [sget]
  | cons x r ih =>
    obtain ⟨k, v⟩ := x
    rw [List.filter_cons]
    by_cases hk : p k = true
    · rw [if_pos hk, sget, sget, ih]
      by_cases hj : k = j
      · subst hj; simp [hk]
      · rw [if_neg hj, if_neg hj]
    · rw [if_neg hk, sget, ih]
      by_cases hj : k = j
      · subst hj; simp [hk]
      · rw [if_neg hj]

end Sys2Proof.Machine
end

