-- ==== Sys2Proof/Laws/State.lean ====
section
/-! SUPPORT. What each named update of State leaves alone, field by field. -/

namespace Sys2Proof.Machine

open Sys2Proof

section
variable (s : State) (off : Nat) (w : Word)
@[simp] theorem State.setReg_assy : (s.setReg off w).assy = s.assy := rfl
@[simp] theorem State.setReg_aon : (s.setReg off w).aon = s.aon := rfl
@[simp] theorem State.setReg_pending : (s.setReg off w).pending = s.pending := rfl
@[simp] theorem State.setReg_free : (s.setReg off w).free = s.free := rfl
@[simp] theorem State.setReg_io : (s.setReg off w).io = s.io := rfl
@[simp] theorem State.setReg_out : (s.setReg off w).out = s.out := rfl
@[simp] theorem State.setReg_latched : (s.setReg off w).latched = s.latched := rfl
@[simp] theorem State.setReg_mem : (s.setReg off w).mem = s.mem := rfl
@[simp] theorem State.setReg_marks : (s.setReg off w).marks = s.marks := rfl
@[simp] theorem State.setReg_sems : (s.setReg off w).sems = s.sems := rfl
@[simp] theorem State.setReg_host : (s.setReg off w).host = s.host := rfl
@[simp] theorem State.setReg_sched : (s.setReg off w).sched = s.sched := rfl
@[simp] theorem State.setReg_place : (s.setReg off w).place = s.place := rfl
@[simp] theorem State.setReg_kv : (s.setReg off w).kv = s.kv := rfl
@[simp] theorem State.setReg_eng : (s.setReg off w).eng = s.eng := rfl
@[simp] theorem State.setReg_vrl : (s.setReg off w).vrl = s.vrl := rfl
@[simp] theorem State.setReg_colls : (s.setReg off w).colls = s.colls := rfl
@[simp] theorem State.setReg_codec : (s.setReg off w).codec = s.codec := rfl
@[simp] theorem State.setReg_pwr : (s.setReg off w).pwr = s.pwr := rfl
@[simp] theorem State.setReg_clk : (s.setReg off w).clk = s.clk := rfl
@[simp] theorem State.setReg_sec : (s.setReg off w).sec = s.sec := rfl
@[simp] theorem State.setReg_err : (s.setReg off w).err = s.err := rfl
@[simp] theorem State.setReg_pins : (s.setReg off w).pins = s.pins := rfl
end

section
variable (s : State) (off hi lo v : Nat)
@[simp] theorem State.setFld_assy : (s.setFld off hi lo v).assy = s.assy := rfl
@[simp] theorem State.setFld_aon : (s.setFld off hi lo v).aon = s.aon := rfl
@[simp] theorem State.setFld_pending : (s.setFld off hi lo v).pending = s.pending := rfl
@[simp] theorem State.setFld_free : (s.setFld off hi lo v).free = s.free := rfl
@[simp] theorem State.setFld_io : (s.setFld off hi lo v).io = s.io := rfl
@[simp] theorem State.setFld_out : (s.setFld off hi lo v).out = s.out := rfl
@[simp] theorem State.setFld_latched : (s.setFld off hi lo v).latched = s.latched := rfl
@[simp] theorem State.setFld_mem : (s.setFld off hi lo v).mem = s.mem := rfl
@[simp] theorem State.setFld_marks : (s.setFld off hi lo v).marks = s.marks := rfl
@[simp] theorem State.setFld_sems : (s.setFld off hi lo v).sems = s.sems := rfl
@[simp] theorem State.setFld_host : (s.setFld off hi lo v).host = s.host := rfl
@[simp] theorem State.setFld_sched : (s.setFld off hi lo v).sched = s.sched := rfl
@[simp] theorem State.setFld_place : (s.setFld off hi lo v).place = s.place := rfl
@[simp] theorem State.setFld_kv : (s.setFld off hi lo v).kv = s.kv := rfl
@[simp] theorem State.setFld_eng : (s.setFld off hi lo v).eng = s.eng := rfl
@[simp] theorem State.setFld_vrl : (s.setFld off hi lo v).vrl = s.vrl := rfl
@[simp] theorem State.setFld_colls : (s.setFld off hi lo v).colls = s.colls := rfl
@[simp] theorem State.setFld_codec : (s.setFld off hi lo v).codec = s.codec := rfl
@[simp] theorem State.setFld_pwr : (s.setFld off hi lo v).pwr = s.pwr := rfl
@[simp] theorem State.setFld_clk : (s.setFld off hi lo v).clk = s.clk := rfl
@[simp] theorem State.setFld_sec : (s.setFld off hi lo v).sec = s.sec := rfl
@[simp] theorem State.setFld_err : (s.setFld off hi lo v).err = s.err := rfl
@[simp] theorem State.setFld_pins : (s.setFld off hi lo v).pins = s.pins := rfl
end

section
variable (s : State) (off n : Nat)
@[simp] theorem State.bump_assy : (s.bump off n).assy = s.assy := rfl
@[simp] theorem State.bump_aon : (s.bump off n).aon = s.aon := rfl
@[simp] theorem State.bump_pending : (s.bump off n).pending = s.pending := rfl
@[simp] theorem State.bump_free : (s.bump off n).free = s.free := rfl
@[simp] theorem State.bump_io : (s.bump off n).io = s.io := rfl
@[simp] theorem State.bump_out : (s.bump off n).out = s.out := rfl
@[simp] theorem State.bump_latched : (s.bump off n).latched = s.latched := rfl
@[simp] theorem State.bump_mem : (s.bump off n).mem = s.mem := rfl
@[simp] theorem State.bump_marks : (s.bump off n).marks = s.marks := rfl
@[simp] theorem State.bump_sems : (s.bump off n).sems = s.sems := rfl
@[simp] theorem State.bump_host : (s.bump off n).host = s.host := rfl
@[simp] theorem State.bump_sched : (s.bump off n).sched = s.sched := rfl
@[simp] theorem State.bump_place : (s.bump off n).place = s.place := rfl
@[simp] theorem State.bump_kv : (s.bump off n).kv = s.kv := rfl
@[simp] theorem State.bump_eng : (s.bump off n).eng = s.eng := rfl
@[simp] theorem State.bump_vrl : (s.bump off n).vrl = s.vrl := rfl
@[simp] theorem State.bump_colls : (s.bump off n).colls = s.colls := rfl
@[simp] theorem State.bump_codec : (s.bump off n).codec = s.codec := rfl
@[simp] theorem State.bump_pwr : (s.bump off n).pwr = s.pwr := rfl
@[simp] theorem State.bump_clk : (s.bump off n).clk = s.clk := rfl
@[simp] theorem State.bump_sec : (s.bump off n).sec = s.sec := rfl
@[simp] theorem State.bump_err : (s.bump off n).err = s.err := rfl
@[simp] theorem State.bump_pins : (s.bump off n).pins = s.pins := rfl
end

section
variable (s : State) (off v : Nat)
@[simp] theorem State.setReg64_assy : (s.setReg64 off v).assy = s.assy := rfl
@[simp] theorem State.setReg64_aon : (s.setReg64 off v).aon = s.aon := rfl
@[simp] theorem State.setReg64_pending : (s.setReg64 off v).pending = s.pending := rfl
@[simp] theorem State.setReg64_free : (s.setReg64 off v).free = s.free := rfl
@[simp] theorem State.setReg64_io : (s.setReg64 off v).io = s.io := rfl
@[simp] theorem State.setReg64_out : (s.setReg64 off v).out = s.out := rfl
@[simp] theorem State.setReg64_latched : (s.setReg64 off v).latched = s.latched := rfl
@[simp] theorem State.setReg64_mem : (s.setReg64 off v).mem = s.mem := rfl
@[simp] theorem State.setReg64_marks : (s.setReg64 off v).marks = s.marks := rfl
@[simp] theorem State.setReg64_sems : (s.setReg64 off v).sems = s.sems := rfl
@[simp] theorem State.setReg64_host : (s.setReg64 off v).host = s.host := rfl
@[simp] theorem State.setReg64_sched : (s.setReg64 off v).sched = s.sched := rfl
@[simp] theorem State.setReg64_place : (s.setReg64 off v).place = s.place := rfl
@[simp] theorem State.setReg64_kv : (s.setReg64 off v).kv = s.kv := rfl
@[simp] theorem State.setReg64_eng : (s.setReg64 off v).eng = s.eng := rfl
@[simp] theorem State.setReg64_vrl : (s.setReg64 off v).vrl = s.vrl := rfl
@[simp] theorem State.setReg64_colls : (s.setReg64 off v).colls = s.colls := rfl
@[simp] theorem State.setReg64_codec : (s.setReg64 off v).codec = s.codec := rfl
@[simp] theorem State.setReg64_pwr : (s.setReg64 off v).pwr = s.pwr := rfl
@[simp] theorem State.setReg64_clk : (s.setReg64 off v).clk = s.clk := rfl
@[simp] theorem State.setReg64_sec : (s.setReg64 off v).sec = s.sec := rfl
@[simp] theorem State.setReg64_err : (s.setReg64 off v).err = s.err := rfl
@[simp] theorem State.setReg64_pins : (s.setReg64 off v).pins = s.pins := rfl
end

section
variable (s : State) (off n : Nat)
@[simp] theorem State.bump64_assy : (s.bump64 off n).assy = s.assy := rfl
@[simp] theorem State.bump64_aon : (s.bump64 off n).aon = s.aon := rfl
@[simp] theorem State.bump64_pending : (s.bump64 off n).pending = s.pending := rfl
@[simp] theorem State.bump64_free : (s.bump64 off n).free = s.free := rfl
@[simp] theorem State.bump64_io : (s.bump64 off n).io = s.io := rfl
@[simp] theorem State.bump64_out : (s.bump64 off n).out = s.out := rfl
@[simp] theorem State.bump64_latched : (s.bump64 off n).latched = s.latched := rfl
@[simp] theorem State.bump64_mem : (s.bump64 off n).mem = s.mem := rfl
@[simp] theorem State.bump64_marks : (s.bump64 off n).marks = s.marks := rfl
@[simp] theorem State.bump64_sems : (s.bump64 off n).sems = s.sems := rfl
@[simp] theorem State.bump64_host : (s.bump64 off n).host = s.host := rfl
@[simp] theorem State.bump64_sched : (s.bump64 off n).sched = s.sched := rfl
@[simp] theorem State.bump64_place : (s.bump64 off n).place = s.place := rfl
@[simp] theorem State.bump64_kv : (s.bump64 off n).kv = s.kv := rfl
@[simp] theorem State.bump64_eng : (s.bump64 off n).eng = s.eng := rfl
@[simp] theorem State.bump64_vrl : (s.bump64 off n).vrl = s.vrl := rfl
@[simp] theorem State.bump64_colls : (s.bump64 off n).colls = s.colls := rfl
@[simp] theorem State.bump64_codec : (s.bump64 off n).codec = s.codec := rfl
@[simp] theorem State.bump64_pwr : (s.bump64 off n).pwr = s.pwr := rfl
@[simp] theorem State.bump64_clk : (s.bump64 off n).clk = s.clk := rfl
@[simp] theorem State.bump64_sec : (s.bump64 off n).sec = s.sec := rfl
@[simp] theorem State.bump64_err : (s.bump64 off n).err = s.err := rfl
@[simp] theorem State.bump64_pins : (s.bump64 off n).pins = s.pins := rfl
end

section
variable (s : State) (o : Out)
@[simp] theorem State.put_assy : (s.put o).assy = s.assy := rfl
@[simp] theorem State.put_aon : (s.put o).aon = s.aon := rfl
@[simp] theorem State.put_pending : (s.put o).pending = s.pending := rfl
@[simp] theorem State.put_free : (s.put o).free = s.free := rfl
@[simp] theorem State.put_io : (s.put o).io = s.io := rfl
@[simp] theorem State.put_regs : (s.put o).regs = s.regs := rfl
@[simp] theorem State.put_latched : (s.put o).latched = s.latched := rfl
@[simp] theorem State.put_mem : (s.put o).mem = s.mem := rfl
@[simp] theorem State.put_marks : (s.put o).marks = s.marks := rfl
@[simp] theorem State.put_sems : (s.put o).sems = s.sems := rfl
@[simp] theorem State.put_host : (s.put o).host = s.host := rfl
@[simp] theorem State.put_sched : (s.put o).sched = s.sched := rfl
@[simp] theorem State.put_place : (s.put o).place = s.place := rfl
@[simp] theorem State.put_kv : (s.put o).kv = s.kv := rfl
@[simp] theorem State.put_eng : (s.put o).eng = s.eng := rfl
@[simp] theorem State.put_vrl : (s.put o).vrl = s.vrl := rfl
@[simp] theorem State.put_colls : (s.put o).colls = s.colls := rfl
@[simp] theorem State.put_codec : (s.put o).codec = s.codec := rfl
@[simp] theorem State.put_pwr : (s.put o).pwr = s.pwr := rfl
@[simp] theorem State.put_clk : (s.put o).clk = s.clk := rfl
@[simp] theorem State.put_sec : (s.put o).sec = s.sec := rfl
@[simp] theorem State.put_err : (s.put o).err = s.err := rfl
@[simp] theorem State.put_pins : (s.put o).pins = s.pins := rfl
end

section
variable (s : State) (k : EngKind) (i : Nat) (v : Bool)
@[simp] theorem State.setFailed_assy : (s.setFailed k i v).assy = s.assy := rfl
@[simp] theorem State.setFailed_aon : (s.setFailed k i v).aon = s.aon := rfl
@[simp] theorem State.setFailed_pending : (s.setFailed k i v).pending = s.pending := rfl
@[simp] theorem State.setFailed_free : (s.setFailed k i v).free = s.free := rfl
@[simp] theorem State.setFailed_io : (s.setFailed k i v).io = s.io := rfl
@[simp] theorem State.setFailed_out : (s.setFailed k i v).out = s.out := rfl
@[simp] theorem State.setFailed_latched : (s.setFailed k i v).latched = s.latched := rfl
@[simp] theorem State.setFailed_mem : (s.setFailed k i v).mem = s.mem := rfl
@[simp] theorem State.setFailed_marks : (s.setFailed k i v).marks = s.marks := rfl
@[simp] theorem State.setFailed_sems : (s.setFailed k i v).sems = s.sems := rfl
@[simp] theorem State.setFailed_host : (s.setFailed k i v).host = s.host := rfl
@[simp] theorem State.setFailed_sched : (s.setFailed k i v).sched = s.sched := rfl
@[simp] theorem State.setFailed_place : (s.setFailed k i v).place = s.place := rfl
@[simp] theorem State.setFailed_kv : (s.setFailed k i v).kv = s.kv := rfl
@[simp] theorem State.setFailed_eng : (s.setFailed k i v).eng = s.eng := rfl
@[simp] theorem State.setFailed_vrl : (s.setFailed k i v).vrl = s.vrl := rfl
@[simp] theorem State.setFailed_colls : (s.setFailed k i v).colls = s.colls := rfl
@[simp] theorem State.setFailed_codec : (s.setFailed k i v).codec = s.codec := rfl
@[simp] theorem State.setFailed_pwr : (s.setFailed k i v).pwr = s.pwr := rfl
@[simp] theorem State.setFailed_clk : (s.setFailed k i v).clk = s.clk := rfl
@[simp] theorem State.setFailed_sec : (s.setFailed k i v).sec = s.sec := rfl
@[simp] theorem State.setFailed_pins : (s.setFailed k i v).pins = s.pins := rfl
end

section
variable (s : State) (k : EngKind) (i : Nat) (u : Option Use)
@[simp] theorem State.setUse_assy : (s.setUse k i u).assy = s.assy := rfl
@[simp] theorem State.setUse_aon : (s.setUse k i u).aon = s.aon := rfl
@[simp] theorem State.setUse_pending : (s.setUse k i u).pending = s.pending := rfl
@[simp] theorem State.setUse_free : (s.setUse k i u).free = s.free := rfl
@[simp] theorem State.setUse_io : (s.setUse k i u).io = s.io := rfl
@[simp] theorem State.setUse_out : (s.setUse k i u).out = s.out := rfl
@[simp] theorem State.setUse_regs : (s.setUse k i u).regs = s.regs := rfl
@[simp] theorem State.setUse_latched : (s.setUse k i u).latched = s.latched := rfl
@[simp] theorem State.setUse_mem : (s.setUse k i u).mem = s.mem := rfl
@[simp] theorem State.setUse_marks : (s.setUse k i u).marks = s.marks := rfl
@[simp] theorem State.setUse_sems : (s.setUse k i u).sems = s.sems := rfl
@[simp] theorem State.setUse_host : (s.setUse k i u).host = s.host := rfl
@[simp] theorem State.setUse_place : (s.setUse k i u).place = s.place := rfl
@[simp] theorem State.setUse_kv : (s.setUse k i u).kv = s.kv := rfl
@[simp] theorem State.setUse_eng : (s.setUse k i u).eng = s.eng := rfl
@[simp] theorem State.setUse_vrl : (s.setUse k i u).vrl = s.vrl := rfl
@[simp] theorem State.setUse_colls : (s.setUse k i u).colls = s.colls := rfl
@[simp] theorem State.setUse_codec : (s.setUse k i u).codec = s.codec := rfl
@[simp] theorem State.setUse_pwr : (s.setUse k i u).pwr = s.pwr := rfl
@[simp] theorem State.setUse_clk : (s.setUse k i u).clk = s.clk := rfl
@[simp] theorem State.setUse_sec : (s.setUse k i u).sec = s.sec := rfl
@[simp] theorem State.setUse_err : (s.setUse k i u).err = s.err := rfl
@[simp] theorem State.setUse_pins : (s.setUse k i u).pins = s.pins := rfl
end

section
variable (s : State) (i : Nat) (v : DWord)
@[simp] theorem State.setSem_assy : (s.setSem i v).assy = s.assy := rfl
@[simp] theorem State.setSem_aon : (s.setSem i v).aon = s.aon := rfl
@[simp] theorem State.setSem_pending : (s.setSem i v).pending = s.pending := rfl
@[simp] theorem State.setSem_free : (s.setSem i v).free = s.free := rfl
@[simp] theorem State.setSem_io : (s.setSem i v).io = s.io := rfl
@[simp] theorem State.setSem_out : (s.setSem i v).out = s.out := rfl
@[simp] theorem State.setSem_regs : (s.setSem i v).regs = s.regs := rfl
@[simp] theorem State.setSem_latched : (s.setSem i v).latched = s.latched := rfl
@[simp] theorem State.setSem_mem : (s.setSem i v).mem = s.mem := rfl
@[simp] theorem State.setSem_marks : (s.setSem i v).marks = s.marks := rfl
@[simp] theorem State.setSem_host : (s.setSem i v).host = s.host := rfl
@[simp] theorem State.setSem_sched : (s.setSem i v).sched = s.sched := rfl
@[simp] theorem State.setSem_place : (s.setSem i v).place = s.place := rfl
@[simp] theorem State.setSem_kv : (s.setSem i v).kv = s.kv := rfl
@[simp] theorem State.setSem_eng : (s.setSem i v).eng = s.eng := rfl
@[simp] theorem State.setSem_vrl : (s.setSem i v).vrl = s.vrl := rfl
@[simp] theorem State.setSem_colls : (s.setSem i v).colls = s.colls := rfl
@[simp] theorem State.setSem_codec : (s.setSem i v).codec = s.codec := rfl
@[simp] theorem State.setSem_pwr : (s.setSem i v).pwr = s.pwr := rfl
@[simp] theorem State.setSem_clk : (s.setSem i v).clk = s.clk := rfl
@[simp] theorem State.setSem_sec : (s.setSem i v).sec = s.sec := rfl
@[simp] theorem State.setSem_err : (s.setSem i v).err = s.err := rfl
@[simp] theorem State.setSem_pins : (s.setSem i v).pins = s.pins := rfl
end

section
variable (s : State) (line : Nat) (v : Bool)
@[simp] theorem State.mark_assy : (s.mark line v).assy = s.assy := rfl
@[simp] theorem State.mark_aon : (s.mark line v).aon = s.aon := rfl
@[simp] theorem State.mark_pending : (s.mark line v).pending = s.pending := rfl
@[simp] theorem State.mark_free : (s.mark line v).free = s.free := rfl
@[simp] theorem State.mark_io : (s.mark line v).io = s.io := rfl
@[simp] theorem State.mark_out : (s.mark line v).out = s.out := rfl
@[simp] theorem State.mark_regs : (s.mark line v).regs = s.regs := rfl
@[simp] theorem State.mark_latched : (s.mark line v).latched = s.latched := rfl
@[simp] theorem State.mark_mem : (s.mark line v).mem = s.mem := rfl
@[simp] theorem State.mark_sems : (s.mark line v).sems = s.sems := rfl
@[simp] theorem State.mark_host : (s.mark line v).host = s.host := rfl
@[simp] theorem State.mark_sched : (s.mark line v).sched = s.sched := rfl
@[simp] theorem State.mark_place : (s.mark line v).place = s.place := rfl
@[simp] theorem State.mark_kv : (s.mark line v).kv = s.kv := rfl
@[simp] theorem State.mark_eng : (s.mark line v).eng = s.eng := rfl
@[simp] theorem State.mark_vrl : (s.mark line v).vrl = s.vrl := rfl
@[simp] theorem State.mark_colls : (s.mark line v).colls = s.colls := rfl
@[simp] theorem State.mark_codec : (s.mark line v).codec = s.codec := rfl
@[simp] theorem State.mark_pwr : (s.mark line v).pwr = s.pwr := rfl
@[simp] theorem State.mark_clk : (s.mark line v).clk = s.clk := rfl
@[simp] theorem State.mark_sec : (s.mark line v).sec = s.sec := rfl
@[simp] theorem State.mark_err : (s.mark line v).err = s.err := rfl
@[simp] theorem State.mark_pins : (s.mark line v).pins = s.pins := rfl
end

section
variable (s : State) (a : Nat) (bs : List Byte)
@[simp] theorem State.memStore_assy : (s.memStore a bs).assy = s.assy := rfl
@[simp] theorem State.memStore_aon : (s.memStore a bs).aon = s.aon := rfl
@[simp] theorem State.memStore_pending : (s.memStore a bs).pending = s.pending := rfl
@[simp] theorem State.memStore_free : (s.memStore a bs).free = s.free := rfl
@[simp] theorem State.memStore_io : (s.memStore a bs).io = s.io := rfl
@[simp] theorem State.memStore_out : (s.memStore a bs).out = s.out := rfl
@[simp] theorem State.memStore_regs : (s.memStore a bs).regs = s.regs := rfl
@[simp] theorem State.memStore_latched : (s.memStore a bs).latched = s.latched := rfl
@[simp] theorem State.memStore_marks : (s.memStore a bs).marks = s.marks := rfl
@[simp] theorem State.memStore_sems : (s.memStore a bs).sems = s.sems := rfl
@[simp] theorem State.memStore_host : (s.memStore a bs).host = s.host := rfl
@[simp] theorem State.memStore_sched : (s.memStore a bs).sched = s.sched := rfl
@[simp] theorem State.memStore_place : (s.memStore a bs).place = s.place := rfl
@[simp] theorem State.memStore_kv : (s.memStore a bs).kv = s.kv := rfl
@[simp] theorem State.memStore_eng : (s.memStore a bs).eng = s.eng := rfl
@[simp] theorem State.memStore_vrl : (s.memStore a bs).vrl = s.vrl := rfl
@[simp] theorem State.memStore_colls : (s.memStore a bs).colls = s.colls := rfl
@[simp] theorem State.memStore_codec : (s.memStore a bs).codec = s.codec := rfl
@[simp] theorem State.memStore_pwr : (s.memStore a bs).pwr = s.pwr := rfl
@[simp] theorem State.memStore_clk : (s.memStore a bs).clk = s.clk := rfl
@[simp] theorem State.memStore_sec : (s.memStore a bs).sec = s.sec := rfl
@[simp] theorem State.memStore_err : (s.memStore a bs).err = s.err := rfl
@[simp] theorem State.memStore_pins : (s.memStore a bs).pins = s.pins := rfl
end

section
variable (s : State) (p : Nat) (f : Partn → Partn)
@[simp] theorem State.updPart_assy : (s.updPart p f).assy = s.assy := rfl
@[simp] theorem State.updPart_aon : (s.updPart p f).aon = s.aon := rfl
@[simp] theorem State.updPart_pending : (s.updPart p f).pending = s.pending := rfl
@[simp] theorem State.updPart_free : (s.updPart p f).free = s.free := rfl
@[simp] theorem State.updPart_io : (s.updPart p f).io = s.io := rfl
@[simp] theorem State.updPart_out : (s.updPart p f).out = s.out := rfl
@[simp] theorem State.updPart_regs : (s.updPart p f).regs = s.regs := rfl
@[simp] theorem State.updPart_latched : (s.updPart p f).latched = s.latched := rfl
@[simp] theorem State.updPart_mem : (s.updPart p f).mem = s.mem := rfl
@[simp] theorem State.updPart_marks : (s.updPart p f).marks = s.marks := rfl
@[simp] theorem State.updPart_sems : (s.updPart p f).sems = s.sems := rfl
@[simp] theorem State.updPart_host : (s.updPart p f).host = s.host := rfl
@[simp] theorem State.updPart_place : (s.updPart p f).place = s.place := rfl
@[simp] theorem State.updPart_kv : (s.updPart p f).kv = s.kv := rfl
@[simp] theorem State.updPart_eng : (s.updPart p f).eng = s.eng := rfl
@[simp] theorem State.updPart_vrl : (s.updPart p f).vrl = s.vrl := rfl
@[simp] theorem State.updPart_colls : (s.updPart p f).colls = s.colls := rfl
@[simp] theorem State.updPart_codec : (s.updPart p f).codec = s.codec := rfl
@[simp] theorem State.updPart_pwr : (s.updPart p f).pwr = s.pwr := rfl
@[simp] theorem State.updPart_clk : (s.updPart p f).clk = s.clk := rfl
@[simp] theorem State.updPart_sec : (s.updPart p f).sec = s.sec := rfl
@[simp] theorem State.updPart_err : (s.updPart p f).err = s.err := rfl
@[simp] theorem State.updPart_pins : (s.updPart p f).pins = s.pins := rfl
end

section
variable (s : State) (wid : Nat) (f : Wb → Wb)
@[simp] theorem State.updWb_assy : (s.updWb wid f).assy = s.assy := rfl
@[simp] theorem State.updWb_aon : (s.updWb wid f).aon = s.aon := rfl
@[simp] theorem State.updWb_pending : (s.updWb wid f).pending = s.pending := rfl
@[simp] theorem State.updWb_free : (s.updWb wid f).free = s.free := rfl
@[simp] theorem State.updWb_io : (s.updWb wid f).io = s.io := rfl
@[simp] theorem State.updWb_out : (s.updWb wid f).out = s.out := rfl
@[simp] theorem State.updWb_regs : (s.updWb wid f).regs = s.regs := rfl
@[simp] theorem State.updWb_latched : (s.updWb wid f).latched = s.latched := rfl
@[simp] theorem State.updWb_mem : (s.updWb wid f).mem = s.mem := rfl
@[simp] theorem State.updWb_marks : (s.updWb wid f).marks = s.marks := rfl
@[simp] theorem State.updWb_sems : (s.updWb wid f).sems = s.sems := rfl
@[simp] theorem State.updWb_host : (s.updWb wid f).host = s.host := rfl
@[simp] theorem State.updWb_place : (s.updWb wid f).place = s.place := rfl
@[simp] theorem State.updWb_kv : (s.updWb wid f).kv = s.kv := rfl
@[simp] theorem State.updWb_eng : (s.updWb wid f).eng = s.eng := rfl
@[simp] theorem State.updWb_vrl : (s.updWb wid f).vrl = s.vrl := rfl
@[simp] theorem State.updWb_colls : (s.updWb wid f).colls = s.colls := rfl
@[simp] theorem State.updWb_codec : (s.updWb wid f).codec = s.codec := rfl
@[simp] theorem State.updWb_pwr : (s.updWb wid f).pwr = s.pwr := rfl
@[simp] theorem State.updWb_clk : (s.updWb wid f).clk = s.clk := rfl
@[simp] theorem State.updWb_sec : (s.updWb wid f).sec = s.sec := rfl
@[simp] theorem State.updWb_err : (s.updWb wid f).err = s.err := rfl
@[simp] theorem State.updWb_pins : (s.updWb wid f).pins = s.pins := rfl
end

section
variable (s : State) (cid : Nat) (f : Consist → Consist)
@[simp] theorem State.updConsist_assy : (s.updConsist cid f).assy = s.assy := rfl
@[simp] theorem State.updConsist_aon : (s.updConsist cid f).aon = s.aon := rfl
@[simp] theorem State.updConsist_pending : (s.updConsist cid f).pending = s.pending := rfl
@[simp] theorem State.updConsist_free : (s.updConsist cid f).free = s.free := rfl
@[simp] theorem State.updConsist_io : (s.updConsist cid f).io = s.io := rfl
@[simp] theorem State.updConsist_out : (s.updConsist cid f).out = s.out := rfl
@[simp] theorem State.updConsist_regs : (s.updConsist cid f).regs = s.regs := rfl
@[simp] theorem State.updConsist_latched : (s.updConsist cid f).latched = s.latched := rfl
@[simp] theorem State.updConsist_mem : (s.updConsist cid f).mem = s.mem := rfl
@[simp] theorem State.updConsist_marks : (s.updConsist cid f).marks = s.marks := rfl
@[simp] theorem State.updConsist_sems : (s.updConsist cid f).sems = s.sems := rfl
@[simp] theorem State.updConsist_host : (s.updConsist cid f).host = s.host := rfl
@[simp] theorem State.updConsist_place : (s.updConsist cid f).place = s.place := rfl
@[simp] theorem State.updConsist_kv : (s.updConsist cid f).kv = s.kv := rfl
@[simp] theorem State.updConsist_eng : (s.updConsist cid f).eng = s.eng := rfl
@[simp] theorem State.updConsist_vrl : (s.updConsist cid f).vrl = s.vrl := rfl
@[simp] theorem State.updConsist_colls : (s.updConsist cid f).colls = s.colls := rfl
@[simp] theorem State.updConsist_codec : (s.updConsist cid f).codec = s.codec := rfl
@[simp] theorem State.updConsist_pwr : (s.updConsist cid f).pwr = s.pwr := rfl
@[simp] theorem State.updConsist_clk : (s.updConsist cid f).clk = s.clk := rfl
@[simp] theorem State.updConsist_sec : (s.updConsist cid f).sec = s.sec := rfl
@[simp] theorem State.updConsist_err : (s.updConsist cid f).err = s.err := rfl
@[simp] theorem State.updConsist_pins : (s.updConsist cid f).pins = s.pins := rfl
end

/-- Leases that end change counters and the list of leases, and nothing else. -/
theorem State.endLeases_eq (s : State) (f : Lease → Bool) :
    s.endLeases f = { s with regs := (s.endLeases f).regs, place := { s.place with leases := s.place.leases.filter (fun l => !f l) } } := by
  have h : ∀ (l : List Lease) (t : State), l.foldl (fun s l => s.bump (rExpOldCopy (l.page % 4)) 1) t
      = { t with regs := (l.foldl (fun s l => s.bump (rExpOldCopy (l.page % 4)) 1) t).regs } := by
    intro l
    induction l with
    | nil => exact fun _ => rfl
    | cons x l ih => exact fun t => ih _
  unfold State.endLeases
  rw [h]

/-- A Waybill's end changes the counters of leases, its placement bookkeeping and its own entry, and nothing else. -/
theorem State.endWb_eq (s : State) (wid st detail src : Nat) :
    s.endWb wid st detail src = { s with
      regs := (s.endLeases fun l => decide (l.wid = wid)).regs
      place := { s.place with
        leases := s.place.leases.filter (fun l => !decide (l.wid = wid))
        begun := s.place.begun.filter (fun x => x.1 ≠ wid) }
      sched := (s.endWb wid st detail src).sched } := by
  have h := State.endLeases_eq s fun l => decide (l.wid = wid)
  unfold State.endWb
  rw [h]
  rfl

section
variable (s : State) (wid st detail src : Nat)
@[simp] theorem State.endWb_assy : (s.endWb wid st detail src).assy = s.assy := by rw [State.endWb_eq]
@[simp] theorem State.endWb_aon : (s.endWb wid st detail src).aon = s.aon := by rw [State.endWb_eq]
@[simp] theorem State.endWb_pending : (s.endWb wid st detail src).pending = s.pending := by rw [State.endWb_eq]
@[simp] theorem State.endWb_free : (s.endWb wid st detail src).free = s.free := by rw [State.endWb_eq]
@[simp] theorem State.endWb_io : (s.endWb wid st detail src).io = s.io := by rw [State.endWb_eq]
@[simp] theorem State.endWb_out : (s.endWb wid st detail src).out = s.out := by rw [State.endWb_eq]
@[simp] theorem State.endWb_latched : (s.endWb wid st detail src).latched = s.latched := by rw [State.endWb_eq]
@[simp] theorem State.endWb_mem : (s.endWb wid st detail src).mem = s.mem := by rw [State.endWb_eq]
@[simp] theorem State.endWb_marks : (s.endWb wid st detail src).marks = s.marks := by rw [State.endWb_eq]
@[simp] theorem State.endWb_sems : (s.endWb wid st detail src).sems = s.sems := by rw [State.endWb_eq]
@[simp] theorem State.endWb_host : (s.endWb wid st detail src).host = s.host := by rw [State.endWb_eq]
@[simp] theorem State.endWb_kv : (s.endWb wid st detail src).kv = s.kv := by rw [State.endWb_eq]
@[simp] theorem State.endWb_eng : (s.endWb wid st detail src).eng = s.eng := by rw [State.endWb_eq]
@[simp] theorem State.endWb_vrl : (s.endWb wid st detail src).vrl = s.vrl := by rw [State.endWb_eq]
@[simp] theorem State.endWb_colls : (s.endWb wid st detail src).colls = s.colls := by rw [State.endWb_eq]
@[simp] theorem State.endWb_codec : (s.endWb wid st detail src).codec = s.codec := by rw [State.endWb_eq]
@[simp] theorem State.endWb_pwr : (s.endWb wid st detail src).pwr = s.pwr := by rw [State.endWb_eq]
@[simp] theorem State.endWb_clk : (s.endWb wid st detail src).clk = s.clk := by rw [State.endWb_eq]
@[simp] theorem State.endWb_sec : (s.endWb wid st detail src).sec = s.sec := by rw [State.endWb_eq]
@[simp] theorem State.endWb_err : (s.endWb wid st detail src).err = s.err := by rw [State.endWb_eq]
@[simp] theorem State.endWb_pins : (s.endWb wid st detail src).pins = s.pins := by rw [State.endWb_eq]
end

section
variable (s : State) (p ns : Nat)
@[simp] theorem State.charge_assy : (s.charge p ns).assy = s.assy := rfl
@[simp] theorem State.charge_aon : (s.charge p ns).aon = s.aon := rfl
@[simp] theorem State.charge_pending : (s.charge p ns).pending = s.pending := rfl
@[simp] theorem State.charge_free : (s.charge p ns).free = s.free := rfl
@[simp] theorem State.charge_io : (s.charge p ns).io = s.io := rfl
@[simp] theorem State.charge_out : (s.charge p ns).out = s.out := rfl
@[simp] theorem State.charge_regs : (s.charge p ns).regs = s.regs := rfl
@[simp] theorem State.charge_latched : (s.charge p ns).latched = s.latched := rfl
@[simp] theorem State.charge_mem : (s.charge p ns).mem = s.mem := rfl
@[simp] theorem State.charge_marks : (s.charge p ns).marks = s.marks := rfl
@[simp] theorem State.charge_sems : (s.charge p ns).sems = s.sems := rfl
@[simp] theorem State.charge_host : (s.charge p ns).host = s.host := rfl
@[simp] theorem State.charge_place : (s.charge p ns).place = s.place := rfl
@[simp] theorem State.charge_kv : (s.charge p ns).kv = s.kv := rfl
@[simp] theorem State.charge_eng : (s.charge p ns).eng = s.eng := rfl
@[simp] theorem State.charge_vrl : (s.charge p ns).vrl = s.vrl := rfl
@[simp] theorem State.charge_colls : (s.charge p ns).colls = s.colls := rfl
@[simp] theorem State.charge_codec : (s.charge p ns).codec = s.codec := rfl
@[simp] theorem State.charge_pwr : (s.charge p ns).pwr = s.pwr := rfl
@[simp] theorem State.charge_clk : (s.charge p ns).clk = s.clk := rfl
@[simp] theorem State.charge_sec : (s.charge p ns).sec = s.sec := rfl
@[simp] theorem State.charge_err : (s.charge p ns).err = s.err := rfl
@[simp] theorem State.charge_pins : (s.charge p ns).pins = s.pins := rfl
end

section
variable (s : State) (n : Nat) (f : Ctx → Ctx)
@[simp] theorem State.updCtx_assy : (s.updCtx n f).assy = s.assy := rfl
@[simp] theorem State.updCtx_aon : (s.updCtx n f).aon = s.aon := rfl
@[simp] theorem State.updCtx_pending : (s.updCtx n f).pending = s.pending := rfl
@[simp] theorem State.updCtx_free : (s.updCtx n f).free = s.free := rfl
@[simp] theorem State.updCtx_io : (s.updCtx n f).io = s.io := rfl
@[simp] theorem State.updCtx_out : (s.updCtx n f).out = s.out := rfl
@[simp] theorem State.updCtx_regs : (s.updCtx n f).regs = s.regs := rfl
@[simp] theorem State.updCtx_latched : (s.updCtx n f).latched = s.latched := rfl
@[simp] theorem State.updCtx_mem : (s.updCtx n f).mem = s.mem := rfl
@[simp] theorem State.updCtx_marks : (s.updCtx n f).marks = s.marks := rfl
@[simp] theorem State.updCtx_sems : (s.updCtx n f).sems = s.sems := rfl
@[simp] theorem State.updCtx_host : (s.updCtx n f).host = s.host := rfl
@[simp] theorem State.updCtx_sched : (s.updCtx n f).sched = s.sched := rfl
@[simp] theorem State.updCtx_place : (s.updCtx n f).place = s.place := rfl
@[simp] theorem State.updCtx_kv : (s.updCtx n f).kv = s.kv := rfl
@[simp] theorem State.updCtx_eng : (s.updCtx n f).eng = s.eng := rfl
@[simp] theorem State.updCtx_vrl : (s.updCtx n f).vrl = s.vrl := rfl
@[simp] theorem State.updCtx_colls : (s.updCtx n f).colls = s.colls := rfl
@[simp] theorem State.updCtx_pwr : (s.updCtx n f).pwr = s.pwr := rfl
@[simp] theorem State.updCtx_clk : (s.updCtx n f).clk = s.clk := rfl
@[simp] theorem State.updCtx_sec : (s.updCtx n f).sec = s.sec := rfl
@[simp] theorem State.updCtx_err : (s.updCtx n f).err = s.err := rfl
@[simp] theorem State.updCtx_pins : (s.updCtx n f).pins = s.pins := rfl
end

section
variable (s : State) (wid : Nat) (f : Coll → Coll)
@[simp] theorem State.updColl_assy : (s.updColl wid f).assy = s.assy := rfl
@[simp] theorem State.updColl_aon : (s.updColl wid f).aon = s.aon := rfl
@[simp] theorem State.updColl_pending : (s.updColl wid f).pending = s.pending := rfl
@[simp] theorem State.updColl_free : (s.updColl wid f).free = s.free := rfl
@[simp] theorem State.updColl_io : (s.updColl wid f).io = s.io := rfl
@[simp] theorem State.updColl_out : (s.updColl wid f).out = s.out := rfl
@[simp] theorem State.updColl_regs : (s.updColl wid f).regs = s.regs := rfl
@[simp] theorem State.updColl_latched : (s.updColl wid f).latched = s.latched := rfl
@[simp] theorem State.updColl_mem : (s.updColl wid f).mem = s.mem := rfl
@[simp] theorem State.updColl_marks : (s.updColl wid f).marks = s.marks := rfl
@[simp] theorem State.updColl_sems : (s.updColl wid f).sems = s.sems := rfl
@[simp] theorem State.updColl_host : (s.updColl wid f).host = s.host := rfl
@[simp] theorem State.updColl_sched : (s.updColl wid f).sched = s.sched := rfl
@[simp] theorem State.updColl_place : (s.updColl wid f).place = s.place := rfl
@[simp] theorem State.updColl_kv : (s.updColl wid f).kv = s.kv := rfl
@[simp] theorem State.updColl_eng : (s.updColl wid f).eng = s.eng := rfl
@[simp] theorem State.updColl_vrl : (s.updColl wid f).vrl = s.vrl := rfl
@[simp] theorem State.updColl_codec : (s.updColl wid f).codec = s.codec := rfl
@[simp] theorem State.updColl_pwr : (s.updColl wid f).pwr = s.pwr := rfl
@[simp] theorem State.updColl_clk : (s.updColl wid f).clk = s.clk := rfl
@[simp] theorem State.updColl_sec : (s.updColl wid f).sec = s.sec := rfl
@[simp] theorem State.updColl_err : (s.updColl wid f).err = s.err := rfl
@[simp] theorem State.updColl_pins : (s.updColl wid f).pins = s.pins := rfl
end

section
variable (s : State) (n : Nat) (f : Port → Port)
@[simp] theorem State.updPort_assy : (s.updPort n f).assy = s.assy := rfl
@[simp] theorem State.updPort_aon : (s.updPort n f).aon = s.aon := rfl
@[simp] theorem State.updPort_pending : (s.updPort n f).pending = s.pending := rfl
@[simp] theorem State.updPort_free : (s.updPort n f).free = s.free := rfl
@[simp] theorem State.updPort_io : (s.updPort n f).io = s.io := rfl
@[simp] theorem State.updPort_out : (s.updPort n f).out = s.out := rfl
@[simp] theorem State.updPort_regs : (s.updPort n f).regs = s.regs := rfl
@[simp] theorem State.updPort_latched : (s.updPort n f).latched = s.latched := rfl
@[simp] theorem State.updPort_mem : (s.updPort n f).mem = s.mem := rfl
@[simp] theorem State.updPort_marks : (s.updPort n f).marks = s.marks := rfl
@[simp] theorem State.updPort_sems : (s.updPort n f).sems = s.sems := rfl
@[simp] theorem State.updPort_host : (s.updPort n f).host = s.host := rfl
@[simp] theorem State.updPort_sched : (s.updPort n f).sched = s.sched := rfl
@[simp] theorem State.updPort_place : (s.updPort n f).place = s.place := rfl
@[simp] theorem State.updPort_kv : (s.updPort n f).kv = s.kv := rfl
@[simp] theorem State.updPort_eng : (s.updPort n f).eng = s.eng := rfl
@[simp] theorem State.updPort_colls : (s.updPort n f).colls = s.colls := rfl
@[simp] theorem State.updPort_codec : (s.updPort n f).codec = s.codec := rfl
@[simp] theorem State.updPort_pwr : (s.updPort n f).pwr = s.pwr := rfl
@[simp] theorem State.updPort_clk : (s.updPort n f).clk = s.clk := rfl
@[simp] theorem State.updPort_sec : (s.updPort n f).sec = s.sec := rfl
@[simp] theorem State.updPort_err : (s.updPort n f).err = s.err := rfl
@[simp] theorem State.updPort_pins : (s.updPort n f).pins = s.pins := rfl
end

section
variable (s : State) (ep : Nat) (f : Peer → Peer)
@[simp] theorem State.updPeer_assy : (s.updPeer ep f).assy = s.assy := rfl
@[simp] theorem State.updPeer_aon : (s.updPeer ep f).aon = s.aon := rfl
@[simp] theorem State.updPeer_pending : (s.updPeer ep f).pending = s.pending := rfl
@[simp] theorem State.updPeer_free : (s.updPeer ep f).free = s.free := rfl
@[simp] theorem State.updPeer_io : (s.updPeer ep f).io = s.io := rfl
@[simp] theorem State.updPeer_out : (s.updPeer ep f).out = s.out := rfl
@[simp] theorem State.updPeer_regs : (s.updPeer ep f).regs = s.regs := rfl
@[simp] theorem State.updPeer_latched : (s.updPeer ep f).latched = s.latched := rfl
@[simp] theorem State.updPeer_mem : (s.updPeer ep f).mem = s.mem := rfl
@[simp] theorem State.updPeer_marks : (s.updPeer ep f).marks = s.marks := rfl
@[simp] theorem State.updPeer_sems : (s.updPeer ep f).sems = s.sems := rfl
@[simp] theorem State.updPeer_host : (s.updPeer ep f).host = s.host := rfl
@[simp] theorem State.updPeer_sched : (s.updPeer ep f).sched = s.sched := rfl
@[simp] theorem State.updPeer_place : (s.updPeer ep f).place = s.place := rfl
@[simp] theorem State.updPeer_kv : (s.updPeer ep f).kv = s.kv := rfl
@[simp] theorem State.updPeer_eng : (s.updPeer ep f).eng = s.eng := rfl
@[simp] theorem State.updPeer_colls : (s.updPeer ep f).colls = s.colls := rfl
@[simp] theorem State.updPeer_codec : (s.updPeer ep f).codec = s.codec := rfl
@[simp] theorem State.updPeer_pwr : (s.updPeer ep f).pwr = s.pwr := rfl
@[simp] theorem State.updPeer_clk : (s.updPeer ep f).clk = s.clk := rfl
@[simp] theorem State.updPeer_sec : (s.updPeer ep f).sec = s.sec := rfl
@[simp] theorem State.updPeer_err : (s.updPeer ep f).err = s.err := rfl
@[simp] theorem State.updPeer_pins : (s.updPeer ep f).pins = s.pins := rfl
end

section
variable (s : State) (wid : Nat) (f : Xfer → Xfer)
@[simp] theorem State.updXfer_assy : (s.updXfer wid f).assy = s.assy := rfl
@[simp] theorem State.updXfer_aon : (s.updXfer wid f).aon = s.aon := rfl
@[simp] theorem State.updXfer_pending : (s.updXfer wid f).pending = s.pending := rfl
@[simp] theorem State.updXfer_free : (s.updXfer wid f).free = s.free := rfl
@[simp] theorem State.updXfer_io : (s.updXfer wid f).io = s.io := rfl
@[simp] theorem State.updXfer_out : (s.updXfer wid f).out = s.out := rfl
@[simp] theorem State.updXfer_regs : (s.updXfer wid f).regs = s.regs := rfl
@[simp] theorem State.updXfer_latched : (s.updXfer wid f).latched = s.latched := rfl
@[simp] theorem State.updXfer_mem : (s.updXfer wid f).mem = s.mem := rfl
@[simp] theorem State.updXfer_marks : (s.updXfer wid f).marks = s.marks := rfl
@[simp] theorem State.updXfer_sems : (s.updXfer wid f).sems = s.sems := rfl
@[simp] theorem State.updXfer_host : (s.updXfer wid f).host = s.host := rfl
@[simp] theorem State.updXfer_sched : (s.updXfer wid f).sched = s.sched := rfl
@[simp] theorem State.updXfer_kv : (s.updXfer wid f).kv = s.kv := rfl
@[simp] theorem State.updXfer_eng : (s.updXfer wid f).eng = s.eng := rfl
@[simp] theorem State.updXfer_vrl : (s.updXfer wid f).vrl = s.vrl := rfl
@[simp] theorem State.updXfer_colls : (s.updXfer wid f).colls = s.colls := rfl
@[simp] theorem State.updXfer_codec : (s.updXfer wid f).codec = s.codec := rfl
@[simp] theorem State.updXfer_pwr : (s.updXfer wid f).pwr = s.pwr := rfl
@[simp] theorem State.updXfer_clk : (s.updXfer wid f).clk = s.clk := rfl
@[simp] theorem State.updXfer_sec : (s.updXfer wid f).sec = s.sec := rfl
@[simp] theorem State.updXfer_err : (s.updXfer wid f).err = s.err := rfl
@[simp] theorem State.updXfer_pins : (s.updXfer wid f).pins = s.pins := rfl
end

section
variable (s : State) (m : Merged)
@[simp] theorem State.merge_assy : (s.merge m).assy = s.assy := rfl
@[simp] theorem State.merge_aon : (s.merge m).aon = s.aon := rfl
@[simp] theorem State.merge_pending : (s.merge m).pending = s.pending := rfl
@[simp] theorem State.merge_free : (s.merge m).free = s.free := rfl
@[simp] theorem State.merge_io : (s.merge m).io = s.io := rfl
@[simp] theorem State.merge_out : (s.merge m).out = s.out := rfl
@[simp] theorem State.merge_regs : (s.merge m).regs = s.regs := rfl
@[simp] theorem State.merge_latched : (s.merge m).latched = s.latched := rfl
@[simp] theorem State.merge_mem : (s.merge m).mem = s.mem := rfl
@[simp] theorem State.merge_marks : (s.merge m).marks = s.marks := rfl
@[simp] theorem State.merge_sems : (s.merge m).sems = s.sems := rfl
@[simp] theorem State.merge_host : (s.merge m).host = s.host := rfl
@[simp] theorem State.merge_sched : (s.merge m).sched = s.sched := rfl
@[simp] theorem State.merge_place : (s.merge m).place = s.place := rfl
@[simp] theorem State.merge_kv : (s.merge m).kv = s.kv := rfl
@[simp] theorem State.merge_eng : (s.merge m).eng = s.eng := rfl
@[simp] theorem State.merge_vrl : (s.merge m).vrl = s.vrl := rfl
@[simp] theorem State.merge_colls : (s.merge m).colls = s.colls := rfl
@[simp] theorem State.merge_codec : (s.merge m).codec = s.codec := rfl
@[simp] theorem State.merge_pwr : (s.merge m).pwr = s.pwr := rfl
@[simp] theorem State.merge_clk : (s.merge m).clk = s.clk := rfl
@[simp] theorem State.merge_sec : (s.merge m).sec = s.sec := rfl
@[simp] theorem State.merge_pins : (s.merge m).pins = s.pins := rfl
end

section
variable (s : State)
@[simp] theorem State.seen_assy : (s.seen).assy = s.assy := rfl
@[simp] theorem State.seen_aon : (s.seen).aon = s.aon := rfl
@[simp] theorem State.seen_pending : (s.seen).pending = s.pending := rfl
@[simp] theorem State.seen_free : (s.seen).free = s.free := rfl
@[simp] theorem State.seen_io : (s.seen).io = s.io := rfl
@[simp] theorem State.seen_out : (s.seen).out = s.out := rfl
@[simp] theorem State.seen_regs : (s.seen).regs = s.regs := rfl
@[simp] theorem State.seen_latched : (s.seen).latched = s.latched := rfl
@[simp] theorem State.seen_mem : (s.seen).mem = s.mem := rfl
@[simp] theorem State.seen_marks : (s.seen).marks = s.marks := rfl
@[simp] theorem State.seen_sems : (s.seen).sems = s.sems := rfl
@[simp] theorem State.seen_host : (s.seen).host = s.host := rfl
@[simp] theorem State.seen_sched : (s.seen).sched = s.sched := rfl
@[simp] theorem State.seen_place : (s.seen).place = s.place := rfl
@[simp] theorem State.seen_kv : (s.seen).kv = s.kv := rfl
@[simp] theorem State.seen_eng : (s.seen).eng = s.eng := rfl
@[simp] theorem State.seen_vrl : (s.seen).vrl = s.vrl := rfl
@[simp] theorem State.seen_colls : (s.seen).colls = s.colls := rfl
@[simp] theorem State.seen_codec : (s.seen).codec = s.codec := rfl
@[simp] theorem State.seen_pwr : (s.seen).pwr = s.pwr := rfl
@[simp] theorem State.seen_clk : (s.seen).clk = s.clk := rfl
@[simp] theorem State.seen_sec : (s.seen).sec = s.sec := rfl
@[simp] theorem State.seen_pins : (s.seen).pins = s.pins := rfl
end

end Sys2Proof.Machine
end

