-- ==== Sys2Proof/Laws/Registers.lean ====
section
/-! SUPPORT. What the named operations on registers do: the value read afterwards, every other register unchanged, and the canonical
form kept. -/

namespace Sys2Proof.Machine

open Sys2Proof

/-- A register reads back what was stored, and every other register is unchanged. -/
theorem State.reg_setReg {s : State} (h : s.regsWf) (off : Nat) (w : Word) (j : Nat) :
    (s.setReg off w).reg j = if j = off then w else s.reg j := sget_sset h

theorem State.reg_setReg_same {s : State} (h : s.regsWf) (off : Nat) (w : Word) : (s.setReg off w).reg off = w := by
  rw [State.reg_setReg h, if_pos rfl]

theorem State.reg_setReg_other {s : State} (h : s.regsWf) {off j : Nat} (w : Word) (hj : j ≠ off) :
    (s.setReg off w).reg j = s.reg j := by rw [State.reg_setReg h, if_neg hj]

/-- Storing a register keeps the canonical form. -/
theorem State.regsWf_setReg {s : State} (h : s.regsWf) (off : Nat) (w : Word) : (s.setReg off w).regsWf := swf_sset h

theorem State.regsWf_setFld {s : State} (h : s.regsWf) (off hi lo v : Nat) : (s.setFld off hi lo v).regsWf := swf_sset h

theorem State.regsWf_bump {s : State} (h : s.regsWf) (off n : Nat) : (s.bump off n).regsWf := swf_sset h

theorem State.regsWf_setReg64 {s : State} (h : s.regsWf) (off v : Nat) : (s.setReg64 off v).regsWf :=
  State.regsWf_setReg (State.regsWf_setReg h _ _) _ _

theorem State.regsWf_bump64 {s : State} (h : s.regsWf) (off n : Nat) : (s.bump64 off n).regsWf := State.regsWf_setReg64 h _ _

theorem State.regsWf_setFailed {s : State} (h : s.regsWf) (k : EngKind) (i : Nat) (v : Bool) : (s.setFailed k i v).regsWf := by
  have h2 : (s.setFld (failedBit k i).1 (failedBit k i).2 (failedBit k i).2 (if v then 1 else 0)).regsWf := State.regsWf_setFld h _ _ _ _
  unfold State.regsWf State.setFailed at *
  by_cases hk : k = .gaz
  · simpa [hk] using h
  · simpa [hk] using h2

theorem State.regsWf_zeroRegs {s : State} (h : s.regsWf) (offs : List Nat) : (s.zeroRegs offs).regsWf := by
  unfold State.zeroRegs
  induction offs generalizing s with
  | nil => exact h
  | cons o os ih => exact ih (State.regsWf_setReg h o 0)

theorem State.regsWf_resetRegs {s : State} (h : s.regsWf) (offs : List Nat) : (s.resetRegs offs).regsWf := by
  unfold State.resetRegs
  induction offs generalizing s with
  | nil => exact h
  | cons o os ih => exact ih (State.regsWf_setReg h o _)

/-- Storing a register moves nothing but that register. -/
theorem State.regsOnly_setReg {s : State} (h : s.regsWf) (off : Nat) (w : Word) : RegsOnly (fun o => o = off) s (s.setReg off w) :=
  ⟨rfl, fun o ho => State.reg_setReg_other h w (by simpa using ho)⟩

/-- Storing a field moves nothing but its register. -/
theorem State.regsOnly_setFld {s : State} (h : s.regsWf) (off hi lo v : Nat) :
    RegsOnly (fun o => o = off) s (s.setFld off hi lo v) := State.regsOnly_setReg h off _

/-- Counting moves nothing but the counter, which holds at its highest value. -/
theorem State.reg_bump {s : State} (h : s.regsWf) (off n j : Nat) :
    ((s.bump off n).reg j).toNat = if j = off then satAdd 32 (s.reg off).toNat n else (s.reg j).toNat := by
  unfold State.bump
  rw [State.reg_setReg h]
  split
  · rw [w32, BitVec.toNat_ofNat, Nat.mod_eq_of_lt]
    unfold satAdd; omega
  · rfl

theorem State.reg_bump_other {s : State} (h : s.regsWf) {off j : Nat} (n : Nat) (hj : j ≠ off) : (s.bump off n).reg j = s.reg j :=
  State.reg_setReg_other h _ hj

/-- A pair of registers reads back what was stored, up to 64 bits. -/
theorem State.reg64_setReg64 {s : State} (h : s.regsWf) (off v : Nat) : (s.setReg64 off v).reg64 off = v % 2 ^ 64 := by
  unfold State.reg64 State.setReg64
  rw [State.reg_setReg (State.regsWf_setReg h _ _), State.reg_setReg (State.regsWf_setReg h _ _), State.reg_setReg h,
    if_neg (by omega), if_pos rfl, if_pos rfl, w32, w32, BitVec.toNat_ofNat, BitVec.toNat_ofNat]
  omega

theorem State.reg_setReg64_other {s : State} (h : s.regsWf) {off v j : Nat} (h1 : j ≠ off) (h2 : j ≠ off + 4) :
    (s.setReg64 off v).reg j = s.reg j := by
  unfold State.setReg64
  rw [State.reg_setReg (State.regsWf_setReg h _ _), if_neg h2, State.reg_setReg_other h _ h1]

/-- A 64-bit counter wraps. -/
theorem State.reg64_bump64 {s : State} (h : s.regsWf) (off n : Nat) : (s.bump64 off n).reg64 off = (s.reg64 off + n) % 2 ^ 64 := by
  unfold State.bump64
  rw [State.reg64_setReg64 h, Nat.mod_mod]

/-- Registers put at zero read zero; others are unchanged. -/
theorem State.reg_zeroRegs {s : State} (h : s.regsWf) (offs : List Nat) (j : Nat) :
    (s.zeroRegs offs).reg j = if j ∈ offs then 0 else s.reg j := by
  unfold State.zeroRegs
  induction offs generalizing s with
  | nil => simp
  | cons o os ih =>
    rw [List.foldl_cons, ih (State.regsWf_setReg h o 0), State.reg_setReg h]
    by_cases h1 : j ∈ os <;> by_cases h2 : j = o <;> simp [h1, h2]

/-- Putting registers at zero touches nothing but registers. -/
theorem State.zeroRegs_eq (s : State) (offs : List Nat) : s.zeroRegs offs = { s with regs := (s.zeroRegs offs).regs } := by
  unfold State.zeroRegs
  induction offs generalizing s with
  | nil => rfl
  | cons o os ih => rw [List.foldl_cons, ih]; rfl

/-- A command that puts a list of registers at zero clears exactly those. -/
theorem State.regsOnly_zeroRegs {s : State} (h : s.regsWf) (offs : List Nat) :
    RegsOnly (fun o => offs.contains o) s (s.zeroRegs offs) ∧ ∀ o ∈ offs, (s.zeroRegs offs).reg o = 0 := by
  refine ⟨⟨s.zeroRegs_eq offs, fun o ho => ?_⟩, fun o ho => ?_⟩
  · rw [State.reg_zeroRegs h, if_neg (by simpa using ho)]
  · rw [State.reg_zeroRegs h, if_pos ho]

/-- One bit of a field store: inside the field the bit of the value, outside the bit that was there. -/
theorem setBits_bit (hi lo : Nat) (x : Word) (v i : Nat) (hi32 : i < 32) :
    bit i (setBits hi lo x v) = if lo ≤ i ∧ i ≤ hi then v.testBit (i - lo) else bit i x := by
  unfold setBits bit putBits
  simp only [BitVec.getLsbD_or, BitVec.getLsbD_and, BitVec.getLsbD_not, BitVec.getLsbD_ofNat, hi32, decide_true, Bool.true_and,
    Nat.testBit_shiftLeft, Nat.testBit_two_pow_sub_one, Nat.testBit_mod_two_pow]
  by_cases h1 : lo ≤ i
  · by_cases h2 : i ≤ hi
    · have h3 : i - lo < hi + 1 - lo := by omega
      simp [h1, h2, h3]
    · have h3 : ¬ i - lo < hi + 1 - lo := by omega
      simp [h1, h2, h3]
  · simp [h1]

/-- A field reads back what was stored in it. -/
theorem bits_setBits (hi lo : Nat) (x : Word) (v : Nat) (h : lo ≤ hi) (h32 : hi < 32) :
    bits hi lo (setBits hi lo x v) = v % 2 ^ (hi + 1 - lo) := by
  apply Nat.eq_of_testBit_eq
  intro i
  unfold bits bitsN
  rw [Nat.testBit_mod_two_pow, Nat.testBit_shiftRight, Nat.testBit_mod_two_pow]
  by_cases hi2 : i < hi + 1 - lo
  · have := setBits_bit hi lo x v (lo + i) (by omega)
    rw [if_pos (by omega), Nat.add_sub_cancel_left] at this
    unfold bit BitVec.getLsbD at this
    rw [this]
  · simp [hi2]

/-- A field that shares no bit with the one stored is unchanged. -/
theorem bits_setBits_other (hi lo hi2 lo2 : Nat) (x : Word) (v : Nat) (h32 : hi2 < 32) (h : hi2 < lo ∨ hi < lo2) :
    bits hi2 lo2 (setBits hi lo x v) = bits hi2 lo2 x := by
  apply Nat.eq_of_testBit_eq
  intro i
  unfold bits bitsN
  rw [Nat.testBit_mod_two_pow, Nat.testBit_shiftRight, Nat.testBit_mod_two_pow, Nat.testBit_shiftRight]
  by_cases hi2' : i < hi2 + 1 - lo2
  · have := setBits_bit hi lo x v (lo2 + i) (by omega)
    rw [if_neg (by omega)] at this
    unfold bit BitVec.getLsbD at this
    rw [this]
  · simp [hi2']

/-- What a field of a register reads as after a field is stored. -/
theorem State.fld_setFld {s : State} (h : s.regsWf) (off hi lo v : Nat) (h1 : lo ≤ hi) (h2 : hi < 32) :
    (s.setFld off hi lo v).fld off hi lo = v % 2 ^ (hi + 1 - lo) := by
  unfold State.fld State.setFld
  rw [State.reg_setReg_same h, bits_setBits hi lo _ v h1 h2]

theorem State.fld_setFld_other {s : State} (h : s.regsWf) {off hi lo hi2 lo2 : Nat} (v : Nat) (h2 : hi2 < 32)
    (hd : hi2 < lo ∨ hi < lo2) : (s.setFld off hi lo v).fld off hi2 lo2 = s.fld off hi2 lo2 := by
  unfold State.fld State.setFld
  rw [State.reg_setReg_same h, bits_setBits_other _ _ _ _ _ _ h2 hd]

end Sys2Proof.Machine
end

