-- ==== Sys2Proof/Laws/Host.lean ====
section
/-! SUPPORT. What raising a vector and writing an event may do, said once: of registers only the event ring's count of lost events
and its enable, and the host interface with what is put out. -/

namespace Sys2Proof.Machine

open Sys2Proof

/-- Nothing but the host interface, what is put out and the event ring's two registers has moved, registers stay canonical, and no
outcome of a host access comes from nowhere. -/
structure EventOnly (s t : State) : Prop where
  host : HostOnly s t
  wf   : s.regsWf → t.regsWf
  reg  : s.regsWf → ∀ off, off ≠ rRngEvqLost → off ≠ rRngEvqCfg → t.reg off = s.reg off
  io   : s.io = [] → t.io = []

theorem EventOnly.refl (s : State) : EventOnly s s := ⟨rfl, id, fun _ _ _ _ => rfl, id⟩

theorem EventOnly.trans {s t u : State} (h : EventOnly s t) (k : EventOnly t u) : EventOnly s u where
  host := by
    have h1 := h.host; have h2 := k.host
    unfold HostOnly at *
    rw [h2, h1]
  wf := fun w => k.wf (h.wf w)
  reg := fun w off a b => by rw [k.reg (h.wf w) off a b, h.reg w off a b]
  io := fun w => k.io (h.io w)

/-- A change of the host interface's own state alone. -/
theorem EventOnly.ofHost (s : State) (f : HostIf) : EventOnly s { s with host := f } := ⟨rfl, id, fun _ _ _ _ => rfl, id⟩

theorem EventOnly.ofPut (s : State) (o : Out) : EventOnly s (s.put o) := ⟨rfl, id, fun _ _ _ _ => rfl, id⟩

theorem EventOnly.ofReg (s : State) {off : Nat} (w : Word) (h : off = rRngEvqLost ∨ off = rRngEvqCfg) : EventOnly s (s.setReg off w) where
  host := rfl
  wf := fun k => State.regsWf_setReg k _ _
  reg := fun k j a b => State.reg_setReg_other k w (by rcases h with rfl | rfl <;> assumption)
  io := id

/-- Raising a vector. -/
theorem State.raise_event (s : State) (v : Nat) : EventOnly s (s.raise v) := by
  unfold State.raise
  split
  · exact .refl s
  · split
    · split
      · exact .refl s
      · exact .ofHost s _
    · exact .ofPut s _

/-- Sending what is pending on a vector. -/
theorem State.unmask_event (s : State) (v : Nat) : EventOnly s (s.unmask v) := by
  unfold State.unmask
  split
  · exact (EventOnly.ofHost s _).trans (.ofPut _ _)
  · exact .refl s

/-- Taking the outcome of a host access. -/
theorem State.takeIo_event (s : State) : EventOnly s s.takeIo.2 := by
  unfold State.takeIo
  split <;> first | exact .refl s | exact ⟨rfl, id, fun _ _ _ _ => rfl, fun h => by simp_all⟩

/-- Taking the value of a head word. -/
theorem State.takeHead_event (s : State) : EventOnly s s.takeHead.2 := by
  unfold State.takeHead
  split <;> first | exact .refl s | exact ⟨rfl, id, fun _ _ _ _ => rfl, fun h => by simp_all⟩

theorem State.evqPoll_event (s : State) : EventOnly s s.evqPoll := by
  have h := s.takeHead_event
  unfold State.evqPoll
  split
  · rename_i v t e; rw [e] at h; exact h.trans (.ofHost t _)
  · rename_i t e; rw [e] at h; exact h

/-- Writing one event record. -/
theorem State.evqPut_event (s : State) (e : Ev) : EventOnly s (s.evqPut e) := by
  have h := s.takeIo_event
  unfold State.evqPut
  split
  · rename_i t eq; rw [eq] at h
    exact ((h.trans (.ofReg t _ (.inl rfl))).trans (.ofReg _ _ (.inr rfl))).trans (State.raise_event _ _)
  · rename_i r t _ eq; rw [eq] at h
    exact ((h.trans (.ofPut t _)).trans (.ofHost _ _)).trans (State.raise_event _ _)

theorem State.evqLostPut_event (s : State) : EventOnly s s.evqLostPut := by
  unfold State.evqLostPut
  split
  · exact .refl s
  · simp only []
    split
    · exact (State.evqPut_event s _).trans (.ofReg _ _ (.inl rfl))
    · exact State.evqPut_event s _

/-- The last part of writing an event: with no room it is lost. -/
theorem State.evqLast_event {s u : State} (h : EventOnly s u) (e : Ev) :
    EventOnly s (if !u.evqOn || u.evqFull then u.bump rRngEvqLost 1 else u.evqPut e) := by
  split
  · exact h.trans (.ofReg _ _ (.inl rfl))
  · exact h.trans (State.evqPut_event _ _)

/-- Writing an event, holding it or losing it (R35, R63, R67). -/
theorem State.emit_event (s : State) (e : Ev) : EventOnly s (s.emit e) := by
  unfold State.emit
  split
  · exact .refl s
  · split
    · exact .ofReg s _ (.inl rfl)
    · split
      · exact .ofHost s _
      · split
        · exact .ofReg s _ (.inl rfl)
        · have h : EventOnly s (if s.evqFull = true then s.evqPoll else s).evqLostPut :=
            EventOnly.trans (by split; exacts [s.evqPoll_event, .refl s]) (State.evqLostPut_event _)
          exact State.evqLast_event h e

/-- An event touches neither memory, marks, semaphores nor any work. -/
theorem State.emit_frame (s : State) (e : Ev) : (s.emit e).mem = s.mem ∧ (s.emit e).marks = s.marks ∧ (s.emit e).sems = s.sems
    ∧ (s.emit e).sched = s.sched ∧ (s.emit e).eng = s.eng ∧ (s.emit e).place = s.place ∧ (s.emit e).vrl = s.vrl
    ∧ (s.emit e).pending = s.pending := by
  have h := (s.emit_event e).host
  unfold HostOnly at h
  rw [h]
  exact ⟨rfl, rfl, rfl, rfl, rfl, rfl, rfl, rfl⟩

end Sys2Proof.Machine
end

