-- ==== Sys2Proof/Laws/Memory.lean ====
section
/-! SUPPORT. What the named operations on device memory, poison marks and semaphores do, and that each keeps the canonical form. -/

namespace Sys2Proof.Machine

open Sys2Proof

/-- Memory after a store: the bytes stored, and every other byte as before. -/
theorem State.memByte_memStore {s : State} (h : Memory.wf s.mem = true) (a : Nat) (bs : List Byte) (x : Nat) :
    (s.memStore a bs).memByte x = if a ≤ x then bs.getD (x - a) (s.memByte x) else s.memByte x := sget_ssetMany h

/-- A store keeps the canonical form of memory. -/
theorem Memory.wf_memStore {s : State} (h : Memory.wf s.mem = true) (a : Nat) (bs : List Byte) :
    Memory.wf (s.memStore a bs).mem = true := swf_ssetMany h

/-- A store leaves every byte outside its range alone. -/
theorem State.memByte_memStore_other {s : State} (h : Memory.wf s.mem = true) {a x : Nat} {bs : List Byte}
    (hx : x < a ∨ a + bs.length ≤ x) : (s.memStore a bs).memByte x = s.memByte x := by
  rw [State.memByte_memStore h]
  split
  · rw [List.getD_eq_default _ _ (by omega)]
  · rfl

/-- Marking lines moves nothing but marks. -/
theorem State.markAll_eq (s : State) (ls : List Nat) (v : Bool) : s.markAll ls v = { s with marks := (s.markAll ls v).marks } := by
  unfold State.markAll
  induction ls generalizing s with
  | nil => rfl
  | cons l ls ih => rw [List.foldl_cons, ih]; rfl

/-- Marking lines keeps the canonical form of the marks. -/
theorem State.marksWf_markAll {s : State} (h : swf markReset s.marks = true) (ls : List Nat) (v : Bool) :
    swf markReset (s.markAll ls v).marks = true := by
  unfold State.markAll
  induction ls generalizing s with
  | nil => exact h
  | cons l ls ih => exact ih (swf_sset h)

/-- The mark of a line after lines are marked. -/
theorem State.sget_markAll {s : State} (h : swf markReset s.marks = true) (ls : List Nat) (v : Bool) (l : Nat) :
    sget markReset (s.markAll ls v).marks l = if l ∈ ls then v else sget markReset s.marks l := by
  unfold State.markAll
  induction ls generalizing s with
  | nil => simp
  | cons k ls ih =>
    rw [List.foldl_cons, ih (swf_sset h)]
    have : sget markReset (s.mark k v).marks l = if l = k then v else sget markReset s.marks l := sget_sset h
    rw [this]
    by_cases h1 : l ∈ ls <;> by_cases h2 : l = k <;> simp [h1, h2]

/-- The lines of a range. -/
theorem mem_linesOf {a n l : Nat} : l ∈ linesOf a n ↔ n ≠ 0 ∧ a / 64 ≤ l ∧ l ≤ (a + n - 1) / 64 := by
  unfold linesOf
  split
  · simp_all
  · simp only [List.mem_map, List.mem_range]
    constructor
    · rintro ⟨i, hi, rfl⟩; omega
    · rintro ⟨_, h1, h2⟩; exact ⟨l - a / 64, by omega, by omega⟩

/-- A write: bytes stored, lines that it covers whole lose their mark, nothing else moves. -/
theorem State.memWrite_eq (s : State) (a : Nat) (bs : List Byte) :
    s.memWrite a bs = { s with mem := (s.memStore a bs).mem, marks := (s.memWrite a bs).marks } := by
  unfold State.memWrite; rw [State.markAll_eq]; rfl

theorem Memory.wf_memWrite {s : State} (h : Memory.wf s.mem = true) (a : Nat) (bs : List Byte) :
    Memory.wf (s.memWrite a bs).mem = true := by
  rw [State.memWrite_eq]; exact Memory.wf_memStore h a bs

theorem State.memByte_memWrite {s : State} (a : Nat) (bs : List Byte) (x : Nat) :
    (s.memWrite a bs).memByte x = (s.memStore a bs).memByte x := by
  rw [State.memWrite_eq]; rfl

theorem State.marksWf_memWrite {s : State} (h : swf markReset s.marks = true) (a : Nat) (bs : List Byte) :
    swf markReset (s.memWrite a bs).marks = true := State.marksWf_markAll (s := s.memStore a bs) h _ _

/-- The mark of a line after a write (R260). -/
theorem State.poisoned_memWrite {s : State} (h : swf markReset s.marks = true) (a : Nat) (bs : List Byte) (x : Nat) :
    (s.memWrite a bs).poisoned x = if x / 64 ∈ wholeLines a bs.length then false else s.poisoned x :=
  State.sget_markAll (s := s.memStore a bs) h _ _ _

/-- A poisoned write marks every line that it touches (R521). -/
theorem State.memWritePoison_eq (s : State) (a : Nat) (bs : List Byte) :
    s.memWritePoison a bs = { s with mem := (s.memStore a bs).mem, marks := (s.memWritePoison a bs).marks } := by
  unfold State.memWritePoison; rw [State.markAll_eq]; rfl

theorem Memory.wf_memWritePoison {s : State} (h : Memory.wf s.mem = true) (a : Nat) (bs : List Byte) :
    Memory.wf (s.memWritePoison a bs).mem = true := by
  rw [State.memWritePoison_eq]; exact Memory.wf_memStore h a bs

theorem State.marksWf_memWritePoison {s : State} (h : swf markReset s.marks = true) (a : Nat) (bs : List Byte) :
    swf markReset (s.memWritePoison a bs).marks = true := State.marksWf_markAll (s := s.memStore a bs) h _ _

theorem State.poisoned_memWritePoison {s : State} (h : swf markReset s.marks = true) (a : Nat) (bs : List Byte) (x : Nat) :
    (s.memWritePoison a bs).poisoned x = if x / 64 ∈ linesOf a bs.length then true else s.poisoned x :=
  State.sget_markAll (s := s.memStore a bs) h _ _ _

/-- A cleared range reads as zero and every other byte as before (R255). -/
theorem State.memByte_memClear {s : State} (a n x : Nat) :
    (s.memClear a n).memByte x = if a ≤ x ∧ x < a + n then memReset x else s.memByte x := by
  have := sget_filter (d := memReset) (m := s.mem) (p := fun k => !(decide (a ≤ k ∧ k < a + n))) (j := x)
  unfold State.memByte State.memClear
  rw [this]
  by_cases hx : a ≤ x ∧ x < a + n <;> simp [hx]

theorem Memory.wf_memClear {s : State} (h : Memory.wf s.mem = true) (a n : Nat) : Memory.wf (s.memClear a n).mem = true :=
  swf_filter h

theorem State.marksWf_memClear {s : State} (h : swf markReset s.marks = true) (a n : Nat) :
    swf markReset (s.memClear a n).marks = true := swf_filter h

/-- A semaphore reads back what was stored, and every other one is unchanged (R429). -/
theorem State.sem_setSem {s : State} (h : swf semReset s.sems = true) (i : Nat) (v : DWord) (j : Nat) :
    (s.setSem i v).sem j = if j = i then v else s.sem j := sget_sset h

theorem State.semsWf_setSem {s : State} (h : swf semReset s.sems = true) (i : Nat) (v : DWord) :
    swf semReset (s.setSem i v).sems = true := swf_sset h

end Sys2Proof.Machine
end

