-- ==== Sys2Proof/Laws/PerInstr.lean ====
section
/-! SUPPORT. One lemma per command of the family Form: what well-formedness says of the ports and the engines that a command
names (R1, R14, R298). -/

namespace Sys2Proof.Laws

open Sys2Proof Sys2Proof.Machine

/-- The ports that a command names. -/
def portsOf : Instr → List Nat
  | .join b => b.port.toList
  | .grant b => b.port.toList
  | .data port _ => port.toList
  | .check port => port.toList
  | .verdict port => port.toList
  | .poison port => port.toList
  | .abort port => port.toList
  | .portEnable n => [n]
  | .portDisable n => [n]
  | .portRetrain n => [n]
  | .linkTrained n _ => [n]
  | .frameLock n => [n]
  | .lockLost n => [n]
  | .laneLost n => [n]
  | .flitData n _ => [n]
  | .flitNak n _ => [n]
  | .flitIdle n _ => [n]
  | .replayTimeout n => [n]
  | .ackTimeout n => [n]
  | .assign port => port.toList
  | .noAssign n => [n]
  | .read port _ => port.toList
  | .write port => port.toList
  | .atomicAdd b => b.port.toList
  | .atomicSwap b => b.port.toList
  | .atomicCas b => b.port.toList
  | .readRsp port => port.toList
  | .writeRsp port => port.toList
  | .atomicRsp port => port.toList
  | .resolveRsp port => port.toList
  | .notice port => port.toList
  | .resetCmd port => port.toList
  | .vrlPortClr n => [n]
  | .portLoopbackCheck n _ => [n]
  | _ => []

/-- The engines that a command names with their kind. -/
def enginesOf : Instr → List (EngKind × Nat)
  | .positionReport kind inst _ => [(kind, inst)]
  | .instanceFree kind inst => [(kind, inst)]
  | .blockIdleTimeout kind inst => [(kind, inst)]
  | .bstSliceDue kind inst _ => [(kind, inst)]
  | .bstSliceOverdue kind inst _ => [(kind, inst)]
  | .bstSliceStart kind inst _ => [(kind, inst)]
  | .bstSliceDone kind inst _ _ => [(kind, inst)]
  | _ => []

/-- A port that a well-formed command names has a register block, and an engine that it names has a place on the largest
assembly. -/
def Form.Statement (i : Instr) : Prop :=
  i.wf = true → (∀ n ∈ portsOf i, n < 100) ∧ ∀ x ∈ enginesOf i, x.2 < kindCount .h12f4 x.1

theorem inst_ok_lt {k : EngKind} {i : Nat} (h : instOk k i = true) : i < kindCount .h12f4 k := by
  cases k <;> simpa [instOk, kindCount, asmIoDies] using h

/-- What the family says of a list of ports and a list of engines. -/
def Form.Bounded (ports : List Nat) (engines : List (EngKind × Nat)) : Prop :=
  (∀ n ∈ ports, n < 100) ∧ ∀ x ∈ engines, x.2 < kindCount .h12f4 x.1

theorem form_none : Form.Bounded [] [] := by simp [Form.Bounded]

theorem form_port {p : Option Nat} (h : portOk p = true) : Form.Bounded p.toList [] := by
  cases p <;> simp_all [Form.Bounded, portOk]

theorem form_number {n : Nat} (h : decide (n < 100) = true) : Form.Bounded [n] [] := by
  simpa [Form.Bounded] using h

theorem form_flit {n : Nat} {b : Bool} (h : (decide (n < 100) && b) = true) : Form.Bounded [n] [] :=
  form_number (Bool.and_eq_true_iff.1 h).1

theorem form_engine {k : EngKind} {i : Nat} (h : instOk k i = true) : Form.Bounded [] [(k, i)] := by
  simpa [Form.Bounded] using inst_ok_lt h

theorem Form.doorbellInvalidation (line : Nat) : Form.Statement (.doorbellInvalidation line) :=
  fun _ => form_none
theorem Form.doorbellReread (line : Nat) (rd : LineRead) (io : List IoRes) : Form.Statement (.doorbellReread line rd io) :=
  fun _ => form_none
theorem Form.consistAccept (ring : Nat) (slots : List SlotRead) (io : List IoRes) : Form.Statement (.consistAccept ring slots io) :=
  fun _ => form_none
theorem Form.cacheLoss (linkDown : Bool) : Form.Statement (.cacheLoss linkDown) :=
  fun _ => form_none
theorem Form.cacheReturn (speed : Nat) (width : Nat) (reads : List (Nat × LineRead)) (io : List IoRes) : Form.Statement (.cacheReturn speed width reads io) :=
  fun _ => form_none
theorem Form.nop (wid : Nat) : Form.Statement (.nop wid) :=
  fun _ => form_none
theorem Form.timestamp (wid : Nat) (io : List IoRes) : Form.Statement (.timestamp wid io) :=
  fun _ => form_none
theorem Form.runTimetable (b : WbRead) : Form.Statement (.runTimetable b) :=
  fun _ => form_none
theorem Form.xfer (wid : Nat) : Form.Statement (.xfer wid) :=
  fun _ => form_none
theorem Form.fill (wid : Nat) : Form.Statement (.fill wid) :=
  fun _ => form_none
theorem Form.map (wid : Nat) : Form.Statement (.map wid) :=
  fun _ => form_none
theorem Form.unmap (wid : Nat) : Form.Statement (.unmap wid) :=
  fun _ => form_none
theorem Form.hint (wid : Nat) : Form.Statement (.hint wid) :=
  fun _ => form_none
theorem Form.lendHost (wid : Nat) : Form.Statement (.lendHost wid) :=
  fun _ => form_none
theorem Form.lendFabric (wid : Nat) : Form.Statement (.lendFabric wid) :=
  fun _ => form_none
theorem Form.reclaim (wid : Nat) : Form.Statement (.reclaim wid) :=
  fun _ => form_none
theorem Form.reclaimDone (wid : Nat) : Form.Statement (.reclaimDone wid) :=
  fun _ => form_none
theorem Form.unmapRelease (wid : Nat) : Form.Statement (.unmapRelease wid) :=
  fun _ => form_none
theorem Form.hash (wid : Nat) (took : Took) : Form.Statement (.hash wid took) :=
  fun _ => form_none
theorem Form.lookup (wid : Nat) (took : Took) : Form.Statement (.lookup wid took) :=
  fun _ => form_none
theorem Form.insert (wid : Nat) (took : Took) : Form.Statement (.insert wid took) :=
  fun _ => form_none
theorem Form.release (wid : Nat) (took : Took) : Form.Statement (.release wid took) :=
  fun _ => form_none
theorem Form.remove (wid : Nat) (took : Took) : Form.Statement (.remove wid took) :=
  fun _ => form_none
theorem Form.viewOpen (wid : Nat) (took : Took) : Form.Statement (.viewOpen wid took) :=
  fun _ => form_none
theorem Form.viewClose (wid : Nat) (took : Took) : Form.Statement (.viewClose wid took) :=
  fun _ => form_none
theorem Form.viewCloseDone (wid : Nat) : Form.Statement (.viewCloseDone wid) :=
  fun _ => form_none
theorem Form.viewRead (wid : Nat) (addr : Nat) (len : Nat) (m : Marks) : Form.Statement (.viewRead wid addr len m) :=
  fun _ => form_none
theorem Form.codecOpen (b : WbRead) : Form.Statement (.codecOpen b) :=
  fun _ => form_none
theorem Form.codecClose (wid : Nat) : Form.Statement (.codecClose wid) :=
  fun _ => form_none
theorem Form.decode (wid : Nat) : Form.Statement (.decode wid) :=
  fun _ => form_none
theorem Form.encode (wid : Nat) : Form.Statement (.encode wid) :=
  fun _ => form_none
theorem Form.codecRelease (wid : Nat) : Form.Statement (.codecRelease wid) :=
  fun _ => form_none
theorem Form.pictureDone (cde : Nat) (pic : Picture) (m : Marks) : Form.Statement (.pictureDone cde pic m) :=
  fun _ => form_none
theorem Form.tileRowBoundary (cde : Nat) (row : Nat) : Form.Statement (.tileRowBoundary cde row) :=
  fun _ => form_none
theorem Form.classAge (wid : Nat) : Form.Statement (.classAge wid) :=
  fun _ => form_none
theorem Form.allReduce (wid : Nat) (took : Took) : Form.Statement (.allReduce wid took) :=
  fun _ => form_none
theorem Form.reduceScatter (wid : Nat) (took : Took) : Form.Statement (.reduceScatter wid took) :=
  fun _ => form_none
theorem Form.allGather (wid : Nat) (took : Took) : Form.Statement (.allGather wid took) :=
  fun _ => form_none
theorem Form.allToAllV (wid : Nat) (took : Took) : Form.Statement (.allToAllV wid took) :=
  fun _ => form_none
theorem Form.collOpen (b : WbRead) : Form.Statement (.collOpen b) :=
  fun _ => form_none
theorem Form.join (b : PortRead) : Form.Statement (.join b) :=
  fun h => form_port h
theorem Form.joinResend (wid : Nat) : Form.Statement (.joinResend wid) :=
  fun _ => form_none
theorem Form.grant (b : PortRead) : Form.Statement (.grant b) :=
  fun h => form_port h
theorem Form.data (port : Option Nat) (took : Took) : Form.Statement (.data port took) :=
  fun h => form_port h
theorem Form.check (port : Option Nat) : Form.Statement (.check port) :=
  fun h => form_port h
theorem Form.verdict (port : Option Nat) : Form.Statement (.verdict port) :=
  fun h => form_port h
theorem Form.poison (port : Option Nat) : Form.Statement (.poison port) :=
  fun h => form_port h
theorem Form.abort (port : Option Nat) : Form.Statement (.abort port) :=
  fun h => form_port h
theorem Form.collStepTimeout (wid : Nat) (member : Nat) : Form.Statement (.collStepTimeout wid member) :=
  fun _ => form_none
theorem Form.tileNotice (inst : Nat) : Form.Statement (.tileNotice inst) :=
  fun _ => form_none
theorem Form.tstoreRoomFree (die : Nat) : Form.Statement (.tstoreRoomFree die) :=
  fun _ => form_none
theorem Form.mxeStep (inst : Nat) (cycles : Nat) (ns : Nat) (m : Marks) : Form.Statement (.mxeStep inst cycles ns m) :=
  fun _ => form_none
theorem Form.positionReport (kind : EngKind) (inst : Nat) (ns : Nat) : Form.Statement (.positionReport kind inst ns) :=
  fun h => form_engine h
theorem Form.epilogueDrainDone (inst : Nat) (cycles : Nat) (ns : Nat) (m : Marks) : Form.Statement (.epilogueDrainDone inst cycles ns m) :=
  fun _ => form_none
theorem Form.theodoliteCheckDone (b : CheckRead) : Form.Statement (.theodoliteCheckDone b) :=
  fun _ => form_none
theorem Form.vxeStep (inst : Nat) (cycles : Nat) (ns : Nat) (m : Marks) : Form.Statement (.vxeStep inst cycles ns m) :=
  fun _ => form_none
theorem Form.cveStep (inst : Nat) (cycles : Nat) (ns : Nat) (m : Marks) : Form.Statement (.cveStep inst cycles ns m) :=
  fun _ => form_none
theorem Form.waybillComplete (wid : Nat) (io : List IoRes) : Form.Statement (.waybillComplete wid io) :=
  fun _ => form_none
theorem Form.msixGapExpire (g : Nat) : Form.Statement (.msixGapExpire g) :=
  fun _ => form_none
theorem Form.grpHeadPoll (g : Nat) (io : List IoRes) : Form.Statement (.grpHeadPoll g io) :=
  fun _ => form_none
theorem Form.cqStall (g : Nat) : Form.Statement (.cqStall g) :=
  fun _ => form_none
theorem Form.evqHeadPoll (io : List IoRes) : Form.Statement (.evqHeadPoll io) :=
  fun _ => form_none
theorem Form.ringDrainEnd (ring : Nat) (io : List IoRes) : Form.Statement (.ringDrainEnd ring io) :=
  fun _ => form_none
theorem Form.rngEnable : Form.Statement (.rngEnable) :=
  fun _ => form_none
theorem Form.rngDisable (io : List IoRes) : Form.Statement (.rngDisable io) :=
  fun _ => form_none
theorem Form.attach (ring : Nat) (ctx : SlotRead) (rd : LineRead) (io : List IoRes) : Form.Statement (.attach ring ctx rd io) :=
  fun _ => form_none
theorem Form.detach (ring : Nat) (io : List IoRes) : Form.Statement (.detach ring io) :=
  fun _ => form_none
theorem Form.evqEnable (w : Word) (io : List IoRes) : Form.Statement (.evqEnable w io) :=
  fun _ => form_none
theorem Form.grpEnable (g : Nat) (w : Word) (io : List IoRes) : Form.Statement (.grpEnable g w io) :=
  fun _ => form_none
theorem Form.grpFaultRetry (g : Nat) (io : List IoRes) : Form.Statement (.grpFaultRetry g io) :=
  fun _ => form_none
theorem Form.bar0BadAccess (off : Nat) (size : Nat) (write : Bool) : Form.Statement (.bar0BadAccess off size write) :=
  fun _ => form_none
theorem Form.loReadLatch (off : Nat) : Form.Statement (.loReadLatch off) :=
  fun _ => form_none
theorem Form.registerWrite (off : Nat) (w : Word) : Form.Statement (.registerWrite off w) :=
  fun _ => form_none
theorem Form.mxeCtrClr (i : Nat) : Form.Statement (.mxeCtrClr i) :=
  fun _ => form_none
theorem Form.mxeNfClr (i : Nat) : Form.Statement (.mxeNfClr i) :=
  fun _ => form_none
theorem Form.thdClrEntry (die : Nat) : Form.Statement (.thdClrEntry die) :=
  fun _ => form_none
theorem Form.thdClrAll (die : Nat) : Form.Statement (.thdClrAll die) :=
  fun _ => form_none
theorem Form.vxeCtrClr (i : Nat) : Form.Statement (.vxeCtrClr i) :=
  fun _ => form_none
theorem Form.tableLoad (die : Nat) (w : TableCmd) : Form.Statement (.tableLoad die w) :=
  fun _ => form_none
theorem Form.tableClear (die : Nat) (w : Word) : Form.Statement (.tableClear die w) :=
  fun _ => form_none
theorem Form.gazEnable (i : Nat) (w : Word) : Form.Statement (.gazEnable i w) :=
  fun _ => form_none
theorem Form.gazCtrClr (i : Nat) : Form.Statement (.gazCtrClr i) :=
  fun _ => form_none
theorem Form.expCtrClr (i : Nat) : Form.Statement (.expCtrClr i) :=
  fun _ => form_none
theorem Form.srvCtrClr (i : Nat) : Form.Statement (.srvCtrClr i) :=
  fun _ => form_none
theorem Form.xfeCtrClr (i : Nat) : Form.Statement (.xfeCtrClr i) :=
  fun _ => form_none
theorem Form.cveCtrClr (i : Nat) : Form.Statement (.cveCtrClr i) :=
  fun _ => form_none
theorem Form.cdeCtrClr (i : Nat) : Form.Statement (.cdeCtrClr i) :=
  fun _ => form_none
theorem Form.cleCtrClr (i : Nat) : Form.Statement (.cleCtrClr i) :=
  fun _ => form_none
theorem Form.quotaWrite (off : Nat) (w : Word) : Form.Statement (.quotaWrite off w) :=
  fun _ => form_none
theorem Form.poolFaultClear (off : Nat) (w : Word) : Form.Statement (.poolFaultClear off w) :=
  fun _ => form_none
theorem Form.moveStart (die : Nat) : Form.Statement (.moveStart die) :=
  fun _ => form_none
theorem Form.moveSwitch (page : Nat) (c : CopyRead) : Form.Statement (.moveSwitch page c) :=
  fun _ => form_none
theorem Form.moveDrainEnd (page : Nat) (ns : Nat) : Form.Statement (.moveDrainEnd page ns) :=
  fun _ => form_none
theorem Form.poolFault (page ns : Nat) : Form.Statement (.poolFault page ns) :=
  fun _ => form_none
theorem Form.heatDecay (die : Nat) : Form.Statement (.heatDecay die) :=
  fun _ => form_none
theorem Form.xferPieceDone (wid : Nat) (idx : Nat) (ns : Nat) (host : BytesRead) (m : Marks) (io : List IoRes) : Form.Statement (.xferPieceDone wid idx ns host m io) :=
  fun _ => form_none
theorem Form.hostHdmAccess (off : Nat) (wr : Option (List Byte)) (beat : HdmBeat) : Form.Statement (.hostHdmAccess off wr beat) :=
  fun _ => form_none
theorem Form.portEnable (n : Nat) : Form.Statement (.portEnable n) :=
  fun h => form_number h
theorem Form.portDisable (n : Nat) : Form.Statement (.portDisable n) :=
  fun h => form_number h
theorem Form.portRetrain (n : Nat) : Form.Statement (.portRetrain n) :=
  fun h => form_number h
theorem Form.linkTrained (n : Nat) (lanes : Nat) : Form.Statement (.linkTrained n lanes) :=
  fun h => form_flit h
theorem Form.frameLock (n : Nat) : Form.Statement (.frameLock n) :=
  fun h => form_number h
theorem Form.lockLost (n : Nat) : Form.Statement (.lockLost n) :=
  fun h => form_number h
theorem Form.laneLost (n : Nat) : Form.Statement (.laneLost n) :=
  fun h => form_number h
theorem Form.flitData (n : Nat) (f : Flit) : Form.Statement (.flitData n f) :=
  fun h => form_flit h
theorem Form.flitNak (n : Nat) (f : Flit) : Form.Statement (.flitNak n f) :=
  fun h => form_flit h
theorem Form.flitIdle (n : Nat) (f : Flit) : Form.Statement (.flitIdle n f) :=
  fun h => form_flit h
theorem Form.replayTimeout (n : Nat) : Form.Statement (.replayTimeout n) :=
  fun h => form_number h
theorem Form.ackTimeout (n : Nat) : Form.Statement (.ackTimeout n) :=
  fun h => form_number h
theorem Form.assign (port : Option Nat) : Form.Statement (.assign port) :=
  fun h => form_port h
theorem Form.noAssign (n : Nat) : Form.Statement (.noAssign n) :=
  fun h => form_number h
theorem Form.read (port : Option Nat) (m : Marks) : Form.Statement (.read port m) :=
  fun h => form_port h
theorem Form.write (port : Option Nat) : Form.Statement (.write port) :=
  fun h => form_port h
theorem Form.atomicAdd (b : PortRead) : Form.Statement (.atomicAdd b) :=
  fun h => form_port h
theorem Form.atomicSwap (b : PortRead) : Form.Statement (.atomicSwap b) :=
  fun h => form_port h
theorem Form.atomicCas (b : PortRead) : Form.Statement (.atomicCas b) :=
  fun h => form_port h
theorem Form.readRsp (port : Option Nat) : Form.Statement (.readRsp port) :=
  fun h => form_port h
theorem Form.writeRsp (port : Option Nat) : Form.Statement (.writeRsp port) :=
  fun h => form_port h
theorem Form.atomicRsp (port : Option Nat) : Form.Statement (.atomicRsp port) :=
  fun h => form_port h
theorem Form.resolveRsp (port : Option Nat) : Form.Statement (.resolveRsp port) :=
  fun h => form_port h
theorem Form.resolveTimeout (ep : Nat) : Form.Statement (.resolveTimeout ep) :=
  fun _ => form_none
theorem Form.notice (port : Option Nat) : Form.Statement (.notice port) :=
  fun h => form_port h
theorem Form.resetCmd (port : Option Nat) : Form.Statement (.resetCmd port) :=
  fun h => form_port h
theorem Form.fabTimeout (tag : Nat) : Form.Statement (.fabTimeout tag) :=
  fun _ => form_none
theorem Form.tagQuarantineEnd (tag : Nat) : Form.Statement (.tagQuarantineEnd tag) :=
  fun _ => form_none
theorem Form.vrlPortClr (n : Nat) : Form.Statement (.vrlPortClr n) :=
  fun h => form_number h
theorem Form.vrlCtrClr : Form.Statement (.vrlCtrClr) :=
  fun _ => form_none
theorem Form.create (p : Nat) : Form.Statement (.create p) :=
  fun _ => form_none
theorem Form.partitionRemove (p : Nat) : Form.Statement (.partitionRemove p) :=
  fun _ => form_none
theorem Form.evict (p : Nat) : Form.Statement (.evict p) :=
  fun _ => form_none
theorem Form.suspend (p : Nat) : Form.Statement (.suspend p) :=
  fun _ => form_none
theorem Form.resume (p : Nat) : Form.Statement (.resume p) :=
  fun _ => form_none
theorem Form.instanceFree (kind : EngKind) (inst : Nat) : Form.Statement (.instanceFree kind inst) :=
  fun h => form_engine h
theorem Form.semSet (w : Word) : Form.Statement (.semSet w) :=
  fun _ => form_none
theorem Form.semRangeWrite (off : Nat) (w : Word) : Form.Statement (.semRangeWrite off w) :=
  fun _ => form_none
theorem Form.modeWrite (p : Nat) (w : Word) : Form.Statement (.modeWrite p w) :=
  fun _ => form_none
theorem Form.shareWrite (p : Nat) (w : Word) : Form.Statement (.shareWrite p w) :=
  fun _ => form_none
theorem Form.prtCtrClr (p : Nat) : Form.Statement (.prtCtrClr p) :=
  fun _ => form_none
theorem Form.managementEpoch (e : EpochIn) (io : List IoRes) : Form.Statement (.managementEpoch e io) :=
  fun _ => form_none
theorem Form.governorEval (iin : Nat) (vin : Nat) : Form.Statement (.governorEval iin vin) :=
  fun _ => form_none
theorem Form.brownout (vin : Nat) (iin : Nat) : Form.Statement (.brownout vin iin) :=
  fun _ => form_none
theorem Form.brownoutEnd : Form.Statement (.brownoutEnd) :=
  fun _ => form_none
theorem Form.currentLimit (iin : Nat) (vin : Nat) : Form.Statement (.currentLimit iin vin) :=
  fun _ => form_none
theorem Form.ilimRelease : Form.Statement (.ilimRelease) :=
  fun _ => form_none
theorem Form.dieHot (die : Nat) (temp : Int) : Form.Statement (.dieHot die temp) :=
  fun _ => form_none
theorem Form.flowLow : Form.Statement (.flowLow) :=
  fun _ => form_none
theorem Form.flowRelease : Form.Statement (.flowRelease) :=
  fun _ => form_none
theorem Form.leak (asserted : Bool) : Form.Statement (.leak asserted) :=
  fun _ => form_none
theorem Form.sensorRefFail (die : Nat) (reading : Int) : Form.Statement (.sensorRefFail die reading) :=
  fun _ => form_none
theorem Form.sensorRefPass (die : Nat) : Form.Statement (.sensorRefPass die) :=
  fun _ => form_none
theorem Form.ballastHoldExpire (mxe : Nat) : Form.Statement (.ballastHoldExpire mxe) :=
  fun _ => form_none
theorem Form.pwrStatClr : Form.Statement (.pwrStatClr) :=
  fun _ => form_none
theorem Form.domainSleep (d : Nat) : Form.Statement (.domainSleep d) :=
  fun _ => form_none
theorem Form.domainWake (d : Nat) : Form.Statement (.domainWake d) :=
  fun _ => form_none
theorem Form.pllLock (d : Nat) : Form.Statement (.pllLock d) :=
  fun _ => form_none
theorem Form.clkForceWrite (w : Word) : Form.Statement (.clkForceWrite w) :=
  fun _ => form_none
theorem Form.crystalLost : Form.Statement (.crystalLost) :=
  fun _ => form_none
theorem Form.aonRailUp (busSel : Bool) (addr : Nat) : Form.Statement (.aonRailUp busSel addr) :=
  fun _ => form_none
theorem Form.powerGoodFall : Form.Statement (.powerGoodFall) :=
  fun _ => form_none
theorem Form.inputSwitchOpen : Form.Statement (.inputSwitchOpen) :=
  fun _ => form_none
theorem Form.thermalTrip (die : Nat) : Form.Statement (.thermalTrip die) :=
  fun _ => form_none
theorem Form.watchdogExpire : Form.Statement (.watchdogExpire) :=
  fun _ => form_none
theorem Form.perstAssert : Form.Statement (.perstAssert) :=
  fun _ => form_none
theorem Form.hotReset : Form.Statement (.hotReset) :=
  fun _ => form_none
theorem Form.functionLevelReset : Form.Statement (.functionLevelReset) :=
  fun _ => form_none
theorem Form.mctpReset (kind : Nat) : Form.Statement (.mctpReset kind) :=
  fun _ => form_none
theorem Form.resetHoldEnd (source : Nat) : Form.Statement (.resetHoldEnd source) :=
  fun _ => form_none
theorem Form.resetRelease : Form.Statement (.resetRelease) :=
  fun _ => form_none
theorem Form.pllLockTimeout (d : Nat) : Form.Statement (.pllLockTimeout d) :=
  fun _ => form_none
theorem Form.deviceReady (failed : List (EngKind × Nat × Nat)) : Form.Statement (.deviceReady failed) :=
  fun _ => form_none
theorem Form.blockReset (w : Word) : Form.Statement (.blockReset w) :=
  fun _ => form_none
theorem Form.dieFence (kind : Nat) (die : Nat) (cause : Nat) : Form.Statement (.dieFence kind die cause) :=
  fun _ => form_none
theorem Form.dieRestart (kind : Nat) (die : Nat) : Form.Statement (.dieRestart kind die) :=
  fun _ => form_none
theorem Form.dieRestarted (ok : Bool) : Form.Statement (.dieRestarted ok) :=
  fun _ => form_none
theorem Form.bootVerify (flashOk : Bool) : Form.Statement (.bootVerify flashOk) :=
  fun _ => form_none
theorem Form.rcvStart (host : BytesRead) : Form.Statement (.rcvStart host) :=
  fun _ => form_none
theorem Form.rcvTransferDone : Form.Statement (.rcvTransferDone) :=
  fun _ => form_none
theorem Form.requestUpdate (size : Nat) : Form.Statement (.requestUpdate size) :=
  fun _ => form_none
theorem Form.passComponentTable : Form.Statement (.passComponentTable) :=
  fun _ => form_none
theorem Form.updateComponent (head : List Byte) : Form.Statement (.updateComponent head) :=
  fun _ => form_none
theorem Form.requestFirmwareData (off : Nat) (bytes : List Byte) : Form.Statement (.requestFirmwareData off bytes) :=
  fun _ => form_none
theorem Form.transferComplete : Form.Statement (.transferComplete) :=
  fun _ => form_none
theorem Form.verifyComplete : Form.Statement (.verifyComplete) :=
  fun _ => form_none
theorem Form.applyComplete : Form.Statement (.applyComplete) :=
  fun _ => form_none
theorem Form.svnCommit (mctp : Bool) : Form.Statement (.svnCommit mctp) :=
  fun _ => form_none
theorem Form.sealDevice : Form.Statement (.sealDevice) :=
  fun _ => form_none
theorem Form.sealPartition (p : Nat) : Form.Statement (.sealPartition p) :=
  fun _ => form_none
theorem Form.getVersion (t : Nat) : Form.Statement (.getVersion t) :=
  fun _ => form_none
theorem Form.getCapabilities (t : Nat) : Form.Statement (.getCapabilities t) :=
  fun _ => form_none
theorem Form.negotiateAlgorithms (t : Nat) (offered : List SpdmAlg) : Form.Statement (.negotiateAlgorithms t offered) :=
  fun _ => form_none
theorem Form.getDigests (t : Nat) : Form.Statement (.getDigests t) :=
  fun _ => form_none
theorem Form.getCertificate (t : Nat) (slot : Nat) (off : Nat) (len : Nat) : Form.Statement (.getCertificate t slot off len) :=
  fun _ => form_none
theorem Form.challenge (t : Nat) (slot : Nat) (nonce : List Byte) : Form.Statement (.challenge t slot nonce) :=
  fun _ => form_none
theorem Form.getMeasurements (t : Nat) (index : Option Nat) (sign : Bool) (nonce : List Byte) : Form.Statement (.getMeasurements t index sign nonce) :=
  fun _ => form_none
theorem Form.keyExchange (t : Nat) (key : List Byte) : Form.Statement (.keyExchange t key) :=
  fun _ => form_none
theorem Form.finish (t : Nat) (ok : Bool) : Form.Statement (.finish t ok) :=
  fun _ => form_none
theorem Form.endSession (t : Nat) : Form.Statement (.endSession t) :=
  fun _ => form_none
theorem Form.ideKm (t : Nat) (key : List Byte) : Form.Statement (.ideKm t key) :=
  fun _ => form_none
theorem Form.debugChallengeRead (mctp : Bool) : Form.Statement (.debugChallengeRead mctp) :=
  fun _ => form_none
theorem Form.debugUnlock (level : Nat) (sig : List Byte) (mctp : Bool) : Form.Statement (.debugUnlock level sig mctp) :=
  fun _ => form_none
theorem Form.debugChallengeExpire : Form.Statement (.debugChallengeExpire) :=
  fun _ => form_none
theorem Form.debugLockoutEnd : Form.Statement (.debugLockoutEnd) :=
  fun _ => form_none
theorem Form.blockIdleTimeout (kind : EngKind) (inst : Nat) : Form.Statement (.blockIdleTimeout kind inst) :=
  fun h => form_engine h
theorem Form.junctionFlitBad (recvKind : Nat) (recvDie : Nat) (farKind : Nat) (farDie : Nat) (retrained : Bool) : Form.Statement (.junctionFlitBad recvKind recvDie farKind farDie retrained) :=
  fun _ => form_none
theorem Form.junctionLinkFail (recvKind : Nat) (recvDie : Nat) (farKind : Nat) (farDie : Nat) : Form.Statement (.junctionLinkFail recvKind recvDie farKind farDie) :=
  fun _ => form_none
theorem Form.chipFatal (cause : Nat) (io : List IoRes) : Form.Statement (.chipFatal cause io) :=
  fun _ => form_none
theorem Form.scrubRead (die : Nat) (addr : Nat) (symbols : Nat) (ue : Bool) : Form.Statement (.scrubRead die addr symbols ue) :=
  fun _ => form_none
theorem Form.bstSliceDue (kind : EngKind) (inst : Nat) (slice : Nat) : Form.Statement (.bstSliceDue kind inst slice) :=
  fun h => form_engine h
theorem Form.bstSliceOverdue (kind : EngKind) (inst : Nat) (slice : Nat) : Form.Statement (.bstSliceOverdue kind inst slice) :=
  fun h => form_engine h
theorem Form.bstSliceStart (kind : EngKind) (inst : Nat) (slice : Nat) : Form.Statement (.bstSliceStart kind inst slice) :=
  fun h => form_engine h
theorem Form.bstSliceDone (kind : EngKind) (inst : Nat) (want : Word) (got : Word) : Form.Statement (.bstSliceDone kind inst want got) :=
  fun h => form_engine h
theorem Form.bstCmd (w : Word) (sigs : List (Word × Word)) : Form.Statement (.bstCmd w sigs) :=
  fun _ => form_none
theorem Form.bstCtrClr : Form.Statement (.bstCtrClr) :=
  fun _ => form_none
theorem Form.errCtrClr : Form.Statement (.errCtrClr) :=
  fun _ => form_none
theorem Form.hbmPhyMarginCheck (stack : Nat) (value : Nat) (channel : Nat) : Form.Statement (.hbmPhyMarginCheck stack value channel) :=
  fun _ => form_none
theorem Form.lpddrPhyCheck (pkg : Nat) (value : Nat) (channel : Nat) : Form.Statement (.lpddrPhyCheck pkg value channel) :=
  fun _ => form_none
theorem Form.portLoopbackCheck (n : Nat) (errors : Nat) : Form.Statement (.portLoopbackCheck n errors) :=
  fun h => form_number h
theorem Form.cxlMarginCheck (lane : Nat) (value : Nat) : Form.Statement (.cxlMarginCheck lane value) :=
  fun _ => form_none
theorem Form.collPoisonTimeout (wid : Nat) : Form.Statement (.collPoisonTimeout wid) :=
  fun _ => form_none
theorem Form.controlParityFailure (u : CtlUnit) : Form.Statement (.controlParityFailure u) :=
  fun _ => form_none
theorem Form.watchdogRestart : Form.Statement (.watchdogRestart) :=
  fun _ => form_none
theorem Form.auxiliaryRailLoss : Form.Statement (.auxiliaryRailLoss) :=
  fun _ => form_none
theorem Form.cxlReferenceClockChange (present : Bool) : Form.Statement (.cxlReferenceClockChange present) :=
  fun _ => form_none
theorem Form.mctpControlMessage (msg : List Byte) : Form.Statement (.mctpControlMessage msg) :=
  fun _ => form_none
theorem Form.configRequest (speed : Nat) (width : Nat) (op : CfgOp) : Form.Statement (.configRequest speed width op) :=
  fun _ => form_none
theorem Form.brownoutReleaseLevel (rise : Bool) (vin : Nat) : Form.Statement (.brownoutReleaseLevel rise vin) :=
  fun _ => form_none

end Sys2Proof.Laws
end

