-- ==== Sys2Proof/Tests/Slice0.lean ====
section
/-! SUPPORT. Tests: a smoke test of each well-formedness check, small checks of numbers that the manual states, and for each statement
with hypotheses a small state and operands that meet them (named wit_<statement>_<clause>). -/

namespace Sys2Proof.Tests

set_option Elab.async false

open Sys2Proof Sys2Proof.Machine

/-! ### Small states -/

/-- Out of reset: READY is 1, every domain runs, the memory is trained. -/
def up : State :=
  let s := (State.reset.setFld rRstStatus 0 0 1).setReg rClkRun (maskOf (asmDomains State.reset.assy))
  { s with clk := { s.clk with trained := true } }

/-- A register at a value. -/
def setAll (l : List (Nat × Nat)) (s : State) : State := l.foldl (fun s x => s.setReg x.1 (w32 x.2)) s

/-- A Waybill slot: opcode, its flags at bit 8, STEP, ARG0 to ARG3. -/
def slot (op flags step a0 a1 a2 a3 : Nat) : Slot :=
  BitVec.ofNat 512 (op + flags * 2 ^ 8 + step * 2 ^ 32) ||| BitVec.ofNat 512 a0 <<< 128 ||| BitVec.ofNat 512 a1 <<< 192
    ||| BitVec.ofNat 512 a2 <<< 256 ||| BitVec.ofNat 512 a3 <<< 320

/-- Waybill 1 of Consist 1, ring 0 and partition 0. -/
def aWb (w : Slot) (ph : Phase) : Wb := { newWb 1 1 0 0 none w with phase := ph }

/-- Partition 0. -/
def aPart : Partn := { p := 0, v := 0, rem := 0, useNs := 0, drvSusp := false, evict := none, evictPre := 0 }

/-- Consist 1. -/
def aConsist : Consist :=
  { cid := 1, ring := 0, part := 0, group := 0, step := 1, endWid := some 1, started := true, split := false, evicted := false,
    poisoned := false, preempted := false }

/-- Ring 0, running, with prod pending of a ring of 16. -/
def aRing (state prod : Nat) : Ring :=
  { n := 0, state := state, cause := 0, cons := 0, prod := w32 prod, lastStep := 0, base := 0, log2 := 4, group := 0, part := 0, mute := false }

/-- Ring group 0. -/
def aGrp (fault : Bool) : Group :=
  { g := 0, written := 0, head := 0, held := [], fault := fault, stalled := false, reported := false, gapRun := false, gapPend := false }

/-- A record held by a group. -/
def aRec : Rec := { wid := 1, cmdId := 0, step := 1, ring := 0, us := 0, src := 0, events := 0, detail := 0, status := 0, irq := false }

/-- A state with these rings and lines, and group 0. -/
def host (rings : List Ring) (lines : List DbLine) (s : State) : State :=
  { s with host := { s.host with rings := rings, lines := lines, groups := [aGrp false] } }

/-- A state with partition 0 and this Waybill of a Consist. -/
def work (w : Wb) (s : State) : State :=
  { s with sched := { s.sched with parts := [aPart], consists := [aConsist], wbs := [w] } }

/-- The ring engine on, CXL.cache on. -/
def engine : State := setAll [(rRngCtl, 1), (rHifLinkStatus, 0x400)] up

/-! ### Witnesses: general operations, host interface -/

theorem wit_canonical : Memory.wf up.mem = true ∧ swf markReset up.marks = true ∧ swf semReset up.sems = true
    ∧ swf (regReset up.assy) up.regs = true ∧ up.pending = [] ∧ up.io = [] ∧ up.err.fresh = []
    ∧ up.pins.aux = true ∧ (up.aon + 1) % 1200 ≠ 0 := by decide +kernel

theorem wit_StepKeepsTheStateSound : Inv up :=
  ⟨by decide +kernel, by decide +kernel, by decide +kernel, by unfold State.regsWf; decide +kernel, by decide +kernel, rfl, rfl, rfl, rfl, by intro c h; cases h⟩

/-- A command that meets no error acts on the state as it stands. -/
theorem wit_meets (s : State) (h : s.err.fresh = []) (wid : Nat) : s.meetsErr wid ⟨[], [], []⟩ = s := by
  have : s.noteMarks ⟨[], [], []⟩ 0 = fun _ _ _ => s := by
    funext a b c
    simp only [State.noteMarks, List.foldl_nil, List.filter_nil, List.map_nil]
    have e : ({ s.err with fresh := [] } : Errors) = s.err := by rw [← h]
    rw [e]
  unfold State.meetsErr
  split
  · rfl
  · simp [this, Marks.sramUe]

theorem wit_MemoryWrite : ([1, 2] : List Byte)[1]? = some 2 ∧ (5 < 6 ∨ 6 + 2 ≤ 5) ∧ (6 ≤ 64 * 1 ∧ 64 * 1 + 64 ≤ 6 + 130) := by decide

theorem wit_WriteByAccessCodes_plain : (regAt rErrCfg).isSome = true ∧ rErrCfg ≠ rSecRwlViol ∧ rErrCfg ≠ rSecRwlAddr
    ∧ up.isSealed rErrCfg = false := by decide +kernel

/-- A device-sealed field that a write would change. -/
theorem wit_WriteByAccessCodes_broken :
    let s := { up with sec := { up.sec with devSeal := some [] } }
    s.isSealed (rMxeCfg 0) = true
      ∧ (regAt (rMxeCfg 0)).any (fun x => x.1.fields.any fun f => f.acc = .rwl && bits f.hi f.lo (0 : Word) ≠ bits f.hi f.lo (s.reg (rMxeCfg 0))) = true := by
  decide +kernel

/-- Rings of two lines, one awaiting its re-read. -/
def doors (words : List DWord) : State :=
  host [aRing 1 0, { aRing 2 0 with n := 1 }, { aRing 1 0 with n := 8 }] [⟨0, words, true⟩, ⟨1, [], false⟩] engine

/-- Its registers are in canonical form. -/
theorem wit_engine : swf (regReset engine.assy) engine.regs = true := by decide +kernel

theorem wit_RereadIsActedOn : (doors []).cacheOk = true ∧ ((doors []).host.rings.map (·.n)).Nodup
    ∧ (doors []).host.lines.find? (fun x => decide (x.line = 0)) = some ⟨0, [], true⟩
    ∧ (⟨0, [], true⟩ : DbLine) ∈ (doors []).host.lines ∧ (doors []).ring 0 = some (aRing 1 0)
    ∧ (prodOf [17] 0 - (aRing 1 0).cons).toNat = 17 ∧ (prodOf [16] 0 - (aRing 1 0).cons).toNat ≤ 2 ^ (aRing 1 0).log2
    ∧ prodOf [5] 0 = prodOf [5, 9] 0 ∧ ((doors [5]).ring 1).any (fun r => r.state ≠ 1) = true ∧ 8 / 8 ≠ 0 := by decide +kernel

/-- A ring with two Waybills pending, its partition in being. -/
def pend : State :=
  { host [aRing 1 2] [] engine with sched := { engine.sched with parts := [aPart] } }

theorem wit_AcceptTakesAConsist : pend.ring 0 = some (aRing 1 2) ∧ pend.rngOn = true ∧ pend.cacheOk = true ∧ pend.grpOpen 0 = true
    ∧ scanSlots none [] (([.ok (slot 1 0 7 0 0 0 0), .ok (slot 1 1 7 0 0 0 0)] : List SlotRead).take 2) =
        .whole [slot 1 0 7 0 0 0 0, slot 1 1 7 0 0 0 0]
    ∧ ((setAll [(rPrtCfg 0, 0x100)] pend).queueSwap (aRing 1 2)).roomFor 0 = true := by
  refine ⟨by decide +kernel, by decide +kernel, by decide +kernel, by decide +kernel, by decide +kernel, by decide +kernel⟩

theorem wit_AcceptTakesAConsist_split :
    scanSlots none [] [.ok (slot 1 0 7 0 0 0 0), .ok (slot 1 1 8 0 0 0 0)] = .split [slot 1 0 7 0 0 0 0] := by decide +kernel

theorem wit_AcceptTakesAConsist_bad : scanSlots none [] [.ok (slot 1 0 7 0 0 0 0), .poisoned] = .bad 1 := by decide +kernel

/-- One Consist is open and MAX_OPEN is 1, or there is no partition (R420). -/
theorem wit_ConsistStaysInItsRing :
    let s := setAll [(rPrtCfg 0, 0x100)] (work (aWb (slot 1 1 7 0 0 0 0) .running) (host [aRing 1 2] [] engine))
    s.maxOpen 0 ≤ (s.openOf 0).length ∧ (host [aRing 1 2] [] engine).part 0 = none
      ∧ s.grpFull (aRing 1 2).group = false
      ∧ scanSlots none [] (([.ok (slot 1 1 7 0 0 0 0)] : List SlotRead).take ((aRing 1 2).prod - (aRing 1 2).cons).toNat) =
          .whole [slot 1 1 7 0 0 0 0] := by
  refine ⟨by decide +kernel, by decide +kernel, by decide +kernel, by decide +kernel⟩

theorem wit_CacheReturnWritesWhatWasHeld : State.reset.ready = false ∧ up.ready = true ∧ up.host.lostSince = none
    ∧ (let s := host [aRing 1 0] [] engine
       let t := { s with host := { s.host with lostSince := some 0 } }
       t.ready = true ∧ t.host.lostSince ≠ none ∧ ∀ r ∈ t.host.rings, r.state ≠ 0) := by decide +kernel

theorem wit_RingEngineEnable :
    let c := setAll [(rHifLinkStatus, 0x400)] up
    up.barOpen rRngCtl = true ∧ up.rngOn = false ∧ up.cacheEn = false ∧ c.cacheEn = true ∧ c.reg64 rRngCtxBaseLo = 0
      ∧ (setAll [(rRngCtxBaseHi, 0x100000)] c).reg64 rRngCtxBaseLo = 2 ^ 52 ∧ (setAll [(rRngDbBaseLo, 0x20000)] c).reg64 rRngDbBaseLo % 2 ^ 18 ≠ 0 := by
  decide +kernel

/-- A context of 16 slots at base 0x1000. -/
def ctxSlot : Slot := BitVec.ofNat 512 (0x1000 + 4 * 2 ^ 64)

theorem wit_AttachAndDetach_attach :
    let s := host [] [] engine
    s.barOpen rRngCmd = true ∧ bit 0 (s.reg rRngCmdStatus) = false ∧ swf (regReset s.assy) s.regs = true ∧ s.rngOn = true ∧ s.ring 0 = none ∧ s.cacheOk = true ∧ s.ctxBad ctxSlot = false
      ∧ (prodOf [16] 0 - cConsInit ctxSlot).toNat ≤ 2 ^ cLog2 ctxSlot := by decide +kernel

theorem wit_AttachAndDetach_detach :
    let s (k : Nat) := host [aRing k 0] [] engine
    (s 1).barOpen rRngCmd = true ∧ bit 0 ((s 1).reg rRngCmdStatus) = false ∧ (s 1).barOpen rRngCtl = true ∧ (s 1).rngOn = true
      ∧ (s 1).ring 0 = some (aRing 1 0) ∧ (s 2).ring 0 = some (aRing 2 0) ∧ (s 3).ring 0 = some (aRing 3 0)
      ∧ (∀ c ∈ (s 3).sched.consists, c.ring ≠ 0) ∧ ((s 3).host.rings.map (·.n)).Nodup
      ∧ (∀ r ∈ (s 3).host.rings, r.state = 1 ∨ r.state = 2 ∨ r.state = 3)
      ∧ ({ s 1 with host := { (s 1).host with lostSince := some 0 } } : State).cacheOk = false := by decide +kernel

theorem wit_RingEnables_events :
    let w : Word := 0x10004
    up.barOpen rRngEvqCfg = true ∧ up.evqOn = false ∧ bit 16 w = true ∧ 4 ≤ bits 4 0 w ∧ bits 4 0 (0x10010 : Word) ≤ 16
      ∧ baseHeadOk (up.reg64 rRngEvqBaseLo) (up.reg64 rRngEvqHeadLo) = true ∧ up.reg rRngEvqLost = 0
      ∧ (let s := setAll [(rRngEvqBaseLo, 0x800)] up
         baseHeadOk (s.reg64 rRngEvqBaseLo) (s.reg64 rRngEvqHeadLo) = false) := by decide +kernel

theorem wit_RingEnables_groups :
    let s := host [] [] engine
    let t (pend : Bool) := { s with host := { s.host with groups := [{ aGrp true with gapRun := true, gapPend := pend }] } }
    up.barOpen (rRngGrpCfg 0) = true ∧ up.grp 0 = none ∧ bit 31 (up.reg (rRngGrpCfg 0)) = false ∧ (aGrp false).held = [] ∧ bit 31 (0x80000004 : Word) = true
      ∧ baseHeadOk (up.reg64 (rRngGrpBaseLo 0)) (up.reg64 (rRngGrpHeadLo 0)) = true
      ∧ (s.grp 0).isSome = true ∧ bit 31 (4 : Word) = false ∧ (∀ r ∈ s.host.rings, r.group ≠ 0)
      ∧ (t true).barOpen (rRngGrpStatus 0) = true ∧ ((t true).grp 0).any (fun x => x.fault && x.gapRun && x.gapPend) = true
      ∧ ((t false).grp 0).any (fun x => x.gapRun && !x.gapPend) = true := by decide +kernel

theorem wit_HeadPolls :
    let s := host [] [] engine
    let t (rep : Bool) := { s with host := { s.host with groups := [{ aGrp false with held := [aRec], stalled := true, reported := rep }] } }
    let e := setAll [(rRngEvqCfg, 0x10004), (rRngEvqLost, 1)] engine
    (t true).cacheOk = true ∧ ((t true).grp 0).any (fun x => !x.held.isEmpty && !x.fault && x.stalled && x.reported) = true
      ∧ ((t false).grp 0).any (fun x => x.stalled && !x.reported) = true
      ∧ e.cacheOk = true ∧ e.cacheEn = true ∧ e.evqOn = true ∧ e.reg rRngEvqLost ≠ 0 := by decide +kernel

theorem wit_HostAccesses : up.hifReset = false ∧ (6 % 4 ≠ 0 ∨ (4 : Nat) ≠ 4) ∧ (8 % 4 ≠ 0 ∨ (8 : Nat) ≠ 4)
    ∧ up.barOpen rClkAonLo = true ∧ isPairLo rClkAonLo = true ∧ up.barOpen (rClkAonLo + 4) = true := by decide +kernel

theorem wit_RegisterWrite : State.reset.barOpen rRngCtxBaseLo = false ∧ up.barOpen rRngCtxBaseLo = true
    ∧ up.barOpen rRngEvqHeadHi = true ∧ up.barOpen (0x108000 + 32 * 1023 + 4 * 3) = true ∧ engine.rngOn = true
    ∧ (setAll [(rRngEvqCfg, 0x10004)] up).evqOn = true ∧ bit 31 ((setAll [(rRngGrpCfg 0, 0x80000004)] up).reg (rRngGrpCfg 0)) = true := by
  decide +kernel

/-! ### Witnesses: the scheduler -/

/-- A semaphore range for partition 0. -/
def semd : State := setAll [(rPrtSemCount 0, 16)] up

/-- A state where Waybill 1 may begin. -/
def ready1 (w : Slot) : State := work (aWb w .waiting) semd

theorem wit_NopAndCompletion_begin :
    (ready1 (slot opNop 1 1 0 0 0 0)).begin? 1 opNop = some (aWb (slot opNop 1 1 0 0 0 0) .waiting)
      ∧ wbReservedBad (slot opNop 1 1 0 0 0 0) = false ∧ wbReservedBad (slot opNop 1 1 5 0 0 0) = true
      ∧ (ready1 (slot opNop 1 1 5 0 0 0)).begin? 1 opNop = some (aWb (slot opNop 1 1 5 0 0 0) .waiting)
      ∧ (aWb (slot opNop 1 1 0 0 0 0) .waiting).lost = none ∧ (aGrp false).fault = false := by decide +kernel

theorem wit_NopAndCompletion_complete :
    let e := aWb (slot opNop 1 1 0 0 0 0) .ended
    (work e up).wb 1 = some e ∧ e.phase = .ended
      ∧ (ready1 (slot 0x77 1 1 0 0 0 0)).earlyEnd (aWb (slot 0x77 1 1 0 0 0 0) .waiting) = some 0x11
      ∧ (aWb (slot 0x77 1 1 0 0 0 0) .waiting).lost = none := by decide +kernel

theorem wit_NopAndCompletion_record :
    let w := aWb (slot opNop 1 1 0 0 0 0) .ended
    let s := work w (host [] [] engine)
    s.cacheOk = true ∧ s.io = [] ∧ s.wb w.wid = some w ∧ s.consist w.cid = some aConsist ∧ s.grp aConsist.group = some (aGrp false)
      ∧ (aGrp false).held = [] ∧ s.grpFull aConsist.group = false ∧ stSuccess w.status = true ∧ wIrq w.slot = false ∧ wQuiet w.slot = false := by
  decide +kernel

/-- A misaligned Timetable, a Waybill refused by the security policy, and transfers without room. -/
theorem wit_ChecksComeFirst :
    let w (op : Nat) := aWb (slot op 1 1 1 0 64 0) .waiting
    let s (op : Nat) := work (w op) semd
    (w opRunTt).lost = none ∧ (s opRunTt).r53 0 (w opRunTt).slot = some 0x12 ∧ (s opRunTt).begin? 1 opRunTt = some (w opRunTt)
      ∧ (s opFill).begin? 1 opFill = some (w opFill) ∧ (s opXfer).begin? 1 opXfer = some (w opXfer)
      ∧ (let p := setAll [(rSecPolicy, 1)] (s opFill)
         p.r53 0 (w opFill).slot = none ∧ p.secCheck 0 = some 0x71) := by decide +kernel

/-- A run on an engine. -/
def aRun (k : EngKind) (insts : List RunInst) : Run := { newRun (aWb 0 .running) 0 with kind := k, insts := insts }

/-- The part of engine i. -/
def aInst (i hi pos : Nat) (started : Bool) : RunInst :=
  { inst := i, lo := 0, hi := hi, pos := pos, outer := 0, outerEnd := 0, tiles := [], missed := false, noticed := false, waited := [],
    started := started, done := false }

/-- A state with this run of Waybill 1 on engine 0 of its kind. -/
def running (r : Run) (s : State) : State :=
  let s := work (aWb 0 .running) s
  ({ s with eng := { s.eng with runs := [r] } }).setUse r.kind 0 (some (.running 1))

theorem wit_WaitingWork_room :
    let r := { aRun .mxe [aInst 0 64 0 false] with storeWait := [0], tt := [0] }
    let s := running r up
    (s.eng.runs.filter fun r => r.storeWait.contains 0) = [r] ∧ s.hasCopy 0 r.wid = false ∧ r.tt ≠ []
      ∧ (∃ x ∈ r.insts, x.started = false ∧ (dieOf r.kind x.inst).2 = 0) ∧ s.storeRoom 0 r.tt.length = true := by decide +kernel

theorem wit_WaitingWork_report :
    let r := aRun .vxe [aInst 0 128 64 true]
    let p : Report := { wid := 1, inst := 0, pos := 0, nsPer := none }
    let s := running r up
    let s := { s with place := { s.place with reports := [p] } }
    s.runOn .vxe 0 = some (r, aInst 0 128 64 true) ∧ s.place.reports.find? (fun p => decide (p.wid = r.wid ∧ p.inst = 0)) = some p
      ∧ (aInst 0 128 64 true).lo ≤ p.pos ∧ p.pos + 64 ≤ (aInst 0 128 64 true).pos := by decide +kernel

/-- A Waybill that reserves two engines and holds none. -/
theorem wit_WaitingWork_free :
    let w := { aWb 0 .ready with kind := some .cve, need := 3, resSince := some 0 }
    let s := setAll [(rCveCfg 0, 1), (rPrtEngOther 0, 0x100)] (work w up)
    0 < kindCount s.assy .cve ∧ s.fenced (dieOf .cve 0).1 (dieOf .cve 0).2 = false ∧ s.avail .cve 0 = true ∧ s.useOf .cve 0 = none
      ∧ s.sliceFirst .cve 0 = false ∧ s.taker .cve 0 = some w ∧ w.phase = .ready ∧ s.wb w.wid = some w ∧ w.held.length + 1 < w.need ∧ kindCount s.assy .cve ≤ 4
      ∧ (setAll [(rCveCfg 0, 1)] up).taker .cve 0 = none ∧ (setAll [(rCveCfg 0, 0)] up).avail .cve 0 = false := by decide +kernel

theorem wit_Partitions :
    let s := { up with sched := { up.sched with parts := [aPart] } }
    0 < 32 ∧ up.barOpen rPrtCmd = true ∧ bit 0 (up.reg rPrtCmdStatus) = false ∧ swf (regReset up.assy) up.regs = true ∧ up.part 31 = none ∧ (s.part 0).isSome = true
      ∧ (host [aRing 1 0] [] s).partBusy 0 = true ∧ s.partBusy 0 = false := by decide +kernel

theorem wit_EvictSuspendResume :
    let s := work (aWb 0 .waiting) up
    let d := { s with sched := { s.sched with parts := [{ aPart with drvSusp := true }] } }
    s.barOpen rPrtCmd = true ∧ bit 0 (s.reg rPrtCmdStatus) = false ∧ s.part 0 = some aPart ∧ s.openOf 0 ≠ [] ∧ (s.sched.wbs.map (·.wid)).Nodup ∧ (∀ w ∈ s.sched.wbs, w.lost = none)
      ∧ aPart.drvSusp = false ∧ (d.part 0).any (fun x => x.drvSusp) = true ∧ up.part 0 = none
      ∧ (∃ c ∈ s.openOf 0, c.cid = (aWb 0 .waiting).cid) := by decide +kernel

theorem wit_PartitionRegisters :
    up.barOpen rPrtSemValHi = true ∧ swf semReset up.sems = true ∧ up.barOpen (rPrtSemCount 31) = true ∧ up.isSealed (rPrtSemCount 31) = false
      ∧ (let t := up.writeReg (rPrtSemCount 31) 65536
         t.fld (rPrtSemBase 31) 15 0 + t.fld (rPrtSemCount 31) 16 0 = 65536)
      ∧ semMeets 0 1 (semd.fld (rPrtSemBase 0) 15 0) (semd.fld (rPrtSemCount 0) 16 0) = true
      ∧ up.barOpen (rPrtCfg 31) = true ∧ bits 0 0 (0x4000 : Word) = 0 ∧ bits 14 8 (0x4000 : Word) ≤ 64
      ∧ bits 0 0 (1 : Word) = 1
      ∧ (let s := setAll [(rSrvQuotaHbm 3 31, 1)] up
         s.barOpen (rPrtCfg 31) = true ∧ s.isSealed (rPrtCfg 31) = false ∧ s.fld (rSrvQuotaHbm 3 31) 19 0 ≠ 0)
      ∧ up.barOpen (rPrtShare 31) = true ∧ bits 15 0 (0x10000 : Word) = 0 ∧ bits 15 0 (1 : Word) ≠ 0
      ∧ ({ up with sec := { up.sec with devSeal := some [] } }.setFld rSecPartSealed 0 0 1).isSealed (rPrtShare 0) = true
      ∧ up.barOpen (rPrtCtrClr 31) = true := by decide +kernel

/-- Bytes of a structure from its fields: offset, length, value. -/
def image (n : Nat) (fs : List (Nat × Nat × Nat)) : List Byte :=
  fs.foldl (fun bs f => bs.take f.1 ++ leBytes f.2.1 f.2.2 ++ bs.drop (f.1 + f.2.1)) (List.replicate n 0)

/-- A VXE Timetable of one 8 x 32 tile: C = A, both FP32 panels (R80 to R101), its SEAL still zero. -/
def tt0 : List Byte := image 0x240
  [ (0, 4, 0x54545842), (4, 2, 1), (6, 1, 2), (8, 4, 0x240), (0x10, 2, 8), (0x12, 2, 32), (0x14, 2, 1),
    (0x18, 8, 2 + 3 * 2 ^ 8 + 1 * 2 ^ 24 + 1 * 2 ^ 32 + 1 * 2 ^ 40), (0x20, 4, 0x100), (0x24, 4, 0x180), (0x28, 4, 0x200),
    (0x100, 8, 1 + 1 * 2 ^ 32), (0x140, 8, 1 + 4 * 2 ^ 32),
    (0x180, 8, 2 ^ 21), (0x188, 8, 1), (0x190, 8, 64), (0x1C0, 8, 2 ^ 22), (0x1C8, 8, 1), (0x1D0, 8, 64) ]

/-- The same with its SEAL, the SHAKE256 of those bytes as computed outside this model (R83). -/
def tt1 : List Byte := tt0.take 0xC0 ++ leBytes 64
  0xb1899aad15f09cb31a80dd9c8783cac60a747cd4fdeabe198a090e8f073883757e3f4768c1a6d9c6d3db0a48b403ce0ff96fe0f0c0d55131901ccf286efaf851
  ++ tt0.drop 0x100

/-- A page of partition 0 in HBM. -/
def aPage (n : Nat) : Page :=
  { num := n, cold := false, place := .hbm, lent := .no, heat := 0, last := 0, lastView := 0, gone := none, taking := none }

/-- Pages 0 to 2 mapped. -/
def paged (s : State) : State := { s with place := { s.place with pages := [aPage 0, aPage 1, aPage 2] } }

/-- Partition 0 may use the first engine of each kind. -/
def masks (s : State) : State :=
  setAll [(rPrtEngMxe 0, 1), (rPrtEngOther 0, 0x01011101), (rMxeCfg 0, 1), (rVxeCfg 0, 1), (rCveCfg 0, 1), (rXfeCfg 0, 1), (rCleCfg 0, 1)] s

theorem wit_TimetableIsIssued :
    let w := aWb (slot opRunTt 1 1 0 0 0 0) .waiting
    let s := (masks (paged (work w semd))).memStore 0 tt1
    let s1 := ((s.handed w).prepareFor 1 0 [(0, 256)] []).2
    let s2 := s1.noteRead 1 0 256
    let s3 := (s1.prepareFor 1 1 [(0, 0x240)] []).2
    let die := (((s.handed w).run 1).map (·.recv)).getD 0
    let s4 := s3.noteRead 1 0 0x240
    ttSealOk tt1 = true ∧ ttCheckHeader (tt1.take 256) = none ∧ rdN tt1 8 4 = 0x240 ∧ s.begin? 1 opRunTt = some w ∧ s.r53 0 w.slot = none ∧ s.secCheck 0 = none ∧ ((s.handed w).prepareFor 1 0 [(0, 256)] []).1 = true
      ∧ rdN (s1.readBytes 0 256) 8 4 = 0x240 ∧ s2.readStatus 1 = none ∧ ttCheckHeader (s1.readBytes 0 256) = none
      ∧ rangeInPart 0 0 0x240 = true ∧ s1.storeRoom die 0x240 = true ∧ (s1.prepareFor 1 1 [(0, 0x240)] []).1 = true
      ∧ s4.readStatus 1 = none ∧ (s3.readBytes 0 0x240 == tt1) = true
      ∧ s4.ttChecks w die tt1 (shapeVals 0 0 0) = .inl 0 ∧ s4.usable 0 .vxe ≠ [] := by decide +kernel
/-! ### Witnesses: memory, placement, transfers -/

/-- The page of every placement page of a range is in place, checked by evaluation. -/
def placed (s : State) (via : Option (Nat × Nat)) (a n : Nat) : Bool :=
  (pagesOf a n).all fun p => (s.page p).any fun g => g.place.isLocal && g.gone.isNone && (decide (g.place ≠ .hbm) || s.hbmAwake g.die) && !(match via with
    | some d => s.outOf d g.die
    | none => s.fenced 2 g.die)

theorem inPlace_of {s : State} {via : Option (Nat × Nat)} {a n : Nat} (h : placed s via a n = true) : s.inPlace via a n := by
  intro p hp
  have := List.all_eq_true.1 h p hp
  rw [Option.any_eq_true] at this
  obtain ⟨g, hg, h2⟩ := this
  simp only [Bool.and_eq_true, Bool.not_eq_true', Option.isNone_iff_eq_none, Bool.or_eq_true, decide_eq_true_eq] at h2
  exact ⟨g, hg, h2.1.1.1, h2.1.1.2, fun h => h2.1.2.resolve_left (· h), h2.2⟩

/-- A clean range, checked by evaluation. -/
theorem cleanAt_of {s : State} {via : Option (Nat × Nat)} {a n : Nat} (h1 : s.kv.views = []) (h2 : placed s via a n = true)
    (h3 : (linesOf a n).all (fun l => !s.poisoned (64 * l)) = true) : s.cleanAt via a n :=
  ⟨h1, inPlace_of h2, fun l hl => by simpa using List.all_eq_true.1 h3 l hl⟩

/-- A TIMESTAMP that may begin, to a space. -/
def stamping (space : Nat) : State :=
  setAll [(rXfeHostsizeHi 0, 0x100000)] (paged (work (aWb (slot opStamp 1 1 64 0 0 (space * 16)) .waiting) semd))

theorem wit_TransfersBegin_stamp :
    let w (sp : Nat) := aWb (slot opStamp 1 1 64 0 0 (sp * 16)) .waiting
    let v := aWb (slot opStamp 1 1 (2 ^ 48 + 64) 0 0 32) .waiting
    (w 1).lost = none ∧ (work v semd).begin? 1 opStamp = some v ∧ (setAll [(rVrlPartFab 0, 0x10001)] (work v semd)).r53 0 v.slot = none ∧ wDstSpace v.slot = 2
      ∧ (aWb (slot opStamp 1 1 60 0 0 0) .waiting).lost = none
      ∧ (work (aWb (slot opStamp 1 1 60 0 0 0) .waiting) semd).r53 0 (slot opStamp 1 1 60 0 0 0) ≠ none
      ∧ (stamping 1).begin? 1 opStamp = some (w 1) ∧ (stamping 1).r53 0 (w 1).slot = none ∧ wDstSpace (w 1).slot = 1
      ∧ (stamping 0).begin? 1 opStamp = some (w 0) ∧ (stamping 0).r53 0 (w 0).slot = none ∧ wDstSpace (w 0).slot = 0
      ∧ (stamping 0).kv.views = [] ∧ accStatus (w 0) 0 = 0 := by decide +kernel

theorem wit_TransfersBegin_place : (stamping 0).inPlace ((stamping 0).accDie 1 0) 64 8 :=
  inPlace_of (by decide +kernel)

theorem wit_TransfersBegin_pieces :
    let f := aWb (slot opFill 1 1 0 7 64 0) .waiting
    let x := aWb (slot opXfer 1 1 0 4096 64 0) .waiting
    (work f semd).begin? 1 opFill = some f ∧ (work f semd).r53 0 f.slot = none ∧ (work f semd).secCheck 0 = none
      ∧ (work f semd).usable 0 .xfe = [] ∧ wArg f.slot 2 ≠ 0
      ∧ (work x semd).begin? 1 opXfer = some x ∧ (work x semd).r53 0 x.slot = none
      ∧ (masks (work x semd)).usable 0 .xfe ≠ [] ∧ (masks (work x semd)).xferOf 1 = none := by decide +kernel

/-- A piece of 64 bytes that runs on XFE 0. -/
def aPiece : Piece :=
  { wid := 1, idx := 0, off := 0, len := 64, home := 0, xfe := some 0, run := true, sent := true, failed := false, late := [], lost := 0 }

/-- Its XFER or FILL, from 0 to 4096. -/
def aXfer (fill : Bool) : Xfer :=
  { wid := 1, fill := fill, src := 0, dst := 4096, len := 64, srcSpace := 0, dstSpace := 0, pieces := [aPiece], unmoved := 0 }

/-- A state in which it runs. -/
def moving (fill : Bool) : State :=
  let s := paged (work (aWb (slot opFill 1 1 4096 7 64 0) .running) up)
  ({ s with place := { s.place with xfers := [aXfer fill] } }).setUse .xfe 0 (some (.running 1))

theorem wit_PieceMovesItsBytes :
    (moving true).wb 1 = some (aWb (slot opFill 1 1 4096 7 64 0) .running) ∧ (moving true).xferOf 1 = some (aXfer true)
      ∧ (aXfer true).piece 0 = some aPiece ∧ aPiece.run = true ∧ aPiece.sent = true ∧ aPiece.failed = false
      ∧ aPiece.xfe = some 0 ∧ aPiece.lost = 0 ∧ (moving true).xfeReturns 0 = false ∧ swf (regReset (moving true).assy) (moving true).regs = true
      ∧ (aXfer true).dstSpace = 0 ∧ (moving true).kv.views = [] ∧ (∀ t ∈ (moving true).vrl.txns, t.owner ≠ .piece 1 0)
      ∧ (moving false).xferOf 1 = some (aXfer false) ∧ (∀ l ∈ linesOf 0 64, (moving false).poisoned (64 * l) = false)
      ∧ 0 + 64 ≤ 4096 := by decide +kernel

theorem wit_PieceMovesItsBytes_place : (moving false).inPlace (some (dieOf .xfe 0)) 4096 64
    ∧ (moving false).inPlace (some (dieOf .xfe 0)) 0 64 :=
  ⟨inPlace_of (by decide +kernel), inPlace_of (by decide +kernel)⟩

/-- A PLACE of an action on page 0 that may begin. -/
def placing (act : Nat) (s : State) : State := work (aWb (slot opPlace 1 1 0 (2 ^ 21) act 0) .waiting) s

theorem wit_PlacementMap_map :
    let w (a : Nat) := aWb (slot opPlace 1 1 0 (2 ^ 21) a 0) .waiting
    let s := setAll [(rSrvQuotaHbm 0 0, 16)] (placing 1 semd)
    s.begin? 1 opPlace = some (w 1) ∧ placeAct (w 1).slot = 1 ∧ s.r53 0 (w 1).slot = none ∧ s.secCheck 0 = none
      ∧ placePages (w 1).slot = [0] ∧ (w 1).lost = none ∧ s.placeWaits = [] ∧ s.page 0 = none ∧ s.moveOf 0 = none ∧ s.kv.views = []
      ∧ ((s.startWb (w 1)).mapPages false [0]).shortfall 0 = 0 ∧ ((s.startWb (w 1)).mapPages false [0]).tableExcess = 0
      ∧ 0 < (((placing 1 semd).startWb (w 1)).mapPages false [0]).shortfall 0
      ∧ ((paged s).page 0).isSome = true ∧ (paged s).begin? 1 opPlace = some (w 1) := by decide +kernel

/-- A lease of Waybill 1 on page 0. -/
def aLease : Lease := { page := 0, frame := 0, view := 0, wid := 1, copy := false, before := false }

theorem wit_PlacementMap_unmap :
    let w (a : Nat) := aWb (slot opPlace 1 1 0 (2 ^ 21) a 0) .waiting
    let s := paged (placing 2 semd)
    let t := { s with place := { s.place with leases := [aLease] } }
    let g := { aPage 0 with gone := some 1 }
    let u := { s with place := { s.place with pages := [g] } }
    s.begin? 1 opPlace = some (w 2) ∧ placeAct (w 2).slot = 2 ∧ s.r53 0 (w 2).slot = none ∧ s.page 0 = some (aPage 0)
      ∧ (aPage 0).busy = false ∧ s.pageLent 0 = false ∧ s.pageInUse 0 = false ∧ t.pageInUse 0 = true
      ∧ (paged (placing 3 semd)).begin? 1 opPlace = some (w 3) ∧ (paged (placing 3 semd)).r53 0 (w 3).slot = none
      ∧ u.wb 1 = some (w 2) ∧ u.place.pages.filter (fun g => decide (g.gone = some 1)) = [g] ∧ g.num = 0 ∧ u.pageHeld 0 = false := by decide +kernel

theorem wit_LendingAndReclaim :
    let w (a : Nat) := aWb (slot opPlace 1 1 0 (2 ^ 21) a 0) .waiting
    let s (a : Nat) := paged (placing a semd)
    let g (k : Option Nat) := { aPage 0 with lent := .host 0, place := .siding, taking := k }
    let t (k : Option Nat) := { s 6 with place := { (s 6).place with pages := [g k], snoop := [5] } }
    (s 4).fenced 2 (0 % 4) = false ∧ (s 4).placeWaits = []
      ∧ (let f := { s 4 with clk := { (s 4).clk with fenced := [(2, 0)] } }; f.fenced 2 (0 % 4) = true ∧ f.begin? 1 opPlace = some (w 4))
      ∧ (s 4).begin? 1 opPlace = some (w 4) ∧ (s 4).r53 0 (w 4).slot = none ∧ (s 5).r53 0 (w 0x105).slot = none
      ∧ (∀ g ∈ (s 4).place.pages, g.lent = .no) ∧ (s 4).pageLent 0 = false ∧ (placing 4 semd).page 0 = none
      ∧ (s 6).begin? 1 opPlace = some (w 6) ∧ (s 6).r53 0 (w 6).slot = none ∧ (s 6).heldLines 0 = []
      ∧ (t none).page 0 = some (g none) ∧ (t none).pageLent 0 = true ∧ (t none).heldLines 0 = [5] ∧ (g none).busy = false
      ∧ (∃ g ∈ (t (some 1)).place.pages, g.taking = some 1) ∧ (t (some 1)).wb 1 = some (w 6) := by decide +kernel

/-- The room that a LEND needs (R275). -/
theorem wit_LendingAndReclaim_room :
    let w := aWb (slot opPlace 1 1 0 (2 ^ 21) 4 0) .waiting
    let s := setAll [(rSrvQuotaSid 0 0, 17), (rSrvQuotaHbm 0 0, 16)] (placing 4 semd)
    let s := { s with place := { s.place with pages := [aPage 0] } }
    let u := { s.startWb w with place := { s.place with pages := [{ aPage 0 with lent := .host 0 }] } }
    s.begin? 1 opPlace = some w ∧ u.shortfall 0 = 0 ∧ u.tableExcess = 0 := by decide +kernel

/-- A move of page 0 from a place to a place. -/
def aMove (src dst : Place) (sw : Bool) : Move := { page := 0, die := 0, src := src, dst := dst, cause := .promote, switched := sw, xfe := none, failed := none }

/-- A state in which it is in flight. -/
def inFlight (m : Move) : State :=
  let s := paged up
  { s with place := { s.place with moves := [m], pages := [{ aPage 0 with place := m.src }] } }

theorem wit_MovesAndQuotas :
    up.barOpen (rSrvQuotaHbm 0 0) = true ∧ quotaReg (rSrvQuotaHbm 0 0) = some (0, 0, none) ∧ up.barOpen (rSrvPoolFault 31) = true
      ∧ (inFlight (aMove .siding .hbm false)).moveOf 0 = some (aMove .siding .hbm false)
      ∧ ((inFlight (aMove .siding .hbm false)).page 0).isSome = true
      ∧ (inFlight (aMove .hbm .siding true)).moveOf 0 = some (aMove .hbm .siding true)
      ∧ (aMove (.host 3) .hbm false).dst.isPool = false ∧ (aMove (.host 3) .hbm false).src.pool = some 0
      ∧ (aMove .siding (.fabric 3 1) false).dst.pool = some 4 ∧ (aMove .siding .hbm false).cause ≠ .swapOut
      ∧ swf markReset up.marks = true
      ∧ (inFlight (aMove .siding .hbm false)).pump.behindReturn (aMove .siding .hbm false) = false
      ∧ (inFlight (aMove .siding (.fabric 3 1) false)).vrl.txns = []
      ∧ ({ aMove .siding (.fabric 3 1) false with failed := some 0x31 } : Move).failed ≠ none := by decide +kernel

/-- A lent page away from its tier is moved there (R269). -/
theorem wit_MovesAndQuotas_start :
    let s := setAll [(rSrvQuotaSid 0 0, 16)] (paged up)
    let s := { s with place := { s.place with pages := [{ aPage 0 with lent := .host 0 }] } }
    let m : Move := { page := 0, die := 0, src := .hbm, dst := .siding, cause := .lend, switched := false, xfe := none, failed := none }
    (s.place.moves.filter fun m => decide (m.die = 0)).length < 4 ∧ s.fenced 2 0 = false ∧ m.cause ≠ .demand
      ∧ (s.moveList 0).find? (fun m => !m.usesPool || decide (((s.place.moves.filter fun m => decide (m.die = 0)).filter Move.usesPool).length < 2)) = some m
      ∧ (let t := { s with place := { s.place with moves := List.replicate 4 m } }
         4 ≤ (t.place.moves.filter fun m => decide (m.die = 0)).length) := by decide +kernel

/-- HDM accesses on, no page lent. -/
def hdm : State := setAll [(rHifLinkStatus, 0x200)] (paged up)

theorem wit_HostAccesses_memory :
    let g := { aPage 0 with lent := .host 0, place := .siding }
    let s := { hdm with place := { hdm.place with pages := [g] } }
    hdm.ready = true ∧ hdm.clk.trained = true ∧ bit 9 (hdm.reg rHifLinkStatus) = true ∧ (∀ g ∈ hdm.place.pages, g.lent ≠ .host (0 / 2 ^ 21 * 2 ^ 21))
      ∧ s.hdmPage 0 = some g ∧ s.hdmPage (2 ^ 21 - 64) = some g ∧ s.fenced 2 g.die = false ∧ s.place.snoop.length < 8388608 := by
  decide +kernel
/-! ### Witnesses: KV, views, tables, counters -/

/-- A descriptor of an operation on one block: token IDs, handles and chain values at pages 0 and 1. -/
def kvDesc (op ids handles hashes flags : Nat) : List Byte :=
  image 64 [(0, 4, op + flags * 256), (4, 4, 1), (0x18, 8, ids), (0x20, 8, handles), (0x28, 8, hashes)]

/-- A KV Waybill at that descriptor, on Gazetteer 0. -/
def aJob (d : List Byte) : KvJob :=
  { wid := 1, gaz := 0, next := 0, count := 1, notDone := 0, quota := false, closing := false, descs := [d] }

/-- A state in which it runs. -/
def kving (d : List Byte) (nodes : List Node) (views : List View) : State :=
  let s := paged (work (aWb (slot opKv 1 1 0 1 0 0) .running) up)
  { s with kv := { views := views, nodes := nodes, jobs := [aJob d] } }

/-- A node of partition 0. -/
def aNode (h : List Byte) (refs : Nat) : Node :=
  { h := h, parent := [], root := true, handle := 2 ^ 21, part := 0, die := 0, refs := refs, kids := 0, last := 0 }

theorem wit_KvDescriptor : ∀ op ∈ [1, 2, 3, 4, 5, 16, 17],
    (kving (kvDesc op 0x40 0x80 0x100 0) [] []).kvAt 1 op (aWb (slot opKv 1 1 0 1 0 0) .running) (aJob (kvDesc op 0x40 0x80 0x100 0))
      (kvDesc op 0x40 0x80 0x100 0) := by unfold State.kvAt; decide +kernel

theorem wit_KvDescriptor_prepare :
    let d := kvDesc 1 0x40 0 0x1000 0
    let s := kving d [] []
    (s.prepareFor 1 2 (s.kvTouches 0 d).1 ((s.kvTouches 0 d).2 ++ (aJob d).place (aWb (slot opKv 1 1 0 1 0 0) .running))).1 = true
      ∧ s.err.fresh = [] ∧ Memory.wf s.mem = true ∧ kvCount d = 1 ∧ kvHashes d ≠ 0 ∧ kvIds d ≠ 0 := by decide +kernel

/-- The descriptors of these witnesses are in place. -/
theorem wit_KvOperations_descriptor : ∀ d ∈ [kvDesc 1 0x40 0 0x1000 0, kvDesc 2 0x40 0x1000 0 1, kvDesc 3 0x40 0x1000 0 2,
    kvDesc 4 0 0 0x1000 0, kvDesc 16 0x40 (2 ^ 22) 0 0], (kving d [] []).inPlace ((kving d [] []).accDie 1 2) 0 64 :=
  fun d h => inPlace_of ((by decide +kernel : ∀ d ∈ [kvDesc 1 0x40 0 0x1000 0, kvDesc 2 0x40 0x1000 0 1, kvDesc 3 0x40 0x1000 0 2,
    kvDesc 4 0 0 0x1000 0, kvDesc 16 0x40 (2 ^ 22) 0 0], placed (kving d [] []) ((kving d [] []).accDie 1 2) 0 64 = true) d h)

theorem wit_KvOperations_hash :
    (kving (kvDesc 1 0x40 0 0x1000 0) [] []).cleanAt ((kving (kvDesc 1 0x40 0 0x1000 0) [] []).accDie 1 2)
      (kvIds (kvDesc 1 0x40 0 0x1000 0)) 2048
    ∧ (kving (kvDesc 1 0x40 0 0x1000 0) [] []).inPlace ((kving (kvDesc 1 0x40 0 0x1000 0) [] []).accDie 1 2)
      (kvHashes (kvDesc 1 0x40 0 0x1000 0)) 16 :=
  ⟨cleanAt_of rfl (by decide +kernel) (by decide +kernel), inPlace_of (by decide +kernel)⟩

/-- A value is in a tree without nodes never, in a tree of its node always. -/
theorem node_of (d : List Byte) (h : List Byte) :
    (kving d [] []).node 0 h = none ∧ (kving d [aNode h 0] []).node 0 h = some (aNode h 0) := by
  constructor
  · rfl
  · simp [State.node, kving, aNode]

theorem wit_KvOperations_lookup :
    let d := kvDesc 2 0x40 0x1000 0 1
    let s (l : List Node) := kving d l []
    let h := chainVal (kvStart d) ((s []).memRead (kvIds d) 2048)
    kvHashes d = 0 ∧ kvHandles d ≠ 0 ∧ kvAcquire d = true ∧ (aNode h 0).refs < 0xFFFFFFFF ∧ (s []).node 0 h = none
      ∧ (s [aNode h 0]).node 0 h = some (aNode h 0) :=
  ⟨by decide, by decide, by decide, by decide, node_of _ _⟩

/-- Four dies with room for nodes of partition 0. -/
def roomy (s : State) : State := setAll [(rGazCfg 0, 0x1001), (rGazCfg 1, 0x1001), (rGazCfg 2, 0x1001), (rGazCfg 3, 0x1001), (rGazQuota 0 0, 8), (rGazQuota 1 0, 8),
  (rGazQuota 2 0, 8), (rGazQuota 3 0, 8)] s

theorem wit_KvOperations_insert :
    let d := kvDesc 3 0x40 0x1000 0 2
    let s := roomy (kving d [] [])
    swf (regReset s.assy) s.regs = true ∧ kvHashes d = 0 ∧ kvEvicts d = 0 ∧ kvRoot d = true ∧ (∀ i, i < 4 → s.noRoom 0 i = none) ∧ s.kv.nodes = [] := by decide +kernel

theorem wit_KvOperations_insert_die :
    let d := kvDesc 3 0x40 0x1000 0 2
    let s := roomy (kving d [] [])
    let h := chainVal (kvStart d) (s.memRead (kvIds d) 2048)
    s.node 0 h = none ∧ s.noRoom 0 (nodeDie h) = none := by
  intro d s h
  have hs := wit_KvOperations_insert
  refine ⟨?_, hs.2.2.2.2.1 _ (Nat.mod_lt _ (by decide))⟩
  have : s.kv.nodes = [] := hs.2.2.2.2.2
  simp [State.node, this]

theorem wit_KvOperations_release :
    let d := kvDesc 4 0 0 0x1000 0
    let e := List.replicate 16 (0 : Byte)
    let s (l : List Node) := kving d l []
    (s []).memRead (kvHashes d) 16 = e ∧ kvHashes d ≠ 0 ∧ (s []).node 0 e = none ∧ (s [aNode e 0]).node 0 e = some (aNode e 0)
      ∧ (s [aNode e 1]).node 0 e = some (aNode e 1) ∧ (aNode e 0).kids = 0 := by decide +kernel

theorem wit_KvOperations_place : (kving (kvDesc 4 0 0 0x1000 0) [] []).cleanAt
    ((kving (kvDesc 4 0 0 0x1000 0) [] []).accDie 1 2) (kvHashes (kvDesc 4 0 0 0x1000 0)) 16 :=
  cleanAt_of rfl (by decide +kernel) (by decide +kernel)

/-- A view without a window, at page 2, closing or not. -/
def aView (closing : Option Nat) : View :=
  { base := 2 ^ 22, part := 0, spec := List.replicate 128 0, list := [], closing := closing, holeSaid := false }

theorem wit_ViewsAndTables_open :
    let d := kvDesc 16 0x40 (2 ^ 22) 0 0
    let s := kving d [] []
    kvIds d ≠ 0 ∧ vList (s.memRead (kvIds d) 128) = 0 ∧ (∀ g ∈ s.place.pages, (aView none).crosses g.addr 2097152 = false)
      ∧ (aView none).spec = s.memRead (kvIds d) 128 := by decide +kernel

theorem wit_ViewsAndTables_close :
    let d := kvDesc 17 0 (2 ^ 22) 0 0
    let s (v : List View) (l : List Lease) := { kving d [] v with place := { (kving d [] v).place with leases := l } }
    let w := s [aView (some 1)] []
    let t := { w with kv := { w.kv with jobs := [{ aJob d with closing := true }] } }
    (∃ v ∈ (s [aView none] []).kv.views, v.base = kvHandles d ∧ v.part = 0 ∧ v.closing = none) ∧ (s [] []).kv.views = []
      ∧ (s [aView none] []).viewBusy (kvHandles d) = false ∧ (s [aView none] [{ aLease with view := 2 ^ 22 }]).viewBusy (kvHandles d) = true
      ∧ t.wb 1 = some (aWb (slot opKv 1 1 0 1 0 0) .running) ∧ t.kvJob 1 = some { aJob d with closing := true }
      ∧ t.kv.views.find? (fun v => decide (v.closing = some 1)) = some (aView (some 1))
      ∧ (t.prepareFor 1 2 [] ((aJob d).place (aWb (slot opKv 1 1 0 1 0 0) .running))).1 = true
      ∧ (w.prepareFor 1 2 (w.kvTouches 0 d).1 ((w.kvTouches 0 d).2 ++ (aJob d).place (aWb (slot opKv 1 1 0 1 0 0) .running))).1 = true := by decide +kernel

/-- A KEY view of one sequence at page 4 (R215). -/
def readView : View :=
  { aView none with base := 2 ^ 23, spec := (image 128
      [(0, 8, 1 + 2 * 2 ^ 8 + 2 ^ 24 + 2 ^ 28 + 128 * 2 ^ 32), (0x10, 4, 0x10001), (0x18, 8, 0x5000), (0x34, 4, 64)]) }

theorem wit_ViewsAndTables_read :
    let s := kving [] [] [readView]
    specOk readView.spec = true ∧ s.wb 1 = some (aWb (slot opKv 1 1 0 1 0 0) .running) ∧ s.viewAt (2 ^ 23) = some readView
      ∧ 2 ^ 23 + 64 ≤ readView.base + windowSize readView.spec readView.list ∧ (s.prepareFor 1 1000000 [(2 ^ 23, 64)] []).1 = true ∧ s.run 1 = none := by
  decide +kernel

theorem wit_ViewsAndTables_gaz :
    up.barOpen (rGazCfg 3) = true ∧ bit 0 (up.reg (rGazCfg 3)) = false ∧ 16 ≤ bits 12 8 (0x1000 : Word) ∧ bits 12 8 (0x1600 : Word) ≤ 22
      ∧ bit 0 ((setAll [(rGazCfg 3, 0x1001)] up).reg (rGazCfg 3)) = true ∧ bit 0 (0x1000 : Word) = false ∧ up.failed .gaz 3 = false := by decide +kernel

theorem wit_CountersAreCleared :
    up.barOpen (rMxeCtrClr 15) = true ∧ up.barOpen (rMxeNfClr 3) = true ∧ up.barOpen (rVxeCtrClr 7) = true ∧ up.barOpen (rGazCtrClr 3) = true
      ∧ up.barOpen (rExpCtrClr 3) = true ∧ up.barOpen (rSrvCtrClr 3) = true ∧ up.barOpen (rXfeCtrClr 7) = true ∧ up.barOpen (rCveCtrClr 3) = true
      ∧ up.barOpen (rCdeCtrClr 3) = true ∧ up.barOpen (rCleCtrClr 3) = true ∧ up.hasPort 99 = true ∧ up.barOpen (rVrlPortClr 99) = true
      ∧ up.barOpen rVrlCtrClr = true ∧ up.barOpen rErrCtrClr = true ∧ up.barOpen rBstCtrClr = true := by decide +kernel

/-- A histogram entry and a check of it. -/
def anEntry : ThdEntry :=
  { die := 0, slot := 0, part := 0, dig := 0, bins := List.replicate 32 0, samples := 0, drifting := 0, skipBusy := 0, skipSize := 0,
    skipNf := 0, last := 0, since := 0 }
def aCheck (pairs : List (Word × DWord)) : ThdCheck := { die := 0, part := 0, dig := 0, addr := 0, pos := 0, drift := 0, pairs := pairs }

theorem wit_TheodoliteAndTables :
    let s (p : List (Word × DWord)) := { up with eng := { up.eng with thd := [anEntry], checks := [aCheck p] } }
    (s []).eng.checks.find? (fun x => decide (x.die = 0)) = some (aCheck [])
      ∧ ((s []).eng.thd.filter fun x => decide (x.die = 0)).find? (fun x => decide (x.part = 0 ∧ x.dig = 0)) = some anEntry
      ∧ Marks.sramUe ⟨[], [], []⟩ = false ∧ (∀ y ∈ (s []).eng.thd, y.die = 0 → y.slot = anEntry.slot → y = anEntry)
      ∧ (thdBin [(0, 0)]).isSome = true ∧ (thdBin [(0, 0x7FF0000000000000)]).isNone = true
      ∧ up.barOpen (rMxeThdClr 3) = true ∧ up.barOpen (rVxeTblCmd 3) = true ∧ bits 9 8 (0x100 : Word) = 1 ∧ bits 9 8 (0x200 : Word) = 2
      ∧ bit 0 (up.reg (rVxeTblStatus 3)) = false ∧ up.kv.views = [] ∧ rangeInPart (bits 20 16 (0x100 : Word)) (up.reg64 (rVxeTblAddrLo 3)) 7533 = true := by
  decide +kernel

theorem wit_TheodoliteAndTables_place : (paged up).inPlace (some (1, 3)) ((paged up).reg64 (rVxeTblAddrLo 3)) 7533 := inPlace_of (by decide +kernel)
/-! ### Witnesses: engines -/

/-- A Timetable of an engine: tile extents, and levels as (BOUND, ROLE, SHAPE_SEL); caps for one tile along M and N and
three along K; A, B and C in BF16. -/
def ttOf (engine tm tn tk : Nat) (levels : List (Nat × Nat × Nat)) : List Byte :=
  image 0x340 ([ (0, 4, 0x54545842), (4, 2, 1), (6, 1, engine), (8, 4, 0x340), (0x10, 2, tm), (0x12, 2, tn), (0x14, 2, tk),
      (0x18, 8, levels.length + 3 * 2 ^ 8 + 3 * 2 ^ 16 + 1 * 2 ^ 24 + 1 * 2 ^ 32 + 1 * 2 ^ 40), (0x20, 4, 0x100), (0x24, 4, 0x280), (0x28, 4, 0x300),
      (0x280, 8, 2 ^ 21), (0x288, 8, 1), (0x290, 8, 1536), (0x2A0, 8, 2 ^ 21), (0x2A8, 8, 1), (0x2B0, 8, 1536),
      (0x2C0, 8, 2 ^ 22), (0x2C8, 8, 1), (0x2D0, 8, 256), (0x300, 4, tm), (0x304, 4, tn), (0x308, 4, 3 * tk) ]
    ++ levels.zipIdx.map fun x => (0x100 + 64 * x.2, 8, x.1.1 + x.1.2.1 * 2 ^ 32 + x.1.2.2 * 2 ^ 36))

/-- An MXE run of one row, two columns and 24 of 96 elements along K, in small tiles. -/
def mxeRun (x : RunInst) : Run :=
  { aRun .mxe [x] with tt := ttOf 1 2 2 32 [(0, 1, 1), (0, 2, 2), (0, 3, 3)], shapes := [1, 2, 24, 0, 0, 0] }

/-- A VXE run of one row; its second level takes two key blocks when k is 2. -/
def vxeRun (k : Nat) (x : RunInst) : Run :=
  { aRun .vxe [x] with tt := ttOf 2 8 32 1 [(0, 1, 1), (k, 3, 0)], shapes := [1, 0, 0, 0, 0, 0] }

/-- Ranges all clean, checked by evaluation. -/
theorem cleanAll_of {s : State} {via : Option (Nat × Nat)} {l : List (Nat × Nat)} (h1 : s.kv.views = [])
    (h2 : l.all (fun x => placed s via x.1 x.2) = true)
    (h3 : l.all (fun x => (linesOf x.1 x.2).all fun l => !s.poisoned (64 * l)) = true) : s.cleanAll via l :=
  ⟨h1, fun x hx => cleanAt_of h1 (List.all_eq_true.1 h2 x hx) (List.all_eq_true.1 h3 x hx)⟩

theorem wit_Mxe_step :
    let x := aInst 0 3 0 true
    let r := mxeRun x
    let s := paged (running r up)
    let c := ctxOf r
    let ds := digs c 0
    s.runOn .mxe 0 = some (r, x) ∧ s.wb 1 = some (aWb 0 .running) ∧ ttSparse c.ls = false ∧ x.pos < x.hi ∧ skips c ds = false
      ∧ (∀ t ∈ x.tiles, t.draining = false) ∧ (tileFor c x ds).isSome = true := by decide +kernel

theorem wit_Mxe_step_clean : (paged (running (mxeRun (aInst 0 3 0 true)) up)).cleanAll (some (dieOf .mxe 0))
    (natRanges (stepRanges (ctxOf (mxeRun (aInst 0 3 0 true))) (digs (ctxOf (mxeRun (aInst 0 3 0 true))) 0))) :=
  cleanAll_of rfl (by decide +kernel) (by decide +kernel)

/-- A finished tile that drains. -/
def aTile (c : RunCtx) (draining : Bool) : AccTile := { newTile c (digs c 2) with draining := draining, pos := 2 }

/-- An MXE whose last tile drains. -/
def draining : RunInst := { aInst 0 3 3 true with tiles := [aTile (ctxOf (mxeRun (aInst 0 3 3 true))) true] }

theorem wit_Mxe_drain :
    let r := mxeRun draining
    let s := paged (running r up)
    let c := ctxOf r
    let t := aTile c true
    s.runOn .mxe 0 = some (r, draining) ∧ s.wb 1 = some (aWb 0 .running) ∧ draining.tiles.find? (fun t => t.draining) = some t ∧ c.h.engine = 1
      ∧ usesD c = false ∧ rowsOf c t.digits 1 = [0] ∧ statSlots c = [] ∧ r.dirty = [] ∧ t.poison = false
      ∧ liveOf c t.digits 2 = 2 ∧ atRow c t.digits 2 0 2 = [(2 ^ 22, 4)]
      ∧ (let acc := (chunksOf c.h.tn c.h.tm t.vals).getD 0 []
         let xs := (acc.take 2).map some ++ List.replicate (c.h.tn - 2) none
         let o := rowRun { tables := r.tables, d0 := [], d1 := [], b := [], eps := 0, chans := 0 } (progOf c) xs
         (convertRow c t.digits (c.shift 0) 0 2 o).c.length = 4) := by decide +kernel

theorem wit_Mxe_drain_foreign : foreign (ctxOf (mxeRun draining)) 0 (aTile (ctxOf (mxeRun draining)) true).digits = [] := by decide +kernel

theorem wit_Mxe_drain_clean :
    let c := ctxOf (mxeRun draining)
    let ds := (aTile c true).digits
    (paged (running (mxeRun draining) up)).cleanAll (some (dieOf .mxe 0)) (natRanges (tileC c ds ++ tileStats c ds)) :=
  cleanAll_of rfl (by decide +kernel) (by decide +kernel)

/-- A collective with STREAM on, open. -/
def aColl (desc : List Byte) (opened : Bool) : Coll :=
  { wid := 1, part := 0, cle := 0, desc := desc, table := [], me := 0, opened := opened, parked := false, joins := [], incs := [], said := [],
    grants := [], gave := [], scount := [], parts := [], sent := [], rx := [], finals := [], signalled := 0, openSaid := false,
    saidVerdict := false, verdicts := [], poisons := [], poisoned := none, ready := [], dropped := 0, nonfin := 0, ns := 0 }

theorem wit_TileNotice :
    let n : TileNotice := { inst := 4, part := 0, coll := 0, pos := 0, digits := [], ranges := [(0, 4)], sent := true }
    let c := aColl (image 128 [(0, 8, 2 ^ 15)]) true
    let s := { up with eng := { up.eng with notices := [n] } }
    let t := { s with colls := { list := [c], owed := [], full := [] } }
    s.nextNotice 4 = some n ∧ s.openColl n.part n.coll = none ∧ t.nextNotice 4 = some n ∧ t.openColl n.part n.coll = some c
      ∧ cdStream c.desc = true ∧ t.routeOut (dieOf .mxe 4) (3, c.cle) = false
      ∧ ({ t with clk := { t.clk with fenced := [(2, 0)] } } : State).routeOut (dieOf .mxe 4) (3, c.cle) = true := by decide +kernel

theorem wit_Vxe_step :
    let x := aInst 0 2 0 true
    let r (k : Nat) := vxeRun k x
    let s (k : Nat) := paged (running (r k) up)
    let c (k : Nat) := ctxOf (r k)
    let ds := digs (c 2) 0
    (s 2).runOn .vxe 0 = some (r 2, x) ∧ (s 2).wb 1 = some (aWb 0 .running) ∧ ttSparse (c 2).ls = false ∧ skips (c 2) ds = false
      ∧ (finishesTile (c 2).h (c 2).ls (c 2).counts ds && !dead (c 2) ds) = false
      ∧ (s 1).runOn .vxe 0 = some (r 1, x) ∧ (finishesTile (c 1).h (c 1).ls (c 1).counts (digs (c 1) 0) && !dead (c 1) (digs (c 1) 0)) = true
      ∧ skips (c 1) (digs (c 1) 0) = false ∧ (c 1).h.engine = 2 := by decide +kernel

theorem wit_Vxe_step_clean :
    let x := aInst 0 2 0 true
    let c := ctxOf (vxeRun 1 x)
    let ds := digs c 0
    (paged (running (vxeRun 1 x) up)).cleanAll (some (dieOf .vxe 0)) (natRanges (stepRanges c ds)) ∧ (paged (running (vxeRun 1 x) up)).cleanAll (some (dieOf .vxe 0)) (natRanges (tileReads c ds))
      ∧ (paged (running (vxeRun 1 x) up)).cleanAll (some (dieOf .vxe 0)) (natRanges (tileC c ds ++ tileStats c ds)) :=
  ⟨cleanAll_of rfl (by decide +kernel) (by decide +kernel), cleanAll_of rfl (by decide +kernel) (by decide +kernel),
    cleanAll_of rfl (by decide +kernel) (by decide +kernel)⟩

theorem wit_Vxe_step_row :
    let x := aInst 0 2 0 true
    let r := vxeRun 1 x
    let s := paged (running r up)
    let c := ctxOf r
    let ds := digs c 0
    rowsOf c ds 1 = [0] ∧ merges c = false ∧ usesB c = false ∧ usesD c = false ∧ statSlots c = [] ∧ r.dirty = [] ∧ foreign c r.addr ds = []
      ∧ atRow c ds 2 0 c.h.tn = [(2 ^ 22, 64)] ∧ (s.vxeRow c ds 0 0).1.length = c.h.tn
      ∧ (let eps := BitVec.ofNat 32 (rdN c.t (c.h.epiOff + 12) 4)
         let o := rowRun { tables := r.tables, d0 := [], d1 := [], b := [], eps := eps, chans := 0 } (progOf c) ((s.vxeRow c ds 0 0).1.map some)
         (convertRow c ds (c.shift 0) 0 c.h.tn o).c.length = 64) := by decide +kernel

/-- A CVE run without levels: a 1 x 1 x 1 convolution of 16 channels to 32 over a row of 8 (R369). -/
def cveRun (x : RunInst) : Run :=
  let dim := 1 + 2 ^ 8 + 2 ^ 16 + 2 ^ 28
  let fields := [(0x2C, 4, 0x310), (0x312, 2, 16), (0x314, 2, 32), (0x318, 8, 1 + 2 ^ 16 + 8 * 2 ^ 32), (0x320, 8, dim), (0x328, 8, dim), (0x330, 8, dim)]
  { aRun .cve [x] with
    tt := fields.foldl (fun bs f => bs.take f.1 ++ leBytes f.2.1 f.2.2 ++ bs.drop (f.1 + f.2.1)) (ttOf 3 8 32 16 []) }

theorem wit_Cve_step :
    let x := aInst 0 1 0 true
    let r := cveRun x
    let s := paged (running r up)
    let c := ctxOf r
    let ds := digs c 0
    s.runOn .cve 0 = some (r, x) ∧ ttSparse c.ls = false ∧ skips c ds = false ∧ c.h.engine = 3 ∧ (oper c 2).fmt ∈ [1, 2, 3, 9]
      ∧ (finishesTile c.h c.ls c.counts ds && !dead c ds) = true := by decide +kernel

theorem wit_Cve_step_clean :
    let x := aInst 0 1 0 true
    let c := ctxOf (cveRun x)
    let ds := digs c 0
    (paged (running (cveRun x) up)).cleanAll (some (dieOf .cve 0)) (natRanges (stepRanges c ds)) ∧ (paged (running (cveRun x) up)).cleanAll (some (dieOf .cve 0)) (natRanges (tileReads c ds))
      ∧ (paged (running (cveRun x) up)).cleanAll (some (dieOf .cve 0)) (natRanges (tileC c ds ++ tileStats c ds)) :=
  ⟨cleanAll_of rfl (by decide +kernel) (by decide +kernel), cleanAll_of rfl (by decide +kernel) (by decide +kernel),
    cleanAll_of rfl (by decide +kernel) (by decide +kernel)⟩

/-- K elements from 24 on are masked: the middle step is skipped. -/
theorem wit_Skipped :
    let x := aInst 0 3 1 true
    let r := mxeRun x
    let s := paged (running r up)
    let c := ctxOf r
    s.runOn .mxe 0 = some (r, x) ∧ x.pos + 1 < x.hi ∧ skips c (digs c x.pos) = true
      ∧ finishesTile c.h c.ls c.counts (digs c x.pos) = false ∧ (∀ t ∈ x.tiles, t.draining = false) ∧ (∀ y ∈ s.place.intents, y.wid ≠ r.wid) := by
  decide +kernel

/-! ### Witnesses: codecs -/

/-- A command block of a codec at address 0, a parameter block at 0x1000 and a frame-buffer table at 0x2000 (R389, R390, R395). -/
def coding (block params : List (Nat × Nat × Nat)) (part0 : State) : State :=
  (((paged (setAll [(rPrtEngOther 0, 0x11011101), (rCdeCfg 0, 1)] part0)).memStore 0 (image 64 block)).memStore 0x1000 (image 64 params)).memStore 0x2000
    (image 16 [(0, 8, 2 ^ 25), (8, 3, 256), (12, 4, 4096)])

/-- A Waybill of a codec command for context 5. -/
def aCodec (ph : Phase) : Wb := aWb (slot opCodec 1 1 0 5 0 0) ph

/-- Parameters: AV1, 16 x 16, decode; or 64 x 64, encode at quantiser 1. -/
def decPar : List (Nat × Nat × Nat) := [(0, 8, 1 + 16 * 2 ^ 16 + 16 * 2 ^ 32)]
def encPar : List (Nat × Nat × Nat) := [(0, 8, 5 + 64 * 2 ^ 16 + 64 * 2 ^ 32), (10, 1, 1), (0x10, 2, 8), (0x12, 2, 8)]

/-- Context 5 with its first frame buffer at page 1 and its save area at page 2. -/
def aCtx (params : List (Nat × Nat × Nat)) : Ctx :=
  { id := 5, part := 0, cde := 0, dir := 0, params := image 64 params, bufs := (2 ^ 21, 256, 16384) :: List.replicate 63 (0, 0, 0),
    save := 2 ^ 22, saveSize := 2 ^ 21, marks := List.replicate 64 0, outSeq := 0, picNum := 0, seqBad := false, recent := [], due := [],
    slots := List.replicate 8 64, pocs := [], motion := [], past := 0 }

/-- A state in which a codec command may begin. -/
def codecs (block params : List (Nat × Nat × Nat)) (ctxs : List Ctx) : State :=
  let s := coding block params (work (aCodec .waiting) semd)
  { s with codec := { s.codec with ctxs := ctxs } }

/-- What codecAt asks, its ranges by evaluation. -/
theorem codecAt_of {s : State} {wid cmd : Nat} {w : Wb}
    (h1 : s.begin? wid opCodec = some w ∧ s.r53 w.part w.slot = none ∧ s.secCheck w.part = none ∧ w.lost = none ∧ accStatus w 0 = 0
      ∧ s.ctxBusy wid (wArg w.slot 1) = false ∧ (∀ c ∈ s.codec.cdes, ∀ q ∈ c.queue, q.ctx ≠ wArg w.slot 1 ∧ q.wid ≠ wid)
      ∧ ∃ i, i < 4 ∧ s.inMask w.part .cde i = true ∧ s.fenced 2 i = false)
    (h2 : s.cleanAt (s.accDie wid 0) (wArg w.slot 0) 256) (h3 : Memory.wf s.mem = true) (h4 : s.regsWf)
    (h5 : (s.memByte (wArg w.slot 0)).toNat = cmd ∧ cmdArgsBad (s.memRead (wArg w.slot 0) 64) = false) : s.codecAt wid cmd w :=
  ⟨h1.1, h1.2.1, h1.2.2.1, h1.2.2.2.1, h1.2.2.2.2.1, h1.2.2.2.2.2.1, h1.2.2.2.2.2.2.1, h1.2.2.2.2.2.2.2, h2, h3, h4, h5⟩

/-- The block of an OPEN. -/
def openBlk : List (Nat × Nat × Nat) := [(0, 1, 1), (8, 8, 0x1000), (0x10, 8, 0x2000), (0x18, 8, 2 ^ 24), (0x20, 8, 2 ^ 22)]

theorem wit_CodecContexts_open_at : (codecs openBlk decPar []).codecAt 1 1 (aCodec .waiting) :=
  codecAt_of (by decide +kernel) (cleanAt_of rfl (by decide +kernel) (by decide +kernel)) (by decide +kernel) (by unfold State.regsWf; decide +kernel) (by decide +kernel)

theorem wit_CodecContexts_open :
    let s := codecs openBlk decPar []
    let b := s.memRead 0 64
    let p := s.memRead 0x1000 64
    let tb := bufTable (s.memRead 0x2000 1024)
    (rdN b 8 8, rdN b 0x10 8, rdN b 0x18 8, rdN b 0x20 8) = (0x1000, 0x2000, 2 ^ 24, 2 ^ 22)
      ∧ paramsBad p = false ∧ (∀ i, i < 64 → s.memByte (0x2000 + 16 * i + 11) = 0) ∧ s.ctx 5 = none
      ∧ s.openCdes 0 (cpSel p) ≠ [] ∧ tableBufBad p tb (2 ^ 24, 2 ^ 22) = false ∧ saveNeed p ≤ 2 ^ 22
      ∧ (∀ r ∈ (tb.filter fun e => e.1 ≠ 0).map (bufExtent p), r.1 % 256 = 0 ∧ rangeInPart 0 r.1 r.2 = true)
      ∧ rangeInPart 0 (2 ^ 24) (2 ^ 22) = true ∧ rangeInPart 0 0x2000 1024 = true := by decide +kernel

theorem wit_CodecContexts_open_place :
    let s := codecs openBlk decPar []
    s.cleanAt (s.accDie 1 0) 0x1000 64 ∧ s.cleanAt (s.accDie 1 0) 0x2000 1024 :=
  ⟨cleanAt_of rfl (by decide +kernel) (by decide +kernel), cleanAt_of rfl (by decide +kernel) (by decide +kernel)⟩

/-- CLOSE, RELEASE, DECODE and ENCODE begin. -/
def decBlk : List (Nat × Nat × Nat) := [(0, 1, 3), (8, 8, 0x3000), (0x10, 4, 64)]
def encBlk : List (Nat × Nat × Nat) :=
  [(0, 1, 4), (8, 8, 2 ^ 25), (0x10, 3, 256), (0x14, 4, 16384), (0x18, 8, 2 ^ 24), (0x20, 4, 2 ^ 20), (0x30, 7, 2 ^ 56 - 1)]

theorem wit_CodecContexts_at : ∀ x ∈ ([(2, [(0, 1, 2)]), (5, [(0, 1, 5)]), (3, decBlk), (4, encBlk)] : List (Nat × List (Nat × Nat × Nat))),
    (codecs x.2 decPar []).codecAt 1 x.1 (aCodec .waiting) := by
  intro x hx
  simp only [List.mem_cons, List.not_mem_nil, or_false] at hx
  obtain rfl | rfl | rfl | rfl := hx <;>
    exact codecAt_of (by decide +kernel) (cleanAt_of rfl (by decide +kernel) (by decide +kernel)) (by decide +kernel) (by unfold State.regsWf; decide +kernel) (by decide +kernel)

theorem wit_CodecContexts_close :
    let s (l : List Ctx) := codecs [(0, 1, 5)] decPar l
    (s []).ctxFor (aCodec .waiting) = none ∧ (s [aCtx decPar]).ctxFor (aCodec .waiting) = some (aCtx decPar)
      ∧ cmdCtxBad ((s [aCtx decPar]).memRead 0 64) (aCtx decPar) = false ∧ (aCtx decPar).marks[63]? = some 0 := by decide +kernel

theorem wit_CodecPictures_begin :
    let d := aCtx decPar
    let e := aCtx encPar
    let s := codecs decBlk decPar [d]
    let t := codecs encBlk encPar [e]
    let b := t.memRead 0 64
    s.ctxFor (aCodec .waiting) = some d ∧ cpEncode d.params = false ∧ s.inMask 0 .cde 0 = true ∧ s.failed .cde 0 = false
      ∧ (let b := s.memRead 0 64
         d.has (rdN b 0x18 1) = true ∧ d.isFree (rdN b 0x18 1) = true ∧ rangeInPart 0 (rdN b 8 8) (rdN b 0x10 4) = true ∧ rdN b 0x10 4 ≠ 0)
      ∧ t.ctxFor (aCodec .waiting) = some e ∧ cpEncode e.params = true ∧ cmdCtxBad b e = false ∧ e.has (rdN b 0x28 1) = true
      ∧ e.isFree (rdN b 0x28 1) = true ∧ (∀ k, k < 7 → rdN b (0x30 + k) 1 = 255)
      ∧ (cpCodec e.params = 1 → ((encodeMarks b e).marks.filter fun m => markRef m ≠ 0).length ≤ 8)
      ∧ encodeCap e.params ≤ rdN b 0x20 4 ∧ (srcExtent b e).1 % 256 = 0
      ∧ rangeInPart 0 (srcExtent b e).1 (srcExtent b e).2 = true ∧ rangeInPart 0 (rdN b 0x18 8) (rdN b 0x20 4) = true
      ∧ (s.cde 0).queue = [] ∧ (s.cde 0).run = none ∧ (s.cde 0).asides = [] ∧ s.fenced 2 0 = false ∧ s.useOf .cde 0 = none
      ∧ s.sched.susps = [] := by decide +kernel

/-- A picture of context 5 that runs for Waybill 1. -/
def cdRun (cls rows : Nat) : CdRun := { wid := 1, ctx := 5, cls := cls, order := 0, rows := rows, saves := 0, aged := false, parked := false }

/-- A command that waits. -/
def cdWait (wid cls : Nat) : CdCmd := { wid := wid, ctx := 6, cls := cls, aged := false, order := 1, checked := true }

/-- A state in which a picture runs on CDE 0. -/
def showing (queue : List CdCmd) : State :=
  let s := (coding decBlk decPar (work (aCodec .running) semd)).setUse .cde 0 (some (.running 1))
  { s with codec := { s.codec with ctxs := [aCtx decPar], cdes := [{ n := 0, queue := queue, run := some (cdRun 1 0), asides := [] }] } }

/-- A context without a reference or a picture reads no frame buffer, whatever its unit says. -/
theorem no_reads (c : Ctx) (p : Parsed) (gone : List (Nat × Nat)) (hm : c.marks = List.replicate 64 0) (hr : c.recent = []) :
    predictReads c p gone = [] := by
  have h1 : ∀ k, c.mayRead k = false := by
    intro k
    have h : (List.replicate 64 0).getD k 0 = 0 := by
      rw [List.getD_eq_getElem?_getD, List.getElem?_replicate]; split <;> rfl
    rw [Ctx.mayRead, hm, h]; simp [markRef, bitsN]
  have h2 : c.concealFrom = none := by simp [Ctx.concealFrom, hr]
  simp [predictReads, predictions, h1, h2]

theorem wit_CodecPictures_done :
    let s := showing []
    let c := aCtx decPar
    let b := s.memRead 0 64
    (s.cde 0).run = some (cdRun 1 0) ∧ s.wb 1 = some (aCodec .running) ∧ s.ctx 5 = some c ∧ (aCodec .running).lost = none
      ∧ accStatus (aCodec .running) 0 = 0 ∧ s.kv.views = [] ∧ Memory.wf s.mem = true ∧ swf (regReset s.assy) s.regs = true ∧ c.marks.length = 64
      ∧ (rdN b 8 8, rdN b 0x10 4, rdN b 0x18 1) = (0x3000, 64, 0)
      ∧ bufExtent c.params (c.bufs.getD 0 (0, 0, 0)) = (2 ^ 21, 18432) := by decide +kernel

theorem wit_CodecPictures_reads (v : State) (b : List Byte) (k : Option Nat) : v.pictureReads (aCtx decPar) b k = [] := by
  simp only [State.pictureReads, no_reads (aCtx decPar) _ _ rfl rfl, ite_self, ite_eq_right_iff]
  intro h; exact absurd h (by decide +kernel)

theorem wit_CodecPictures_place :
    let s := showing []
    let v := s.accDie 1 2
    s.cleanAt v 0 256 ∧ s.cleanAt v 0x3000 64 ∧ s.inPlace v (2 ^ 21) 18432 ∧ s.inPlace v (2 ^ 22) (2 ^ 21) :=
  ⟨cleanAt_of rfl (by decide +kernel) (by decide +kernel), cleanAt_of rfl (by decide +kernel) (by decide +kernel),
    inPlace_of (by decide +kernel), inPlace_of (by decide +kernel)⟩

theorem wit_CodecPictures_rows :
    let live (s : State) := (s.cde 0).queue.any fun x => x.checked && decide (x.cls = 0) && s.cdeMay x.wid 0
    let rows (s : State) : State := { s with codec := { s.codec with ctxs := [aCtx (encPar ++ [(10, 1, 4)])] } }
    let s := rows (showing [])
    let t := rows (showing [cdWait 1 0])
    let off := setAll [(rPrtCfg 0, 2)] { s with sched := { s.sched with susps := [⟨0, .cde, 0, none, 0, false⟩] } }
    (∀ u ∈ [s, t, off], u.tileRows (cdRun 1 0) = 4) ∧ s.cdeMay 1 0 = true ∧ live s = false ∧ off.cdeMay 1 0 = false ∧ t.cdeMay 1 0 = true ∧ (cdRun 1 0).cls ≠ 0 ∧ live t = true
      ∧ (t.cde 0).asides = [] ∧ swf (regReset t.assy) t.regs = true := by decide +kernel

theorem wit_CodecPictures_age :
    let q := setAll [(rCdeCfg 0, 0x10001)] (showing [cdWait 2 2])
    let old (s : State) (q : CdCmd) : Prop := 2 ≤ q.cls ∧ s.fld (rCdeCfg (((s.ctx q.ctx).map (·.cde)).getD 0)) 31 16 ≠ 0
    old q (cdWait 2 2) ∧ ¬old (showing [cdWait 2 1]) (cdWait 2 1) := by decide +kernel

/-! ### Witnesses: collectives -/

/-- A descriptor: two members, 512 FP32 elements, chunks of 256, its table at 0x100 (R334, R336). -/
def collDesc (op : Nat) : List Byte :=
  image 128 [(0, 8, op + (if op ≤ 2 then 16 else 0) + 9 * 2 ^ 8 + 2 ^ 12 + 2 ^ 19 + 0x77 * 2 ^ 48), (8, 4, 512), (12, 4, 1), (0x10, 8, 2 + 2 ^ 32 + 2 ^ 48),
    (0x18, 8, 0x100), (0x20, 8, 0x1000), (0x40, 8, 0x2000), (0x48, 8, if op = 4 then 0x3000 else 0)]

/-- Endpoints of the two members. -/
def pair : List (Nat × Nat) := [(5, 0), (6, 0)]

/-- A state where such a collective may begin, the module being endpoint 5. -/
def collecting (op : Nat) (d : List Byte) : State :=
  let s := setAll [(rVrlPartFab 0, 0x640000)] (masks (paged (work (aWb (slot op 1 1 0 0 0 0) .waiting) semd)))
  let s := (s.memStore 0 d).memStore 0x100 (leBytes 8 (5 + 6 * 2 ^ 32))
  { s with vrl := { s.vrl with ep := 5 } }

/-- The buffers of a collective are those of its descriptor, table and place. -/
theorem buffers_of {c e : Coll} (h1 : c.desc = e.desc) (h2 : c.table = e.table) (h3 : c.me = e.me) : c.buffers = e.buffers := by
  cases c; cases e; simp only at h1 h2 h3; subst h1 h2 h3; rfl

/-- An open or waiting collective of that descriptor, this module its first member. -/
def aPair (op : Nat) (opened : Bool) : Coll := { aColl (collDesc op) opened with table := pair }

theorem wit_CollectivesBeginAndEnd_begin : ∀ op ∈ [1, 2, 3, 4],
    let s := collecting opColl (collDesc op)
    let w := aWb (slot opColl 1 1 0 0 0 0) .waiting
    let d := s.memRead 0 128
    s.begin? 1 opColl = some w ∧ s.r53 0 w.slot = none ∧ s.secCheck 0 = none ∧ w.lost = none ∧ accStatus w 0 = 0
      ∧ swf (regReset s.assy) s.regs = true ∧ s.coll 1 = none ∧ d = collDesc op ∧ cdTable d = 0x100 ∧ cdMembers d = 2
      ∧ tableOf 2 (s.memRead 0x100 8) = pair ∧ bitsN 3 0 (s.memByte 0).toNat = op ∧ cdBad s.assy d = false
      ∧ rangeInPart 0 0x100 8 = true ∧ tableBad pair = false ∧ s.vrl.ep = 5 ∧ stagingOf d pair ≤ 67108864 ∧ cdMisaligned d = false
      ∧ rdBits d 0x50 15 0 < s.fld (rPrtSemCount 0) 16 0 ∧ rdBits d 0x50 47 32 < s.fld (rPrtSemCount 0) 16 0
      ∧ rdBits d 0x50 63 48 < s.fld (rPrtSemCount 0) 16 0
      ∧ (∀ x ∈ pair, x.1 = s.vrl.ep ∨ (bits 15 0 (s.reg (rVrlPartFab 0)) ≤ x.1 ∧ x.1 ≤ bits 31 16 (s.reg (rVrlPartFab 0))))
      ∧ (∀ b ∈ (aPair op false).buffers.1 ++ (aPair op false).buffers.2, b.2 ≠ 0 ∧ rangeInPart 0 b.1 b.2 = true)
      ∧ s.cleFor 0 d ≠ [] := by decide +kernel

theorem wit_CollectivesBeginAndEnd_buffers : ∀ op ∈ [1, 2, 3, 4], ∀ c : Coll, c.desc = collDesc op → c.table = pair → c.me = 0 →
    ∀ b ∈ c.buffers.1 ++ c.buffers.2, b.2 = 0 ∨ rangeInPart 0 b.1 b.2 = true := by
  intro op ho c h1 h2 h3 b hb
  rw [buffers_of (e := aPair op false) h1 h2 h3] at hb
  have := (wit_CollectivesBeginAndEnd_begin op ho).2.2.2.2.2.2.2.2.2.2.2.2.2.2.2.2.2.2.2.2.2.2.1
  exact Or.inr (this b hb).2

theorem wit_CollectivesBeginAndEnd_place : ∀ op ∈ [1, 2, 3, 4],
    (collecting opColl (collDesc op)).cleanAll ((collecting opColl (collDesc op)).accDie 1 0) [(0, 128), (0x100, 8)] := by
  intro op ho
  simp only [List.mem_cons, List.not_mem_nil, or_false] at ho
  obtain rfl | rfl | rfl | rfl := ho <;> exact cleanAll_of rfl (by decide +kernel) (by decide +kernel)

/-- A state with these collectives; Waybill 1 is ready or runs. -/
def gathered (ph : Phase) (l : List Coll) : State :=
  let s := paged (work (aWb (slot opColl 1 1 0 0 0 0) ph) semd)
  let s := masks s
  { s with colls := { list := l, owed := [], full := [] }, vrl := { s.vrl with ep := 5 } }

theorem wit_CollectivesBeginAndEnd_rest :
    let c := aPair 1 false
    let o := aPair 1 true
    let p := { o with poisoned := some (1, 3, 0) }
    let j := { o with said := [1] }
    let s (l : List Coll) := gathered .running l
    (s [c]).coll 1 = some c ∧ (s [c]).wb 1 = some (aWb (slot opColl 1 1 0 0 0 0) .running)
      ∧ (s [c]).cleNext 0 = some 1 ∧ (s [c]).cleRoom c 0 = true ∧ (s [c]).useOf .cle 0 = none
      ∧ bit 21 ((s [c]).reg rClkRun) = true ∧ (∀ x ∈ (s [c]).colls.list, x.opened = false)
      ∧ swf semReset (s [c]).sems = true ∧ (s [j]).coll 1 = some j ∧ (j.others.filter fun i => (j.rcount i).isNone && j.said.contains i) = [1]
      ∧ (o.others.filter fun i => (o.rcount i).isNone && o.said.contains i) = [] ∧ (s [o]).awaits o 1 = some 0 ∧ o.parked = false ∧ (s [{ o with parked := true }]).coll 1 = some { o with parked := true }
      ∧ (s [p]).coll 1 = some p ∧ swf (regReset (s [p]).assy) (s [p]).regs = true := by decide +kernel

/-- An OPEN_SEM that is signalled. -/
theorem wit_CollectivesBeginAndEnd_sem :
    let d := (collDesc 1).take 0x50 ++ leBytes 8 (2 ^ 16 + 3) ++ (collDesc 1).drop 0x58
    cdSem d 16 0 = some 3 ∧ (gathered .running []).semIndex 0 3 = some 3 := by decide +kernel

/-- A message of kind k of member 1 to the collective. -/
def collMsgOf (k off mdata : Nat) (body : List Byte) : Msg :=
  { dst := 5, src := 6, tag := 0x77, op := 0x10, vc := 3, len := body.length, inc := 0, poison := 0, status := 0, off := off + k, mdata := 1 + mdata * 2 ^ 32, body := body }

/-- A state that holds it, sent by way of the loop. -/
def told (l : List Coll) (m : List Msg) : State :=
  let s := gathered .running l
  { s with vrl := { s.vrl with loop := m.map msgBytes } }

/-- What collMsg asks, checked by evaluation. -/
theorem collMsg_of (c : Coll) (m : Msg) (kind : Nat → Bool)
    (h : kind (m.off % 16) = true ∧ m.off % 16 ≠ 0 ∧ m.off % 16 ≤ 7 ∧ m.op = 0x10 ∧ msgOf (msgBytes m) = m)
    (h2 : (told [c] []).colls.list.find? (fun c => c.opened && cdWireId c.desc = m.tag && cdSeq c.desc = m.mdata % 2 ^ 32 && (c.indexOf m.src).isSome) = some c
      ∧ c.indexOf m.src = some 1 ∧ 1 ≠ c.me ∧ (told [c] []).coll c.wid = some c
      ∧ (told [c] []).routeOut (portDie none) (3, c.cle) = false) :
    (told [c] [m]).collMsg none kind c 1 m (told [c] []) := by
  refine ⟨?_, h.2.1, h.2.2.1, h2.1, h2.2.1, h2.2.2.1, h2.2.2.2⟩
  simp [State.takeMsg, told, takeFirst, h.1, h.2.2.2.1, h.2.2.2.2]

theorem wit_CollectiveMessages_take : ∀ k ∈ [1, 2, 3, 4, 5, 6, 7],
    (told [aPair 1 true] [collMsgOf k 0 0 []]).collMsg none (· = k) (aPair 1 true) 1 (collMsgOf k 0 0 []) (told [aPair 1 true] []) := by
  intro k hk
  simp only [List.mem_cons, List.not_mem_nil, or_false] at hk
  obtain rfl | rfl | rfl | rfl | rfl | rfl | rfl := hk <;> exact collMsg_of _ _ _ (by decide +kernel) (by decide +kernel)

theorem wit_CollectiveMessages_join :
    let c := aPair 1 true
    let j := collMsgOf 1 (512 * 2 ^ 16) c.shape.toNat []
    msgOf (msgBytes j) = j ∧ c.rcount 1 = none ∧ { c with joins := [(1, 0)] }.rcount 1 = some 0 ∧ j.mdata / 2 ^ 32 = c.shape.toNat
      ∧ (collMsgOf 1 0 0 []).mdata / 2 ^ 32 ≠ c.shape.toNat ∧ c.poisoned = none := by decide +kernel

theorem wit_CollectiveMessages_data :
    let c := aPair 1 true
    let m := collMsgOf 3 (1 * 16) 0 (List.replicate 16 1)
    chunkKey m = (1, 0, 0) ∧ msgOf (msgBytes m) = m ∧ c.a2a = false ∧ (1, 0, 0, 1) ∈ c.recvs ∧ c.stepFor 1 m = some 0 ∧ c.rx = [] := by decide +kernel

/-- A message of no open collective. -/
theorem wit_CollectiveMessages_stray : ∀ k ∈ [1, 2, 3, 4, 5, 6, 7],
    (told [aPair 1 false] [collMsgOf k 0 0 []]).takeMsg none (fun m => m.op = 0x10 && m.off % 16 = k) = some (collMsgOf k 0 0 [], told [aPair 1 false] [])
      ∧ (aPair 1 false).opened = false := by decide +kernel

/-! ### Witnesses: the fabric -/

/-- Port 0: its state, enabled or not, locked or not, lanes. -/
def aPort (state : Nat) (en locked : Bool) (lanes : Nat) : Port :=
  { n := 0, state := state, en := en, locked := locked, fails := 0, lanes := lanes, cause := 0, nextSeq := 1, unacked := [], rxSeq := 0, nakOut := false,
    badRun := 0, freed := [0, 0, 0, 0], owed := [0, 0, 0, 0], held := [0, 0, 0, 0], seen := [0, 0, 0, 0], queue := [], txPart := [], txTags := [], rxPart := [], inbox := [],
    colNext := false, replays := 0, uncorr := 0, swId := 0, swPort := 0 }

/-- A flit that waits for its acknowledgement. -/
def aTx (replays : Nat) : TxFlit := { seq := 1, bytes := [], tags := [], replays := replays }

/-- A state with this port. -/
def ported (p : Port) : State := { up with vrl := { up.vrl with ports := [p], ep := 5 } }

theorem wit_PortsComeUpAndGoDown :
    let p := aPort 2 true true 15
    let a := { p with unacked := [aTx 0] }
    let t := aPort 1 true true 15
    up.hasPort 99 = true ∧ up.barOpen (rVrlPortCtl 99) = true ∧ swf (regReset up.assy) up.regs = true ∧ up.port 0 = none
      ∧ (ported { p with state := 5 }).port 0 = some { p with state := 5 }
      ∧ (ported p).port 0 = some p ∧ p.state ≠ 5 ∧ p.state ≠ 6 ∧ (ported a).port 0 = some a ∧ a.unacked ≠ []
      ∧ (ported t).port 0 = some t ∧ t.trains = true ∧ (aPort 3 true false 0).trains = true ∧ (aPort 1 true false 15).locked = false := by
  decide +kernel

/-- A flit with this first word and nothing in it. -/
def aFlit (w : Nat) : Flit :=
  let b := leBytes 8 w ++ List.replicate 240 0
  { bytes := b ++ leBytes 4 (crc32c b).toNat ++ leBytes 4 0, corr := 0, uncorr := 0, hit := false }

/-- Such a flit is good: its CRC is that of its first 248 bytes (R298). -/
theorem wit_FlitsAreTaken_good (w : Nat) : flitGood (aFlit w) = true := by
  have h (v : Nat) (hv : v < 2 ^ 32) : leNat (leBytes 4 v) = v := by simp [leBytes, leNat]; omega
  have hl (w : Nat) : (leBytes 8 w).length = 8 := by simp [leBytes]
  have h4 (w : Nat) : (leBytes 4 w).length = 4 := by simp [leBytes]
  have hb : (leBytes 8 w ++ List.replicate 240 (0 : Byte)).length = 0xF8 := by rw [List.length_append, hl, List.length_replicate]
  have e1 : (aFlit w).bytes.take 0xF8 = leBytes 8 w ++ List.replicate 240 0 := by
    simp only [aFlit]; rw [List.append_assoc, List.take_left' hb]
  have e2 : rdN (aFlit w).bytes 0xF8 4 = (crc32c (leBytes 8 w ++ List.replicate 240 0)).toNat := by
    simp only [aFlit, rdN]; rw [List.append_assoc, List.drop_left' hb, List.take_left' (h4 _), h _ (BitVec.isLt _)]
  have e3 : (aFlit w).bytes.length = 256 := by simp only [aFlit, List.length_append, hl, h4, List.length_replicate]
  have e4 : (aFlit w).uncorr = 0 := rfl
  have e5 : (aFlit w).hit = false := rfl
  unfold flitGood crcGood
  rw [e1, e2, e3, e4, e5]
  simp only [decide_true, Bool.and_self, Bool.not_false]

theorem wit_FlitsAreTaken :
    let p := { aPort 2 true true 15 with unacked := [aTx 0] }
    rdBits (aFlit (1 + 2 ^ 24)).bytes 0 25 24 = 1 ∧ rdBits (aFlit (1 + 2 ^ 24)).bytes 0 11 0 = (p.rxSeq + 1) % 4096
      ∧ rdBits (aFlit (2 + 2 ^ 24)).bytes 0 11 0 ≠ (p.rxSeq + 1) % 4096
      ∧ flitGood { aFlit 0 with uncorr := 1 } = false ∧ p.badRun + 1 < 8 ∧ 8 ≤ ({ p with badRun := 7 } : Port).badRun + 1
      ∧ rdBits (aFlit (2 ^ 25)).bytes 0 25 24 = 2 ∧ rdBits (aFlit 0).bytes 0 25 24 = 0
      ∧ (ported p).port 0 = some p ∧ p.locked = true ∧ p.unacked ≠ [] ∧ (aTx 15).replays < 16 ∧ 16 ≤ (aTx 16).replays := by decide +kernel

/-- A request of an OP by endpoint 6 for the eight bytes at fabric offset 64. -/
def aReq (op : Nat) (body : List Byte) : Msg :=
  { dst := 5, src := 6, tag := 9, op := op, vc := 0, len := 8, inc := 0, poison := 0, status := 0, off := 64, mdata := 0, body := body }

/-- Window 0 lets endpoint 6 do everything to page 0, lent to the fabric at offset 0. -/
def windowed (m : List Msg) : State :=
  let s := setAll [(rVrlWinHi 0, 0x87000000), (rVrlWinPages 0, 1), (rVrlWinEps 0, 0x60006)] up
  { s with place := { s.place with pages := [{ aPage 0 with lent := .fabric 0 1 }] }, vrl := { s.vrl with ep := 5, loop := m.map msgBytes } }

/-- What takeOp answers from the loop, checked by evaluation. -/
theorem takeOp_of (s : State) (m : Msg) (h : msgOf (msgBytes m) = m) :
    ({ s with vrl := { s.vrl with loop := [msgBytes m] } } : State).takeOp none m.op = some (m, { s with vrl := { s.vrl with loop := [] } }) := by
  simp [State.takeOp, State.takeMsg, takeFirst, h]

/-- The same for a management message. -/
theorem takeMgt_of (s : State) (m : Msg) (h : msgOf (msgBytes m) = m) (h2 : 0x20 ≤ m.op ∧ m.op ≤ 0x26) (h3 : s.vrl.mgtOrder = []) :
    ({ s with vrl := { s.vrl with loop := [msgBytes m] } } : State).takeMgt none m.op = some (m, { s with vrl := { s.vrl with loop := [] } }) := by
  simp [State.takeMgt, State.takeMsg, takeFirst, h, h2, h3]

theorem wit_InboundRequestsAreServed_take : ∀ op ∈ [1, 2, 3, 4, 5],
    (windowed [aReq op (List.replicate 16 1)]).takeOp none op = some (aReq op (List.replicate 16 1), windowed []) := by
  intro op ho
  simp only [List.mem_cons, List.not_mem_nil, or_false] at ho
  obtain rfl | rfl | rfl | rfl | rfl := ho <;> exact takeOp_of (windowed []) _ (by decide)

theorem wit_InboundRequestsAreServed : ∀ op ∈ [1, 2, 3, 4, 5],
    let m := aReq op (List.replicate 16 1)
    let s := windowed [m]
    let g := { aPage 0 with lent := .fabric 0 1 }
    s.err.fresh = [] ∧ m.dst = s.vrl.ep ∧ m.inc = s.vrl.inc ∧ malformed m = false ∧ s.vrl.ep ≠ 0 ∧ s.outOf (portDie none) (homeOf 64) = false ∧ s.windowFor m = some 0
      ∧ s.fabPage m.off = some g ∧ g.part = s.fld (rVrlWinHi 0) 20 16 ∧ 64 = g.addr + m.off % 2 ^ 21 ∧ Memory.wf s.mem = true
      ∧ swf markReset s.marks = true ∧ m.len ≤ m.body.length := by decide +kernel

theorem wit_InboundRequestsAreServed_refused :
    let m := aReq 1 []
    let s := windowed [m]
    let far := { m with off := 2 ^ 21 }
    ({ m with dst := 4 } : Msg).dst ≠ s.vrl.ep ∧ ({ m with inc := 1 } : Msg).inc ≠ s.vrl.inc ∧ malformed { m with len := 0 } = true
      ∧ s.windowFor far = none ∧ (setAll [(rVrlWinPages 0, 2)] s).windowFor far = some 0 ∧ s.fabPage far.off = none
      ∧ (aPage 0).part ≠ (setAll [(rVrlWinHi 0, 0x87100000)] s).fld (rVrlWinHi 0) 20 16
      ∧ (setAll [(rVrlWinHi 0, 0x87100000)] s).windowFor m = some 0 := by decide +kernel

/-- A transaction of piece 0 of Waybill 1 towards endpoint 6. -/
def aTxn (op : Nat) : Txn :=
  { tag := some 9, op := op, dst := 6, inc := some 0, off := 0, len := 16, data := [], poison := 0, owner := .piece 1 0, place := 0, sent := true, again := false, port := some 0, full := false }

/-- A response of an OP and STATUS to it. -/
def aRsp (op status : Nat) : Msg :=
  { dst := 5, src := 6, tag := 9, op := op, vc := 1, len := 16, inc := 0, poison := 0, status := status, off := 0, mdata := 0, body := List.replicate 16 1 }

/-- A state that awaits it, in which the loop holds these messages and these tags are in quarantine. -/
def awaiting (op : Nat) (quar : List Nat) (m : List Msg) : State :=
  let x := { aXfer false with srcSpace := 2 }
  let s := paged (work (aWb (slot opXfer 1 1 0 4096 64 0) .running) up)
  { s with place := { s.place with xfers := [x] }, vrl := { s.vrl with ep := 5, txns := [aTxn op], quar := quar, loop := m.map msgBytes } }

theorem wit_ResponsesAndPeers_take : ∀ op ∈ [8, 9, 10], ∀ st ∈ [0, 3],
    (awaiting (op - 7) [] [aRsp op st]).takeOp none op = some (aRsp op st, awaiting (op - 7) [] []) := by
  intro op ho st hs
  simp only [List.mem_cons, List.not_mem_nil, or_false] at ho hs
  obtain rfl | rfl | rfl := ho <;> obtain rfl | rfl := hs <;> exact takeOp_of (awaiting _ [] []) _ (by decide)

theorem wit_ResponsesAndPeers_responses :
    let s := awaiting 1 [] [aRsp 8 0]
    let x := { aXfer false with srcSpace := 2 }
    (aRsp 8 0).dst = s.vrl.ep ∧ (awaiting 1 [9] []).vrl.quar.contains 9 = true ∧ s.vrl.quar.contains 9 = false
      ∧ s.vrl.txns.find? (fun t => t.tag = some 9 && t.sent) = some (aTxn 1) ∧ (aRsp 8 0).poison = 0 ∧ s.xferOf 1 = some x ∧ x.piece 0 = some aPiece
      ∧ (aTxn 1).len ≤ 256 ∧ (aTxn 1).len ≤ (aRsp 8 0).body.length ∧ s.kv.views = [] ∧ Memory.wf s.mem = true ∧ (aRsp 8 3).status ≠ 0
      ∧ s.wb (aTxn 1).owner.wid = some (aWb (slot opXfer 1 1 0 4096 64 0) .running) := by decide +kernel

theorem wit_ResponsesAndPeers_place : (awaiting 1 [] [aRsp 8 0]).inPlace (awaiting 1 [] [aRsp 8 0]).place.via 4096 16 := inPlace_of (by decide +kernel)

/-- A message of the switch. -/
def swMsg (op mdata : Nat) : Msg := { mgtMsg 0xFFFF op mdata with dst := 5 }

/-- A peer. -/
def aPeer (st : PeerSt) (stale : Nat) : Peer := { ep := 6, inc := 0, st := st, out := 0, used := 0, asked := 1, stale := stale }

/-- A state with a peer, a port and the inbox of that port. -/
def peered (ps : List Peer) (state : Nat) (m : List Msg) : State :=
  { up with vrl := { up.vrl with peers := ps, ports := [{ aPort state true true 15 with inbox := m.map msgBytes }], loop := m.map msgBytes } }

theorem wit_ResponsesAndPeers_assign :
    let m := swMsg 0x21 5
    let s := peered [] 1 [m]
    let p := { aPort 1 true true 15 with owed := [0, 0, 0, 2] }
    (s.takeMgt (some 0) 0x21).map (·.1) = some m ∧ ((s.takeMgt (some 0) 0x21).bind fun x => x.2.port 0) = some p ∧ m.src = 0xFFFF ∧ p.locked = true
      ∧ p.state ≠ 2 ∧ s.upPorts = [] ∧ s.vrl.ep = 0
      ∧ (let t := { s with vrl := { s.vrl with ports := s.vrl.ports ++ [{ aPort 2 true true 15 with n := 1 }] } }
         t.upPorts ≠ [] ∧ 5 ≠ t.vrl.ep) := by decide +kernel

theorem wit_ResponsesAndPeers_switch : ∀ x ∈ ([(0x23, 6 + 2 ^ 16 + 2 ^ 32), (0x23, 6), (0x24, 6 + 2 ^ 32), (0x24, 6 + 2 ^ 16 + 2 ^ 33)] : List (Nat × Nat)),
    (peered [aPeer .resolving 0] 2 [swMsg x.1 x.2]).takeMgt none x.1
      = some (swMsg x.1 x.2, { peered [aPeer .resolving 0] 2 [swMsg x.1 x.2] with
          vrl := { (peered [aPeer .resolving 0] 2 [swMsg x.1 x.2]).vrl with loop := [] } }) := by
  intro x hx
  simp only [List.mem_cons, List.not_mem_nil, or_false] at hx
  obtain rfl | rfl | rfl | rfl := hx <;> exact takeMgt_of (peered [aPeer .resolving 0] 2 [swMsg _ _]) (swMsg _ _) (by decide) (by decide) rfl

theorem wit_ResponsesAndPeers_peers :
    (peered [aPeer .resolving 0] 2 []).peer 6 = some (aPeer .resolving 0) ∧ (aPeer .resolving 1).stale ≠ 0
      ∧ (aPeer .present 0).st ≠ .resolving ∧ bitsN 32 32 (6 + 2 ^ 16 + 2 ^ 32) = 1 ∧ bitsN 32 32 6 ≠ 1 ∧ bitsN 33 32 (6 + 2 ^ 32) = 1
      ∧ bitsN 33 32 (6 + 2 ^ 16 + 2 ^ 33) = 2 ∧ (swMsg 0x24 6).src = 0xFFFF
      ∧ (awaiting 1 [] []).vrl.txns.find? (fun t => t.tag = some 9) = some (aTxn 1) := by decide +kernel

/-! ### Witnesses: power, epochs, clocks -/

/-- A state with this much of the governor. -/
def governed (brown : Option Brown) (ilim : Option IlimEp) : State := { up with pwr := { up.pwr with brown := brown, ilim := ilim } }

theorem wit_GovernorSources :
    let b : Brown := { since := 0, lowest := 0, restarts := 0, counting := some 0, counted := true }
    let e : IlimEp := { since := 0, peak := 1, vin := 0, low := some 0 }
    let late (s : State) : State := { s with aon := 1200 }
    let amps := 1000 * up.effFld rPwrIlim 6 0
    let f := setAll [(rPwrFlowLim, 1), (rPwrCfg, 2)] up
    let f := { f with latched := f.regs }
    up.govOn = true ∧ up.pwr.brown = none ∧ (governed (some b) none).pwr.brown = some b ∧ b.counting = some 0 ∧ up.pwr.ilim = none
      ∧ (governed (some b) none).aon < 1200 ∧ 0 + 1200 ≤ (late (governed (some b) none)).aon ∧ (late (governed (some b) none)).pwr.brown = some b
      ∧ amps < 1000 * 80 ∧ amps < amps + 1 ∧ e.low = some 0 ∧ (late (governed none (some e))).pwr.ilim = some e
      ∧ (governed none (some e)).pwr.ilim = some e ∧ up.fenced 1 3 = false ∧ 10 * (up.effFld rPwrTherm 7 0 : Int) ≤ 2000
      ∧ f.pwr.flowAct = false ∧ f.effFld rPwrFlowLim 15 0 ≠ 0 ∧ swf (regReset f.assy) f.regs = true ∧ true ≠ up.pwr.leakIn
      ∧ bit 1 (f.eff rPwrCfg) = true ∧ up.pwr.sensor.contains 3 = false := by decide +kernel

theorem wit_EpochsAndDomains :
    let run (d : Nat) : State := { up with clk := { up.clk with run := some ⟨1, [], [d], [d], [], [], 0, 0, 0, false⟩ } }
    let s := setAll [(rClkRun, 2 ^ 12), (rClkSleep, 2 ^ 16)] up
    let t := { s with latched := s.regs }
    swf (regReset s.assy) s.regs = true ∧ up.pins.aux = true ∧ up.govOn = true ∧ up.barOpen rPwrStatClr = true
      ∧ t.domainBusy 12 = false ∧ sleeps t.assy 12 = true ∧ t.clk.run = none ∧ t.effFld rClkSleep 16 16 = 1 ∧ t.heldOn 12 = false ∧ bit 12 (t.reg rClkRun) = true
      ∧ sleeps up.assy 0 = false ∧ 12 ∈ asmDomains up.assy ∧ s.domainOff 20 = false ∧ bit 20 (s.reg rClkRun) = false ∧ bit 20 (s.reg rClkLocking) = false
      ∧ bit 20 ((setAll [(rClkLocking, 2 ^ 20)] s).reg rClkLocking) = true
      ∧ bit 20 ((setAll [(rClkLocking, 2 ^ 20)] (run 20)).reg rClkLocking) = true
      ∧ (setAll [(rClkLocking, 2 ^ 20)] (run 20)).clk.run = some ⟨1, [], [20], [20], [], [], 0, 0, 0, false⟩
      ∧ up.barOpen rClkForce = true ∧ up.clk.fenced = [] ∧ up.clk.kept = [] ∧ t.domainOff 12 = false
      ∧ (let x : DieRun := { kind := 2, die := 3, start := 0, lastRel := 0, locked := [] }
         let r : State := { setAll [(rClkLocking, 2 ^ 20)] s with clk := { s.clk with restart := some x } }
         20 ∈ dieDomains 2 3 ∧ bit 20 (r.reg rClkLocking) = true ∧ r.clk.run = none ∧ s.clk.restart = none) := by decide +kernel

/-- An idle V domain that may sleep, a running one that may not. -/
theorem wit_EpochsAndDomains_sleep :
    let s := setAll [(rClkRun, 2 ^ 17)] up
    s.domainBusy 17 = false ∧ sleeps s.assy 17 = true ∧ s.heldOn 17 = false ∧ bit 17 (s.reg rClkRun) = true
      ∧ (setAll [(rClkForce, 2 ^ 17)] s).heldOn 17 = true ∧ (setAll [(rClkRun, 2 ^ 8)] up).domainBusy 12 = true := by decide +kernel

/-! ### Witnesses: resets -/

/-- The firmware of an image. -/
def aFirmware (keys : List Byte) : Firmware := { svn := 1, version := 1, digest := List.replicate 64 0, keys := keys, cert := [0] }

/-- A state in which it runs. -/
def booted (keys : List Byte) : State := { up with sec := { up.sec with fw := some (aFirmware keys) } }

/-- A reset under way. -/
def aReset (kind : Nat) (holds inReset : List Nat) (locked : List (Nat × Nat)) : RstRun :=
  { kind := kind, holds := holds, scope := inReset, inReset := inReset, locked := locked, failed := [], start := 0, lastRel := 0, trip := 0, stuck := false }

/-- A state in it, at an AON count. -/
def resetting (r : RstRun) (aon : Nat) : State := { up with aon := aon, clk := { up.clk with run := some r } }

theorem wit_ResetsAreTaken :
    let s := resetting (aReset 4 [2] [1, 2, 3] []) 0
    swf (regReset up.assy) up.regs = true ∧ up.clk.run = none ∧ (setAll [(rRstWdog, 0)] up).reg rRstWdog = 0 ∧ s.clk.run = some (aReset 4 [2] [1, 2, 3] [])
      ∧ 4 ≤ (aReset 4 [2] [1, 2, 3] []).kind ∧ swf (regReset s.assy) s.regs = true ∧ (booted []).firmwareOn = true := by decide +kernel

theorem wit_ResetCommandsCarryAKind_take : ∀ k ∈ [3, 5],
    let m := swMsg 0x26 k
    let s := peered [] 2 [m]
    s.takeMgt none 0x26 = some (m, { s with vrl := { s.vrl with loop := [] } }) ∧ m.src = 0xFFFF ∧ bitsN 7 0 m.mdata = k := by
  intro k hk
  simp only [List.mem_cons, List.not_mem_nil, or_false] at hk
  obtain rfl | rfl := hk <;> exact ⟨takeMgt_of (peered [] 2 [swMsg 0x26 _]) (swMsg 0x26 _) (by decide) (by decide) rfl, by decide, by decide⟩

theorem wit_ResetCommandsCarryAKind :
    bit 0 ((setAll [(rVrlMgtCfg, 1)] up).reg rVrlMgtCfg) = true ∧ bit 0 ((setAll [(rVrlMgtCfg, 0)] up).reg rVrlMgtCfg) = false := by decide +kernel

theorem wit_ReleaseAndFences_release :
    let r := aReset 3 [] [5, 6] [(5, 0), (6, 0)]
    let s := resetting r 24
    let t : State := { s with assy := .h8f2 }
    s.clk.run = some r ∧ r.holds = [] ∧ r.stuck = false ∧ s.pins.aux = true ∧ s.assy = .h12f4 ∧ s.commonEdge r = true
      ∧ (aReset 3 [7] [5] []).holds ≠ [] ∧ t.assy ≠ .h12f4 ∧ r.nextDomain t.assy = some 5 ∧ r.lastRel + r.gap 5 ≤ t.aon
      ∧ (r.locked.any fun x => decide (x.1 = 5 ∧ x.2 < t.aon)) = true := by decide +kernel

theorem wit_ReleaseAndFences_lock :
    let r := aReset 3 [] [3, 24] []
    let s := resetting r 1200
    s.clk.run = some r ∧ r.inReset.contains 3 = true ∧ r.inReset.contains 24 = true ∧ r.locked = [] ∧ r.start + 1200 ≤ s.aon
      ∧ r.scope.contains 3 = true ∧ r.scope.contains 24 = true
      ∧ (let l := setAll [(rClkLocking, 2 ^ 3 + 2 ^ 24)] s
         bit 3 (l.reg rClkLocking) = true ∧ bit 24 (l.reg rClkLocking) = true ∧ l.aon < r.trip + 1200000)
      ∧ r.trip + 1200000 ≤ (resetting r 1200000).aon ∧ domainDie 24 = some (3, 3) ∧ 24 ∉ [1, 2, 3, 13, 21]
      ∧ (let b := { up with clk := { up.clk with booted := true, trained := false } }
         b.clk.run = none ∧ b.clk.trained = false ∧ b.sec.recovery = false ∧ b.pins.aux = true) := by decide +kernel

theorem wit_ReleaseAndFences_blocks :
    let f : State := { up with clk := { up.clk with fenced := [(1, 0)] } }
    up.barOpen rRstBlock = true ∧ bit 0 (up.reg rRstBlockStatus) = false ∧ kindOfCode (bits 15 12 (0x4000 : Word)) = some .mxe
      ∧ kindCount up.assy .mxe ≤ bits 11 0 (0x4FFF : Word) ∧ bits 11 0 (0x4000 : Word) < kindCount up.assy .mxe
      ∧ f.fenced (dieOf .mxe 0).1 (dieOf .mxe 0).2 = true ∧ up.fenced (dieOf .mxe 0).1 (dieOf .mxe 0).2 = false
      ∧ (setAll [(rMxeCfg 0, 1)] up).blockIdle .mxe 0 = false ∧ (setAll [(rMxeCfg 0, 0)] up).blockIdle .mxe 0 = true := by decide +kernel

theorem wit_ReleaseAndFences_dies :
    let f (l : List (Nat × Nat)) : State := { up with clk := { up.clk with fenced := l } }
    let x : DieRun := { kind := 2, die := 3, start := 0, lastRel := 0, locked := [(16, 0), (20, 0)] }
    let y : State := { setAll [(rClkRun, 0)] up with assy := .h8f2, aon := 4, clk := { up.clk with fenced := [(2, 3)], restart := some x } }
    let s : State := { paged up with clk := { up.clk with fenced := [(2, 3)], restart := some x } }
    up.barOpen rRstDie = true ∧ bit 0 (up.reg rRstDieStatus) = false ∧ 3 < dieCount up.assy 2 ∧ up.fenced 2 3 = false ∧ up.clk.run = none
      ∧ (f [(2, 3)]).fenced 2 3 = true ∧ s.clk.restart = some x ∧ x.die < dieCount s.assy x.kind
      ∧ (∀ d ∈ dieDomains x.kind x.die, bit d (s.reg rRstLockfail) = false ∧ bit d (s.reg rClkRun) = true)
      ∧ (∃ d ∈ dieDomains x.kind x.die, bit d (y.reg rClkRun) = false ∧ bit d (y.reg rRstLockfail) = false) ∧ y.assy ≠ .h12f4 ∧ y.clk.run = none
      ∧ (releaseOrder y.assy).filter (fun k => (dieDomains x.kind x.die).contains k && !bit k (y.reg rClkRun)) = [16, 20]
      ∧ (∃ z ∈ x.locked, z.1 = 16 ∧ z.2 + 1 ≤ y.aon) ∧ x.lastRel + 4 ≤ y.aon ∧ swf markReset s.marks = true := by decide +kernel

/-! ### Witnesses: security -/

/-- The headers of an image of 25,600 bytes with VERIFY_KEY zero, and of one without its magic number (R492, R493). -/
def aHead (magic : Nat) : List Byte := leBytes 16 (magic + 2 ^ 32 + 25600 * 2 ^ 96) ++ List.replicate 0x53F0 0

/-- In recovery, with that key fused and nothing under way. -/
def recovering (update : Option Update) : State :=
  let key := ((aHead 0x57465842).drop 0x20).take 1952
  setAll [(rSecRcvSize, 25600)] { up with sec := { up.sec with recovery := true, vkd := some (shake256 64 key), update := update } }

/-- The first header passes the checks that need no signature. -/
theorem wit_BootRecoveryAndUpdate_head : (recovering none).headCheck (aHead 0x57465842) = 0 := by
  have h1 : rdN (aHead 0x57465842) 0 4 = 0x57465842 := by decide +kernel
  have h2 : imageFormOk (aHead 0x57465842) = true := by decide +kernel
  have h3 : imageSizeOk (rdN (aHead 0x57465842) 0xC 4) = true := by decide +kernel
  have h4 : ¬(rdN (aHead 0x57465842) 8 1 < (recovering none).sec.svnFuse) := by decide +kernel
  have h5 : (recovering none).sec.vkd = some (shake256 64 (((aHead 0x57465842).drop 0x20).take 1952)) := rfl
  simp only [State.headCheck, h1, h2, h3, h4, h5, ne_eq, not_true_eq_false, if_false, Bool.not_true, Bool.false_eq_true]

theorem wit_BootRecoveryAndUpdate_bad : (recovering none).headCheck (aHead 0) = 1 := by decide +kernel

/-- A transfer over PLDM or in recovery. -/
def anUpdate (pldm headOk : Bool) (verified : Option Bool) (ended : Bool) : Update :=
  { pldm := pldm, size := 25600, headOk := headOk, result := none, verified := verified, ended := ended }

theorem wit_BootRecoveryAndUpdate :
    let s := recovering none
    let u := anUpdate true
    let p (x : Update) := recovering (some x)
    swf (regReset s.assy) s.regs = true ∧ up.clk.booted = false ∧ up.sec.recovery = false ∧ up.sec.fw = none ∧ up.pins.aux = true ∧ up.clk.run = none
      ∧ s.barOpen rSecRcvCmd = true ∧ bit 0 (s.reg rSecRcvStatus) = false ∧ bit 0 (s.reg rSecRcvCmd) = false ∧ bit 0 ((setAll [(rSecRcvStatus, 1)] s).reg rSecRcvStatus) = true
      ∧ imageSizeOk (s.reg rSecRcvSize).toNat = true ∧ imageSizeOk (up.reg rSecRcvSize).toNat = false
      ∧ (p (anUpdate false true none false)).sec.update = some (anUpdate false true none false)
      ∧ s.pldmOn = true ∧ s.sec.update = none ∧ (p (u true none false)).sec.update ≠ none ∧ (p (u true none false)).pldm = some (u true none false)
      ∧ imageSizeOk (u false none false).size = true ∧ (u true none false).headOk = true ∧ s.sec.flash.length = 0 ∧ 0 + 64 ≤ (u true none false).size
      ∧ (u true none true).ended = true ∧ (u true none true).verified = none ∧ (u true (some true) true).verified = some true
      ∧ (booted []).firmwareOn = true ∧ (booted []).sec.fw = some (aFirmware []) ∧ (booted []).barOpen rSecSvnCmd = true
      ∧ bit 0 ((booted []).reg rSecSvnStatus) = false ∧ s.sec.recovery = true ∧ s.ready = true ∧ (booted []).sec.recovery = false := by decide +kernel

/-- A partition that is being removed, and an unlock at level 3 that meets unstarted work of a sealed partition. -/
theorem wit_SealsAndDebug_work :
    let s := work (aWb 0 .ready) up
    let r := setAll [(rPrtCmd, 0x200), (rPrtCmdStatus, 1)] s
    let d := (setAll [(rSecDbg, 3)] { s with sec := { s.sec with devSeal := some [] } }).setFld rSecPartSealed 0 0 1
    r.part 0 ≠ none ∧ r.partState 0 = 5 ∧ s.partState 0 ≠ 5 ∧ d.fld rSecDbg 1 0 = 3 ∧ (d.sched.wbs.map (·.wid)).Nodup
      ∧ (aWb 0 .ready) ∈ d.sched.wbs ∧ d.sealed 0 = true ∧ (aWb 0 .ready).lost = none ∧ max 2 (s.fld rSecDbg 1 0) ≠ 3 := by decide +kernel

theorem wit_SealsAndDebug :
    let s := { up with sched := { up.sched with parts := [aPart] } }
    let d : State := { s with sec := { s.sec with devSeal := some [] } }
    swf (regReset up.assy) up.regs = true ∧ up.barOpen rSecSealCmd = true ∧ bit 0 (up.reg rSecSealStatus) = false ∧ d.barOpen rSecSealCmd = true ∧ d.sec.devSeal ≠ none ∧ up.sec.devSeal = none
      ∧ up.part 31 = none ∧ s.part 0 ≠ none ∧ d.sealed 0 = false ∧ (d.setFld rSecPartSealed 0 0 1).sealed 0 = true
      ∧ (booted []).firmwareOn = true ∧ (booted []).sec.lockout = false ∧ (booted []).sec.dbgOff = false ∧ (booted []).sec.challenge = none := by
  decide +kernel

/-- One unlock key of level 2. -/
def unlockKeys : List Byte := leBytes 8 7 ++ leBytes 8 2 ++ List.replicate 1952 0

/-- Where the signature is good a challenged state unlocks with that key; where none is, with none (R506). -/
theorem wit_SealsAndDebug_unlock (sig : List Byte) :
    let s : State := { booted unlockKeys with sec := { (booted unlockKeys).sec with challenge := some (List.replicate 32 0) } }
    let msg := shake256 64 (List.replicate 32 0 ++ leBytes 8 0 ++ leBytes 1 3)
    s.unlockKey 3 sig = if Config.mlDsaVerify (List.replicate 1952 0) msg sig then some 7 else none := by
  intro s msg
  have h1 : rdN unlockKeys (1968 * 0 + 8) 8 = 2 := by decide +kernel
  have h2 : rdN unlockKeys (1968 * 0) 8 = 7 := by decide +kernel
  have h3 : (unlockKeys.drop (1968 * 0 + 16)).take 1952 = List.replicate 1952 0 := by decide +kernel
  have h4 : unlockKeys.length / 1968 = 1 := by decide +kernel
  have e1 : s.sec.fw = some (aFirmware unlockKeys) := rfl
  have e2 : s.sec.challenge = some (List.replicate 32 0) := rfl
  have e3 : s.sec.uid.toNat = 0 := rfl
  simp only [State.unlockKey, e1, e2, e3, aFirmware, h4, List.range_one, List.findSome?_cons, List.findSome?_nil, h1, h2, h3, true_and, msg]
  generalize Config.mlDsaVerify _ _ sig = b
  cases b <;> rfl

theorem wit_Attestation :
    let x : Spdm := { transport := 1, version := true, caps := true, algs := [.mlDsa65], handshake := some [], session := some ([], 0) }
    let s : State := { booted [] with sec := { (booted []).sec with spdm := [x], ideKeys := [[0]] } }
    let s := setAll [(rHifLinkStatus, 0)] s
    s.sec.fw = some (aFirmware []) ∧ s.firmwareOn = true ∧ s.hifReset = false ∧ s.spdmOf 1 = x
      ∧ s.spdmOf 0 = { transport := 0, version := false, caps := false, algs := [], handshake := none, session := none }
      ∧ (s.measurement (aFirmware []) 7).isNone = true ∧ (s.measurement (aFirmware []) 1).isSome = true ∧ swf (regReset s.assy) s.regs = true
      ∧ rdN [2, 0] 0 1 = 2 ∧ rdN [4, 1] 0 1 = 4 ∧ (∀ k ∈ s.sec.ideKeys, rdN k 0 1 ≠ rdN [4, 1] 1 1) ∧ rdN [5, 0] 0 1 = 5 := by decide +kernel

/-! ### Witnesses: errors and self-test -/

theorem wit_ErrorsAreHandled :
    let f := up.setFailed .mxe 0 true
    let m (c : Nat) : Merged := { code := c, part := none, src := srcOf 1 0, count := 1, d0 := 0, d1 := 1, d2 := 0, d3 := 0 }
    let g : State := { up with err := { up.err with merged := [m 0x0805], scrubAt := [(0, 64)] } }
    0 < kindCount up.assy .mxe ∧ up.fenced (dieOf .mxe 0).1 (dieOf .mxe 0).2 = false ∧ up.failed .mxe 0 = false ∧ up.useOf .mxe 0 = none
      ∧ up.clk.run = none ∧ 3 < dieCount up.assy 3 ∧ up.fenced 3 3 = false ∧ junctionLink up.assy 1 0 2 0 = true
      ∧ g.err.merged.any (fun x => x.code = 0x0805 ∧ x.src = srcOf 1 0) = true ∧ bit 1 ((setAll [(rErrCfg, 2)] up).reg rErrCfg) = true
      ∧ homeOf 0 = 0 ∧ (g.err.scrubAt.find? fun x => decide (x.1 = 0)).any (fun x => decide (0 ≤ x.2)) = true
      ∧ up.poisoned 0 = false ∧ (up.markAll [0] true).poisoned 0 = true ∧ (paged up).page 0 = some (aPage 0) ∧ (aPage 0).place ≠ .siding
      ∧ ({ aPage 0 with place := .siding } : Page).place = .siding ∧ 0 < asmStacks up.assy ∧ up.hasPort 99 = true
      ∧ bit 0 (up.reg (rVrlPortCtl 99)) = false ∧ up.port 99 = none ∧ f.failed .mxe 0 = true ∧ up.pins.aux = true
      ∧ up.fenced 2 3 = false ∧ (1, 3) ∉ up.err.badUnits ∧ up.fenced 1 3 = false ∧ (2, 3) ∉ up.err.badUnits ∧ swf markReset up.marks = true := by decide +kernel

theorem wit_SelfTest :
    let x (b : Bool) : SliceRun := { kind := .mxe, inst := 0, slice := 0, second := b }
    let d : Due := { kind := .mxe, inst := 0, slice := 0, overdue := false }
    let on := setAll [(rBstCfg, 1), (rBstStatus, 1), (rMxeCfg 0, 1), (rClkRun, 0xFFFFFFFF)] up
    let s : State := { on with err := { on.err with due := [d] } }
    let t (b : Bool) : State := { on with err := { on.err with slices := [x b] } }
    on.bstOn = true ∧ on.sliceOk .mxe 0 0 = true ∧ d ∈ s.err.due ∧ d.overdue = false ∧ s.err.slices = [] ∧ s.testIdle .mxe 0 = true
      ∧ ({ s with aon := 10000000 } : State).longIdle .mxe 0 = true ∧ s.domainOff (engDomain .mxe 0) = false
      ∧ engDomain .mxe 0 ∈ asmDomains s.assy ∧ ({ d with overdue := true } : Due).overdue = true
      ∧ bit (engDomain .mxe 0) (s.reg rClkRun) = true ∧ (setAll [(rBstCfg, 0)] up).bstOn = false
      ∧ (t true).err.slices.find? (fun x => decide (x.kind = .mxe ∧ x.inst = 0)) = some (x true)
      ∧ (t false).err.slices.find? (fun x => decide (x.kind = .mxe ∧ x.inst = 0)) = some (x false) ∧ (t true).failed .mxe 0 = false
      ∧ up.barOpen rBstCmd = true ∧ bit 0 (up.reg rBstCmdStatus) = false ∧ kindOfCode (bits 15 12 (0 : Word)) = none
      ∧ kindOfCode (bits 15 12 (0x4000 : Word)) = some .mxe ∧ bit 0 ((setAll [(rBstStatus, 0)] up).reg rBstStatus) = false
      ∧ bit 0 ((setAll [(rBstStatus, 1)] up).reg rBstStatus) = true ∧ on.blockIdle .mxe 0 = false
      ∧ (setAll [(rMxeCfg 0, 0)] on).blockIdle .mxe 0 = true := by decide +kernel

/-! ### Numbers that the manual works out -/

/-- CRC-32C of the nine digits has the published check value 0xE3069283 (R306). -/
theorem test_crc32c : crc32c ("123456789".toList.map fun c => BitVec.ofNat 8 c.toNat) = 0xE3069283#32 := by decide +kernel

/-- The worked conversions after R150: 200.0 in BF16 and 0x4348 back; the E4M3 code 0x02 is 2^-8 and 0x2A is 0.3125, the E5M2 code 0x35 too. -/
theorem test_conversions :
    toBf16 (nofInt 200) = 0x4348 ∧ toF32 (ofBf16 0x4348) = toF32 (nofInt 200) ∧ toF32 (e4m3 0x02) = toF32 (npow2 (-8))
      ∧ toF32 (e4m3 0x2A) = toF32 (.fin false 5 (-4)) ∧ toF32 (e5m2 0x35) = toF32 (.fin false 5 (-4)) ∧ toF32 (e2m1 15) = toF32 (nofInt (-6)) := by
  decide +kernel

/-- The worked cell-cycle in FP4 mode: 4096 and the two halves' terms make 4096.28515625, and with the outlier 4144.84765625, which is
0x4582 in BF16. -/
theorem test_cell_cycle :
    let c := accUpdate (toF32 (nofInt 4096)) [.fin false 385 (-8), .fin true 39 (-5)]
    let d := addF (toF32 (.fin false 777 (-4))) c
    c = toF32 (.fin false 1048649 (-8)) ∧ d = toF32 (.fin false 1061081 (-8)) ∧ toBf16 (ofF32 d) = 0x4582 := by decide +kernel

/-- The rotation example of R166: a lone 64.0 becomes 11.313708 (0x413504F3) in all 32 elements under seed 1. -/
theorem test_rotation : rotFwd 32 1 0 (0x42800000#32 :: List.replicate 31 0) = List.replicate 32 0x413504F3#32 := by decide +kernel

/-- A FILL of 0x1122334455667788 at an address of 3 modulo 8 (R285). -/
theorem test_fill : fillBytes 0x1122334455667788 3 6 = [0x55, 0x44, 0x33, 0x22, 0x11, 0x88] := by decide +kernel

/-- The routes that R17 works out: IO2 to IO3, and IO0 to IO1. -/
theorem test_routes : relays (3, 2) (3, 3) = [(1, 0), (2, 0)] ∧ relays (3, 0) (3, 1) = [(1, 0), (2, 1)] := by decide

/-- Addresses that the manual works out: MXE11 on compute die 2, XFE3, port 60, CVE2, CDE2 (R146, R292, R332, R383, R412). -/
theorem test_addresses : dieOf .mxe 11 = (1, 2) ∧ rMxeCfg 11 = 0x1803000 ∧ rXfeCfg 3 = 0x2419000 ∧ rVrlPortCtl 60 = 0x3800A00 ∧ rCveCfg 2 = 0x1809000
    ∧ rCdeCfg 2 = 0x2830000 := by decide +kernel

/-! ### Well-formedness refuses -/

theorem test_wf_numbers : ∀ c ∈ ([.doorbellInvalidation 4096, .consistAccept 32768 [] [], .msixGapExpire 1024, .loReadLatch 2, .create 32,
    .domainSleep 25, .resetHoldEnd 16, .resolveTimeout 65536, .fabTimeout 65536, .collStepTimeout 1 1024, .getVersion 2] : List Instr), c.wf = false := by
  decide

theorem test_wf_places : ∀ c ∈ ([.tileRowBoundary 4 0, .join ⟨some 100, ⟨[], [], []⟩⟩, .tstoreRoomFree 4, .mxeStep 16 0 0 ⟨[], [], []⟩, .vxeStep 8 0 0 ⟨[], [], []⟩, .cveStep 4 0 0 ⟨[], [], []⟩,
    .instanceFree .vxe 8, .instanceFree .gaz 4, .mxeCtrClr 16, .mxeNfClr 4, .vxeCtrClr 8, .ballastHoldExpire 16, .dieFence 1 4 3, .hbmPhyMarginCheck 12 0 0,
    .lpddrPhyCheck 24 0 0] : List Instr), c.wf = false := by decide

theorem test_wf_data : (Instr.flitData 0 ⟨[], 0, 0, false⟩).wf = false ∧ (Instr.challenge 0 0 []).wf = false ∧ (Instr.portEnable 100).wf = false
    ∧ (Instr.portEnable 99).wf = true := by decide

/-! ### A step -/

/-- The queue that a step leaves and the AON count. -/
def after (o : Host.Outcome State Fault Refusal) : List Instr × Nat :=
  match o with
  | .next t => (t.pending, t.aon)
  | _ => ([], 0)

/-- A command in front of the queue is taken; on an empty queue one AON cycle passes (log entry 15). No word spells a command. -/
theorem test_step : after (step { State.reset with pending := [.debugLockoutEnd, .nop 1] }) = ([.nop 1], 0) ∧ after (step State.reset) = ([], 1)
    ∧ decodeTableWord 16 0 = none := by decide +kernel

end Sys2Proof.Tests
end

section
/-! Settles O7 and O9: what the named operations on memory, registers and semaphores read back. -/

namespace Sys2Proof.Machine

open Sys2Proof

/-- A line is among the whole lines of a write exactly when the write covers its 64 bytes. -/
theorem mem_wholeLines {a n l : Nat} : l ∈ wholeLines a n ↔ a ≤ 64 * l ∧ 64 * l + 64 ≤ a + n := by
  simp only [wholeLines, List.mem_filter, mem_linesOf, decide_eq_true_eq]
  omega

/-- A byte written is read back at its place. -/
theorem State.memByte_memWrite_same {s : State} (h : Memory.wf s.mem = true) {a i : Nat} {bs : List Byte} {b : Byte}
    (hb : bs[i]? = some b) : (s.memWrite a bs).memByte (a + i) = b := by
  rw [State.memByte_memWrite, State.memByte_memStore h, if_pos (by omega), Nat.add_sub_cancel_left, List.getD, hb,
    Option.getD_some]

/-- Settles O7, from what a store and a mark of whole lines do. -/
theorem memoryWrite : Obligations.MemoryWrite := by
  intro s a bs hm hk
  refine ⟨fun i b hb => State.memByte_memWrite_same hm hb, fun x hx => ?_, fun l => ?_, Memory.wf_memWrite hm a bs, ?_⟩
  · rw [State.memByte_memWrite, State.memByte_memStore_other hm hx]
  · rw [State.poisoned_memWrite hk, Nat.mul_div_cancel_left l (by decide)]
    exact if_congr mem_wholeLines rfl rfl
  · rw [State.memWrite_eq]

/-- Settles O9, by the read-after-write law of each operation. -/
theorem registerOperations : Obligations.RegisterOperations := by
  refine ⟨fun s off w h => ?_, fun s off hi lo v h hlo hhi => ?_, fun s off n h => ?_, fun s off v h hv => ?_,
    fun s i v h => ?_⟩
  · exact ⟨State.regsWf_setReg h off w, State.reg_setReg_same h off w, fun o ho => State.reg_setReg_other h w ho⟩
  · refine ⟨State.fld_setFld h off hi lo v hlo hhi, fun i hi' => ?_⟩
    rw [State.setFld, State.reg_setReg_same h]
    by_cases h32 : i < 32
    · rw [setBits_bit _ _ _ _ _ h32, if_neg (by omega)]
    · simp only [bit, BitVec.getLsbD_of_ge _ _ (Nat.le_of_not_lt h32)]
  · rw [State.reg_bump h, if_pos rfl, satAdd]
  · rw [State.reg64_setReg64 h, Nat.mod_eq_of_lt hv]
  · exact ⟨by rw [State.sem_setSem h, if_pos rfl], fun j hj => by rw [State.sem_setSem h, if_neg hj]⟩

end Sys2Proof.Machine
end

section
/-! Settles O10: one field after another, a write by the access codes changes only the bits of its own field. -/

namespace Sys2Proof.Machine

open Sys2Proof

/-- Fields that lie in the word and share no bit. -/
def fieldsApart : List RegField → Bool
  | [] => true
  | f :: fs => decide (f.lo ≤ f.hi ∧ f.hi < 32) && (fs.all fun g => decide (g.hi < f.lo ∨ f.hi < g.lo)) && fieldsApart fs

theorem fieldsApart_cons {f : RegField} {fs : List RegField} :
    fieldsApart (f :: fs) = true ↔ (f.lo ≤ f.hi ∧ f.hi < 32) ∧ (∀ g ∈ fs, g.hi < f.lo ∨ f.hi < g.lo) ∧ fieldsApart fs = true := by
  simp only [fieldsApart, Bool.and_eq_true, List.all_eq_true, decide_eq_true_eq, and_assoc]

theorem regTable_fieldsApart : regTable.all (fun r => fieldsApart r.fields) = true := by decide +kernel

/-- A row that an offset lies in is one of the table. -/
theorem mem_regTable_of_regAt {off : Nat} {r : RegSpec} {p : Nat × Nat × Nat} (h : regAt off = some (r, p)) :
    r ∈ regTable ∧ regIndex r off = some p := by
  obtain ⟨r', hr, e⟩ := List.exists_of_findSome?_eq_some h
  obtain ⟨q, hq, e⟩ := Option.map_eq_some_iff.1 e
  cases e
  exact ⟨hr, hq⟩

/-- The fields of every register of the table lie apart. -/
theorem fieldsApart_of_regAt {off : Nat} {r : RegSpec} {p : Nat × Nat × Nat} (h : regAt off = some (r, p)) :
    fieldsApart r.fields = true :=
  List.all_eq_true.1 regTable_fieldsApart r (mem_regTable_of_regAt h).1

/-- A bit of a field, counted from the field's lowest one. -/
theorem testBit_bits {hi lo i : Nat} (x : Word) (h1 : lo ≤ i) (h2 : i ≤ hi) : (bits hi lo x).testBit (i - lo) = bit i x := by
  rw [bits, bitsN, Nat.testBit_mod_two_pow, decide_eq_true (by omega), Bool.true_and, Nat.testBit_shiftRight,
    Nat.add_sub_cancel' h1]
  rfl

/-- What a write gives a bit of a field, by the field's access code (R9, R505). -/
def wroteBit (acc : Access) (isSealed : Bool) (w old : Word) (i : Nat) : Bool :=
  match acc with
  | .rw => bit i w
  | .rwl => if isSealed then bit i old else bit i w
  | .w1c => bit i old && !bit i w
  | _ => bit i old

/-- A field that is written takes its access code's bits and leaves every other bit of the word. -/
theorem bit_writeField (b : Bool) (w old : Word) (f : RegField) {i : Nat} (hi : i < 32) :
    bit i (writeField b w old f) = if f.lo ≤ i ∧ i ≤ f.hi then wroteBit f.acc b w old i else bit i old := by
  have store (x : Word) : bit i (setBits f.hi f.lo old (bits f.hi f.lo x)) = if f.lo ≤ i ∧ i ≤ f.hi then bit i x else bit i old := by
    rw [setBits_bit _ _ _ _ _ hi]
    exact ite_congr rfl (fun h => testBit_bits x h.1 h.2) fun _ => rfl
  unfold writeField wroteBit
  cases f.acc with
  | rw => exact store w
  | rwl =>
    cases b with
    | false => exact store w
    | true => exact (ite_self _).symm
  | w1c =>
    have e : bit i (old &&& ~~~w) = (bit i old && !bit i w) := by simp [bit, hi]
    exact (store _).trans (by rw [e])
  | ro => exact (ite_self _).symm
  | wo => exact (ite_self _).symm

/-- Bits that lie in none of the fields written are left alone. -/
theorem bit_writeFields_other (b : Bool) (w : Word) {fs : List RegField} {i : Nat} (hi : i < 32) (h : ∀ f ∈ fs, i < f.lo ∨ f.hi < i)
    (old : Word) : bit i (fs.foldl (writeField b w) old) = bit i old := by
  induction fs generalizing old with
  | nil => rfl
  | cons f fs ih =>
    have hf := h f List.mem_cons_self
    rw [List.foldl_cons, ih (fun g hg => h g (List.mem_cons_of_mem f hg)), bit_writeField b w old f hi, if_neg (by omega)]

/-- A bit of one of the fields written, which lie apart. -/
theorem bit_writeFields (b : Bool) (w : Word) {fs : List RegField} (ha : fieldsApart fs = true) {f : RegField} (hf : f ∈ fs) {i : Nat}
    (h1 : f.lo ≤ i) (h2 : i ≤ f.hi) (old : Word) : bit i (fs.foldl (writeField b w) old) = wroteBit f.acc b w old i := by
  induction fs generalizing old with
  | nil => cases hf
  | cons g fs ih =>
    obtain ⟨⟨-, hg⟩, apart, rest⟩ := fieldsApart_cons.1 ha
    rw [List.foldl_cons]
    rcases List.mem_cons.1 hf with rfl | hf
    · have hi : i < 32 := by omega
      rw [bit_writeFields_other b w hi (fun g hg => by have := apart g hg; omega), bit_writeField b w old f hi, if_pos ⟨h1, h2⟩]
    · have h3 := apart f hf
      by_cases hi : i < 32
      · have e : bit i (writeField b w old g) = bit i old := by rw [bit_writeField b w old g hi, if_neg (by omega)]
        rw [ih rest hf]
        simp only [wroteBit, e]
      · rw [ih rest hf]
        have e (x : Word) : bit i x = false := BitVec.getLsbD_of_ge _ _ (Nat.le_of_not_lt hi)
        simp only [wroteBit, e]

/-- What a write that differs from a sealed field leaves of the registers (R505). -/
theorem State.noteBreak_of_broken {s : State} {off : Nat} {w : Word} {r : RegSpec} {p : Nat × Nat × Nat} (e : regAt off = some (r, p)) :
    s.noteBreak off w = if s.isSealed off && r.fields.any (breaksSeal w (s.reg off))
      then (s.bump rSecRwlViol 1).setReg rSecRwlAddr (w32 off) else s := by
  unfold State.noteBreak
  rw [e]

/-- A write gives a sealed field other bits (R505), spelled out. -/
theorem any_breaksSeal {w old : Word} {fs : List RegField} :
    fs.any (breaksSeal w old) = true ↔ ∃ f ∈ fs, f.acc = .rwl ∧ bits f.hi f.lo w ≠ bits f.hi f.lo old := by
  rw [List.any_eq_true]
  refine exists_congr fun f => and_congr_right fun _ => ?_
  unfold breaksSeal
  cases f.acc <;> simp

/-- Counting a broken seal leaves every register but the two that count. -/
theorem State.reg_noteBreak_other {s : State} (h : s.regsWf) {off o : Nat} (w : Word) (h1 : o ≠ rSecRwlViol) (h2 : o ≠ rSecRwlAddr) :
    (s.noteBreak off w).reg o = s.reg o := by
  unfold State.noteBreak
  split
  · rfl
  · split
    · rw [State.reg_setReg_other (State.regsWf_bump h _ _) _ h2, State.reg_bump_other h _ h1]
    · rfl

theorem State.regsWf_noteBreak {s : State} (h : s.regsWf) (off : Nat) (w : Word) : (s.noteBreak off w).regsWf := by
  unfold State.noteBreak
  split
  · exact h
  · split
    · exact State.regsWf_setReg (State.regsWf_bump h _ _) _ _
    · exact h

/-- What registers read as after a write by the access codes. -/
theorem State.reg_writeReg {s : State} (h : s.regsWf) {off : Nat} (w : Word) {r : RegSpec} {p : Nat × Nat × Nat}
    (e : regAt off = some (r, p)) (o : Nat) :
    (s.writeReg off w).reg o = if o = off then r.fields.foldl (writeField (s.isSealed off) w) (s.reg off)
      else (s.noteBreak off w).reg o := by
  unfold State.writeReg State.writeRegAs
  rw [e]
  exact State.reg_setReg (State.regsWf_noteBreak h off w) _ _ _

/-- Settles O10: the fold over the fields bit by bit, and the count of R505 as noteBreak takes it. -/
theorem writeByAccessCodes : Obligations.WriteByAccessCodes := by
  intro s off w r p h e hv ha
  have apart := fieldsApart_of_regAt e
  have same := State.reg_writeReg h w e off
  rw [if_pos rfl] at same
  refine ⟨fun f hf i h1 h2 => ?_, fun i hi hn => ?_, fun hb => ?_, fun hb o ho => ?_⟩
  · rw [same, bit_writeFields _ w apart hf h1 h2]
    rfl
  · rw [same, bit_writeFields_other _ w hi hn]
  · have eq := State.noteBreak_of_broken (s := s) (w := w) e
    rw [if_pos (by rw [hb.1, any_breaksSeal.2 hb.2]; rfl)] at eq
    have wf := State.regsWf_bump h rSecRwlViol 1
    rw [State.reg_writeReg h w e, if_neg hv.symm, State.reg_writeReg h w e, if_neg ha.symm, eq, State.reg_setReg_same wf,
      State.reg_setReg_other wf _ (by decide), State.reg_bump h, if_pos rfl]
    exact ⟨rfl, rfl⟩
  · have eq := State.noteBreak_of_broken (s := s) (w := w) e
    rw [if_neg (fun c => hb ((Bool.and_eq_true_iff.1 c).imp_right any_breaksSeal.1))] at eq
    rw [State.reg_writeReg h w e, if_neg ho, eq]

end Sys2Proof.Machine
end

section
/-! Settles O20 and O21: the host's accesses, and register writes in the window of the rings. -/

namespace Sys2Proof.Machine

open Sys2Proof

/-- A high word read is the one that its low word latched last. -/
theorem State.readReg_latched {u : State} {off : Nat} (hp : isPairLo off = true) (ho : u.barOpen (off + 4) = true)
    {l : List (Nat × Word)} {v : Word} (hl : u.host.latches = l.filter (fun x => x.1 ≠ off + 4) ++ [(off + 4, v)]) :
    u.readReg (off + 4) = v := by
  have hi : isPairHi (off + 4) = true := by rw [isPairHi, Nat.add_sub_cancel, hp, decide_eq_true (by omega)]; rfl
  have none : (l.filter (fun x => x.1 ≠ off + 4)).find? (fun x => x.1 = off + 4) = none := by
    simp [List.find?_eq_none]
  rw [State.readReg, ho, hi, hl, List.find?_append, none]
  simp

/-- Settles O20. -/
theorem hostAccesses : Obligations.HostAccesses := by
  refine ⟨fun off size wr s hr hb => ?_, fun off s ho hp => ?_, fun speed width s hr h1 h2 hw => ⟨_, rfl, fun op => ?_⟩⟩
  · change Host.Outcome.next (bar0BadAccessStep off size s) = _
    rw [bar0BadAccessStep, hr, decide_eq_false (by omega)]
    rfl
  · refine ⟨loReadLatchStep off s, rfl, ?_, fun u hu hou => ?_⟩
    · rw [loReadLatchStep, ho, hp]
      rfl
    · refine State.readReg_latched hp hou (l := s.host.latches) ?_
      rw [hu, loReadLatchStep, ho, hp]
      rfl
  · have link : linkOk speed width = true := by
      rw [linkOk, decide_eq_true ⟨h1, h2⟩]
      rcases hw with rfl | rfl | rfl <;> rfl
    change Host.Outcome.next (configRequestStep speed width op s) = _
    rw [configRequestStep, hr, link]
    rfl

/-- Every row in or below the rings' window whose writes are commands of their own is a single register below the groups' ones, or a
group's CFG or STATUS. -/
theorem ownRows_of_rings : regTable.all (fun r => !ownRows.contains r.base || decide (0x110000 ≤ r.base ∨
    (r.dies ≤ 1 ∧ r.per ≤ 1 ∧ r.kStride = 0 ∧
      (r.jStride = 0 ∧ r.base < 0x108000 ∨ r.jStride = 32 ∧ (r.base = 0x108010 ∨ r.base = 0x108018))))) = true := by
  decide +kernel

theorem base_le_of_regIndex {r : RegSpec} {off : Nat} {p : Nat × Nat × Nat} (h : regIndex r off = some p) : r.base ≤ off := by
  unfold regIndex at h
  exact Nat.le_of_not_lt (Option.ite_none_left_eq_some.1 h).1

/-- Where a register of a row that is a single one or one array lies. -/
theorem off_of_regIndex {r : RegSpec} {off : Nat} {p : Nat × Nat × Nat} (h : regIndex r off = some p) (hd : r.dies ≤ 1) (hp : r.per ≤ 1)
    (hk : r.kStride = 0) : off = r.base + p.2.1 * r.jStride := by
  unfold regIndex at h
  simp only [hd, hp, hk, decide_true, Bool.true_or, if_true, Nat.zero_mul, Nat.sub_zero, Option.ite_none_left_eq_some,
    Option.ite_none_right_eq_some, Bool.and_eq_true, decide_eq_true_eq, Option.some.injEq] at h
  obtain ⟨hlt, ⟨⟨⟨⟨hz, -⟩, -⟩, -⟩, -⟩, rfl⟩ := h
  by_cases hj : r.jStride = 0
  · simp only [hj, if_true, Nat.mul_zero, Nat.sub_zero] at hz ⊢
    omega
  · have := Nat.div_mul_le_self (off - r.base) r.jStride
    simp only [hj, if_false] at hz ⊢
    omega

/-- The address registers of the ring engine, the event ring and the groups have no command of their own. -/
theorem ownRow_grpAddr {g i : Nat} (hg : g < 1024) (hi : i < 4) : ownRow (0x108000 + 32 * g + 4 * i) = false := by
  unfold ownRow
  cases e : regAt (0x108000 + 32 * g + 4 * i) with
  | none => rfl
  | some x =>
    obtain ⟨hr, hx⟩ := mem_regTable_of_regAt e
    have row := List.all_eq_true.1 ownRows_of_rings x.1 hr
    rw [Bool.or_eq_true, Bool.not_eq_true', decide_eq_true_eq] at row
    refine row.resolve_right fun hrow => ?_
    obtain hge | ⟨hd, hp, hk, hj⟩ := hrow
    · exact absurd (base_le_of_regIndex hx) (by omega)
    · have := off_of_regIndex hx hd hp hk
      obtain ⟨hj, hb⟩ | ⟨hj, hb⟩ := hj <;> rw [hj] at this <;> omega

theorem cfgReg_ge {k : EngKind} (i : Nat) : 0x1000000 ≤ cfgReg k i := by
  cases k <;> simp only [cfgReg, rMxeCfg, rVxeCfg, rCveCfg, rCdeCfg, rXfeCfg, rCleCfg, rGazCfg] <;> omega

/-- No engine's CFG register lies in the rings' window. -/
theorem cfgOwner_of_rings {off : Nat} (h : off < 0x110000) : cfgOwner off = none := by
  unfold cfgOwner
  rw [List.findSome?_eq_none_iff]
  intro k _
  rw [Option.map_eq_none_iff, List.find?_eq_none]
  intro i _
  have := cfgReg_ge (k := k) i
  simp only [decide_eq_true_eq]
  omega

/-- A write in the rings' window to a register without a command of its own: every other rule of register writes is about a register
above the window. -/
theorem registerWriteStep_of_rings {off : Nat} (h : off < 0x110000) (hc : off ≠ rRngCmd) (ho : ownRow off = false) {s : State}
    (hb : s.barOpen off = true) (w : Word) :
    registerWriteStep off w s = if s.ringShut off then s.noteBreak off w else s.writeReg off w := by
  have ne {c : Nat} (k : 0x110000 ≤ c) : (off = c) = False := eq_false (by omega)
  have le {c : Nat} (k : 0x110000 ≤ c) : (c ≤ off) = False := eq_false (by omega)
  have st : cmdStatus off = none := by
    have none : (List.range 4).find? (fun d => decide (off = rVxeTblCmd d)) = none := by
      rw [List.find?_eq_none]
      exact fun d _ => by rw [decide_eq_true_eq, rVxeTblCmd]; omega
    unfold cmdStatus
    rw [if_neg hc, none]
    simp (disch := decide) only [ne, if_false, Option.map_none]
  have shut : s.writeShut off w = false := by
    unfold State.writeShut windowOf
    simp (disch := decide) only [le, false_and, if_false]
  have legal : s.legalWord off w = w := by
    have none : ((List.range 4).any fun d => decide (off = rMxeThdCfg d)) = false := by
      rw [List.any_eq_false]
      exact fun d _ => by rw [decide_eq_true_eq, rMxeThdCfg]; omega
    unfold State.legalWord
    rw [cfgOwner_of_rings h, none]
    simp (disch := decide) only [ne, le, false_and, if_false, Bool.false_eq_true]
  have eng : ((List.range 32).any fun p => decide (off = rPrtEngMxe p) || decide (off = rPrtEngOther p)) = false := by
    rw [List.any_eq_false]
    exact fun d _ => by rw [Bool.or_eq_true, decide_eq_true_eq, decide_eq_true_eq, rPrtEngMxe, rPrtEngOther]; omega
  unfold registerWriteStep
  rw [hb, st, ho, shut, legal, cfgOwner_of_rings h, eng]
  simp (disch := decide) only [le, false_and, if_false, Bool.or_false, Bool.not_true, Bool.false_eq_true, Option.isSome_none]
  rfl

/-- The same of the command, for a register that is shut or not. -/
theorem registerWrite_addr {off : Nat} (h : off < 0x110000) (hc : off ≠ rRngCmd) (ho : ownRow off = false) {s : State}
    (hb : s.barOpen off = true) (w : Word) {b : Bool} (hs : s.ringShut off = b) :
    exec (.registerWrite off w) s = .next (if b then s.noteBreak off w else s.writeReg off w) := by
  rw [← hs, ← registerWriteStep_of_rings h hc ho hb]
  rfl

theorem State.ringShut_grpAddr (s : State) {g i : Nat} (hg : g < 1024) (hi : i < 4) :
    s.ringShut (0x108000 + 32 * g + 4 * i) = bit 31 (s.reg (rRngGrpCfg g)) := by
  have grp : groupOf (0x108000 + 32 * g + 4 * i) = some g := by
    unfold groupOf
    rw [if_pos (by omega)]
    exact congrArg some (by omega)
  unfold State.ringShut
  rw [grp, if_neg (by simp only [rRngCtxBaseLo, rRngCtxBaseHi, rRngDbBaseLo, rRngDbBaseHi]; omega),
    if_neg (by simp only [rRngEvqBaseLo, rRngEvqBaseHi, rRngEvqHeadLo, rRngEvqHeadHi]; omega)]

/-- Settles O21. -/
theorem registerWrite : Obligations.RegisterWrite := by
  refine ⟨fun off w s hb => ?_, fun off w s ho hb => ?_, fun off w s ho hb => ?_, fun g i w s hg hi hb => ?_⟩
  · change Host.Outcome.next (registerWriteStep off w s) = _
    rw [registerWriteStep, hb]
    rfl
  · simp only [List.mem_cons, List.not_mem_nil, or_false] at ho
    rcases ho with rfl | rfl | rfl | rfl <;> exact registerWrite_addr (by decide) (by decide) (by decide +kernel) hb w rfl
  · simp only [List.mem_cons, List.not_mem_nil, or_false] at ho
    rcases ho with rfl | rfl | rfl | rfl <;> exact registerWrite_addr (by decide) (by decide) (by decide +kernel) hb w rfl
  · exact registerWrite_addr (by omega) (by rw [rRngCmd]; omega) (ownRow_grpAddr hg hi) hb w (s.ringShut_grpAddr hg hi)

end Sys2Proof.Machine
end

section
/-! What every operation of the model keeps, and with it O4 and O6: a state's queue and assembly, and the canonical form of what it holds.
The rule of an operation f is Keeps.f, of the form: if t keeps what s had, then so does t.f. An operation's rule is made of the rules of
those it calls, so the rules follow the model's own order, file by file. -/

namespace Sys2Proof.Machine

open Sys2Proof

/-- What the parts of a state that are held in canonical form satisfy: memory, marks, semaphores, registers with their latched values,
and the 64 marks of each codec context. -/
structure Sound (s : State) : Prop where
  mem     : Memory.wf s.mem = true
  marks   : swf markReset s.marks = true
  sems    : swf semReset s.sems = true
  regs    : s.regsWf
  latched : swf (regReset s.assy) s.latched = true
  ctxs    : ∀ c ∈ s.codec.ctxs, c.marks.length = 64

/-- What every operation of the model does to queue, assembly and canonical forms, and to the fields that serve one command only.
F asks that lines new to the command stay none when they were none, V that no page is served and no die accesses when it was so. -/
structure Keeps (F V : Prop) (s t : State) : Prop where
  queue    : t.pending = s.pending
  assembly : t.assy = s.assy
  sound    : Sound s → Sound t
  noIo     : s.io = [] → t.io = []
  noFresh  : F → s.err.fresh = [] → t.err.fresh = []
  noServed : V → s.place.serving = [] → t.place.serving = []
  noVia    : V → s.place.via = none → t.place.via = none

section

-- One rule after another, so that the many short proofs do not all hold memory at once.
set_option Elab.async false

variable {F V : Prop} {s t u : State}

theorem Keeps.refl : Keeps F V s s := ⟨rfl, rfl, id, id, fun _ => id, fun _ => id, fun _ => id⟩

theorem Keeps.trans (h : Keeps F V s t) (k : Keeps F V t u) : Keeps F V s u where
  queue := k.queue.trans h.queue
  assembly := k.assembly.trans h.assembly
  sound := k.sound ∘ h.sound
  noIo := k.noIo ∘ h.noIo
  noFresh f := k.noFresh f ∘ h.noFresh f
  noServed v := k.noServed v ∘ h.noServed v
  noVia v := k.noVia v ∘ h.noVia v

/-- A change of parts that Keeps does not speak of. -/
theorem Keeps.same {aon free : Nat} {out : List Out} {host : HostIf} {sched : Sched} {place : Placing} {kv : Kv} {eng : Engines}
    {vrl : Vrela} {colls : Colls} {codec : Codec} {pwr : Power} {clk : ClkRst} {sec : Sec} {err : Errors} {pins : Pins}
    (h : Keeps F V s t) (e1 : place.serving = t.place.serving := by rfl) (e2 : place.via = t.place.via := by rfl)
    (e3 : codec.ctxs = t.codec.ctxs := by rfl) (e4 : err.fresh = t.err.fresh := by rfl) :
    Keeps F V s { t with aon, free, out, host, sched, place, kv, eng, vrl, colls, codec, pwr, clk, sec, err, pins } :=
  h.trans ⟨rfl, rfl, fun w => { w with ctxs := by rw [e3]; exact w.ctxs }, id, fun _ => e4.trans, fun _ => e1.trans, fun _ => e2.trans⟩

theorem Keeps.ite {c : Prop} {i : Decidable c} (h : Keeps F V s t) (k : Keeps F V s u) : Keeps F V s (if c then t else u) := by
  split
  · exact h
  · exact k

/-- The state that an operation answers beside a result. -/
theorem Keeps.snd {α : Type} {x : α × State} {r : α} (h : Keeps F V s x.2) (e : x = (r, u)) : Keeps F V s u := by
  rw [e] at h
  exact h

theorem Keeps.foldl {α : Type} {l : List α} {f : State → α → State} (h : Keeps F V s t)
    (k : ∀ u v x, Keeps F V u v → Keeps F V u (f v x)) : Keeps F V s (l.foldl f t) := by
  induction l generalizing t with
  | nil => exact h
  | cons x l ih => exact ih (k _ _ _ h)

/-- As foldl, for an accumulator that holds the state as a part. -/
theorem Keeps.foldlBy {α β : Type} (g : β → State) {l : List α} {f : β → α → β} {b : β} (h : Keeps F V s (g b))
    (k : ∀ u v x, Keeps F V u (g v) → Keeps F V u (g (f v x))) : Keeps F V s (g (l.foldl f b)) := by
  induction l generalizing b with
  | nil => exact h
  | cons x l ih => exact ih (k _ _ _ h)

theorem Keeps.foldlSnd {α β : Type} {l : List α} {f : β × State → α → β × State} {b : β × State} (h : Keeps F V s b.2)
    (k : ∀ u v x, Keeps F V u v.2 → Keeps F V u (f v x).2) : Keeps F V s (l.foldl f b).2 :=
  Keeps.foldlBy (fun p : β × State => p.2) h k

theorem Keeps.setReg {off : Nat} {w : Word} (h : Keeps F V s t) : Keeps F V s (t.setReg off w) :=
  h.trans ⟨rfl, rfl, fun w => { w with regs := State.regsWf_setReg w.regs _ _ }, id, fun _ => id, fun _ => id, fun _ => id⟩

theorem Keeps.latchRegs (h : Keeps F V s t) : Keeps F V s { t with latched := t.regs } :=
  h.trans ⟨rfl, rfl, fun w => { w with latched := w.regs }, id, fun _ => id, fun _ => id, fun _ => id⟩

/-- Codec contexts may change as long as each keeps its marks. -/
theorem Keeps.setCodec {codec : Codec} (h : Keeps F V s t)
    (k : Sound s → (∀ c ∈ t.codec.ctxs, c.marks.length = 64) → ∀ c ∈ codec.ctxs, c.marks.length = 64) :
    Keeps F V s { t with codec } where
  queue := h.queue
  assembly := h.assembly
  sound w := { h.sound w with ctxs := k w (h.sound w).ctxs }
  noIo := h.noIo
  noFresh := h.noFresh
  noServed := h.noServed
  noVia := h.noVia

theorem Keeps.setSem {i : Nat} {v : DWord} (h : Keeps F V s t) : Keeps F V s (t.setSem i v) :=
  h.trans ⟨rfl, rfl, fun w => { w with sems := State.semsWf_setSem w.sems _ _ }, id, fun _ => id, fun _ => id, fun _ => id⟩

theorem Keeps.mark {l : Nat} {v : Bool} (h : Keeps F V s t) : Keeps F V s (t.mark l v) :=
  h.trans ⟨rfl, rfl, fun w => { w with marks := swf_sset w.marks }, id, fun _ => id, fun _ => id, fun _ => id⟩

theorem Keeps.memStore {a : Nat} {bs : List Byte} (h : Keeps F V s t) : Keeps F V s (t.memStore a bs) :=
  h.trans ⟨rfl, rfl, fun w => { w with mem := Memory.wf_memStore w.mem _ _ }, id, fun _ => id, fun _ => id, fun _ => id⟩

theorem Keeps.memClear {a n : Nat} (h : Keeps F V s t) : Keeps F V s (t.memClear a n) :=
  h.trans ⟨rfl, rfl, fun w => { w with mem := Memory.wf_memClear w.mem _ _, marks := State.marksWf_memClear w.marks _ _ },
    id, fun _ => id, fun _ => id, fun _ => id⟩

/-- Registers and their latched values may go back to their reset values. -/
theorem Keeps.filterRegs {p q : Nat × Word → Bool} (h : Keeps F V s t) :
    Keeps F V s { t with regs := t.regs.filter p, latched := t.latched.filter q } :=
  h.trans ⟨rfl, rfl, fun w => { w with regs := swf_filter w.regs, latched := swf_filter w.latched },
    id, fun _ => id, fun _ => id, fun _ => id⟩

theorem Keeps.takeIo (h : Keeps F V s t) : Keeps F V s t.takeIo.2 := by
  refine h.trans ?_
  unfold State.takeIo
  split
  case h_4 => exact .refl
  all_goals
    rename_i i
    exact ⟨rfl, rfl, fun w => { w with }, fun n => by simp [n] at i, fun _ => id, fun _ => id, fun _ => id⟩

theorem Keeps.takeHead (h : Keeps F V s t) : Keeps F V s t.takeHead.2 := by
  refine h.trans ?_
  unfold State.takeHead
  split
  · rename_i i
    exact ⟨rfl, rfl, fun w => { w with }, fun n => by simp [n] at i, fun _ => id, fun _ => id, fun _ => id⟩
  · exact .refl

/-- The outcomes that a command was given are gone when it is over. -/
theorem Keeps.withIo {io : List IoRes} {f : State → State} (h : Keeps F V s t) (k : ∀ u v, Keeps F V u v → Keeps F V u (f v)) :
    Keeps F V s (withIo io f t) := by
  have k := k { t with io := io } _ .refl
  exact h.trans ⟨k.queue, k.assembly, fun w => { k.sound { w with } with }, fun _ => rfl, k.noFresh, k.noServed, k.noVia⟩

/-- The die whose accesses a command makes is the one from before when it has acted for another. -/
theorem Keeps.asDie {a : Option (Nat × Nat)} {f : State → State} (h : Keeps F V s t) (k : ∀ u v, Keeps F V u v → Keeps F V u (f v)) :
    Keeps F V s (t.asDie a f) := by
  have k := k { t with place := { t.place with via := a } } _ .refl
  exact h.trans ⟨k.queue, k.assembly, fun w => { k.sound { w with } with }, k.noIo, k.noFresh, k.noServed, fun _ => id⟩

/-- The pages that serve a command's accesses are those from before when it has acted for accesses begun on more. -/
theorem Keeps.serving {l : List Nat} {f : State → State} (h : Keeps F V s t) (k : ∀ u v, Keeps F V u v → Keeps F V u (f v)) :
    Keeps F V s (t.serving l f) := by
  have k := k { t with place := { t.place with serving := t.place.serving ++ l } } _ .refl
  exact h.trans ⟨k.queue, k.assembly, fun w => { k.sound { w with } with }, k.noIo, k.noFresh, fun _ => id, k.noVia⟩

/-- Lines that a command found may be set while they are not watched. -/
theorem Keeps.setFresh {l : List Nat} (h : Keeps False V s t) : Keeps False V s { t with err := { t.err with fresh := l } } :=
  h.trans ⟨rfl, rfl, fun w => { w with }, id, fun f => f.elim, fun _ => id, fun _ => id⟩

/-- The pages that serve and the die that makes accesses may be set while they are not watched. -/
theorem Keeps.setPlace {place : Placing} (h : Keeps F False s t) : Keeps F False s { t with place } :=
  h.trans ⟨rfl, rfl, fun w => { w with }, id, fun _ => id, fun v => v.elim, fun v => v.elim⟩

/-- What a command does with more pages serving or for another die is kept when these are put back. -/
theorem Keeps.restored {place : Placing} (h : Keeps F False s u) (e1 : place.serving = s.place.serving := by rfl)
    (e2 : place.via = s.place.via := by rfl) : Keeps F V s { u with place } :=
  ⟨h.queue, h.assembly, fun w => { h.sound w with }, h.noIo, h.noFresh, fun _ => e1.trans, fun _ => e2.trans⟩

/-- Less may be asked. -/
theorem Keeps.weaken {F' V' : Prop} (h : Keeps F V s t) (f : F' → F) (v : V' → V) : Keeps F' V' s t :=
  ⟨h.queue, h.assembly, h.sound, h.noIo, fun a => h.noFresh (f a), fun a => h.noServed (v a), fun a => h.noVia (v a)⟩

/-- Lines found are a sublist of those from before. -/
theorem Keeps.filterFresh {p : Nat → Bool} (h : Keeps F V s t) :
    Keeps F V s { t with err := { t.err with fresh := t.err.fresh.filter p } } :=
  h.trans ⟨rfl, rfl, fun w => { w with }, id, fun _ i => by simp [i], fun _ => id, fun _ => id⟩

theorem Keeps.seen (h : Keeps False V s t) : Keeps F V s t.seen :=
  ⟨h.queue, h.assembly, fun w => { h.sound w with }, h.noIo, fun _ _ => rfl, h.noServed, h.noVia⟩

theorem Keeps.served (h : Keeps False False s t) : Keeps F V s t.served :=
  ⟨h.queue, h.assembly, fun w => { h.sound w with }, h.noIo, fun _ _ => rfl, fun _ _ => rfl, fun _ _ => rfl⟩

/-! ### The 64 marks of a codec context (R398) -/

section
variable {c : Ctx}

@[simp] theorem Ctx.length_setMark {i : Nat} {f : Nat → Nat} : (c.setMark i f).marks.length = c.marks.length := by
  simp [Ctx.setMark]

@[simp] theorem Ctx.length_setRefs {f : Nat → Nat} : (c.setRefs f).marks.length = c.marks.length := by
  simp [Ctx.setRefs]

@[simp] theorem Ctx.length_showAll {l : List Nat} : (c.showAll l).marks.length = c.marks.length := by
  unfold Ctx.showAll
  induction l generalizing c with
  | nil => rfl
  | cons k l ih => exact ih.trans (Ctx.length_setMark (f := fun m => mkMark (markRef m) true (markConc m) c.outSeq))

@[simp] theorem Ctx.length_markAv1 {m : UnitMarks} {pic : Option Nat} : (c.markAv1 m pic).marks.length = c.marks.length := by
  unfold Ctx.markAv1
  exact Ctx.length_showAll.trans Ctx.length_setRefs

@[simp] theorem Ctx.length_markHevc {m : UnitMarks} {pic : Option Nat} : (c.markHevc m pic).marks.length = c.marks.length := by
  cases pic with
  | none => rfl
  | some t => exact Ctx.length_showAll.trans (Ctx.length_setMark.trans (Ctx.length_showAll.trans Ctx.length_setRefs))

@[simp] theorem length_decodeMarks {p : Parsed} {result target : Nat} {conc flush : Bool} :
    (decodeMarks p result target conc flush c).marks.length = c.marks.length := by
  unfold decodeMarks
  simp only [apply_ite Ctx.marks, apply_ite List.length, Ctx.length_setMark, Ctx.length_showAll, Ctx.length_markAv1, Ctx.length_markHevc,
    ite_self]

theorem length_encodeMarks {b : List Byte} : (encodeMarks b c).marks.length = c.marks.length := by
  unfold encodeMarks
  refine Ctx.length_setMark.trans ?_
  split
  · simp
  · rfl

theorem length_releaseMarks {m n : Nat} : (releaseMarks m n c).marks.length = c.marks.length := by
  simp [releaseMarks]

theorem Ctx.length_decoded {b : List Byte} {inp : DecodeInput} {p : Parsed} {gone : List (Nat × Nat)} {result : Nat} :
    (c.decoded b inp p gone result).marks.length = c.marks.length := by
  unfold Ctx.decoded
  simp only [apply_ite Ctx.marks, apply_ite List.length, Ctx.length_showAll, length_decodeMarks, ite_self]

theorem State.length_decodeEnd {s : State} {b : List Byte} {d : Option Nat} : (s.decodeEnd c b d).after.marks.length = c.marks.length :=
  Ctx.length_decoded

theorem State.length_encodeEnd {s : State} {b : List Byte} : (s.encodeEnd c b).after.marks.length = c.marks.length :=
  length_encodeMarks

end

theorem State.mem_ctxs_of_ctx {n : Nat} {c : Ctx} (e : s.ctx n = some c) : c ∈ s.codec.ctxs := List.mem_of_find?_eq_some e

theorem State.mem_ctxs_of_ctxFor {w : Wb} {c : Ctx} (e : s.ctxFor w = some c) : c ∈ s.codec.ctxs :=
  State.mem_ctxs_of_ctx (Option.filter_eq_some_iff.1 e).1

theorem mem_insertByKey {α : Type} {key : α → Nat} {x y : α} {l : List α} (h : y ∈ insertByKey key x l) : y = x ∨ y ∈ l := by
  induction l with
  | nil => exact .inl (List.mem_singleton.1 h)
  | cons z l ih =>
    rw [insertByKey] at h
    split at h
    · exact List.mem_cons.1 h
    · rcases List.mem_cons.1 h with rfl | h
      · exact .inr List.mem_cons_self
      · exact (ih h).imp_right (List.mem_cons_of_mem z)

/-! ### Operations of Machine/Ops -/

theorem Keeps.setFld {off hi lo v : Nat} (h : Keeps F V s t) : Keeps F V s (t.setFld off hi lo v) := h.setReg

theorem Keeps.bump {off n : Nat} (h : Keeps F V s t) : Keeps F V s (t.bump off n) := h.setReg

theorem Keeps.setReg64 {off v : Nat} (h : Keeps F V s t) : Keeps F V s (t.setReg64 off v) := h.setReg.setReg

theorem Keeps.bump64 {off n : Nat} (h : Keeps F V s t) : Keeps F V s (t.bump64 off n) := h.setReg64

theorem Keeps.zeroRegs {offs : List Nat} (h : Keeps F V s t) : Keeps F V s (t.zeroRegs offs) := h.foldl fun _ _ _ h => h.setReg

theorem Keeps.resetRegs {offs : List Nat} (h : Keeps F V s t) : Keeps F V s (t.resetRegs offs) := h.foldl fun _ _ _ h => h.setReg

theorem Keeps.put {o : Out} (h : Keeps F V s t) : Keeps F V s (t.put o) := h.same

theorem Keeps.freeBytes {n : Nat} (h : Keeps F V s t) : Keeps F V s (t.freeBytes n).2 := by
  unfold State.freeBytes
  exact h.same

theorem Keeps.drawBytes {n : Nat} (h : Keeps F V s t) : Keeps F V s (t.drawBytes n).2 := by
  unfold State.drawBytes
  exact h.same

theorem Keeps.setFailed {k : EngKind} {i : Nat} {v : Bool} (h : Keeps F V s t) : Keeps F V s (t.setFailed k i v) := by
  cases k with
  | gaz => exact h.same
  | _ => exact h.setFld.same

theorem Keeps.setUse {k : EngKind} {i : Nat} {u1 : Option Use} (h : Keeps F V s t) : Keeps F V s (t.setUse k i u1) := h.same

theorem Keeps.markAll {lines : List Nat} {v : Bool} (h : Keeps F V s t) : Keeps F V s (t.markAll lines v) :=
  h.foldl fun _ _ _ h => h.mark

theorem Keeps.memWrite {a : Nat} {bs : List Byte} (h : Keeps F V s t) : Keeps F V s (t.memWrite a bs) := h.memStore.markAll

theorem Keeps.memWritePoison {a : Nat} {bs : List Byte} (h : Keeps F V s t) : Keeps F V s (t.memWritePoison a bs) := h.memStore.markAll

theorem Keeps.advance {n : Nat} (h : Keeps F V s t) : Keeps F V s (t.advance n) := by
  unfold State.advance
  split
  · exact h
  · exact h.same.setReg.bump64.ite h.same.setReg

theorem Keeps.tick (h : Keeps F V s t) : Keeps F V s t.tick := h.ite h.advance

theorem Keeps.wake {d : Nat} (h : Keeps F V s t) : Keeps F V s (t.wake d) := h.ite h.setFld.bump

theorem Keeps.updPart {p : Nat} {f : Partn → Partn} (h : Keeps F V s t) : Keeps F V s (t.updPart p f) := h.same

theorem Keeps.updWb {wid : Nat} {f : Wb → Wb} (h : Keeps F V s t) : Keeps F V s (t.updWb wid f) := h.same

/-! ### Operations of Machine/HostOps -/

theorem Keeps.raise {v : Nat} (h : Keeps F V s t) : Keeps F V s (t.raise v) := by
  unfold State.raise
  split
  · exact h
  · split
    · exact h.ite h.same
    · exact h.put

theorem Keeps.unmask {v : Nat} (h : Keeps F V s t) : Keeps F V s (t.unmask v) := h.same.put.ite h

theorem Keeps.unmaskAll (h : Keeps F V s t) : Keeps F V s t.unmaskAll := h.foldl fun _ _ _ h => h.unmask

theorem Keeps.evqPoll (h : Keeps F V s t) : Keeps F V s t.evqPoll := by
  unfold State.evqPoll
  split
  next e => exact (h.takeHead.snd e).same
  next e => exact h.takeHead.snd e

theorem Keeps.evqPut {e : Ev} (h : Keeps F V s t) : Keeps F V s (t.evqPut e) := by
  unfold State.evqPut
  split
  next e => exact (h.takeIo.snd e).bump.setFld.raise
  next e => exact (h.takeIo.snd e).put.same.raise

theorem Keeps.evqLostPut (h : Keeps F V s t) : Keeps F V s t.evqLostPut := by
  unfold State.evqLostPut
  split
  · exact h
  · exact h.evqPut.setReg.ite h.evqPut

theorem Keeps.emit {e : Ev} (h : Keeps F V s t) : Keeps F V s (t.emit e) := by
  unfold State.emit
  split
  · exact h
  · split
    · exact h.bump
    · split
      · exact h.same
      · split
        · exact h.bump
        · extract_lets +onlyGivenNames _ v1
          have k1 : Keeps F V s v1 := (h.evqPoll.ite h).evqLostPut
          clear_value v1
          exact k1.bump.ite k1.evqPut

theorem Keeps.emitFor {wid : Nat} {e : Ev} (h : Keeps F V s t) : Keeps F V s (t.emitFor wid e) := h.updWb.emit

theorem Keeps.updGrp {g : Nat} {f : Group → Group} (h : Keeps F V s t) : Keeps F V s (t.updGrp g f) := h.same

theorem Keeps.updRing {n : Nat} {f : Ring → Ring} (h : Keeps F V s t) : Keeps F V s (t.updRing n f) := h.same

theorem Keeps.grpPoll {g : Nat} (h : Keeps F V s t) : Keeps F V s (t.grpPoll g) := by
  unfold State.grpPoll
  split
  next e => exact (h.takeHead.snd e).updGrp
  next e => exact h.takeHead.snd e

theorem Keeps.raiseGrp {g : Nat} (h : Keeps F V s t) : Keeps F V s (t.raiseGrp g) := by
  unfold State.raiseGrp
  split
  · exact h
  · split
    · exact h
    · split
      · exact h.raise
      · exact h.updGrp.ite h.raise.updGrp

theorem Keeps.dropWb {wid : Nat} (h : Keeps F V s t) : Keeps F V s (t.dropWb wid) := h.same

theorem Keeps.recPut {g : Nat} {x : Group} {r1 : Rec} (h : Keeps F V s t) : Keeps F V s (t.recPut g x r1).2 := by
  unfold State.recPut
  split
  next e =>
    have k1 := h.takeIo.snd e
    exact (k1.put.updGrp.raiseGrp.ite k1.put.updGrp).dropWb
  next e => exact (h.takeIo.snd e).updGrp.emit

theorem Keeps.unstall {g : Nat} (h : Keeps F V s t) : Keeps F V s (t.unstall g) := h.updGrp

theorem Keeps.flushGrp {g n : Nat} (h : Keeps F V s t) : Keeps F V s (t.flushGrp g n) := by
  induction n generalizing t with
  | zero => exact h
  | succ n ih =>
    rw [State.flushGrp]
    split
    · exact h
    · split
      · exact h.unstall
      · split
        · exact h
        · extract_lets v
          have k : Keeps F V s v := h.grpPoll.ite h
          clear_value v
          split
          · exact k.updGrp
          · split
            · exact k.unstall
            · split
              next e => exact ih (k.unstall.recPut.snd e)
              next e => exact k.unstall.recPut.snd e

theorem Keeps.flush {g : Nat} (h : Keeps F V s t) : Keeps F V s (t.flush g) := by
  unfold State.flush
  split
  · exact h
  · exact h.flushGrp

theorem Keeps.writeRec {g : Nat} {r1 : Rec} (h : Keeps F V s t) : Keeps F V s (t.writeRec g r1) := by
  unfold State.writeRec
  split
  · exact h.same
  · exact h.dropWb.ite h.updGrp.flush

theorem Keeps.writeCtx {r1 : Ring} (h : Keeps F V s t) : Keeps F V s (t.writeCtx r1).2 := by
  unfold State.writeCtx
  split
  · exact h.same
  · split
    next e => exact (h.takeIo.snd e).put
    next e => exact h.takeIo.snd e

theorem Keeps.saveCtx {n : Nat} (h : Keeps F V s t) : Keeps F V s (t.saveCtx n) := by
  unfold State.saveCtx
  split
  · exact h
  · split
    next e => exact h.writeCtx.snd e
    next e =>
      have k1 := h.writeCtx.snd e
      exact (k1.ite k1.updRing).emit

theorem Keeps.stopRing {n cause : Nat} (h : Keeps F V s t) : Keeps F V s (t.stopRing n cause) := h.updRing.saveCtx

theorem Keeps.faultRing {r1 : Ring} {addr slot : Nat} (h : Keeps F V s t) : Keeps F V s (t.faultRing r1 addr slot) := by
  unfold State.faultRing
  dsimp only
  split
  · exact h.updRing
  · exact h.updRing.writeCtx.emit

theorem Keeps.dropLines (h : Keeps F V s t) : Keeps F V s t.dropLines := h.same

theorem Keeps.forgetRing {n : Nat} (h : Keeps F V s t) : Keeps F V s (t.forgetRing n) := h.same.dropLines

/-! ### Operations of Machine/ErrOps -/

theorem Keeps.drawNat (h : Keeps F V s t) : Keeps F V s (t.drawNat).2 := by
  unfold State.drawNat
  exact h.same

theorem Keeps.merge {m : Merged} (h : Keeps F V s t) : Keeps F V s (t.merge m) := h.same

theorem Keeps.dramSite {a : Nat} (h : Keeps F V s t) : Keeps F V s (t.dramSite a).2 := by
  unfold State.dramSite
  exact h.same.same

theorem Keeps.noteCe {a symbols : Nat} {scrub : Bool} (h : Keeps F V s t) : Keeps F V s (t.noteCe a symbols scrub) := by
  unfold State.noteCe
  split
  next e => exact (h.dramSite.snd e).bump64.merge

theorem Keeps.noteUe {a kind ring : Nat} (h : Keeps F V s t) : Keeps F V s (t.noteUe a kind ring) := by
  unfold State.noteUe
  split
  · exact h
  · split
    next e => exact (h.dramSite.snd e).mark.bump.emit

theorem Keeps.noteSram {src : Nat} {part : Option Nat} {ring : Nat} {x : Nat × Nat × Bool} (h : Keeps F V s t) :
    Keeps F V s (t.noteSram src part ring x) :=
  h.bump64.merge.ite h.bump.emit

theorem Keeps.noteMarks {m : Marks} {kind ring src : Nat} {part : Option Nat} (h : Keeps False V s t) :
    Keeps False V s (t.noteMarks m kind ring src part) :=
  ((h.foldl fun _ _ _ h => h.drawNat.noteCe).foldl fun _ _ _ h => h.noteUe).setFresh.foldl fun _ _ _ h => h.noteSram

theorem Keeps.countPoison {a n : Nat} (h : Keeps F V s t) : Keeps F V s (t.countPoison a n) := h.bump.filterFresh

/-! ### Operations of Machine/WbOps -/

theorem Keeps.updConsist {cid : Nat} {f : Consist → Consist} (h : Keeps F V s t) : Keeps F V s (t.updConsist cid f) := h.same

theorem Keeps.endLeases {f : Lease → Bool} (h : Keeps F V s t) : Keeps F V s (t.endLeases f) := (h.foldl fun _ _ _ h => h.bump).same

theorem Keeps.endWb {wid st detail src : Nat} (h : Keeps F V s t) : Keeps F V s (t.endWb wid st detail src) := h.endLeases.same.updWb

theorem Keeps.checked {w : Wb} {f : State → State} (h : Keeps F V s t) (k : ∀ u v, Keeps F V u v → Keeps F V u (f v)) :
    Keeps F V s (t.checked w f) := by
  unfold State.checked
  split
  · exact h.endWb
  · split
    · exact h.endWb
    · exact k _ _ h

theorem Keeps.dropPredict {cid : Nat} (h : Keeps F V s t) : Keeps F V s (t.dropPredict cid) := h.same

theorem Keeps.startWb {w : Wb} (h : Keeps F V s t) : Keeps F V s (t.startWb w) := h.updWb.updConsist

theorem Keeps.charge {p ns : Nat} (h : Keeps F V s t) : Keeps F V s (t.charge p ns) := h.updPart

theorem Keeps.chargeWb {wid ns : Nat} (h : Keeps F V s t) : Keeps F V s (t.chargeWb wid ns) := by
  unfold State.chargeWb
  split
  · exact h
  · exact h.updWb.charge

theorem Keeps.dropBallast {i : Nat} (h : Keeps F V s t) : Keeps F V s (t.dropBallast i) := h.same

theorem Keeps.unreserve {wid : Nat} (h : Keeps F V s t) : Keeps F V s (t.unreserve wid) := h.same.updWb

/-! ### Operations of Machine/MemOps -/

theorem Keeps.updPage {n : Nat} {f : Page → Page} (h : Keeps F V s t) : Keeps F V s (t.updPage n f) := h.same

theorem Keeps.ask {n : Nat} (h : Keeps F V s t) : Keeps F V s (t.ask n) := by
  unfold State.ask
  split
  · exact h.wake
  · exact h.ite h.same

theorem Keeps.lendsDone (h : Keeps F V s t) : Keeps F V s t.lendsDone := h.foldl fun _ _ _ h => h.endWb.ite h

theorem Keeps.pageAt {n : Nat} {q : Place} (h : Keeps F V s t) : Keeps F V s (t.pageAt n q) := h.updPage.same.lendsDone.ite h.updPage

theorem Keeps.takeBacking {n : Nat} (h : Keeps F V s t) : Keeps F V s (t.takeBacking n) := by
  unfold State.takeBacking
  split
  · exact h
  · split
    · exact h
    · split
      · exact (h.same.ite h).pageAt
      · exact h

theorem Keeps.prepare {reads writes : List (Nat × Nat)} (h : Keeps F V s t) : Keeps F V s (t.prepare reads writes).2 := by
  unfold State.prepare
  exact ((h.foldl fun _ _ _ h => h.ite h.takeBacking).ite h).foldl fun _ _ _ h => h.ask

theorem Keeps.prepareFor {wid key : Nat} {reads writes : List (Nat × Nat)} (h : Keeps F False s t) :
    Keeps F False s (t.prepareFor wid key reads writes).2 := h.setPlace.prepare.same

theorem Keeps.touchPage {a n : Nat} {view : Bool} (h : Keeps F V s t) : Keeps F V s (t.touchPage a n view) := h.updPage

theorem Keeps.noteFault {wid a : Nat} {wr : Bool} (h : Keeps F V s t) : Keeps F V s (t.noteFault wid a wr) := h.updWb

theorem Keeps.noteQuota {wid : Nat} (h : Keeps F V s t) : Keeps F V s (t.noteQuota wid) := h.updWb

theorem Keeps.notePoison {wid : Nat} (h : Keeps F V s t) : Keeps F V s (t.notePoison wid) := h.updWb

theorem Keeps.meetsErr {wid : Nat} {m : Marks} (h : Keeps False V s t) : Keeps False V s (t.meetsErr wid m) := by
  unfold State.meetsErr
  split
  · exact h
  · exact h.noteMarks.notePoison.ite h.noteMarks

theorem Keeps.noteWay {wid : Nat} {way : List (Nat × Nat)} (h : Keeps F V s t) : Keeps F V s (t.noteWay wid way) := h.updWb

theorem Keeps.noteCut {wid die : Nat} (h : Keeps F V s t) : Keeps F V s (t.noteCut wid die) := h.noteWay

theorem Keeps.noteAccess {wid : Nat} {l : List (Nat × Nat)} (h : Keeps F V s t) : Keeps F V s (t.noteAccess wid l) := by
  unfold State.noteAccess
  dsimp only
  split
  · split
    · exact (h.noteFault.foldl fun _ _ _ h => h.noteCut.ite h.noteQuota).notePoison
    · exact (h.foldl fun _ _ _ h => h.noteCut.ite h.noteQuota).notePoison
  · split
    · exact h.noteFault.foldl fun _ _ _ h => h.noteCut.ite h.noteQuota
    · exact h.foldl fun _ _ _ h => h.noteCut.ite h.noteQuota

theorem Keeps.readRaw {a n : Nat} {view : Bool} (h : Keeps F V s t) : Keeps F V s (t.readRaw a n view) :=
  h.countPoison.foldl fun _ _ _ h => h.touchPage

theorem Keeps.readHole {wid : Nat} {v : View} {h1 : Nat × Nat × Nat × Nat} (h : Keeps F V s t) :
    Keeps F V s (t.readHole wid v h1) := by
  unfold State.readHole
  dsimp only
  split
  · exact h.notePoison.bump
  · exact h.notePoison.bump.same.emitFor.ite h.notePoison.bump.same

theorem Keeps.noteReads {wid : Nat} {l : List (Nat × Nat)} (h : Keeps F V s t) : Keeps F V s (t.noteReads wid l) := by
  unfold State.noteReads
  extract_lets +onlyGivenNames _ _ _ _ _ _ _ _ v1
  have k1 : Keeps F V s v1 := ((h.foldl fun _ _ _ h => h.noteAccess).foldl fun _ _ _ h => h.readRaw).foldl fun _ _ _ h => h.readRaw
  clear_value v1
  exact ((k1.foldl fun _ _ _ h => h.bump64).foldl fun _ _ _ h => h.bump64.bump64).foldl fun _ _ _ h => h.readHole

theorem Keeps.noteRead {wid a n : Nat} (h : Keeps F V s t) : Keeps F V s (t.noteRead wid a n) := h.noteReads

theorem Keeps.invalidate {a n : Nat} (h : Keeps F V s t) : Keeps F V s (t.invalidate a n) := h.same.foldl fun _ _ _ h => h.put

theorem Keeps.copyWrite {a n : Nat} (h : Keeps F V s t) : Keeps F V s (t.copyWrite a n) := by
  unfold State.copyWrite
  split
  · exact h
  · exact h.ite h.same

theorem Keeps.writeSlice {a : Nat} {bs : List Byte} {poison : Bool} (h : Keeps F V s t) : Keeps F V s (t.writeSlice a bs poison) :=
  (h.takeBacking.invalidate.memWritePoison.ite h.takeBacking.invalidate.memWrite).copyWrite.touchPage

theorem Keeps.noteDirty {wid a n : Nat} (h : Keeps F V s t) : Keeps F V s (t.noteDirty wid a n) := h.ite h.same

theorem Keeps.writeBytes {wid a : Nat} {bs : List Byte} {poison : Bool} (h : Keeps F V s t) :
    Keeps F V s (t.writeBytes wid a bs poison).2 := by
  unfold State.writeBytes
  refine Keeps.foldlBy (fun r : Bool × Bool × State => r.2.2) h fun _ r x h => ?_
  dsimp only
  split
  · exact h.ite h.noteFault
  · exact h.noteCut.ite h.noteQuota
  · exact h.writeSlice.noteDirty

theorem Keeps.freeRange {wid a n : Nat} (h : Keeps F V s t) : Keeps F V s (t.freeRange wid a n) := by
  unfold State.freeRange
  exact h.foldl fun _ _ _ h => by
    split
    · exact h
    · split
      next e => exact (h.freeBytes.snd e).writeSlice.noteDirty

theorem Keeps.faultEvent {w : Wb} (h : Keeps F V s t) : Keeps F V s (t.faultEvent w) := by
  unfold State.faultEvent
  split
  · exact h.emitFor
  · exact h

theorem Keeps.accessing {wid key : Nat} {reads writes : List (Nat × Nat)} {f : State → State} (h : Keeps F V s t)
    (k : ∀ u v, Keeps F False u v → Keeps F False u (f v)) : Keeps F V s (t.accessing wid key reads writes f) := by
  refine h.trans (Keeps.restored ?_)
  exact (k _ _ Keeps.refl.prepareFor).ite Keeps.refl.prepareFor

/-! ### Operations of Machine/FabOps -/

theorem Keeps.updPort {n : Nat} {f : Port → Port} (h : Keeps F V s t) : Keeps F V s (t.updPort n f) := h.same

theorem Keeps.sendData {n seq : Nat} {slots : List Byte} (h : Keeps F V s t) : Keeps F V s (t.sendData n seq slots) := by
  unfold State.sendData
  dsimp only
  split
  · exact h.updPort
  · exact h.updPort.put.bump64

theorem Keeps.sendOther {n kind : Nat} (h : Keeps F V s t) : Keeps F V s (t.sendOther n kind) := by
  unfold State.sendOther
  dsimp only
  split
  · exact h.updPort
  · exact h.updPort.put

theorem Keeps.sendIdle {n k : Nat} (h : Keeps F V s t) : Keeps F V s (t.sendIdle n k) := by
  induction k generalizing t with
  | zero => exact h
  | succ k ih =>
    rw [State.sendIdle]
    split
    · exact h.sendOther
    · exact (ih h.sendOther).ite h.sendOther

theorem Keeps.pumpPort {n : Nat} (h : Keeps F V s t) : Keeps F V s (t.pumpPort n) := by
  unfold State.pumpPort
  split
  · exact h
  · split
    · exact h
    · dsimp only
      split
      · exact h.updPort.foldl fun _ _ _ h => h.sendData
      · exact (h.updPort.foldl fun _ _ _ h => h.sendData).sendIdle.ite (h.updPort.foldl fun _ _ _ h => h.sendData)

theorem Keeps.queueMsg {n vc : Nat} {b : List Byte} {tag : QMark} (h : Keeps F V s t) : Keeps F V s (t.queueMsg n vc b tag) :=
  h.updPort.pumpPort

theorem Keeps.sendMgt {op mdata : Nat} (h : Keeps F V s t) : Keeps F V s (t.sendMgt op mdata) := by
  unfold State.sendMgt
  split
  · exact h.queueMsg
  · exact h

theorem Keeps.updPeer {ep : Nat} {f : Peer → Peer} (h : Keeps F V s t) : Keeps F V s (t.updPeer ep f) := h.same

theorem Keeps.sendResolve {ep : Nat} (h : Keeps F V s t) : Keeps F V s (t.sendResolve ep) := h.ite h.updPeer.sendMgt.bump64

theorem Keeps.resolve {ep : Nat} (h : Keeps F V s t) : Keeps F V s (t.resolve ep) := by
  unfold State.resolve
  dsimp only
  split
  · exact h.updPeer.sendResolve.ite h
  · split
    · exact h.same.sendResolve
    · split
      · exact h
      · exact (h.same.sendMgt.ite h.same).sendResolve

theorem Keeps.updXfer {wid : Nat} {f : Xfer → Xfer} (h : Keeps F V s t) : Keeps F V s (t.updXfer wid f) := h.same

theorem Keeps.updPiece {wid idx : Nat} {f : Piece → Piece} (h : Keeps F V s t) : Keeps F V s (t.updPiece wid idx f) := h.updXfer

theorem Keeps.asBegun {x : Xfer} {q : Piece} {f : State → State} (h : Keeps F V s t) (k : ∀ u v, Keeps F V u v → Keeps F V u (f v)) :
    Keeps F V s (t.asBegun x q f) :=
  h.serving k

theorem Keeps.unmoved {q : Piece} {n : Nat} (h : Keeps F V s t) : Keeps F V s (t.unmoved q n) := h.updPiece

theorem Keeps.leftOut {x : Xfer} {q : Piece} {off n : Nat} (h : Keeps F V s t) : Keeps F V s (t.leftOut x q off n) :=
  h.unmoved.ite (h.unmoved.asBegun fun _ _ h => h.freeRange)

theorem Keeps.dropTxn {q : Txn} {quarantine : Bool} (h : Keeps F V s t) : Keeps F V s (t.dropTxn q quarantine) := by
  unfold State.dropTxn
  split
  · exact h.same
  · exact h.same.updPeer

theorem Keeps.xactFail {key src : Nat} {part : Option Nat} {ring addr st : Nat} (h : Keeps F V s t) :
    Keeps F V s (t.xactFail key src part ring addr st) := by
  unfold State.xactFail
  extract_lets +onlyGivenNames _ _ _ _ v1
  have k1 : Keeps F V s v1 := (h.bump.ite (h.bump.ite h)).same
  clear_value v1
  exact k1.emitFor.ite k1

theorem Keeps.txnLost {wid idx : Nat} {u1 : Txn} (h : Keeps F V s t) : Keeps F V s (t.txnLost wid idx u1) := by
  unfold State.txnLost
  split
  · exact h
  · split
    · exact h
    · exact h.updPiece.ite h.leftOut

theorem Keeps.moveFailed {n st : Nat} (h : Keeps F V s t) : Keeps F V s (t.moveFailed n st) := h.same

theorem Keeps.txnFailed {q : Txn} {st : Nat} (h : Keeps F V s t) : Keeps F V s (t.txnFailed q st) := by
  unfold State.txnFailed
  dsimp only
  split
  · exact h.xactFail.moveFailed
  · split
    · exact h
    · exact h.xactFail.endWb
  · split
    · exact h
    · exact h.xactFail.updWb.updPiece.txnLost

theorem Keeps.endUnsent {u1 : Txn} (h : Keeps F V s t) : Keeps F V s (t.endUnsent u1) := by
  unfold State.endUnsent
  dsimp only
  split
  · exact h.dropTxn.txnFailed
  · split
    · exact h.dropTxn.txnLost
    · exact h.dropTxn

theorem Keeps.failTxns {l : List Txn} {st : Nat} (h : Keeps F V s t) : Keeps F V s (t.failTxns l st) :=
  (h.foldl fun _ _ _ h => h.dropTxn.txnFailed.ite h).foldl fun _ _ _ h => h.endUnsent.ite h

theorem Keeps.failTxn {q : Txn} {st : Nat} (h : Keeps F V s t) : Keeps F V s (t.failTxn q st) := h.failTxns

theorem Keeps.peerEvent {ep kind old new ended : Nat} (h : Keeps F V s t) : Keeps F V s (t.peerEvent ep kind old new ended) :=
  h.emit.ite h

theorem Keeps.peerGone {ep : Nat} {l : List Txn} {st : Nat} (h : Keeps F V s t) : Keeps F V s (t.peerGone ep l st) := by
  unfold State.peerGone
  split
  · exact h.failTxns
  · exact (h.updPeer.peerEvent.ite h.updPeer).failTxns

theorem Keeps.updTxn {q : Txn} {f : Txn → Txn} (h : Keeps F V s t) : Keeps F V s (t.updTxn q f) := h.same

theorem Keeps.resolveFor {q : Txn} (h : Keeps F V s t) : Keeps F V s (t.resolveFor q) := h.resolve.ite h.resolve.bump.updTxn

theorem Keeps.armTxn {q : Txn} (h : Keeps F V s t) : Keeps F V s (t.armTxn q) := by
  unfold State.armTxn
  dsimp only
  split
  · split
    · exact h
    · exact h.same.updTxn
  · split
    · exact h.failTxn
    · split
      · split
        · exact h
        · exact h.failTxn.ite h.resolveFor
        · split
          · exact h.failTxn
          · split
            · exact h
            · split
              · exact h
              · exact h.same.updPeer.updTxn
      · exact h.resolveFor

theorem Keeps.txnCut {q : Txn} {way : List (Nat × Nat)} (h : Keeps F V s t) : Keeps F V s (t.txnCut q way) := by
  unfold State.txnCut
  dsimp only
  split
  · exact h.dropTxn.noteWay
  · exact (h.dropTxn.txnLost.ite h.dropTxn).noteWay
  · exact h.dropTxn.moveFailed

theorem Keeps.takeTurn {q : Txn} (h : Keeps F V s t) : Keeps F V s (t.takeTurn q) := by
  unfold State.takeTurn
  split
  · split
    · exact h
    · split
      · exact h.same
  · exact h

theorem Keeps.sendTxn {q : Txn} (h : Keeps F V s t) : Keeps F V s (t.sendTxn q) := by
  unfold State.sendTxn
  dsimp only
  split
  · exact h.same.updTxn.takeTurn
  · split
    · exact h.failTxn
    · split
      · exact h
      · split
        · exact h.txnCut
        · exact h.ite h.updTxn.takeTurn.queueMsg

theorem Keeps.pump (h : Keeps F V s t) : Keeps F V s t.pump :=
  (h.foldl fun _ _ _ h => h.armTxn.ite h).foldl fun _ _ _ h => h.sendTxn.ite h

theorem Keeps.takeMsg {port : Option Nat} {f : Msg → Bool} {m : Msg} (h : Keeps F V s t) (e : t.takeMsg port f = some (m, u)) :
    Keeps F V s u := by
  unfold State.takeMsg at e
  split at e
  · obtain ⟨x, -, e⟩ := Option.map_eq_some_iff.1 e
    cases e
    exact h.same
  · split at e
    · cases e
    · obtain ⟨x, -, e⟩ := Option.map_eq_some_iff.1 e
      cases e
      exact h.updPort

theorem Keeps.takeOp {port : Option Nat} {op : Nat} {m : Msg} (h : Keeps F V s t) (e : t.takeOp port op = some (m, u)) :
    Keeps F V s u := h.takeMsg e

theorem Keeps.takeMgt {port : Option Nat} {op : Nat} {m : Msg} (h : Keeps F V s t) (e : t.takeMgt port op = some (m, u)) :
    Keeps F V s u := by
  unfold State.takeMgt at e
  split at e
  next e1 =>
    have k := h.takeMsg e1
    split at e
    · cases e
    · split at e
      · cases e
        exact k
      · split at e
        · cases e
          exact k
        · split at e
          · cases e
          · cases e
            exact k.same
  · cases e

theorem Keeps.dropInbox {n : Nat} (h : Keeps F V s t) : Keeps F V s (t.dropInbox n) := h.updPort.same

theorem Keeps.misroute (h : Keeps F V s t) : Keeps F V s t.misroute := h.bump

theorem Keeps.deny {m : Msg} (h : Keeps F V s t) : Keeps F V s (t.deny m) := h.bump.same

theorem Keeps.inbound {m : Msg} (h : Keeps F V s t) : Keeps F V s (t.inbound m).2 := by
  unfold State.inbound
  split
  · exact h
  · split
    · exact h
    · split
      · exact h.deny
      · split
        · exact h
        · split
          · exact h.deny
          · exact h

theorem Keeps.answer {port : Option Nat} {m : Msg} {op status poison : Nat} {body : List Byte} (h : Keeps F V s t) :
    Keeps F V s (t.answer port m op status poison body) := by
  unfold State.answer
  dsimp only
  split
  · exact h.same
  · split
    · exact h.queueMsg
    · split
      · exact h.queueMsg
      · exact h

theorem Keeps.writeChunks {a : Nat} {bs : List Byte} {poison : Nat} (h : Keeps F V s t) : Keeps F V s (t.writeChunks a bs poison) :=
  h.memWrite.foldl fun _ _ _ h => h.markAll.ite h

theorem Keeps.portDrop {n state : Nat} (h : Keeps F V s t) : Keeps F V s (t.portDrop n state) := by
  unfold State.portDrop
  split
  · exact h
  · exact ((h.updPort.foldl fun _ _ _ h => by
      split
      · exact h
      · exact h.updPeer.same.updTxn.ite h.failTxn).foldl fun _ _ _ h => by
      split
      · split
        · exact h.updTxn
        · exact h
      · split
        · exact h.ite h.queueMsg
        · exact h.same
      · dsimp only
        split
        · exact h.ite h.queueMsg
        · exact h).pump

theorem Keeps.portDown {n cause : Nat} (h : Keeps F V s t) : Keeps F V s (t.portDown n cause) := by
  unfold State.portDown
  split
  · exact h
  · exact h.bump.emit.updPort.portDrop

theorem Keeps.replay {n : Nat} (h : Keeps F V s t) : Keeps F V s (t.replay n) := by
  unfold State.replay
  split
  · exact h
  · split
    · exact h
    · exact h.portDown.ite (h.updPort.bump.foldl fun _ _ _ h => h.sendData)

theorem Keeps.takeAck {n : Nat} {f : List Byte} (h : Keeps F V s t) : Keeps F V s (t.takeAck n f) := h.updPort

theorem Keeps.flitIn {n : Nat} {f : Flit} {kind : Nat} (h : Keeps F V s t) : Keeps F V s (t.flitIn n f kind) := by
  unfold State.flitIn
  split
  · exact h
  · refine h.ite ?_
    extract_lets a b nak c v d
    have kc : Keeps F V s c := h.bump64.bump.updPort.takeAck.ite h.bump64.bump.updPort.bump
    clear_value c
    have kn {u : State} (k : Keeps F V s u) : Keeps F V s (nak u) := k.ite k.updPort.sendOther
    clear_value nak
    refine Keeps.ite (kc.updPort.portDown.ite ((kn kc.updPort).ite kc.updPort).pumpPort) (kc.ite ?_)
    split
    · split
      · split
        exact (kc.updPort.foldl fun _ _ _ h => h.misroute).updPort.same.bump64.sendOther.pumpPort
      · exact kn kc.updPort
    · exact kc.updPort.replay.pumpPort.ite kc.updPort.pumpPort

/-! ### Operations of Machine/PowerOps -/

theorem Keeps.raiseSteps (h : Keeps F V s t) : Keeps F V s t.raiseSteps := h.same

theorem Keeps.holdBallast {i : Nat} (h : Keeps F V s t) : Keeps F V s (t.holdBallast i) := h.same.ite h

theorem Keeps.rampStart {k : EngKind} {insts : List Nat} {hint : Nat} (h : Keeps F V s t) : Keeps F V s (t.rampStart k insts hint) :=
  h.foldl fun _ _ _ h => h.same

theorem Keeps.brownReport (h : Keeps F V s t) : Keeps F V s t.brownReport := by
  unfold State.brownReport
  split
  · exact h
  · exact h.ite h.same.emit

theorem Keeps.measure {iin vin : Nat} (h : Keeps F V s t) : Keeps F V s (t.measure iin vin) := by
  unfold State.measure
  extract_lets +onlyGivenNames _ _ _ _ _ _ _ _ _ v1
  have k1 : Keeps F V s v1 := (h.same.setFld.setFld.ite h.same.setFld).setFld
  clear_value v1
  exact k1.setFld.ite k1

/-! ### Operations of Machine/SchedOps -/

theorem Keeps.updRun {wid : Nat} {f : Run → Run} (h : Keeps F V s t) : Keeps F V s (t.updRun wid f) := h.same

theorem Keeps.dropRun {wid : Nat} (h : Keeps F V s t) : Keeps F V s (t.dropRun wid) := h.same

theorem Keeps.addCopy {die wid size : Nat} (h : Keeps F V s t) : Keeps F V s (t.addCopy die wid size) := h.same

theorem Keeps.dropCopy {die wid : Nat} (h : Keeps F V s t) : Keeps F V s (t.dropCopy die wid) := h.same

theorem Keeps.dropCopies {wid : Nat} (h : Keeps F V s t) : Keeps F V s (t.dropCopies wid) := h.same

theorem Keeps.copyFor {die wid : Nat} (h : Keeps F V s t) : Keeps F V s (t.copyFor die wid) := by
  unfold State.copyFor
  split
  · exact h
  · split
    · exact h
    · split
      · exact h.addCopy
      · exact h.ite h.updRun.bump

theorem Keeps.beginInsts {wid : Nat} (h : Keeps F V s t) : Keeps F V s (t.beginInsts wid) := by
  unfold State.beginInsts
  split
  · exact h
  · extract_lets +onlyGivenNames _ _ v1
    have k1 : Keeps F V s v1 := (h.foldl fun _ _ _ h => h.setUse).rampStart
    clear_value v1
    extract_lets +onlyGivenNames _ _ v3
    have k3 : Keeps F V s v3 := ((k1.foldl fun _ _ _ h => h.dropBallast).ite k1).updRun
    clear_value v3
    exact k3.dropCopy.ite k3

theorem Keeps.requeue {wid inst : Nat} (h : Keeps F V s t) : Keeps F V s (t.requeue wid inst) := h.same

theorem Keeps.arrive {wid inst pos : Nat} (h : Keeps F V s t) : Keeps F V s (t.arrive wid inst pos) := by
  unfold State.arrive
  extract_lets +onlyGivenNames _ v1
  have k1 : Keeps F V s v1 := h.foldl fun _ _ _ h => h.ite h.bump
  clear_value v1
  exact h.ite k1.same

theorem Keeps.handIntents {r : Run} (h : Keeps F V s t) : Keeps F V s (t.handIntents r) := by
  unfold State.handIntents
  dsimp only
  refine Keeps.foldl (Keeps.same (Keeps.foldl ?_ fun _ _ _ h => h.ite h.bump.emitFor)) fun _ _ _ h => h.requeue.arrive
  refine Keeps.foldlBy (fun p : State × List Nat => p.1) h fun _ _ _ h => ?_
  split
  · exact h.same
  · exact h

theorem Keeps.startRun {wid : Nat} (h : Keeps F V s t) : Keeps F V s (t.startRun wid) := by
  unfold State.startRun
  split
  · exact ((h.updRun.startWb.updWb.dropPredict.handIntents.foldl fun _ _ _ h => h.wake.wake).foldl fun _ _ _ h => h.copyFor).beginInsts
  · exact h

theorem Keeps.reserving {wid : Nat} (h : Keeps F V s t) : Keeps F V s (t.reserving wid) := h.ite h.updWb.same

theorem Keeps.placeInst {wid i : Nat} (h : Keeps F V s t) : Keeps F V s (t.placeInst wid i) := by
  unfold State.placeInst
  split
  · exact h
  · split
    · exact h
    · exact (h.updRun.updWb.ite h.updRun).same.requeue.arrive.wake.wake.copyFor.beginInsts

theorem Keeps.giveInst {wid : Nat} {k : EngKind} {i : Nat} (h : Keeps F V s t) : Keeps F V s (t.giveInst wid k i) := by
  unfold State.giveInst
  dsimp only
  split
  · exact h.setUse.updWb
  · split
    · exact h.setUse.updWb.placeInst
    · exact h.setUse.updWb.startRun.ite h.setUse.updWb.reserving

theorem Keeps.loseInst {wid i : Nat} (h : Keeps F V s t) : Keeps F V s (t.loseInst wid i) := by
  unfold State.loseInst
  dsimp only
  split
  · exact h.updWb
  · exact h.updWb.ite h.updWb.updRun.same.reserving

theorem Keeps.passInst {k : EngKind} {i : Nat} (h : Keeps F V s t) : Keeps F V s (t.passInst k i) := by
  unfold State.passInst
  split
  · exact h
  · split
    · exact h
    · exact h.giveInst

theorem Keeps.steal {wid : Nat} {k : EngKind} (h : Keeps F V s t) : Keeps F V s (t.steal wid k) := by
  unfold State.steal
  exact h.foldl fun _ _ _ h => by
    split
    · exact h.loseInst.giveInst.ite h
    · exact h

theorem Keeps.settleTakings (h : Keeps F V s t) : Keeps F V s t.settleTakings :=
  h.same.foldl fun _ _ _ h => h.ite (h.same.ite h.same.setReg).emit

theorem Keeps.parkColls (h : Keeps F V s t) : Keeps F V s t.parkColls := by
  unfold State.parkColls
  exact h.foldl fun w _ _ h => by
    split
    · exact h
    · extract_lets +onlyGivenNames _ v1
      have k1 : Keeps F V w v1 := h.bump.ite h
      clear_value v1
      exact h.ite k1.same

theorem Keeps.letGo {p : Nat} (h : Keeps F V s t) : Keeps F V s (t.letGo p) :=
  (h.foldl fun _ _ _ h => h.setUse.loseInst).foldl fun _ _ _ h => h.passInst

theorem Keeps.suspendOn {p : Nat} {taker : Option Nat} {l : List (EngKind × Nat)} (h : Keeps F V s t) :
    Keeps F V s (t.suspendOn p taker l) := by
  unfold State.suspendOn
  extract_lets +onlyGivenNames _ _ _ _ v1
  have k1 : Keeps F V s v1 := h.same.bump.ite h.same
  clear_value v1
  exact h.ite k1.letGo.parkColls.settleTakings

theorem Keeps.preemptFor {w : Wb} {k : EngKind} (h : Keeps F V s t) : Keeps F V s (t.preemptFor w k) :=
  h.ite (h.foldl fun _ _ _ h => h.suspendOn)

theorem Keeps.examine (h : Keeps F V s t) : Keeps F V s t.examine := by
  unfold State.examine
  exact h.foldl fun _ _ _ h => by
    split
    · exact h
    · split
      · split
        · exact h.preemptFor
        · exact h
      · exact h

theorem Keeps.signal {p idx add : Nat} (h : Keeps F V s t) : Keeps F V s (t.signal p idx add) := by
  unfold State.signal
  split
  · exact h
  · exact h.setSem

theorem Keeps.schedule {wid : Nat} {k : EngKind} {u1 : Nat} (h : Keeps F V s t) : Keeps F V s (t.schedule wid k u1) := by
  unfold State.schedule
  dsimp only
  split
  · exact h.updWb
  · split
    · exact (h.updWb.foldl fun _ _ _ h => h.giveInst).steal
    · exact (h.updWb.foldl fun _ _ _ h => h.giveInst).steal.preemptFor.ite (h.updWb.foldl fun _ _ _ h => h.giveInst).steal

theorem Keeps.cancelWb {wid st : Nat} (h : Keeps F V s t) : Keeps F V s (t.cancelWb wid st) :=
  h.unreserve.dropCopies.dropRun.same.endWb

theorem Keeps.trimBallast (h : Keeps F V s t) : Keeps F V s t.trimBallast := h.same

theorem Keeps.sweepBusy (h : Keeps F V s t) : Keeps F V s t.sweepBusy := by
  unfold State.sweepBusy
  exact (h.foldl fun w _ _ h => by
    split
    · exact h
    · split
      · extract_lets +onlyGivenNames _ _ _ _ _ v1
        have k1 : Keeps F V w v1 := (h.foldl fun _ _ _ h => h.setUse.loseInst).updWb
        clear_value v1
        split
        · exact h
        · split
          · exact h.cancelWb
          · dsimp only
            split
            · exact (k1.startRun.ite k1).foldl fun _ _ _ h => h.passInst
            · exact k1.foldl fun _ _ _ h => h.passInst
      · exact h).trimBallast

theorem Keeps.endSusps {taker p : Option Nat} (h : Keeps F V s t) : Keeps F V s (t.endSusps taker p) :=
  (h.same.foldl fun _ _ _ h => h.emit).parkColls

/-! ### Operations of Machine/XferOps -/

theorem Keeps.blur {x : Xfer} {a : Nat} {bs : List Byte} (h : Keeps F V s t) : Keeps F V s (t.blur x a bs).2 := by
  unfold State.blur
  dsimp only
  split
  · exact h.same
  · exact h

theorem Keeps.deliver {x : Xfer} {q : Piece} {off : Nat} {runs : List (List Byte × Bool)} (h : Keeps F V s t) :
    Keeps F V s (t.deliver x q off runs) := by
  unfold State.deliver
  refine Keeps.foldlSnd h fun _ r b h => ?_
  exact h.blur.writeBytes.unmoved.ite (h.blur.noteWay.ite h.blur.put)

theorem Keeps.addTxns {x : Xfer} {q : Piece} {op base pattern : Nat} {host : Nat → Nat → BytesRead} (h : Keeps F V s t) :
    Keeps F V s (t.addTxns x q op base pattern host) := by
  unfold State.addTxns
  exact h.foldl fun _ _ _ h => by
    dsimp only
    exact h.blur.same

theorem Keeps.readyFor {x : Xfer} {q : Piece} (h : Keeps F V s t) : Keeps F V s (t.readyFor x q).2 :=
  h.trans (Keeps.refl.setPlace.prepare.restored)

theorem Keeps.launch {wid idx : Nat} (h : Keeps F V s t) : Keeps F V s (t.launch wid idx) := by
  unfold State.launch
  split
  · split
    · exact h
    · split
      · exact h
      · split
        next e =>
          have k1 := h.readyFor.snd e
          split
          · exact k1
          · split
            · exact k1
            · exact k1.asDie fun _ _ h => h.asBegun fun _ _ h => h.updPiece.addTxns.pump.ite
                ((h.updPiece.foldl fun _ _ _ h => h.noteRead).addTxns.pump.ite h.updPiece)
  · exact h

theorem Keeps.serveXfe {i : Nat} (h : Keeps F V s t) : Keeps F V s (t.serveXfe i) := by
  unfold State.serveXfe
  split
  · exact h
  · dsimp only
    split
    · exact h
    · split
      · exact (h.updWb.startWb.ite h).updPiece.setUse.launch
      · exact h

theorem Keeps.serveXfes (h : Keeps F V s t) : Keeps F V s t.serveXfes := h.foldl fun _ _ _ h => h.serveXfe

theorem Keeps.rePlace (h : Keeps F V s t) : Keeps F V s t.rePlace := by
  unfold State.rePlace
  exact h.foldl fun _ _ _ h => by
    split
    · exact h
    · dsimp only
      split
      · exact h
      · split
        · exact h.updXfer
        · exact h

theorem Keeps.endPiece {wid idx : Nat} (h : Keeps F V s t) : Keeps F V s (t.endPiece wid idx) := by
  unfold State.endPiece
  split
  · exact h
  · split
    · exact h
    · extract_lets +onlyGivenNames _ _ _ v1
      have k1 : Keeps F V s v1 := by
        unfold v1
        split
        · exact h.updXfer.setUse
        · exact h.updXfer
      clear_value v1
      dsimp only
      split
      · split
        · exact k1.serveXfes.settleTakings
        · exact k1.same.endWb.serveXfes.settleTakings
      · exact k1.serveXfes.settleTakings

/-! ### Operations of Machine/CodecOps -/

theorem Keeps.updCtx {n : Nat} {f : Ctx → Ctx} (h : Keeps F V s t)
    (k : Sound s → ∀ c, c.marks.length = 64 → (f c).marks.length = 64 := by exact fun _ _ e => e) : Keeps F V s (t.updCtx n f) := by
  refine h.setCodec fun w wt c hc => ?_
  obtain ⟨d, hd, rfl⟩ := List.mem_map.1 hc
  split
  · exact k w d (wt d hd)
  · exact wt d hd

theorem Keeps.setCde {c : Cde} (h : Keeps F V s t) : Keeps F V s (t.setCde c) := h.same

theorem Keeps.unqueue {wid : Nat} (h : Keeps F V s t) : Keeps F V s (t.unqueue wid) := (h.foldl fun _ _ _ h => h.setCde).ite h

theorem Keeps.enqueue {w : Wb} {c : Ctx} (h : Keeps F V s t) : Keeps F V s (t.enqueue w c) := h.ite h.setCde.same.updWb

theorem Keeps.serveCde {n : Nat} (h : Keeps F V s t) : Keeps F V s (t.serveCde n) := by
  unfold State.serveCde
  dsimp only
  split
  · exact h
  · split
    · split
      · exact h.setCde.startWb.setUse
      · exact h.setCde.setUse
    · exact h.setCde.setUse
    · split
      · exact h.setCde.startWb.setUse
      · exact h.setCde.setUse
    · exact h

theorem Keeps.serveCdes (h : Keeps F V s t) : Keeps F V s t.serveCdes := h.foldl fun _ _ _ h => h.serveCde

theorem Keeps.spoilSave {wid : Nat} {c : Ctx} (h : Keeps F V s t) : Keeps F V s (t.spoilSave wid c) := by
  unfold State.spoilSave
  split
  next e => exact (h.freeBytes.snd e).writeBytes

theorem Keeps.setAside {n rows : Nat} {parked : Bool} (h : Keeps F V s t) : Keeps F V s (t.setAside n rows parked) := by
  unfold State.setAside
  dsimp only
  split
  · exact h
  · split
    · exact (h.ite h.bump).setCde.setUse.spoilSave.serveCde
    · exact (h.ite h.bump).setCde.setUse.serveCde

theorem Keeps.dropCtxs {p : Ctx → Bool} (h : Keeps F V s t) :
    Keeps F V s { t with codec := { t.codec with ctxs := t.codec.ctxs.filter p } } :=
  h.setCodec fun _ w c hc => w c (List.mem_filter.1 hc).1

theorem Keeps.loseCtx {c : Ctx} {cause ended : Nat} (h : Keeps F V s t) : Keeps F V s (t.loseCtx c cause ended) := h.dropCtxs.emit

/-! ### Operations of Machine/RegOps -/

theorem Keeps.noteBreak {off : Nat} {w : Word} (h : Keeps F V s t) : Keeps F V s (t.noteBreak off w) := by
  unfold State.noteBreak
  split
  · exact h
  · exact h.bump.setReg.ite h

theorem Keeps.writeRegAs {off : Nat} {raw w : Word} (h : Keeps F V s t) : Keeps F V s (t.writeRegAs off raw w) := by
  unfold State.writeRegAs
  split
  · exact h
  · exact h.noteBreak.setReg

theorem Keeps.writeReg {off : Nat} {w : Word} (h : Keeps F V s t) : Keeps F V s (t.writeReg off w) := h.writeRegAs

theorem Keeps.cmdWrite {off st : Nat} {w : Word} (h : Keeps F V s t) : Keeps F V s (t.cmdWrite off st w) := by
  unfold State.cmdWrite
  split
  · exact h.setFld.setFld.ite h.setFld
  · extract_lets +onlyGivenNames v1
    have k1 : Keeps F V s v1 := h.setFld.ite h
    clear_value v1
    exact k1.setReg.setFld.ite k1

theorem Keeps.byCmd {off st : Nat} {same : Word → Bool} {f : State → State}
    (h : Keeps F V s t) (k : ∀ u v, Keeps F V u v → Keeps F V u (f v)) : Keeps F V s (t.byCmd off st same f) := by
  unfold State.byCmd
  split
  · exact h
  · split
    · exact k _ _ h
    · exact (k _ _ h.setReg.setFld).ite h.setFld

/-! ### Operations of Machine/Codec -/

theorem Keeps.writeCmd {wid a : Nat} {record : List Byte} {c : Ctx} (h : Keeps F V s t) : Keeps F V s (t.writeCmd wid a record c) :=
  h.writeBytes

theorem Keeps.endCommand {w : Wb} {c : Ctx} (h : Keeps F V s t) : Keeps F V s (t.endCommand w c) := by
  unfold State.endCommand
  dsimp only
  split
  · exact h.startWb.writeCmd.endWb
  · exact h.startWb.writeCmd

theorem Keeps.openCtx {w : Wb} {b : List Byte} (h : Keeps F False s t) : Keeps F False s (t.openCtx w b) := by
  unfold State.openCtx
  extract_lets wid id
  split
  next pa ta sa sn _ =>
    extract_lets hasP hasT
    split
    next ok v e =>
      have k := h.prepareFor.snd e
      split
      · exact k
      · extract_lets +onlyGivenNames p q gaps x y
        have k : Keeps F False s y := (k.noteRead.ite k).noteRead.ite (k.noteRead.ite k)
        clear_value y
        split
        · exact k
        · extract_lets +onlyGivenNames bad ex l held pick
          have kb (n : Nat) : Keeps F False s (bad n) := k.endWb
          clear_value bad
          refine k.endWb.ite ((kb 1).ite ((kb 2).ite ((kb 3).ite ((kb 4).ite ((kb 5).ite (k.endWb.ite ?_))))))
          split
          · refine (k.setCodec fun _ w c hc => ?_).endCommand
            obtain rfl | hc := mem_insertByKey hc
            · rfl
            · exact w c hc
          · exact k.endWb

theorem Keeps.closeCtx {w : Wb} (h : Keeps F V s t) : Keeps F V s (t.closeCtx w) := by
  unfold State.closeCtx
  split
  · exact h.endWb
  · exact h.endCommand.dropCtxs

theorem Keeps.releaseCtx {w : Wb} {b : List Byte} (h : Keeps F V s t) : Keeps F V s (t.releaseCtx w b) := by
  unfold State.releaseCtx
  split
  · exact h.endWb
  next c e =>
    exact h.endWb.ite (Keeps.endCommand (h.updCtx fun w _ _ => length_releaseMarks.trans
      ((h.sound w).ctxs c (State.mem_ctxs_of_ctxFor e))))

theorem Keeps.queuePicture {w : Wb} {c : Ctx} (h : Keeps F V s t) : Keeps F V s (t.queuePicture w c) := by
  unfold State.queuePicture
  split
  · exact h.endWb
  · dsimp only
    split
    · exact h.enqueue.setCde.serveCde.preemptFor.ite h.enqueue.setCde.serveCde
    · exact h.enqueue.setCde.serveCde

theorem Keeps.beginDecode {w : Wb} {b : List Byte} (h : Keeps F V s t) : Keeps F V s (t.beginDecode w b) := by
  unfold State.beginDecode
  split
  · exact h.endWb
  · dsimp only
    split
    · exact h.endWb
    · split
      · exact h.endWb
      · split
        · exact h.endWb
        · exact h.endWb.ite h.queuePicture

theorem Keeps.beginEncode {w : Wb} {b : List Byte} (h : Keeps F V s t) : Keeps F V s (t.beginEncode w b) := by
  unfold State.beginEncode
  split
  · exact h.endWb
  · dsimp only
    split
    · exact h.endWb
    · split
      · exact h.endWb
      · split
        · exact h.endWb
        · split
          · exact h.endWb
          · split
            · exact h.endWb
            · split
              · exact h.endWb
              · exact h.endWb.ite h.queuePicture

theorem Keeps.takeCommand {w : Wb} (h : Keeps F False s t) : Keeps F False s (t.takeCommand w) := by
  unfold State.takeCommand
  extract_lets a
  split
  next e =>
    have k := h.prepareFor.snd e
    split
    · split
      · exact k.enqueue
      · exact k
    · extract_lets b v
      have k : Keeps F False s v := k.noteRead
      clear_value v
      split
      · exact k
      · extract_lets v'
        have k' : Keeps F False s v' := by
          refine k.endWb.ite (k.openCtx.ite (k.endWb.ite ?_))
          split
          · exact k.closeCtx
          · exact k.beginDecode
          · exact k.beginEncode
          · exact k.releaseCtx
        exact k'.unqueue.ite k'

theorem Keeps.codecTurns {ctx n : Nat} (h : Keeps F False s t) : Keeps F False s (t.codecTurns ctx n) := by
  induction n generalizing t with
  | zero => exact h
  | succ n ih =>
    rw [State.codecTurns]
    split
    · exact h
    · split
      · exact h
      · exact h.ite ((ih h.takeCommand).ite h.takeCommand)

theorem Keeps.codecTurn {ctx : Nat} (h : Keeps F False s t) : Keeps F False s (t.codecTurn ctx) := h.codecTurns

theorem Keeps.beginCodec {wid cmd : Nat} (h : Keeps F False s t) : Keeps F False s (t.beginCodec wid cmd) := by
  unfold State.beginCodec
  dsimp only
  split
  · exact h
  · split
    · exact h
    · split
      · exact h.ite h.takeCommand.codecTurn
      · exact h.checked fun _ _ h => by
          split
          · exact h.endWb
          · split
            · exact h.enqueue
            · exact h.takeCommand.codecTurn

theorem Keeps.codecOpenStep {wid : Nat} (h : Keeps F False s t) : Keeps F False s (codecOpenStep wid t) := h.beginCodec

theorem Keeps.codecCloseStep {wid : Nat} (h : Keeps F False s t) : Keeps F False s (codecCloseStep wid t) := h.beginCodec

theorem Keeps.codecReleaseStep {wid : Nat} (h : Keeps F False s t) : Keeps F False s (codecReleaseStep wid t) := h.beginCodec

theorem Keeps.decodeStep {wid : Nat} (h : Keeps F False s t) : Keeps F False s (decodeStep wid t) := h.beginCodec

theorem Keeps.encodeStep {wid : Nat} (h : Keeps F False s t) : Keeps F False s (encodeStep wid t) := h.beginCodec

theorem Keeps.classAgeStep {wid : Nat} (h : Keeps F V s t) : Keeps F V s (classAgeStep wid t) := h.same

theorem Keeps.tileRowBoundaryStep {n row : Nat} (h : Keeps F V s t) : Keeps F V s (tileRowBoundaryStep n row t) := by
  unfold Machine.tileRowBoundaryStep
  dsimp only
  split
  · exact h
  · split
    · exact h
    · split
      · exact h.setCde.setAside.settleTakings
      · exact h.setCde.setAside.ite h.setCde

theorem Keeps.writePicture {wid : Nat} {e : Nat × Nat} {runs : List (Nat × List Byte)} {bad : List (Nat × Nat)} (h : Keeps F V s t) :
    Keeps F V s (t.writePicture wid e runs bad) :=
  (h.foldl fun _ _ _ h => h.writeBytes).ite (h.foldl fun _ _ _ h => h.writeBytes).markAll.notePoison

theorem Keeps.pictureDoneStep {n : Nat} {pic : Picture} {m : Marks} (h : Keeps False False s t) :
    Keeps False False s (pictureDoneStep n pic m t) := by
  unfold Machine.pictureDoneStep
  extract_lets q
  split
  · exact h
  · split
    next w c _ ec =>
      extract_lets a b enc e src
      split
      next ok v ev =>
      have k := h.prepareFor.snd ev
      split
      · exact k
      · extract_lets x wrote reads
        have hx (w : Sound s) : x.after.marks.length = 64 := by
          refine Eq.trans ?_ ((h.sound w).ctxs c (State.mem_ctxs_of_ctx ec))
          unfold x
          split
          · exact State.length_encodeEnd
          · exact State.length_decodeEnd
        split
        next ok v ev =>
        have k := k.prepareFor.snd ev
        split
        · exact k
        · extract_lets s1 s2 s3 s4 s5 s6 s7 s8 s9 s10 s11 s12 s13 s14 s15
          have k : Keeps False False s s1 := k.noteMarks
          clear_value s1
          have k : Keeps False False s s2 := k.setFld.notePoison.ite k
          clear_value s2
          have k : Keeps False False s s4 := (k.setFld.ite k).noteReads
          clear_value s4
          have k : Keeps False False s s5 := k.writePicture.ite k
          clear_value s5
          have k : Keeps False False s s6 := k.writeBytes.ite k
          clear_value s6
          have k : Keeps False False s s9 := ((k.updCtx fun w _ _ => hx w).writeCmd).spoilSave
          clear_value s9
          have k : Keeps False False s s10 := k.ite k.bump64
          clear_value s10
          have k : Keeps False False s s11 := k.bump.bump.ite k
          clear_value s11
          have k : Keeps False False s s12 := k.emitFor.ite k
          clear_value s12
          have k : Keeps False False s s14 := k.setCde.setUse.chargeWb
          clear_value s14
          have k : Keeps False False s s15 := by
            unfold s15
            split
            · exact k
            · exact k.endWb
          exact k.codecTurn.serveCde.settleTakings
    · exact h

theorem Keeps.cdeCtrClrStep {i : Nat} (h : Keeps F V s t) : Keeps F V s (cdeCtrClrStep i t) := h.zeroRegs.ite h

/-! ### Operations of Machine/CollOps -/

theorem Keeps.updColl {wid : Nat} {f : Coll → Coll} (h : Keeps F V s t) : Keeps F V s (t.updColl wid f) := h.same

theorem Keeps.dropColl {wid : Nat} (h : Keeps F V s t) : Keeps F V s (t.dropColl wid) := h.same

theorem Keeps.collOut {o : OwedMsg} (h : Keeps F V s t) (e : t.collOut o = some u) : Keeps F V s u := by
  unfold State.collOut at e
  split at e
  · simp only [Option.ite_none_right_eq_some, Option.some.injEq] at e
    obtain ⟨-, rfl⟩ := e
    exact h.updPeer.ite h.updPeer.queueMsg
  · cases e

theorem Keeps.collSend {c : Coll} {i kind ph q k j hi : Nat} {data : List Byte} {poison : Nat} (h : Keeps F V s t) :
    Keeps F V s (t.collSend c i kind ph q k j hi data poison) := by
  unfold State.collSend
  dsimp only
  cases e : t.collOut _ with
  | none => exact h.same
  | some u => exact h.collOut e

theorem Keeps.collSeek {wid ep : Nat} (h : Keeps F V s t) : Keeps F V s (t.collSeek wid ep) := by
  unfold State.collSeek
  dsimp only
  split
  · exact h.resolve.same
  · exact h.resolve.ite h.resolve.same.bump

theorem Keeps.sendOwed (h : Keeps F V s t) : Keeps F V s t.sendOwed := by
  unfold State.sendOwed
  exact h.same.foldl fun _ _ _ h => by
    dsimp only
    split
    · exact h
    · split
      · exact h.same
      · split
        next e => exact h.collOut e
        · split
          · exact h.collSeek.same
          · split
            · exact h.same
            · split
              · exact h.ite h.collSeek.same
              · exact h.ite h.same

theorem Keeps.collPeer {wid i : Nat} (h : Keeps F V s t) : Keeps F V s (t.collPeer wid i).2 := by
  unfold State.collPeer
  split
  · exact h
  · split
    · exact h
    · split
      · split
        · exact h.updColl
        · split
          · exact h.collSeek
          · exact h
      · exact h.collSeek

theorem Keeps.sendJoin {c : Coll} {i : Nat} (h : Keeps F V s t) : Keeps F V s (t.sendJoin c i) := h.collSend

theorem Keeps.sendJoins {wid : Nat} (h : Keeps F V s t) : Keeps F V s (t.sendJoins wid) := by
  unfold State.sendJoins
  split
  · exact h
  · exact h.foldl fun _ _ _ h => by
      split
      · exact h
      · split
        next e =>
          have k1 := h.collPeer.snd e
          split
          · exact k1.sendJoin.updColl
          · exact k1

theorem Keeps.countInputs {c : Coll} {k : Nat} (h : Keeps F V s t) : Keeps F V s (t.countInputs c k) :=
  h.foldl fun _ _ _ h => h.noteRead

theorem Keeps.sendChunk {c : Coll} {ph q k i : Nat} {bs : List (Byte × Bool)} {crc : Word} (h : Keeps F V s t) :
    Keeps F V s (t.sendChunk c ph q k i bs crc) :=
  (h.foldl fun _ _ _ h => h.collSend).collSend.bump64

theorem Keeps.writeOut {c : Coll} {a : Nat} {vs : List (Word × Bool)} {raw : List (Byte × Bool)} (h : Keeps F V s t) :
    Keeps F V s (t.writeOut c a vs raw) := by
  unfold State.writeOut
  extract_lets +onlyGivenNames _ _ _ v1
  have k1 : Keeps F V s v1 := h.updColl.bump.notePoison.ite h.updColl.bump
  clear_value v1
  split
  · exact k1
  · exact k1.writeBytes.ite (k1.foldl fun _ _ _ h => h.writeBytes)

theorem Keeps.writeChunk {c : Coll} {k fmt : Nat} {wire : List (Byte × Bool)} (h : Keeps F V s t) :
    Keeps F V s (t.writeChunk c k fmt wire) := by
  unfold State.writeChunk
  split
  · split
    · exact h.writeOut

theorem Keeps.formFinal {wid k : Nat} {vs : List (Word × Bool)} {raw : Option (List (Byte × Bool))} (h : Keeps F V s t) :
    Keeps F V s (t.formFinal wid k vs raw) := by
  unfold State.formFinal
  split
  · exact h
  · exact h.updColl.bump64.writeChunk

theorem Keeps.formOwn {wid : Nat} (h : Keeps F V s t) : Keeps F V s (t.formOwn wid) := by
  unfold State.formOwn
  split
  · exact h
  · split
    · exact h
    · exact h.foldl fun _ _ _ h => h.ite (h.accessing fun _ _ h => by
          dsimp only
          exact h.countInputs.formFinal)

theorem Keeps.grantOne {c : Coll} {x : RxChunk} (h : Keeps F V s t) : Keeps F V s (t.grantOne c x) := h.ite h.collSend

theorem Keeps.useChunk {wid : Nat} {x : RxChunk} (h : Keeps F V s t) : Keeps F V s (t.useChunk wid x) := by
  unfold State.useChunk
  split
  · exact h
  · split
    · exact h
    · dsimp only
      split
      · exact h.accessing fun _ _ h => h.writeOut.updColl.ite h.writeOut.updColl.grantOne
      · split
        · split
          · exact h
          · exact h.accessing fun _ _ h => ((h.ite h.countInputs).updColl.formFinal.ite (h.ite h.countInputs).updColl).updColl.ite
              ((h.ite h.countInputs).updColl.formFinal.ite (h.ite h.countInputs).updColl).updColl.grantOne
        · exact h.accessing fun _ _ h => h.updColl.writeChunk.updColl.ite h.updColl.writeChunk.updColl.grantOne

theorem Keeps.useChunks {wid : Nat} (h : Keeps F V s t) : Keeps F V s (t.useChunks wid) := by
  unfold State.useChunks
  split
  · exact h
  · exact h.foldl fun _ _ _ h => h.useChunk

theorem Keeps.sendChunks {wid : Nat} (h : Keeps F V s t) : Keeps F V s (t.sendChunks wid) := by
  unfold State.sendChunks
  split
  · exact h
  · refine h.ite (h.foldl fun u v x h => ?_)
    split
    split
    · exact h
    · extract_lets key g
      refine h.ite (h.accessing fun _ _ h => ?_)
      split
      · exact h
      · exact (h.foldl fun _ _ _ h => h.noteRead).updColl.sendChunk.foldl fun _ _ _ h => h.grantOne

theorem Keeps.fillSlots {wid : Nat} (h : Keeps F V s t) : Keeps F V s (t.fillSlots wid) := by
  unfold State.fillSlots
  split
  · exact h
  · split
    · exact h
    · exact h.foldl fun _ _ _ h => h.ite (h.accessing fun _ _ h => (h.noteRead.writeOut.ite h).writeOut.writeBytes.updColl)

theorem Keeps.grantSlots {wid : Nat} (h : Keeps F V s t) : Keeps F V s (t.grantSlots wid) := by
  unfold State.grantSlots
  split
  · exact h
  · split
    · exact h
    · exact h.foldl fun _ _ _ h => h.ite h.collSend.updColl

theorem Keeps.signalOut {wid n : Nat} (h : Keeps F V s t) : Keeps F V s (t.signalOut wid n) := by
  induction n generalizing t with
  | zero => exact h
  | succ n ih =>
    rw [State.signalOut]
    split
    · exact h
    · split
      · exact h
      · split
        · exact h
        · split
          · exact h
          · refine ih (Keeps.updColl ?_)
            split
            · exact h.signal
            · exact h

theorem Keeps.releaseColl {wid : Nat} (h : Keeps F V s t) : Keeps F V s (t.releaseColl wid) := by
  unfold State.releaseColl
  split
  · exact h
  · dsimp only
    split
    · split
      · split
        · exact h.signal.updColl
        · exact h.updColl
      · split
        · exact h.signal.signal.updColl
        · exact h.signal.updColl
    · split
      · exact h.signal.updColl
      · exact h.updColl

theorem Keeps.endColl {wid st detail : Nat} (h : Keeps F V s t) : Keeps F V s (t.endColl wid st detail) := by
  unfold State.endColl
  split
  · exact h
  · extract_lets +onlyGivenNames v1
    have k1 : Keeps F V s v1 := (h.foldl fun _ _ _ h => h.freeRange).ite h
    clear_value v1
    exact ((k1.bump.ite (k1.bump.ite k1)).chargeWb.ite (k1.bump.ite (k1.bump.ite k1))).dropColl.endWb

theorem Keeps.stallColl {wid i cause ph : Nat} (h : Keeps F V s t) : Keeps F V s (t.stallColl wid i cause ph) := by
  unfold State.stallColl
  split
  · exact h
  · dsimp only
    split
    · exact (h.foldl fun _ _ _ h => h.collSend).releaseColl.emitFor.endColl
    · exact (h.foldl fun _ _ _ h => h.collSend).releaseColl.endColl

theorem Keeps.poisonEnd {wid : Nat} (h : Keeps F V s t) : Keeps F V s (t.poisonEnd wid) := by
  unfold State.poisonEnd
  split
  · exact h
  · split
    · exact h
    · exact h.endColl.ite h

theorem Keeps.poisonColl {wid i cause ph chunk : Nat} (h : Keeps F V s t) : Keeps F V s (t.poisonColl wid i cause ph chunk) := by
  unfold State.poisonColl
  split
  · exact h
  · split
    · exact h
    · dsimp only
      split
      · exact (h.updColl.foldl fun _ _ _ h => h.collSend).releaseColl
      · exact ((h.updColl.foldl fun _ _ _ h => h.collSend).releaseColl.emitFor.updConsist.foldl fun _ _ _ h => h.cancelWb).poisonEnd

theorem Keeps.checkChunks {wid : Nat} (h : Keeps F V s t) : Keeps F V s (t.checkChunks wid) := by
  unfold State.checkChunks
  split
  · exact h
  · exact h.foldl fun _ _ _ h => by
      split
      · exact h
      · split
        · exact h
        · split
          · exact h
          · exact h.updColl.bump64.ite h.poisonColl

theorem Keeps.verdicts {wid : Nat} (h : Keeps F V s t) : Keeps F V s (t.verdicts wid) := by
  unfold State.verdicts
  split
  · exact h
  · split
    · exact h
    · dsimp only
      split
      · split
        · exact (h.foldl fun _ _ _ h => h.collSend).updColl.ite h
        · exact ((h.foldl fun _ _ _ h => h.collSend).updColl.ite h).endColl
      · exact (h.foldl fun _ _ _ h => h.collSend).updColl.ite h

theorem Keeps.readCounts {wid : Nat} (h : Keeps F V s t) : Keeps F V s (t.readCounts wid) := by
  unfold State.readCounts
  split
  · exact h
  · dsimp only
    split
    · exact h
    · exact h.accessing fun _ _ h => by
        split
        · exact h.noteRead.updColl.bump.ite h.noteRead.updColl.bump.emitFor
        · exact h.noteRead.updColl.bump

theorem Keeps.pumpColl {wid : Nat} (h : Keeps F V s t) : Keeps F V s (t.pumpColl wid) := by
  unfold State.pumpColl
  split
  · exact h
  · refine h.ite (h.asDie fun u v h => ?_)
    extract_lets +onlyGivenNames a
    refine h.readCounts.ite ?_
    extract_lets +onlyGivenNames c
    refine h.readCounts.sendJoins.verdicts.ite ?_
    extract_lets +onlyGivenNames d b
    have h : Keeps F V u b := h.readCounts.sendJoins.checkChunks.formOwn.ite h.readCounts.sendJoins.checkChunks.formOwn.useChunks
    clear_value b
    refine Keeps.verdicts ?_
    split
    · exact h.sendChunks.fillSlots.grantSlots.ite h.sendChunks.fillSlots.grantSlots.signalOut
    · exact h.sendChunks.fillSlots.grantSlots

theorem Keeps.pumpColls (h : Keeps F V s t) : Keeps F V s t.pumpColls := (h.ite h.sendOwed).foldl fun _ _ _ h => h.pumpColl

theorem Keeps.collFail {c : Coll} {ep st : Nat} (h : Keeps F V s t) : Keeps F V s (t.collFail c ep st) := by
  unfold State.collFail
  split
  · exact h
  · exact h.xactFail

theorem Keeps.collLost {ep : Nat} {inc : Option Nat} {st : Nat} (h : Keeps F V s t) : Keeps F V s (t.collLost ep inc st) := by
  unfold State.collLost
  exact h.same.foldl fun _ _ _ h => by
    split
    · split
      · exact h
      · exact (h.collFail.ite h).stallColl
    · exact h

/-! ### Operations of Machine/Coll -/

theorem Keeps.reCle (h : Keeps F V s t) : Keeps F V s t.reCle := by
  unfold State.reCle
  exact h.foldl fun _ _ _ h => by
    split
    · exact h
    · split
      · exact h.updColl.updWb
      · exact h.cancelWb

theorem Keeps.queueColl {w : Wb} {d : List Byte} {q : List (Nat × Nat)} {ns : Nat} (h : Keeps F V s t) :
    Keeps F V s (t.queueColl w d q ns) := by
  unfold State.queueColl
  dsimp only
  split
  · exact h.endWb
  · split
    · exact h.endWb
    · split
      · exact h.endWb
      · split
        · exact h.endWb
        · split
          · exact h.endWb
          · split
            · exact h.endWb
            · split
              · exact h.endWb
              · split
                · exact h.updWb.same.wake.preemptFor
                · exact h.updWb.same.wake

theorem Keeps.beginColl {wid op ns : Nat} (h : Keeps F False s t) : Keeps F False s (t.beginColl wid op ns) := by
  unfold State.beginColl
  split
  · exact h
  · extract_lets a o ended
    refine h.ite (h.checked fun u v h => ?_)
    split
    next e =>
    have h := h.prepareFor.snd e
    refine h.ite ?_
    extract_lets s1 d
    have done {v x : State} (h : Keeps F False u v) (e : ended v = some x) : Keeps F False u x := by
      unfold ended at e
      split at e
      · obtain ⟨-, e⟩ := Option.ite_none_right_eq_some.1 e
        cases e
        exact h.endWb
      · cases e
        exact h
    have h : Keeps F False u s1 := h.noteRead
    clear_value s1 ended
    split
    next e => exact done h e
    · refine (h.endWb.ite h.endWb).ite ?_
      split
      next e =>
      have h := h.prepareFor.snd e
      refine h.ite ?_
      extract_lets s3
      have h : Keeps F False u s3 := h.noteRead
      clear_value s3
      split
      next e => exact done h e
      · exact h.queueColl

theorem Keeps.collOpenStep {wid : Nat} (h : Keeps F V s t) : Keeps F V s (collOpenStep wid t) := by
  unfold Machine.collOpenStep
  split
  · split
    · exact h
    · split
      · exact h.dropColl.endWb
      · dsimp only
        split
        · exact h.startWb.updColl.signal.updColl.pumpColl.examine
        · exact h.startWb.updColl.pumpColl.examine
  · exact h

theorem Keeps.onColl {port : Option Nat} {kind : Nat → Bool} {f : Coll → Nat → Msg → State → State} (h : Keeps F V s t)
    (k : ∀ u v c i m, Keeps F V u v → Keeps F V u (f c i m v)) : Keeps F V s (t.onColl port kind f) := by
  unfold State.onColl
  split
  · exact h
  next e =>
    have h := h.takeMsg e
    dsimp only
    split
    · exact h.bump
    · split
      · exact h.bump
      · split
        · exact h.bump
        · exact h.ite (k _ _ _ _ _ h).pumpColl.examine

theorem Keeps.joinResendStep {wid : Nat} (h : Keeps F V s t) : Keeps F V s (joinResendStep wid t) := by
  unfold Machine.joinResendStep
  split
  · exact h
  · split
    · exact h
    · exact (h.foldl fun _ _ _ h => h.ite h.sendJoin).pumpColl

theorem Keeps.addRx {c : Coll} {i : Nat} {m : Msg} {f : RxChunk → RxChunk} (h : Keeps F V s t) : Keeps F V s (t.addRx c i m f) := by
  unfold State.addRx
  split
  · split
    · exact h.bump
    · exact h.updColl

theorem Keeps.collStepTimeoutStep {wid i : Nat} (h : Keeps F V s t) : Keeps F V s (collStepTimeoutStep wid i t) := by
  unfold Machine.collStepTimeoutStep
  split
  · exact h
  · split
    · exact h
    · split
      · exact h.stallColl.examine
      · exact h

theorem Keeps.collPoisonTimeoutStep {wid : Nat} (h : Keeps F V s t) : Keeps F V s (collPoisonTimeoutStep wid t) := by
  unfold Machine.collPoisonTimeoutStep
  split
  · exact h
  · split
    · exact h.endColl
    · exact h

theorem Keeps.cleCtrClrStep {i : Nat} (h : Keeps F V s t) : Keeps F V s (cleCtrClrStep i t) := h.zeroRegs.ite h

/-! ### Operations of Machine/Settle -/

theorem Keeps.record {w : Wb} (h : Keeps F V s t) : Keeps F V s (t.record w) := h.dropWb.ite h.updWb.writeRec

theorem Keeps.swapOut {p : Nat} (h : Keeps F V s t) : Keeps F V s (t.swapOut p).2 := by
  unfold State.swapOut
  split
  · exact h
  · extract_lets wids copies _ _ v mine stuck v' left
    have k : Keeps F V s v := by
      unfold v
      split
      · exact h
      · exact h.same
    clear_value v
    have k' : Keeps F V s v' := k.foldl fun _ _ _ h => h.updPage.markAll.same
    clear_value v'
    split
    · exact k'
    · split
      · exact k'.emit
      · exact k'

theorem Keeps.writeEnds (h : Keeps F V s t) : Keeps F V s t.writeEnds := by
  unfold State.writeEnds
  exact h.foldl fun _ _ _ h => by
    split
    · exact h
    · split
      next e =>
        have k1 := h.swapOut.snd e
        split
        · exact k1
        · dsimp only
          split
          · exact (k1.same.ite k1).updWb.record
          · exact (k1.same.ite k1).updWb

theorem Keeps.endEvicts (h : Keeps F V s t) : Keeps F V s t.endEvicts := by
  unfold State.endEvicts
  exact h.foldl fun _ _ _ h => by
    split
    · exact h
    · split
      · exact h
      · exact h.ite h.updPart.setFld.setFld.emit

theorem Keeps.closeConsists (h : Keeps F V s t) : Keeps F V s t.closeConsists :=
  ((h.same.foldl fun _ _ _ h => h.dropPredict.same).foldl fun _ _ _ h => h.endSusps.ite h).endEvicts

theorem Keeps.passAll (h : Keeps F V s t) : Keeps F V s t.passAll := h.foldl fun _ _ _ h => h.foldl fun _ _ _ h => h.ite h.passInst

theorem Keeps.settle (h : Keeps F V s t) : Keeps F V s t.settle :=
  h.writeEnds.settleTakings.closeConsists.parkColls.settleTakings.passAll.serveXfes.serveCdes.settleTakings.pumpColls.examine

/-! ### Operations of Machine/RunOps -/

theorem Keeps.runWrite {wid a : Nat} {bs : List Byte} {bad : List (Nat × Nat)} {poison : Bool} (h : Keeps F V s t) :
    Keeps F V s (t.runWrite wid a bs bad poison) := by
  unfold State.runWrite
  split
  next bs' v e =>
    refine Keeps.writeBytes ?_
    split at e
    · cases e
      exact h.freeBytes
    · cases e
      exact h

theorem Keeps.runWriteRow {wid : Nat} {rs : List (Nat × Nat)} {bs : List Byte} {bad : List (Nat × Nat)} {poison : Bool}
    (h : Keeps F V s t) : Keeps F V s (t.runWriteRow wid rs bs bad poison) :=
  h.foldlSnd fun _ _ _ h => h.runWrite

theorem Keeps.freeWords {dep : Nat → Bool} {xs : List (Option Word)} (h : Keeps F V s t) : Keeps F V s (t.freeWords dep xs).2 := by
  unfold State.freeWords
  exact h.same

theorem Keeps.updInst {wid i : Nat} {f : RunInst → RunInst} (h : Keeps F V s t) : Keeps F V s (t.updInst wid i f) := h.updRun

theorem Keeps.noteStepMarks {k : EngKind} {i : Nat} {w : Wb} {m : Marks} (h : Keeps False V s t) :
    Keeps False V s (t.noteStepMarks k i w m) := by
  unfold State.noteStepMarks
  extract_lets +onlyGivenNames _ v1
  have k1 : Keeps False V s v1 := by
    unfold v1
    exact h.noteMarks.foldl fun _ _ _ h => by
      split
      · exact h.setFld
      · exact h
  clear_value v1
  exact k1.notePoison.ite k1

theorem Keeps.waitAt {wid : Nat} {k : EngKind} {x : RunInst} {pos : Nat} (h : Keeps F V s t) : Keeps F V s (t.waitAt wid k x pos) :=
  h.ite h.updInst.updRun.bump

theorem Keeps.advancePos {wid : Nat} {x : RunInst} {c : RunCtx} (h : Keeps F V s t) : Keeps F V s (t.advancePos wid x c) := by
  unfold State.advancePos
  split
  · exact h.updInst.arrive

theorem Keeps.endRun {r1 : Run} (h : Keeps F V s t) : Keeps F V s (t.endRun r1) := by
  unfold State.endRun
  split
  · exact h
  · exact h.endWb

theorem Keeps.instDone {wid : Nat} {k : EngKind} {i : Nat} (h : Keeps F V s t) : Keeps F V s (t.instDone wid k i) := by
  unfold State.instDone
  extract_lets +onlyGivenNames _ v1
  have k1 : Keeps F V s v1 := h.updInst.setUse.holdBallast.ite h.updInst.setUse
  clear_value v1
  split
  · exact k1
  · exact ((k1.ite k1.dropCopy).endRun.ite (k1.ite k1.dropCopy)).settle

theorem Keeps.noteQuant {wid die part : Nat} {q : QCount} (h : Keeps F V s t) : Keeps F V s (t.noteQuant wid die part q) :=
  h.ite h.bump64.bump64.updRun.same

theorem Keeps.noteLane {r1 : Run} {k : EngKind} {i n unit : Nat} (h : Keeps F V s t) : Keeps F V s (t.noteLane r1 k i n unit) := by
  unfold State.noteLane
  split
  · exact h
  · exact h.bump.updRun.ite h.bump.updRun.same.updRun

theorem Keeps.runReads {r1 : Run} {k : EngKind} {i : Nat} {l : List (Nat × Nat)} (h : Keeps F V s t) :
    Keeps F V s (t.runReads r1 k i l) :=
  h.noteReads.foldl fun _ _ _ h => h.noteLane

theorem Keeps.closeRun {wid : Nat} (h : Keeps F V s t) : Keeps F V s (t.closeRun wid) := by
  unfold State.closeRun
  split
  · dsimp only
    split
    · split
      · exact h.emitFor.emitFor.dropRun
      · exact h.emitFor.dropRun
    · split
      · exact h.emitFor.dropRun
      · exact h.dropRun
  · exact h.dropRun

/-! ### Operations of Machine/Complete -/

theorem Keeps.nopStep {wid : Nat} (h : Keeps F V s t) : Keeps F V s (nopStep wid t) := by
  unfold Machine.nopStep
  split
  · exact h
  · exact h.endWb

theorem Keeps.finish {w : Wb} (h : Keeps F V s t) : Keeps F V s (t.finish w) := by
  unfold State.finish
  extract_lets +onlyGivenNames _ _ _ v1
  have k1 : Keeps F V s v1 := by
    unfold v1
    split
    · exact (h.updWb.ite h).faultEvent.closeRun.updConsist.updPart
    · exact (h.updWb.ite h).faultEvent.closeRun
  clear_value v1
  dsimp only
  split
  · exact k1.signal.ite k1
  · split
    · exact k1.signal.updWb.ite k1.signal.record
    · exact k1.updWb.ite k1.record

theorem Keeps.waybillCompleteStep {wid : Nat} (h : Keeps F V s t) : Keeps F V s (waybillCompleteStep wid t) := by
  unfold Machine.waybillCompleteStep
  split
  · exact h
  · split
    · exact h.ite h.finish.settle
    · split
      · exact h
      · dsimp only
        split
        · exact h.endWb.finish.settle
        · exact h.endWb

/-! ### Operations of Machine/Theodolite -/

theorem Keeps.updThd {die slot : Nat} {f : ThdEntry → ThdEntry} (h : Keeps F V s t) : Keeps F V s (t.updThd die slot f) := h.same

theorem Keeps.thdEntry {die part dig : Nat} (h : Keeps F V s t) : Keeps F V s (t.thdEntry die part dig).2 := by
  unfold State.thdEntry
  dsimp only
  split
  · exact h
  · split
    · exact h.same
    · split
      · exact h
      · exact h.same.emit

theorem Keeps.offerCheck {r1 : Run} {die pos bytes : Nat} {pairs : List (Word × DWord)} (h : Keeps F V s t) :
    Keeps F V s (t.offerCheck r1 die pos bytes pairs) := by
  unfold State.offerCheck
  dsimp only
  split
  · exact h
  · split
    · exact h.thdEntry.updThd
    · exact h.thdEntry.updThd.ite h.same

theorem Keeps.theodoliteCheckDoneStep {b : CheckRead} (h : Keeps False V s t) : Keeps False V s (theodoliteCheckDoneStep b t) := by
  unfold Machine.theodoliteCheckDoneStep
  dsimp only
  split
  · exact h
  · split
    · exact h.noteMarks.same
    · split
      · exact h.noteMarks.same.thdEntry.updThd
      · split
        · exact h.noteMarks.same.thdEntry.updThd
        · exact h.noteMarks.same.thdEntry.updThd.updThd.emit.ite h.noteMarks.same.thdEntry.updThd

theorem Keeps.thdClrEntryStep {die : Nat} (h : Keeps F V s t) : Keeps F V s (thdClrEntryStep die t) := h.ite h.same

theorem Keeps.thdClrAllStep {die : Nat} (h : Keeps F V s t) : Keeps F V s (thdClrAllStep die t) := h.ite h.same

/-! ### Operations of Machine/Mxe -/

theorem Keeps.putTile {wid i : Nat} {q : AccTile} (h : Keeps F V s t) : Keeps F V s (t.putTile wid i q) := h.updInst

theorem Keeps.firstFinish {r1 : Run} {c : RunCtx} {i : Nat} (h : Keeps F V s t) : Keeps F V s (t.firstFinish r1 c i) := by
  unfold State.firstFinish
  split
  · split
    · exact h
    · exact h.updInst.bump.ite h.updInst
  · exact h

theorem Keeps.sendNotice {r1 : Run} {c : RunCtx} {i pos : Nat} {ds : List Nat} {ranges : List (Nat × Nat)} (h : Keeps F V s t) :
    Keeps F V s (t.sendNotice r1 c i pos ds ranges) := by
  unfold State.sendNotice
  split
  · exact h.ite h.same
  · exact h

theorem Keeps.sendNotices {inst n : Nat} (h : Keeps F V s t) : Keeps F V s (t.sendNotices inst n) := by
  induction n generalizing t with
  | zero => exact h
  | succ n ih =>
    rw [State.sendNotices]
    split
    · exact h
    · exact ih h.same

theorem Keeps.mxeEnd {wid i : Nat} (h : Keeps F V s t) : Keeps F V s (t.mxeEnd wid i) := by
  unfold State.mxeEnd
  dsimp only
  split
  · exact h.sendNotices
  · exact h.sendNotices.ite h.sendNotices.instDone

theorem Keeps.finishTile {r1 : Run} {c : RunCtx} {i pos : Nat} {ds : List Nat} {q : AccTile} {byStep : Bool} (h : Keeps F V s t) :
    Keeps F V s (t.finishTile r1 c i pos ds q byStep) :=
  h.updInst.firstFinish.offerCheck.ite h.updInst.firstFinish

theorem Keeps.finishDead {r1 : Run} {c : RunCtx} {i pos : Nat} {ds : List Nat} (h : Keeps F V s t) :
    Keeps F V s (t.finishDead r1 c i pos ds) :=
  h.firstFinish.sendNotice

theorem Keeps.mxeRun {r1 : Run} {x : RunInst} {c : RunCtx} {w : Wb} {ds : List Nat} {q : AccTile} {cycles ns : Nat} {m : Marks}
    (h : Keeps False False s t) : Keeps False False s (t.mxeRun r1 x c w ds q cycles ns m) := by
  unfold State.mxeRun
  extract_lets i die reads pos take l bytes
  split
  next e =>
    have k := h.prepareFor.snd e
    split
    · exact k.waitAt
    · extract_lets s2 bad rows cols ar br prods refs q s3 s4 s5 outl s6 s7
      have k : Keeps False False s s3 := k.noteStepMarks.runReads.putTile
      clear_value s3
      have k : Keeps False False s s5 := (k.foldl fun _ _ _ h => h.noteQuant).foldl fun _ _ _ h => h.noteLane
      clear_value s5
      have k : Keeps False False s s7 := k.bump.bump64.bump64.chargeWb.advancePos
      clear_value s7
      exact k.finishTile.ite k

theorem Keeps.mxeSkip {r1 : Run} {x : RunInst} {c : RunCtx} {ds : List Nat} (h : Keeps F V s t) :
    Keeps F V s (t.mxeSkip r1 x c ds) := by
  unfold State.mxeSkip
  dsimp only
  split
  · split
    · exact h
    · exact h.bump64.advancePos.finishTile
  · exact h.bump64.advancePos.finishDead.ite h.bump64.advancePos

theorem Keeps.mxeStepStep {inst cycles ns : Nat} {m : Marks} (h : Keeps False False s t) :
    Keeps False False s (mxeStepStep inst cycles ns m t) := by
  unfold Machine.mxeStepStep
  split
  · exact h
  next r x _ =>
    split
    · exact h
    · extract_lets c next on zero ds run
      refine h.ite (Keeps.ite (Keeps.mxeEnd ?_) (h.mxeEnd.ite (Keeps.mxeEnd ?_)))
      · unfold zero
        split
        · exact h.updInst
        · refine h.updInst.finishDead.ite ?_
          split
          · exact h
          · exact h.updInst.finishTile
      · unfold run
        refine h.mxeSkip.ite ?_
        split
        · exact h
        · exact h.mxeRun

theorem Keeps.freeRow {c : RunCtx} {d : RowDep} {o : RowSt} (h : Keeps F V s t) : Keeps F V s (t.freeRow c d o).2 := by
  unfold State.freeRow
  exact h.same.same

theorem Keeps.mxeEpiRow {r1 : Run} {x : RunInst} {c : RunCtx} {q : AccTile} {die row : Nat} (h : Keeps F V s t) :
    Keeps F V s (t.mxeEpiRow r1 x c q die row).2 := by
  unfold State.mxeEpiRow
  split
  · split
    · exact h
    · exact h.same.same
  · split
    · exact h
    · exact h.same.same

theorem Keeps.writeRows {r1 : Run} {c : RunCtx} {k : EngKind} {i : Nat} {ds : List Nat} {poison : Bool} {rows : List RowWrite}
    (h : Keeps F V s t) : Keeps F V s (t.writeRows r1 c k i ds poison rows) :=
  h.foldl fun _ _ _ h => (h.runWriteRow.foldl fun _ _ _ h => h.writeBytes).noteQuant.ite
    (h.runWriteRow.foldl fun _ _ _ h => h.writeBytes).noteQuant.bump.updRun

theorem Keeps.epilogueDrainDoneStep {inst cycles ns : Nat} {m : Marks} (h : Keeps False False s t) :
    Keeps False False s (epilogueDrainDoneStep inst cycles ns m t) := by
  unfold Machine.epilogueDrainDoneStep
  split
  · exact h
  · split
    · dsimp only
      refine h.prepareFor.waitAt.ite ?_
      refine Keeps.mxeEnd (Keeps.chargeWb (Keeps.bump64 (Keeps.sendNotice (Keeps.updInst (Keeps.writeRows (Keeps.runReads ?_))))))
      exact Keeps.foldlSnd h.prepareFor.noteStepMarks fun _ _ _ h => h.mxeEpiRow
    · exact h

theorem Keeps.tileNoticeStep {inst : Nat} (h : Keeps F V s t) : Keeps F V s (tileNoticeStep inst t) := by
  unfold Machine.tileNoticeStep
  split
  · exact h
  · dsimp only
    split
    · exact h.same
    · exact h.same.pumpColls.ite h.same

theorem Keeps.mxeCtrClrStep {i : Nat} (h : Keeps F V s t) : Keeps F V s (mxeCtrClrStep i t) := h.ite h.zeroRegs

theorem Keeps.mxeNfClrStep {i : Nat} (h : Keeps F V s t) : Keeps F V s (mxeNfClrStep i t) := h.ite h.zeroRegs

/-! ### Operations of Machine/Vxe -/

theorem Keeps.vxeEpiRow {r : Run} {x : RunInst} {c : RunCtx} {q : AccTile} {die k : Nat} (h : Keeps F V s t) :
    Keeps F V s (t.vxeEpiRow r x c q die k).2.2.2 := by
  unfold State.vxeEpiRow
  dsimp only
  split
  · exact h
  · exact h.freeRow.same

theorem Keeps.vxeFinish {r : Run} {x : RunInst} {c : RunCtx} {q : AccTile} {poison : Bool} (h : Keeps F V s t) :
    Keeps F V s (t.vxeFinish r x c q poison) := by
  have k := Keeps.foldlBy (l := rowsOf c q.digits 1) (b := ([], 0, 0, t)) (f := fun (p : List RowWrite × Nat × Nat × State) k =>
    let (o, cl, e, s) := p.2.2.2.vxeEpiRow r x c q (dieOf .vxe x.inst).2 k
    (p.1 ++ [o], p.2.1 + cl, p.2.2.1 + (if e then 1 else 0), s)) (·.2.2.2) h fun _ _ _ h => h.vxeEpiRow
  exact (k.foldl fun _ _ _ h => h.noteLane).bump.bump.writeRows.updInst

theorem Keeps.vecEnd {wid : Nat} {k : EngKind} {i : Nat} (h : Keeps F V s t) : Keeps F V s (t.vecEnd wid k i) := by
  unfold State.vecEnd
  split
  · exact h
  · exact h.ite h.instDone

theorem Keeps.vxeGo {r1 : Run} {x : RunInst} {c : RunCtx} {w : Wb} {ds : List Nat} {runs fin : Bool} {m : Marks}
    (h : Keeps False False s t) : Keeps False False s (t.vxeGo r1 x c w ds runs fin m).2 := by
  unfold State.vxeGo
  extract_lets i reads writes
  split
  next e =>
    have k := h.prepareFor.snd e
    split
    · exact k.waitAt
    · extract_lets s2 t0 rows q s3
      have k : Keeps False False s s3 := k.noteStepMarks.runReads.foldl fun _ _ _ h => h.noteLane
      clear_value s3
      exact k.vxeFinish.ite k.putTile

theorem Keeps.vxeStepStep {inst cycles ns : Nat} {m : Marks} (h : Keeps False False s t) :
    Keeps False False s (vxeStepStep inst cycles ns m t) := by
  unfold Machine.vxeStepStep
  split
  · exact h
  · split
    · exact h
    · extract_lets c next on ds runs fin v
      have kon {u : State} (k : Keeps False False s u) : Keeps False False s (on u) := k.updInst
      clear_value on
      suffices k : Keeps False False s v from k.vecEnd
      unfold v
      split
      · split
        · exact kon h
        · refine (kon h).ite ?_
          split
          next e => exact (kon (h.vxeGo.snd e)).ite (h.vxeGo.snd e)
      · refine h.ite ?_
        split
        next u e =>
          have k : Keeps False False s u := by
            split at e
            · exact h.vxeGo.snd e
            · cases e
              exact h
          exact k.ite (k.bump64.bump64.chargeWb.advancePos.ite k.bump64.advancePos)

theorem Keeps.vxeCtrClrStep {i : Nat} (h : Keeps F V s t) : Keeps F V s (vxeCtrClrStep i t) := h.ite h.zeroRegs

/-! ### Operations of Machine/Cve -/

theorem Keeps.cveWrite {r1 : Run} {x : RunInst} {c : RunCtx} {ds : List Nat} {q : Nat} {bad : List (Nat × Nat)} {poison : Bool} {o : RowSt}
    (h : Keeps F V s t) : Keeps F V s (t.cveWrite r1 x c ds q bad poison o) := by
  unfold State.cveWrite
  dsimp only
  split
  · exact h.foldl fun _ _ _ h => h.runWriteRow.bump.bump.updRun
  · exact (h.foldl fun _ _ _ h => h.runWriteRow.bump.bump.updRun).writeBytes

theorem Keeps.cveFinish {r : Run} {x : RunInst} {c : RunCtx} {a : AccTile} (h : Keeps F V s t) :
    Keeps F V s (t.cveFinish r x c a) := by
  unfold State.cveFinish
  dsimp only
  refine Keeps.updInst (Keeps.foldl ?_ fun _ _ _ h => h.cveWrite)
  refine Keeps.foldlSnd h fun _ _ _ h => ?_
  split
  · exact h
  · dsimp only
    exact h.freeRow

theorem Keeps.cveGo {r1 : Run} {x : RunInst} {c : RunCtx} {w : Wb} {ds : List Nat} {runs fin : Bool} {m : Marks}
    (h : Keeps False False s t) : Keeps False False s (t.cveGo r1 x c w ds runs fin m).2 := by
  unfold State.cveGo
  extract_lets i reads writes
  split
  next e =>
    have k := h.prepareFor.snd e
    split
    · exact k.waitAt
    · extract_lets s2 t0 q sat s3
      have k : Keeps False False s s3 := k.noteStepMarks.runReads.bump.bump64.updRun
      clear_value s3
      exact k.cveFinish.ite k.putTile

theorem Keeps.cveStepStep {inst cycles ns : Nat} {m : Marks} (h : Keeps False False s t) :
    Keeps False False s (cveStepStep inst cycles ns m t) := by
  unfold Machine.cveStepStep
  split
  · exact h
  · split
    · exact h
    · dsimp only
      split
      · exact h.vecEnd
      · split
        · exact (h.cveGo.ite (h.cveGo.bump64.bump64.chargeWb.advancePos.ite h.cveGo.bump64.advancePos)).vecEnd
        · exact (h.ite (h.bump64.bump64.chargeWb.advancePos.ite h.bump64.advancePos)).vecEnd

theorem Keeps.cveCtrClrStep {i : Nat} (h : Keeps F V s t) : Keeps F V s (cveCtrClrStep i t) := h.ite h.zeroRegs

/-! ### Operations of Machine/Power -/

theorem Keeps.rampDown (h : Keeps F V s t) : Keeps F V s t.rampDown := h.ite h.same

theorem Keeps.moveBallast (h : Keeps F V s t) : Keeps F V s t.moveBallast := by
  unfold State.moveBallast
  extract_lets +onlyGivenNames _ a w rise keep fall _ b
  have k : Keeps F V s a := h.ite h.same
  clear_value a rise fall
  have k : Keeps F V s b := by
    unfold b
    split
    · exact k.ite k.same
    · exact k
  clear_value b
  split
  · split
    · exact k
    · exact k.same
  · exact k

theorem Keeps.governorEvalStep {iin vin : Nat} (h : Keeps F V s t) : Keeps F V s (governorEvalStep iin vin t) :=
  h.ite h.measure.same.raiseSteps.rampDown.moveBallast.brownReport

theorem Keeps.brownoutStep {vin iin : Nat} (h : Keeps F V s t) : Keeps F V s (brownoutStep vin iin t) := by
  unfold Machine.brownoutStep
  split
  · exact h
  · split
    · exact h.same
    · dsimp only
      split
      · exact h.same.emit.bump.emit.same.raiseSteps
      · exact h.bump.emit.same.raiseSteps

theorem Keeps.brownoutReleaseLevelStep {rise : Bool} {vin : Nat} (h : Keeps F V s t) :
    Keeps F V s (brownoutReleaseLevelStep rise vin t) := by
  unfold Machine.brownoutReleaseLevelStep
  split
  · exact h
  · exact h.same

theorem Keeps.brownoutEndStep (h : Keeps F V s t) : Keeps F V s (brownoutEndStep t) := by
  unfold Machine.brownoutEndStep
  split
  · exact h
  · exact h.ite h.same.brownReport

theorem Keeps.currentLimitStep {iin vin : Nat} (h : Keeps F V s t) : Keeps F V s (currentLimitStep iin vin t) := by
  unfold Machine.currentLimitStep
  split
  · exact h
  · split
    · exact h.same
    · exact h.same.raiseSteps

theorem Keeps.ilimReleaseStep (h : Keeps F V s t) : Keeps F V s (ilimReleaseStep t) := by
  unfold Machine.ilimReleaseStep
  split
  · exact h
  · exact h.ite h.same.emit

theorem Keeps.dieHotStep {die : Nat} {temp : Int} (h : Keeps F V s t) : Keeps F V s (dieHotStep die temp t) :=
  h.ite h.same.setReg.raiseSteps

theorem Keeps.flowLowStep (h : Keeps F V s t) : Keeps F V s (flowLowStep t) := h.ite h.emit.same.setFld.raiseSteps

theorem Keeps.flowReleaseStep (h : Keeps F V s t) : Keeps F V s (flowReleaseStep t) := h.same

theorem Keeps.leakStep {asserted : Bool} (h : Keeps F V s t) : Keeps F V s (leakStep asserted t) := h.ite h.same.emit.raiseSteps

theorem Keeps.sensorRefFailStep {die : Nat} {reading : Int} (h : Keeps F V s t) : Keeps F V s (sensorRefFailStep die reading t) :=
  h.ite h.emit.same.raiseSteps

theorem Keeps.sensorRefPassStep {die : Nat} (h : Keeps F V s t) : Keeps F V s (sensorRefPassStep die t) := h.same

theorem Keeps.ballastHoldExpireStep {mxe : Nat} (h : Keeps F V s t) : Keeps F V s (ballastHoldExpireStep mxe t) := h.same

theorem Keeps.pwrStatClrStep (h : Keeps F V s t) : Keeps F V s (pwrStatClrStep t) := h.ite h.setFld.setFld.zeroRegs

/-! ### Operations of Machine/Fabric -/

theorem Keeps.portEnableStep {n : Nat} (h : Keeps F V s t) : Keeps F V s (portEnableStep n t) := by
  unfold Machine.portEnableStep
  split
  · exact h
  · dsimp only
    split
    · exact h.setFld.wake.same
    · exact h.setFld.wake.ite h.setFld.wake.updPort

theorem Keeps.portDisableStep {n : Nat} (h : Keeps F V s t) : Keeps F V s (portDisableStep n t) := by
  unfold Machine.portDisableStep
  split
  · exact h
  · dsimp only
    split
    · exact h.setFld
    · split
      · exact h.setFld
      · exact h.setFld.updPort.updPort.ite h.setFld.updPort.portDown

theorem Keeps.portRetrainStep {n : Nat} (h : Keeps F V s t) : Keeps F V s (portRetrainStep n t) := by
  unfold Machine.portRetrainStep
  split
  · exact h
  · exact h.ite h.updPort.portDown

theorem Keeps.linkTrainedStep {n lanes : Nat} (h : Keeps F V s t) : Keeps F V s (linkTrainedStep n lanes t) := by
  unfold Machine.linkTrainedStep
  split
  · exact h
  · split
    · exact h
    · exact h.updPort.ite h.updPort

theorem Keeps.frameLockStep {n : Nat} (h : Keeps F V s t) : Keeps F V s (frameLockStep n t) := by
  unfold Machine.frameLockStep
  split
  · exact h
  · exact h.ite h.updPort.dropInbox.queueMsg

theorem Keeps.lockLostStep {n : Nat} (h : Keeps F V s t) : Keeps F V s (lockLostStep n t) := h.portDown.ite h

theorem Keeps.laneLostStep {n : Nat} (h : Keeps F V s t) : Keeps F V s (laneLostStep n t) := h.portDown.ite h

theorem Keeps.noAssignStep {n : Nat} (h : Keeps F V s t) : Keeps F V s (noAssignStep n t) := h.portDown.ite h

theorem Keeps.ackTimeoutStep {n : Nat} (h : Keeps F V s t) : Keeps F V s (ackTimeoutStep n t) := h.portDown.ite h

theorem Keeps.changeEp {ep : Nat} (h : Keeps F V s t) : Keeps F V s (t.changeEp ep) :=
  (h.failTxns.foldl fun _ _ _ h => h.collLost).same.emit

theorem Keeps.assignStep {port : Option Nat} (h : Keeps F V s t) : Keeps F V s (assignStep port t) := by
  unfold Machine.assignStep
  split
  next e =>
    have k1 := h.takeMgt e
    split
    · exact k1.misroute
    · split
      · exact k1
      · split
        · exact k1
        · extract_lets +onlyGivenNames _ _ _ _ _ _ _ v2
          have k2 : Keeps F V s v2 := (k1.changeEp.ite k1).same.updPort.emit
          clear_value v2
          split
          · exact k1.updPort.emit
          · exact ((k2.foldl fun _ _ _ h => h.sendResolve).ite k2).pump.pumpColls
  · exact h

theorem Keeps.serve {port : Option Nat} {op rsp : Nat} {f : Msg → Nat → State → List Byte × Nat × State} (h : Keeps F V s t)
    (k : ∀ u v m a, Keeps F V u v → Keeps F V u (f m a v).2.2) : Keeps F V s (t.serve port op rsp f) := by
  unfold State.serve
  split
  · exact h
  next e =>
    have h := h.takeOp e
    split
    · exact h.misroute
    · split
      next e => exact (h.inbound.snd e).answer
      next e => exact (k _ _ _ _ (h.inbound.snd e)).answer

theorem Keeps.readStep {port : Option Nat} {m : Marks} (h : Keeps False V s t) : Keeps False V s (readStep port m t) := by
  refine h.serve fun u v m a h => ?_
  split
  · exact h.freeBytes
  · exact h.noteMarks.countPoison

theorem Keeps.writeStep {port : Option Nat} (h : Keeps F V s t) : Keeps F V s (writeStep port t) := by
  refine h.serve fun u v m a h => ?_
  split
  · exact h
  · exact h.writeChunks

theorem Keeps.atomic {b : PortRead} {op : Nat} {f : Nat → Nat → Nat → Option Nat} (h : Keeps F V s t) :
    Keeps F V s (t.atomic b op f) := by
  refine Keeps.seen ((h.weaken False.elim id).serve fun u v m a h => ?_)
  split
  · exact h.freeBytes
  · dsimp only
    split
    · exact h.noteMarks.countPoison.writeChunks
    · exact h.noteMarks.countPoison

theorem Keeps.landRead {q : Txn} {m : Msg} (h : Keeps F V s t) : Keeps F V s (t.landRead q m) := by
  unfold State.landRead
  split
  · exact h
  · exact h.writeChunks
  · split
    · exact h
    · split
      · exact h
      · dsimp only
        exact (h.foldl fun _ _ _ h => h.blur.same).ite (h.asBegun fun _ _ h => h.deliver)

theorem Keeps.response {port : Option Nat} {op : Nat} (h : Keeps F V s t) : Keeps F V s (t.response port op) := by
  unfold State.response
  split
  · exact h
  next e =>
    have k1 := h.takeOp e
    refine k1.misroute.ite (k1.bump.ite ?_)
    split
    · exact k1
    · split
      · extract_lets a b c
        have ka : Keeps F V s a := k1.dropTxn
        clear_value a
        have kb : Keeps F V s b := ka.notePoison.ite ka
        clear_value b
        have kc : Keeps F V s c := kb.landRead.ite kb
        clear_value c
        split
        · exact kc.endWb.pump
        · exact kc.pump
        · exact kc.pump
      · exact k1.peerGone.collLost.pump.ite k1.failTxn.pump

theorem Keeps.endWaiting {ep st : Nat} (h : Keeps F V s t) : Keeps F V s (t.endWaiting ep st) := h.failTxns

theorem Keeps.peerNew {ep old new : Nat} {told : Bool} (h : Keeps F V s t) : Keeps F V s (t.peerNew ep old new told) :=
  (h.same.peerEvent.ite h.same).failTxns

theorem Keeps.resolveRspStep {port : Option Nat} (h : Keeps F V s t) : Keeps F V s (resolveRspStep port t) := by
  unfold Machine.resolveRspStep
  split
  · exact h
  next e =>
    have k1 := h.takeMgt e
    split
    · exact k1.misroute
    · dsimp only
      split
      · exact k1
      · split
        · exact k1.updPeer.sendResolve.ite k1.updPeer
        · split
          · exact (k1.updPeer.updPeer.peerNew.ite k1.updPeer.updPeer).collLost.pump.pumpColls
          · exact (k1.updPeer.updPeer.peerEvent.ite k1.updPeer.updPeer).endWaiting.collLost.pump

theorem Keeps.resolveTimeoutStep {ep : Nat} (h : Keeps F V s t) : Keeps F V s (resolveTimeoutStep ep t) := by
  unfold Machine.resolveTimeoutStep
  split
  · exact h
  · exact h.ite h.same.endWaiting.collLost.pump

theorem Keeps.noticeStep {port : Option Nat} (h : Keeps F V s t) : Keeps F V s (noticeStep port t) := by
  unfold Machine.noticeStep
  split
  · exact h
  next e =>
    have k1 := h.takeMgt e
    split
    · exact k1.misroute
    · dsimp only
      split
      · exact k1
      · split
        · exact k1.updPeer.peerGone.collLost.pump
        · split
          · exact (k1.updPeer.updPeer.peerNew.ite k1.updPeer.updPeer).collLost.pump.pumpColls
          · exact k1.updPeer

theorem Keeps.fabTimeoutStep {tag : Nat} (h : Keeps F V s t) : Keeps F V s (fabTimeoutStep tag t) := by
  unfold Machine.fabTimeoutStep
  split
  · exact h
  · exact h.failTxn.pump

theorem Keeps.tagQuarantineEndStep {tag : Nat} (h : Keeps F V s t) : Keeps F V s (tagQuarantineEndStep tag t) := h.same.pump

theorem Keeps.vrlPortClrStep {n : Nat} (h : Keeps F V s t) : Keeps F V s (vrlPortClrStep n t) := h.zeroRegs.ite h

theorem Keeps.vrlCtrClrStep (h : Keeps F V s t) : Keeps F V s (vrlCtrClrStep t) := h.zeroRegs.ite h

/-! ### Operations of Machine/KvOps -/

theorem Keeps.updNode {p : Nat} {h1 : List Byte} {f : Node → Node} (h : Keeps F V s t) : Keeps F V s (t.updNode p h1 f) := h.same

theorem Keeps.dropNode {n : Node} (h : Keeps F V s t) : Keeps F V s (t.dropNode n) := h.same.ite h.same.updNode

theorem Keeps.addNode {wid : Nat} {n : Node} (h : Keeps F V s t) : Keeps F V s (t.addNode wid n) := by
  unfold State.addNode
  extract_lets +onlyGivenNames _ _ _ v1
  have k1 : Keeps F V s v1 := (h.same.ite h.same.updNode).bump64
  clear_value v1
  exact k1.emitFor.ite k1

theorem Keeps.kvRead {wid a n : Nat} (h : Keeps F V s t) : Keeps F V s (t.kvRead wid a n).2 := by
  unfold State.kvRead
  split
  · dsimp only
    split
    · exact h.noteRead
    · exact h.noteRead
  · dsimp only
    split
    · exact h.noteRead
    · exact h.noteRead

theorem Keeps.kvWrite {wid a : Nat} {bs : List Byte} (h : Keeps F V s t) : Keeps F V s (t.kvWrite wid a bs).2 := by
  unfold State.kvWrite
  exact h.writeBytes

theorem Keeps.countProbe {h1 : List Byte} {hit : Bool} (h : Keeps F V s t) : Keeps F V s (t.countProbe h1 hit) :=
  h.bump64.bump64.ite h.bump64

theorem Keeps.dropView {base : Nat} (h : Keeps F V s t) : Keeps F V s (t.dropView base) := h.endLeases.same

theorem Keeps.updJob {wid : Nat} {f : KvJob → KvJob} (h : Keeps F V s t) : Keeps F V s (t.updJob wid f) := h.same

theorem Keeps.kvEnd {j : KvJob} (h : Keeps F V s t) : Keeps F V s (t.kvEnd j) := by
  unfold State.kvEnd
  dsimp only
  split
  · exact h.same
  · exact h.same.endWb.settle

theorem Keeps.kvWritten {w : Wb} {j : KvJob} {result matched done : Nat} (h : Keeps F V s t) :
    Keeps F V s (t.kvWritten w j result matched done) := by
  unfold State.kvWritten
  dsimp only
  exact h.writeBytes.writeBytes.updJob.kvEnd.ite h.writeBytes.writeBytes.updJob.settle

/-! ### Operations of Machine/Kv -/

theorem Keeps.kvBegin {wid op : Nat} (h : Keeps F False s t) : Keeps F False s (t.kvBegin wid op) := by
  unfold State.kvBegin
  split
  · exact h
  · refine h.checked fun u v h => ?_
    extract_lets a n
    split
    next e1 =>
      have k1 := h.prepareFor.snd e1
      refine k1.ite ?_
      extract_lets ds side
      split
      next e2 =>
        have k2 := k1.prepareFor.snd e2
        refine k2.ite ?_
        extract_lets s3
        have k3 : Keeps F False u s3 := k2.noteRead
        clear_value s3
        split
        · exact h
        · refine k3.endWb.ite ?_
          split
          · exact k3.endWb
          · refine h.ite (k3.endWb.ite ?_)
            split
            · exact h
            · exact k3.same.updWb

theorem Keeps.kvRun {wid op ns : Nat} {f : Wb → KvJob → List Byte → State → State}
    (h : Keeps F False s t) (k : ∀ u v x0 x1 x2, Keeps F False u v → Keeps F False u (f x0 x1 x2 v)) :
    Keeps F False s (t.kvRun wid op ns f) := by
  unfold State.kvRun
  dsimp only
  split
  · exact h.kvBegin
  · split
    · exact h.kvBegin.prepareFor
    · exact k _ _ _ _ _ (h.kvBegin.prepareFor.ite h.kvBegin.prepareFor.startWb).chargeWb

/-! ### Operations of Machine/KvOps -/

section

variable {k : KvRun} {wid p : Nat} {d b : List Byte}

theorem Keeps.hashed (h : Keeps F V s k.s) : Keeps F V s (k.hashed wid d).2.s := by
  unfold KvRun.hashed
  split
  next e => exact h.kvRead.snd e
  next e =>
    dsimp only
    split
    · exact h.kvRead.snd e
    · exact (h.kvRead.snd e).kvWrite

theorem Keeps.nextBlock (h : Keeps F V s k.s) : Keeps F V s (k.next b).s := by
  unfold KvRun.next
  split
  · exact h
  · exact h

theorem Keeps.found {n : Node} (h : Keeps F V s k.s) : Keeps F V s (k.found wid d n).s := by
  unfold KvRun.found
  split
  · exact h
  · extract_lets aon v
    have h : Keeps F V s v := h.updNode
    clear_value v
    dsimp only
    split
    · exact h.kvWrite
    · exact h.kvWrite

theorem Keeps.hashBlock (h : Keeps F V s k.s) : Keeps F V s (k.hashBlock wid d).s := h.hashed.nextBlock

theorem Keeps.lookupBlock (h : Keeps F V s k.s) : Keeps F V s (k.lookupBlock wid p d).s := by
  unfold KvRun.lookupBlock
  split
  next e =>
    have h := h.hashed (wid := wid) (d := d)
    rw [e] at h
    split
    · exact h
    · split
      · exact h.nextBlock
      · dsimp only
        split
        · exact Keeps.nextBlock h.countProbe
        · exact Keeps.nextBlock (Keeps.found h.countProbe)

theorem Keeps.createNode (h : Keeps F V s k.s) : Keeps F V s (k.create wid p d b).s := by
  unfold KvRun.create
  split
  next e => exact h.kvRead.snd e
  next e =>
    have h := h.kvRead.snd e
    dsimp only
    split
    · exact h.addNode
    · split
      · exact h
      · split
        · exact h
        · split
          · exact h.same.dropNode.bump.kvWrite.addNode
          · exact h.same.dropNode.bump.kvWrite

theorem Keeps.insertBlock (h : Keeps F V s k.s) : Keeps F V s (k.insertBlock wid p d).s := by
  unfold KvRun.insertBlock
  split
  next e =>
    have h := h.hashed (wid := wid) (d := d)
    rw [e] at h
    split
    · exact h
    · dsimp only
      split
      · exact Keeps.nextBlock (Keeps.found h.countProbe)
      · exact Keeps.nextBlock (Keeps.createNode h.countProbe)

theorem Keeps.listEntry {remove : Bool} (h : Keeps F V s k.s) : Keeps F V s (k.listEntry wid p d remove).s := by
  unfold KvRun.listEntry
  split
  next e => exact h.kvRead.snd e
  next e =>
    have h := h.kvRead.snd e
    dsimp only
    split
    · exact h
    · split
      · split
        · exact h
        · exact Keeps.nextBlock h.dropNode
      · split
        · exact h
        · exact Keeps.nextBlock h.updNode

theorem Keeps.kvLoop {f : KvRun → KvRun} (kf : ∀ k : KvRun, Keeps F V s k.s → Keeps F V s (f k).s) {n : Nat} (h : Keeps F V s k.s) :
    Keeps F V s (kvLoop f n k).s := by
  induction n generalizing k with
  | zero => exact h
  | succ n ih =>
    rw [Machine.kvLoop]
    split
    · exact ih (kf k h)
    · exact kf k h

theorem Keeps.kvExec (h : Keeps F V s t) : Keeps F V s (t.kvExec wid p d).s := by
  have h : Keeps F V s (kvFresh t d).s := h
  unfold State.kvExec
  extract_lets k n
  split
  · exact h.kvLoop fun _ h => h.hashBlock
  · exact h.kvLoop fun _ h => h.lookupBlock
  · split
    · exact h
    · exact h.kvLoop fun _ h => h.insertBlock
  · exact h.kvLoop fun _ h => h.listEntry
  · exact h.kvLoop fun _ h => h.listEntry

theorem Keeps.viewOpenExec (h : Keeps F V s t) : Keeps F V s (t.viewOpenExec wid p d).s := by
  unfold State.viewOpenExec
  dsimp only
  split
  next e => exact h.kvRead.snd e
  next e =>
    have h := h.kvRead.snd e
    split
    next e =>
      split at e
      · cases e
      · exact h.kvRead.snd e
    next v e =>
      have h : Keeps F V s v := by
        split at e
        · cases e
          exact h
        · exact h.kvRead.snd e
      split
      · exact h
      · split
        · exact h
        · split
          · exact h
          · exact h.same

end

/-! ### Operations of Machine/Kv -/

theorem Keeps.kvOpStep {wid op ns : Nat} (h : Keeps F False s t) : Keeps F False s (kvOpStep wid op ns t) :=
  h.kvRun fun _ _ _ _ _ h => h.kvExec.kvWritten

theorem Keeps.viewOpenStep {wid ns : Nat} (h : Keeps F False s t) : Keeps F False s (viewOpenStep wid ns t) :=
  h.kvRun fun _ _ _ _ _ h => h.viewOpenExec.kvWritten

theorem Keeps.viewCloseStep {wid ns : Nat} (h : Keeps F False s t) : Keeps F False s (viewCloseStep wid ns t) :=
  h.kvRun fun _ _ _ _ _ h => h.kvWritten.ite (h.same.updJob.ite h.dropView.kvWritten)

theorem Keeps.viewCloseDoneStep {wid : Nat} (h : Keeps F V s t) : Keeps F V s (viewCloseDoneStep wid t) := by
  unfold Machine.viewCloseDoneStep
  split
  · split
    · exact h
    · split
      · exact h
      · exact h.accessing fun _ _ h => h.dropView.kvWritten
  · exact h

theorem Keeps.viewReadStep {wid a n : Nat} {m : Marks} (h : Keeps False False s t) :
    Keeps False False s (viewReadStep wid a n m t) := by
  unfold Machine.viewReadStep
  split
  · split
    · exact h
    · split
      next e =>
        have k1 := h.prepareFor.snd e
        split
        · exact k1
        · dsimp only
          split
          · split
            · exact (k1.noteMarks.notePoison.ite k1.noteMarks).runReads.same
            · exact (k1.noteMarks.notePoison.ite k1.noteMarks).noteRead.same
          · exact (k1.noteMarks.notePoison.ite k1.noteMarks).noteRead.same
  · exact h

theorem Keeps.gazEnableStep {i : Nat} {w : Word} (h : Keeps F V s t) : Keeps F V s (gazEnableStep i w t) := by
  unfold Machine.gazEnableStep
  split
  · exact h
  · extract_lets +onlyGivenNames _ _ _ v1
    have k1 : Keeps F V s v1 := (h.setFld.ite h).setFld
    clear_value v1
    exact k1.same.ite k1

theorem Keeps.gazCtrClrStep {i : Nat} (h : Keeps F V s t) : Keeps F V s (gazCtrClrStep i t) := h.ite h.zeroRegs

theorem Keeps.expCtrClrStep {i : Nat} (h : Keeps F V s t) : Keeps F V s (expCtrClrStep i t) := h.ite h.zeroRegs

theorem Keeps.srvCtrClrStep {i : Nat} (h : Keeps F V s t) : Keeps F V s (srvCtrClrStep i t) := h.ite h.zeroRegs

theorem Keeps.xfeCtrClrStep {i : Nat} (h : Keeps F V s t) : Keeps F V s (xfeCtrClrStep i t) := h.ite h.zeroRegs

/-! ### Operations of Machine/Mem -/

theorem Keeps.placing {wid act : Nat} {f : Wb → State → State}
    (h : Keeps F V s t) (k : ∀ u v x0, Keeps F V u v → Keeps F V u (f x0 v)) : Keeps F V s (t.placing wid act f) := by
  unfold State.placing
  split
  · exact h
  · split
    · exact h
    · exact h.checked fun _ _ h => h.same.ite (k _ _ _ h.same.startWb)

theorem Keeps.letIn {w : Wb} {q : State} {done : State → State} (h : Keeps F V s t) (hq : Keeps F V s q)
    (k : ∀ u v, Keeps F V u v → Keeps F V u (done v)) : Keeps F V s (t.letIn w q done) := (k _ _ hq).ite h.endWb

theorem Keeps.mapPages {cold : Bool} {l : List Nat} (h : Keeps F V s t) : Keeps F V s (t.mapPages cold l) :=
  h.same.foldl fun _ _ _ h => h.memClear

theorem Keeps.mapStep {wid : Nat} (h : Keeps F V s t) : Keeps F V s (mapStep wid t) := by
  refine h.placing fun w u v h => ?_
  extract_lets l
  split
  · exact h.endWb
  · exact h.letIn h.mapPages fun _ _ h => h.endWb

theorem Keeps.dropPages {l : List Nat} (h : Keeps F V s t) : Keeps F V s (t.dropPages l) := h.same.foldl fun _ _ _ h => h.memClear

theorem Keeps.unmapStep {wid : Nat} (h : Keeps F V s t) : Keeps F V s (unmapStep wid t) := by
  unfold Machine.unmapStep
  exact h.placing fun _ _ _ h => by
    dsimp only
    split
    · exact h.endWb
    · exact h.dropPages.endWb.ite (h.dropPages.foldl fun _ _ _ h => h.updPage)

theorem Keeps.unmapReleaseStep {wid : Nat} (h : Keeps F V s t) : Keeps F V s (unmapReleaseStep wid t) :=
  h.ite h.endLeases.dropPages.endWb.pumpColls

theorem Keeps.hintStep {wid : Nat} (h : Keeps F V s t) : Keeps F V s (hintStep wid t) := by
  unfold Machine.hintStep
  exact h.placing fun _ _ _ h => by
    dsimp only
    split
    · exact h.endWb
    · exact (h.foldl fun _ _ _ h => h.updPage).endWb

theorem Keeps.lending {wid act : Nat} {mk : Nat → Nat → Lent} {same : Nat → Lent → Bool} (h : Keeps F V s t) :
    Keeps F V s (t.lending wid act mk same) := by
  refine h.placing fun w u v h => ?_
  extract_lets l off bad
  split
  · exact h.endWb
  · refine h.endWb.ite (h.letIn ?_ fun _ _ h => h.lendsDone)
    exact h.foldl fun _ _ _ h => h.updPage

theorem Keeps.lendHostStep {wid : Nat} (h : Keeps F V s t) : Keeps F V s (lendHostStep wid t) := h.lending

theorem Keeps.lendFabricStep {wid : Nat} (h : Keeps F V s t) : Keeps F V s (lendFabricStep wid t) := h.lending

theorem Keeps.reclaimStep {wid : Nat} (h : Keeps F V s t) : Keeps F V s (reclaimStep wid t) :=
  h.placing fun _ _ _ h => ((h.foldl fun _ _ _ h => h.updPage).foldl fun _ _ _ h => h.updPage.foldl fun _ _ _ h => h.put).endWb.ite
    ((h.foldl fun _ _ _ h => h.updPage).foldl fun _ _ _ h => h.updPage.foldl fun _ _ _ h => h.put)

theorem Keeps.reclaimDoneStep {wid : Nat} (h : Keeps F V s t) : Keeps F V s (reclaimDoneStep wid t) :=
  h.ite (h.foldl fun _ _ _ h => h.updPage).same.endWb

theorem Keeps.quotaWriteStep {off : Nat} {w : Word} (h : Keeps F V s t) : Keeps F V s (quotaWriteStep off w t) := by
  unfold Machine.quotaWriteStep
  split
  · exact h
  · split
    · exact h
    · exact h.setFld.ite h.writeReg

theorem Keeps.poolFaultClearStep {off : Nat} {w : Word} (h : Keeps F V s t) : Keeps F V s (poolFaultClearStep off w t) :=
  h.writeReg.ite h

theorem Keeps.countSwap {ok : Bool} (h : Keeps F V s t) : Keeps F V s (t.countSwap ok) := h.same

theorem Keeps.poisonPage {n : Nat} (h : Keeps F V s t) : Keeps F V s (t.poisonPage n) := h.markAll

theorem Keeps.returnLost {m : Move} (h : Keeps F V s t) : Keeps F V s (t.returnLost m) := h.pageAt.poisonPage

theorem Keeps.moveTxns {m : Move} (h : Keeps F V s t) : Keeps F V s (t.moveTxns m) := h.ite h.same.pump

theorem Keeps.startMove {m : Move} (h : Keeps F V s t) : Keeps F V s (t.startMove m) := by
  unfold State.startMove
  extract_lets +onlyGivenNames _ _ _ _ _ v1
  have k1 : Keeps F V s v1 := by
    unfold v1
    split
    · exact (h.same.same.ite h.same).bump
    · exact h.same.same.ite h.same
  clear_value v1
  extract_lets +onlyGivenNames _ _ _ _ _ v4
  have k4 : Keeps F V s v4 := (k1.bump.ite k1).same.same
  clear_value v4
  split
  · exact (k1.bump.ite k1).same.returnLost
  · exact k4.moveTxns

theorem Keeps.moveStartStep {d : Nat} (h : Keeps F V s t) : Keeps F V s (moveStartStep d t) := by
  unfold Machine.moveStartStep
  dsimp only
  split
  · exact h
  · split
    · exact h.startMove
    · exact h

theorem Keeps.updMove {n : Nat} {f : Move → Move} (h : Keeps F V s t) : Keeps F V s (t.updMove n f) := h.same

theorem Keeps.failMove {v : Move} {status : Nat} (h : Keeps F V s t) : Keeps F V s (t.failMove v status) := by
  unfold State.failMove
  extract_lets +onlyGivenNames _ _ _ _ _ _ _ v1
  have k1 : Keeps F V s v1 := (h.same.foldl fun _ _ _ h => h.dropTxn).ite (h.same.foldl fun _ _ _ h => h.dropTxn).pageAt.poisonPage
  clear_value v1
  exact (k1.updPage.poisonPage.countSwap.ite k1).setFld.emit.serveXfes.pumpColls

theorem Keeps.leasesOver {n : Nat} {l : List Nat} (h : Keeps F V s t) : Keeps F V s (t.leasesOver n l) := by
  unfold State.leasesOver
  split
  · exact h.same

theorem Keeps.moveSwitchStep {n : Nat} {c : CopyRead} (h : Keeps False V s t) : Keeps False V s (moveSwitchStep n c t) := by
  unfold Machine.moveSwitchStep
  dsimp only
  split
  · exact h.pump
  · split
    · exact h.pump
    · split
      · exact h.pump.failMove
      · split
        · exact (h.pump.leasesOver.noteMarks.markAll.ite h.pump.leasesOver.noteMarks).updMove.pageAt.same.bump64.serveXfes.pumpColls
        · exact (h.pump.leasesOver.noteMarks.markAll.ite h.pump.leasesOver.noteMarks).updMove.pageAt.same.serveXfes.pumpColls

theorem Keeps.moveDrainEndStep {n ns : Nat} (h : Keeps F V s t) : Keeps F V s (moveDrainEndStep n ns t) := by
  unfold Machine.moveDrainEndStep
  split
  · exact h
  · split
    · exact h
    · exact ((h.endLeases.same.bump64.countSwap.ite h.endLeases.same.bump64).charge.ite
        (h.endLeases.same.bump64.countSwap.ite h.endLeases.same.bump64)).pumpColls

theorem Keeps.poolFaultStep {n ns : Nat} (h : Keeps F V s t) : Keeps F V s (poolFaultStep n ns t) := by
  unfold Machine.poolFaultStep
  split
  · exact h
  · split
    · exact h
    · split
      · exact h.charge.failMove
      · split
        · exact h
        · exact h.ite h.charge.failMove

theorem Keeps.heatDecayStep {d : Nat} (h : Keeps F V s t) : Keeps F V s (heatDecayStep d t) := h.same

theorem Keeps.snoopAdd {l : Nat} (h : Keeps F V s t) : Keeps F V s (t.snoopAdd l) := by
  unfold State.snoopAdd
  dsimp only
  split
  · split
    · exact h.same.put
    · exact h.same
  · exact h.same

theorem Keeps.hostHdmAccessStep {off : Nat} {wr : Option (List Byte)} {beat : HdmBeat} (h : Keeps False V s t) :
    Keeps False V s (hostHdmAccessStep off wr beat t) := by
  unfold Machine.hostHdmAccessStep
  split
  · exact h
  · split
    · dsimp only
      split
      · exact h.bump.put
      · exact h.bump
    · dsimp only
      split
      · exact h.snoopAdd.noteMarks.countPoison.put
      · split
        · exact h.snoopAdd
        · exact h.snoopAdd.memWritePoison.ite h.snoopAdd.memWrite

/-! ### Operations of Machine/Partition -/

theorem Keeps.prtCmd {op p : Nat} {f : State → Nat × State} (h : Keeps F V s t) (k : ∀ u v, Keeps F V u v → Keeps F V u (f v).2) :
    Keeps F V s (t.prtCmd op p f) := h.byCmd fun u v h => (k u v h).setFld

theorem Keeps.createStep {p : Nat} (h : Keeps F V s t) : Keeps F V s (createStep p t) := by
  refine h.prtCmd fun u v h => ?_
  split
  · exact h
  · exact h.resetRegs.same

theorem Keeps.clearPart {p : Nat} (h : Keeps F V s t) : Keeps F V s (t.clearPart p) := by
  unfold State.clearPart
  extract_lets _ s1 s2 _ s3 _ s4 s5 pages keep s6 s7 _ s8 s9 group own regs latched s10 seals _ s11 s12
  have k : Keeps F V s s2 := h.same.foldl fun _ _ _ h => h.loseCtx
  clear_value s2
  have k : Keeps F V s s5 := k.same.same.foldl fun _ _ _ h => h.setFld.ite h
  clear_value s5
  have k : Keeps F V s s7 := (k.foldl fun _ _ _ h => h.put).foldl fun _ _ _ h => h.memClear
  clear_value s7
  have k : Keeps F V s s9 := k.same.foldl fun _ _ _ h => h.setSem
  clear_value s9
  have k : Keeps F V s s12 := k.filterRegs.same.setReg
  clear_value s12
  exact k.same

theorem Keeps.partitionRemoveStep {p : Nat} (h : Keeps F V s t) : Keeps F V s (partitionRemoveStep p t) := by
  refine h.prtCmd fun u v h => ?_
  split
  · exact h
  · split
    · exact h
    · exact h.clearPart

theorem Keeps.evictStep {p : Nat} (h : Keeps F V s t) : Keeps F V s (evictStep p t) := by
  refine Keeps.settle (h.prtCmd fun u v h => ?_)
  split
  · exact h
  · split
    · exact h
    · refine Keeps.setFld (Keeps.foldl (Keeps.foldl h.updPart ?_) ?_)
      · exact fun _ _ _ h => h.updConsist
      · exact fun _ _ _ h => h.cancelWb

theorem Keeps.suspendStep {p : Nat} (h : Keeps F V s t) : Keeps F V s (suspendStep p t) := by
  refine Keeps.settle (h.prtCmd fun u v h => ?_)
  split
  · exact h
  · split
    · exact h
    · exact h.updPart.suspendOn

theorem Keeps.resumeStep {p : Nat} (h : Keeps F V s t) : Keeps F V s (resumeStep p t) := by
  refine Keeps.settle (h.prtCmd fun u v h => ?_)
  split
  · exact h
  · split
    · dsimp only
      exact h.updPart.endSusps
    · exact h

theorem Keeps.instanceFreeStep {k : EngKind} {i : Nat} (h : Keeps F V s t) : Keeps F V s (instanceFreeStep k i t) := by
  unfold Machine.instanceFreeStep
  split
  · exact h
  · split
    · exact h.serveXfe.settleTakings
    · exact h.serveCde.settleTakings
    · exact h.pumpColls.settleTakings
    · exact h.settleTakings
    · exact h.passInst.settleTakings

theorem Keeps.semSetStep {w : Word} (h : Keeps F V s t) : Keeps F V s (semSetStep w t) := h.ite h.setReg.setSem.settle

theorem Keeps.filterSems {p : Nat × DWord → Bool} (h : Keeps F V s t) : Keeps F V s { t with sems := t.sems.filter p } :=
  h.trans ⟨rfl, rfl, fun w => { w with sems := swf_filter w.sems }, id, fun _ => id, fun _ => id, fun _ => id⟩

theorem Keeps.semRangeWriteStep {off : Nat} {w : Word} (h : Keeps F V s t) : Keeps F V s (semRangeWriteStep off w t) := by
  unfold Machine.semRangeWriteStep
  split
  · exact h
  · extract_lets v b n clash
    have k : Keeps F V s v := h.writeReg
    clear_value v
    exact h.ite (k.ite (h.setFld.ite k.filterSems))

theorem Keeps.modeWriteStep {p : Nat} {w : Word} (h : Keeps F V s t) : Keeps F V s (modeWriteStep p w t) := by
  unfold Machine.modeWriteStep
  split
  · exact h
  · exact h.setFld.ite h.writeRegAs.examine

theorem Keeps.shareWriteStep {p : Nat} {w : Word} (h : Keeps F V s t) : Keeps F V s (shareWriteStep p w t) := by
  unfold Machine.shareWriteStep
  split
  · exact h
  · split
    · exact h.writeReg
    · exact h.ite h.writeReg.updPart

theorem Keeps.prtCtrClrStep {p : Nat} (h : Keeps F V s t) : Keeps F V s (prtCtrClrStep p t) := h.ite h.zeroRegs.updPart

/-! ### Operations of Machine/Xfer -/

theorem Keeps.beginXfer {w : Wb} {fill : Bool} (h : Keeps F V s t) : Keeps F V s (t.beginXfer w fill) := by
  unfold State.beginXfer
  dsimp only
  split
  · exact h.endWb
  · split
    · exact h.same.updWb.serveXfes.preemptFor.ite h.same.updWb.serveXfes
    · exact h.same.updWb.serveXfes

theorem Keeps.xferStep {wid : Nat} (h : Keeps F V s t) : Keeps F V s (xferStep wid t) := by
  unfold Machine.xferStep
  split
  · exact h
  · exact h.checked fun _ _ h => h.beginXfer

theorem Keeps.fillStep {wid : Nat} (h : Keeps F V s t) : Keeps F V s (fillStep wid t) := by
  unfold Machine.fillStep
  split
  · exact h
  · exact h.checked fun _ _ h => h.beginXfer

theorem Keeps.timestampStep {wid : Nat} (h : Keeps F False s t) : Keeps F False s (timestampStep wid t) := by
  unfold Machine.timestampStep
  split
  · exact h
  · split
    · exact h.endWb
    · dsimp only
      split
      · split
        · exact h.prepareFor
        · split
          · exact h.prepareFor.startWb.writeBytes.endWb
          · exact h.prepareFor.startWb.writeBytes
      · split
        · split
          next e => exact (h.takeIo.snd e).startWb.endWb
          next e => exact (h.takeIo.snd e).startWb.put.endWb
        · exact h.startWb.same.pump

theorem Keeps.copyPiece {x : Xfer} {q : Piece} {pattern : Nat} {host : BytesRead} (h : Keeps F V s t) :
    Keeps F V s (t.copyPiece x q pattern host) := by
  refine h.asDie fun u v h => ?_
  split
  next r v' e =>
    have h : Keeps F V u v' := by
      split at e
      · exact h.takeIo.snd e
      · cases e
        exact h
    extract_lets lost runs a b c
    have ha : Keeps F V u a := h.foldl fun _ _ _ h => h.noteRead
    clear_value a
    have hb : Keeps F V u b := ha.notePoison.ite ha
    clear_value b
    exact h.updWb.updPiece.leftOut.ite (Keeps.deliver (hb.noteWay.ite hb))

theorem Keeps.xferPieceDoneStep {wid idx ns : Nat} {host : BytesRead} {m : Marks} (h : Keeps False V s t) :
    Keeps False V s (xferPieceDoneStep wid idx ns host m t) := by
  unfold Machine.xferPieceDoneStep
  split
  · split
    · exact h
    · refine h.ite ?_
      extract_lets s1 src toFabric here lostHost
      split
      next e =>
        have k := h.launch.readyFor.snd e
        refine k.ite (k.ite ?_)
        extract_lets s2 s3 seen s4 cut s5 s6 lost s7
        have k3 : Keeps False V s s3 := k.noteMarks.notePoison.ite k.noteMarks
        clear_value s3 seen
        have k5 : Keeps False V s s5 := by
          unfold s5
          split
          · exact k3.updPiece.noteWay.ite k3.updPiece.notePoison
          · exact k3.updPiece
        have k6 : Keeps False V s s6 := (k3.asBegun fun _ _ h => h.copyPiece).ite (k3.updWb.updPiece.leftOut.ite k3)
        clear_value s6
        have k7 : Keeps False V s s7 := by
          unfold s7
          split
          · exact k6.bump64
          · exact k6
        exact k5.addTxns.pump.ite k7.chargeWb.endPiece
  · exact h

/-! ### Operations of Machine/ResetOps -/

theorem Keeps.blur1 {a n : Nat} (h : Keeps F V s t) : Keeps F V s (t.blur1 a n) := by
  unfold State.blur1
  exact h.foldl fun _ _ _ h => by
    split
    · split
      next e => exact (h.freeBytes.snd e).memStore
    · exact h

theorem Keeps.dropRegs {p : Nat → Bool} (h : Keeps F V s t) : Keeps F V s (t.dropRegs p) := h.filterRegs

theorem Keeps.dropFunction (h : Keeps F V s t) : Keeps F V s t.dropFunction := h.setFld.same

theorem Keeps.endWork (h : Keeps F V s t) : Keeps F V s t.endWork :=
  Keeps.setFld (h.trans ⟨rfl, rfl, fun w => { w with ctxs := nofun }, id, fun _ => id, fun _ _ => rfl, fun _ _ => rfl⟩)

theorem Keeps.endUpdate {all : Bool} (h : Keeps F V s t) : Keeps F V s (t.endUpdate all) := by
  unfold State.endUpdate
  split
  · exact h
  · split
    · exact h
    · exact h.same.ite h.same.setFld

theorem Keeps.clearHost (h : Keeps F V s t) : Keeps F V s t.clearHost :=
  (h.foldl fun _ _ _ h => h.blur1).endWork.dropFunction.dropRegs.endUpdate

theorem Keeps.clearDevice (h : Keeps F V s t) : Keeps F V s t.clearDevice := by
  unfold State.clearDevice
  extract_lets +onlyGivenNames s1 s2
  have k : Keeps F V s s2 := h.endWork.dropFunction.dropRegs.endUpdate.setFld.setFld
  clear_value s2
  exact k.trans ⟨rfl, rfl, fun w => ⟨rfl, rfl, rfl, w.regs, w.latched, w.ctxs⟩, id, fun _ _ => rfl, fun _ _ => rfl, fun _ _ => rfl⟩

theorem Keeps.clearChip (h : Keeps F V s t) : Keeps F V s t.clearChip := h.clearDevice.endUpdate.dropRegs.same

theorem Keeps.clearAll (h : Keeps F V s t) : Keeps F V s t.clearAll :=
  h.clearChip.trans ⟨rfl, rfl, fun _ => ⟨rfl, rfl, rfl, rfl, rfl, nofun⟩, id, fun _ _ => rfl, fun _ _ => rfl, fun _ _ => rfl⟩

theorem Keeps.drawInc (h : Keeps F V s t) : Keeps F V s t.drawInc := by
  unfold State.drawInc
  split
  next e => exact (h.drawBytes.snd e).same

theorem Keeps.clearFabric {source : Nat} (h : Keeps F V s t) : Keeps F V s (t.clearFabric source) := by
  unfold State.clearFabric
  extract_lets +onlyGivenNames _ _ _ v1
  have k1 : Keeps F V s v1 := by
    unfold v1
    exact h.failTxns.foldl fun _ _ _ h => by
      split
      next e => exact (h.drawNat.snd e).stallColl
  clear_value v1
  extract_lets +onlyGivenNames _ _ _ v3
  have k3 : Keeps F V s v3 := ((k1.foldl fun _ _ _ h => h.failMove).foldl fun _ _ _ h => h.portDown).dropRegs
  clear_value v3
  exact (k3.setFld.ite k3).same.drawInc.emit.pump.settle

theorem Keeps.histEntry {source kind : Nat} (h : Keeps F V s t) : Keeps F V s (t.histEntry source kind) :=
  (h.foldl fun _ _ _ h => h.setReg).setReg

theorem Keeps.takeReset {source kind : Nat} {held : Bool} (h : Keeps F V s t) : Keeps F V s (t.takeReset source kind held) := by
  unfold State.takeReset
  extract_lets +onlyGivenNames _ _ _ v1
  have k1 : Keeps F V s v1 := by
    unfold v1
    split
    · exact h
    · exact h.clearHost
    · exact h.clearDevice
    · exact h.clearChip
    · exact h.clearAll
  clear_value v1
  extract_lets +onlyGivenNames _ _ v2
  have k2 : Keeps F V s v2 := by
    unfold v2
    split
    · exact (k1.ite k1.bump.histEntry).setReg.setReg64.setFld
    · exact (k1.ite k1.bump.histEntry).setReg.setReg64
  clear_value v2
  split
  · exact k2.clearFabric
  · exact k2.ite k2.setFld.setReg.setReg.setReg.setReg.setFld.same.put

theorem Keeps.keepDies (h : Keeps F V s t) : Keeps F V s t.keepDies := h.setReg.setReg.same

theorem Keeps.freeDies (h : Keeps F V s t) : Keeps F V s t.freeDies := h.ite h.setReg.same

theorem Keeps.assertReset {source kind : Nat} {held : Bool} (h : Keeps F V s t) : Keeps F V s (t.assertReset source kind held) := by
  unfold State.assertReset
  split
  · exact h.takeReset
  · exact h.takeReset.ite h.same.histEntry

theorem Keeps.loseWb {wid kind die src : Nat} (h : Keeps F V s t) : Keeps F V s (t.loseWb wid kind die src) := h.unreserve.endWb

theorem Keeps.stopRun {r1 : Run} (h : Keeps F V s t) : Keeps F V s (t.stopRun r1) :=
  (h.foldl fun _ _ _ h => h.ite h.setUse).updRun.same.dropCopies

theorem Keeps.cutBy {kind die : Nat} (h : Keeps F V s t) : Keeps F V s (t.cutBy kind die) := h.same

theorem Keeps.fenceCompute {die : Nat} (h : Keeps F V s t) : Keeps F V s (t.fenceCompute die) :=
  ((h.cutBy.foldl fun _ _ _ h => h.stopRun.loseWb).same.same.foldl fun _ _ _ h => h.updRun.copyFor).same

theorem Keeps.fenceXfer {die : Nat} {x : Xfer} (h : Keeps F V s t) : Keeps F V s (t.fenceXfer die x) := by
  unfold State.fenceXfer
  dsimp only
  split
  · exact h
  · split
    · exact h
    · split
      · exact ((h.foldl fun _ _ _ h => by
          split
          · exact h.setUse.ite h
          · exact h).foldl fun _ _ _ h => h.dropTxn).same.loseWb
      · split
        · exact h.updXfer
        · split
          · exact ((h.foldl fun _ _ _ h => by
              split
              · exact h.setUse.ite h
              · exact h).foldl fun _ _ _ h => h.dropTxn).same.loseWb
          · exact h.cancelWb

theorem Keeps.fenceMemory {die : Nat} (h : Keeps F V s t) : Keeps F V s (t.fenceMemory die) := by
  unfold State.fenceMemory
  extract_lets s1 s2 s3 c cmds s4 s5 s6 s7 s8 moves0 moves
  have k : Keeps F V s s2 := h.cutBy.foldl fun _ _ _ h => h.fenceXfer
  clear_value s2
  have k : Keeps F V s s3 := k.foldl fun _ _ _ h => by
    split
    · exact h
    · refine h.same.loseWb.ite ?_
      split
      · exact h.updJob
      · exact h
  clear_value s3
  have k : Keeps F V s s5 := k.setCde.foldl fun _ _ _ h => h.loseWb
  clear_value s5
  have k : Keeps F V s s6 := k.foldl fun _ _ _ h => h.loseCtx
  clear_value s6
  have k : Keeps F V s s8 := (k.foldl fun _ _ _ h => h.loseWb).foldl fun _ _ _ h => h.dropTxn
  clear_value s8
  exact k.same

theorem Keeps.fenceIo {die : Nat} (h : Keeps F V s t) : Keeps F V s (t.fenceIo die) :=
  (((h.cutBy.foldl fun _ _ _ h => h.txnCut.ite h).foldl fun _ _ _ h => h.portDrop).same.foldl fun _ _ _ h => h.dropColl.loseWb).reCle

theorem Keeps.fenceBlock {kind die : Nat} (h : Keeps F V s t) : Keeps F V s (t.fenceBlock kind die) := h.setReg.setFld.setFld.ite h

theorem Keeps.fenceWith {kind die cause : Nat} {detail : Option Ev} (h : Keeps F V s t) :
    Keeps F V s (t.fenceWith kind die cause detail) := by
  unfold State.fenceWith
  refine h.ite (h.assertReset.ite (h.assertReset.ite ?_))
  extract_lets here n run kept _ s1 s2 off s3 s4 insts due slices bad _ _ s5 lost s6
  have k : Keeps F V s s3 := h.same.fenceBlock.setReg.setReg
  clear_value s3
  have k : Keeps F V s s4 := by
    unfold s4
    split
    · exact k.fenceCompute
    · exact k.fenceMemory
    · exact k.fenceIo
  clear_value s4
  have k : Keeps F V s s5 := k.same
  clear_value s5
  have k : Keeps F V s s6 := by
    unfold s6
    split
    · exact k.emit
    · exact k
  exact k.emit.sweepBusy.settle

theorem Keeps.fenceDie {kind die cause : Nat} (h : Keeps F V s t) : Keeps F V s (t.fenceDie kind die cause) := h.fenceWith

theorem Keeps.clearEngine {k : EngKind} {i : Nat} (h : Keeps F V s t) : Keeps F V s (t.clearEngine k i) := h.zeroRegs.setUse.setFld

/-! ### Operations of Machine/Err -/

theorem Keeps.poisonRanges {wid : Nat} {l : List (Nat × Nat)} (h : Keeps F V s t) : Keeps F V s (t.poisonRanges wid l) := by
  unfold State.poisonRanges
  exact h.foldl fun _ _ _ h => by
    split
    next e => exact (h.freeBytes.snd e).writeBytes

theorem Keeps.failRun {wid : Nat} {k : EngKind} {i : Nat} (h : Keeps F V s t) : Keeps F V s (t.failRun wid k i) := by
  unfold State.failRun
  split
  · exact h
  · extract_lets +onlyGivenNames _ _ _ _ v1
    have k1 : Keeps F V s v1 := (h.notePoison.foldl fun _ _ _ h => h.poisonRanges.firstFinish.sendNotice.ite h.poisonRanges).updInst
    clear_value v1
    exact (k1.sendNotices.ite k1).instDone

theorem Keeps.poisonTxns {x : Xfer} {q : Piece} {off n : Nat} (h : Keeps F V s t) : Keeps F V s (t.poisonTxns x q off n) := by
  unfold State.poisonTxns
  exact h.foldl fun _ _ _ h => by
    split
    next e => exact (h.freeBytes.snd e).same

theorem Keeps.failPiece {x : Xfer} {q : Piece} (h : Keeps F V s t) : Keeps F V s (t.failPiece x q) := by
  unfold State.failPiece
  extract_lets +onlyGivenNames _ _ _ v1
  have k1 : Keeps F V s v1 := by
    unfold v1
    split
    · exact h.notePoison.bump64.ite h.notePoison
    · exact h.notePoison
  clear_value v1
  extract_lets +onlyGivenNames _ _ _ v3
  have k3 : Keeps F V s v3 := (k1.foldl fun _ _ _ h => h.dropTxn).same.foldl fun _ _ _ h => h.poisonTxns
  clear_value v3
  split
  · exact k3.updPiece.pump
  · exact (((k1.foldl fun _ _ _ h => h.dropTxn).asBegun fun _ _ h => h.poisonRanges).ite
      ((k1.foldl fun _ _ _ h => h.dropTxn).foldl fun _ _ _ h => by
      split
      next e => exact (h.freeBytes.snd e).put)).endPiece

theorem Keeps.failXfe {i : Nat} (h : Keeps F V s t) : Keeps F V s (t.failXfe i) := by
  unfold State.failXfe
  dsimp only
  split
  · exact (h.foldl fun _ _ _ h => by
      split
      · exact h
      · split
        · exact h
        · split
          · exact h.updXfer
          · exact (h.foldl fun _ _ _ h => h.failPiece).ite h.cancelWb).same.failPiece
  · exact (h.foldl fun _ _ _ h => by
      split
      · exact h
      · split
        · exact h
        · split
          · exact h.updXfer
          · exact (h.foldl fun _ _ _ h => h.failPiece).ite h.cancelWb).same

theorem Keeps.failCle {i : Nat} (h : Keeps F V s t) : Keeps F V s (t.failCle i) :=
  (h.foldl fun _ _ _ h => h.notePoison.poisonRanges.endColl).reCle

theorem Keeps.failCde {i : Nat} (h : Keeps F V s t) : Keeps F V s (t.failCde i) :=
  (h.setCde.foldl fun _ _ _ h => h.poisonRanges.notePoison.endWb).foldl fun _ _ _ h => h.cancelWb

theorem Keeps.failGaz {i : Nat} (h : Keeps F V s t) : Keeps F V s (t.failGaz i) := by
  unfold State.failGaz
  exact (h.foldl fun _ _ _ h => by
    split
    · exact h
    · split
      · exact h.same.endWb
      · split
        · exact h.updJob
        · exact h.cancelWb).same

theorem Keeps.failBlock {k : EngKind} {i cause detail : Nat} (h : Keeps F V s t) : Keeps F V s (t.failBlock k i cause detail) := by
  unfold State.failBlock
  refine h.ite ?_
  extract_lets w s1 e s2 slices _ s3 s4
  clear_value w
  have k2 : Keeps F V s s2 := by
    unfold s2
    split
    · exact h.setFailed.setFld.bump.emitFor
    · exact h.setFailed.setFld.bump.emit
  clear_value s2
  have k3 : Keeps F V s s3 := k2.same
  clear_value s3
  have k4 : Keeps F V s s4 := by
    unfold s4
    split
    · exact k3.failXfe
    · exact k3.failCle
    · exact k3.failCde
    · exact k3.failGaz
    · split
      · exact k3.failRun
      · exact k3.loseInst
      · exact k3
  exact k4.setUse.sweepBusy.settle

theorem Keeps.failUnit {u1 kind die : Nat} (h : Keeps F V s t) : Keeps F V s (t.failUnit u1 kind die) := by
  unfold State.failUnit
  split
  · exact h
  · split
    next e => exact (h.drawNat.snd e).bump.bump.same.emit

theorem Keeps.controlParityFailureStep {u1 : CtlUnit} (h : Keeps F V s t) : Keeps F V s (controlParityFailureStep u1 t) := by
  unfold Machine.controlParityFailureStep
  split
  · split
    · exact h
    · split
      next e => exact (h.drawNat.snd e).bump.failBlock
  · exact h.ite h.bump.fenceDie
  · exact h.failUnit
  · exact h.failUnit.same.ite h.failUnit
  · exact h.ite h.bump.fenceDie

theorem Keeps.blockIdleTimeoutStep {k : EngKind} {i : Nat} (h : Keeps F V s t) : Keeps F V s (blockIdleTimeoutStep k i t) :=
  h.fenceDie.ite h

theorem Keeps.junctionFlitBadStep {k d k2 d2 : Nat} {retrained : Bool} (h : Keeps F V s t) :
    Keeps F V s (junctionFlitBadStep k d k2 d2 retrained t) :=
  h.ite h.bump.merge

theorem Keeps.junctionLinkFailStep {k d k2 d2 : Nat} (h : Keeps F V s t) : Keeps F V s (junctionLinkFailStep k d k2 d2 t) :=
  h.ite h.fenceWith

theorem Keeps.endAllFatal (h : Keeps F V s t) : Keeps F V s t.endAllFatal := h.foldl fun _ _ _ h => h.record

theorem Keeps.chipFatalStep {cause : Nat} (h : Keeps F V s t) : Keeps F V s (chipFatalStep cause t) := by
  unfold Machine.chipFatalStep
  split
  · exact h
  · exact (h.bump.setFld.setReg64.endAllFatal.emit.ite h.bump.setFld.setReg64).assertReset

theorem Keeps.scrubReadStep {die addr symbols : Nat} {ue : Bool} (h : Keeps F V s t) :
    Keeps F V s (scrubReadStep die addr symbols ue t) := by
  unfold Machine.scrubReadStep
  split
  · exact h
  · extract_lets +onlyGivenNames _ _ _ _ v1
    have k1 : Keeps F V s v1 := (h.bump.ite h).same
    clear_value v1
    split
    · exact k1
    · split
      · exact k1.noteUe
      · split
        · split
          · exact k1
          · exact k1.noteUe.ite k1.noteCe

theorem Keeps.errCtrClrStep (h : Keeps F V s t) : Keeps F V s (errCtrClrStep t) := h.zeroRegs.ite h

/-! ### Operations of Machine/SelfTest -/

theorem Keeps.bstSliceDueStep {k : EngKind} {i slice : Nat} (h : Keeps F V s t) : Keeps F V s (bstSliceDueStep k i slice t) :=
  h.ite h.same

theorem Keeps.bstSliceOverdueStep {k : EngKind} {i slice : Nat} (h : Keeps F V s t) : Keeps F V s (bstSliceOverdueStep k i slice t) :=
  h.ite h.same.bump.wake

theorem Keeps.showSlice {k : EngKind} {i : Nat} (h : Keeps F V s t) : Keeps F V s (t.showSlice k i) := h.setFld.setFld

theorem Keeps.bstSliceStartStep {k : EngKind} {i slice : Nat} (h : Keeps F V s t) : Keeps F V s (bstSliceStartStep k i slice t) := by
  unfold Machine.bstSliceStartStep
  dsimp only
  split
  · exact h
  · split
    · exact h.same.setUse.showSlice.wake.rampStart.dropBallast
    · exact h.same.setUse.showSlice.wake.rampStart
    · exact h.same.setUse.showSlice.wake.rampStart
    · exact h.same.setUse.showSlice.wake

theorem Keeps.noteMismatch {k : EngKind} {i slice : Nat} (h : Keeps F V s t) : Keeps F V s (t.noteMismatch k i slice) := h.bump.setReg

theorem Keeps.countSlice {k : EngKind} {i slice : Nat} (h : Keeps F V s t) : Keeps F V s (t.countSlice k i slice) := h.same.bump64

theorem Keeps.failSlice {k : EngKind} {i slice : Nat} {want got : Word} (h : Keeps F V s t) :
    Keeps F V s (t.failSlice k i slice want got) :=
  h.same.ite h.same.emit.failBlock

theorem Keeps.endCycle (h : Keeps F V s t) : Keeps F V s t.endCycle := h.ite h.same.bump.emit

theorem Keeps.leaveSlice {k : EngKind} {i : Nat} (h : Keeps F V s t) : Keeps F V s (t.leaveSlice k i) :=
  h.same.setUse.holdBallast.ite h.same.setUse

theorem Keeps.bstSliceDoneStep {k : EngKind} {i : Nat} {want got : Word} (h : Keeps F V s t) :
    Keeps F V s (bstSliceDoneStep k i want got t) := by
  unfold Machine.bstSliceDoneStep
  split
  · exact h
  · dsimp only
    split
    · exact h.countSlice.leaveSlice.endCycle.settle
    · exact h.countSlice.noteMismatch.leaveSlice.failSlice.endCycle.settle.ite h.countSlice.noteMismatch.same

theorem Keeps.bstResult {v : Nat} (h : Keeps F V s t) : Keeps F V s (t.bstResult v) := h.setFld

theorem Keeps.runSlices {k : EngKind} {i n : Nat} {sigs : List (Word × Word)} (h : Keeps F V s t) :
    Keeps F V s (t.runSlices k i n sigs).2 := by
  induction n generalizing t sigs with
  | zero =>
    rw [State.runSlices]
    exact h
  | succ n ih =>
    unfold State.runSlices
    dsimp only
    split
    · exact ih h.countSlice
    · split
      · exact ih h.countSlice
      · split
        · exact ih h.countSlice.noteMismatch.countSlice
        · split
          · exact ih h.countSlice.noteMismatch.countSlice
          · exact ih h.countSlice.noteMismatch.countSlice.noteMismatch.failSlice

theorem Keeps.bstCmdStep {w : Word} {sigs : List (Word × Word)} (h : Keeps F V s t) : Keeps F V s (bstCmdStep w sigs t) := by
  refine h.byCmd fun u v h => ?_
  extract_lets i
  split
  · exact h.bstResult
  · refine h.bstResult.ite (h.bstResult.ite (h.bstResult.ite (h.bstResult.ite ?_)))
    extract_lets v'
    split
    next e =>
      have h := h.showSlice.wake.wake.runSlices.snd e
      exact Keeps.settle (Keeps.endCycle (h.bstResult.ite h.setFailed.bstResult))

theorem Keeps.bstCtrClrStep (h : Keeps F V s t) : Keeps F V s (bstCtrClrStep t) := h.zeroRegs.ite h

theorem Keeps.analog {check item : Nat} {bad : Bool} {say : State → State}
    (h : Keeps F V s t) (k : ∀ u v, Keeps F V u v → Keeps F V u (say v)) : Keeps F V s (t.analog check item bad say) :=
  (k _ _ h.same.setFld).ite h.same.setFld

theorem Keeps.marginRecord {check value limit lane src : Nat} (h : Keeps F V s t) :
    Keeps F V s (t.marginRecord check value limit lane src) :=
  h.merge

theorem Keeps.marginCheck {check item value limit lane src : Nat} (h : Keeps F V s t) :
    Keeps F V s (t.marginCheck check item value limit lane src) :=
  h.analog fun _ _ h => h.marginRecord

theorem Keeps.hbmPhyMarginCheckStep {stack value channel : Nat} (h : Keeps F V s t) :
    Keeps F V s (hbmPhyMarginCheckStep stack value channel t) :=
  h.ite h.marginCheck

theorem Keeps.lpddrPhyCheckStep {pkg value channel : Nat} (h : Keeps F V s t) : Keeps F V s (lpddrPhyCheckStep pkg value channel t) :=
  h.ite h.marginCheck

theorem Keeps.portLoopbackCheckStep {n errors : Nat} (h : Keeps F V s t) : Keeps F V s (portLoopbackCheckStep n errors t) := by
  unfold Machine.portLoopbackCheckStep
  split
  · exact h
  · exact (h.analog fun _ _ h => h.marginRecord).ite (h.analog fun _ _ h => h.marginRecord).same

theorem Keeps.cxlMarginCheckStep {lane value : Nat} (h : Keeps F V s t) : Keeps F V s (cxlMarginCheckStep lane value t) :=
  h.ite h.marginCheck

/-! ### Operations of Machine/Epoch -/

theorem Keeps.showRat {q : ℚ} (h : Keeps F V s t) : Keeps F V s (t.showRat q).2 := by
  unfold State.showRat
  exact h.same

theorem Keeps.showEpoch {e : EpochIn} (h : Keeps F V s t) : Keeps F V s (t.showEpoch e) := by
  unfold State.showEpoch
  dsimp only
  exact (h.measure.same.setFld.foldl fun _ _ _ h => h.ite h.setReg).setFld.setFld.showRat.setFld

theorem Keeps.limitSource {power : Nat} (h : Keeps F V s t) : Keeps F V s (t.limitSource power) := by
  unfold State.limitSource
  dsimp only
  split
  · exact h.same
  · split
    · exact h.same.ite h.same.emit
    · exact h

theorem Keeps.hotSource {dies : List Int} (h : Keeps F V s t) : Keeps F V s (t.hotSource dies) :=
  h.foldl fun _ _ _ h => (h.same.same.emit.ite h.same.same).ite h.same

theorem Keeps.coolSensor {k : Nat} {q : Int} (h : Keeps F V s t) : Keeps F V s (t.coolSensor k q) := by
  unfold State.coolSensor
  dsimp only
  split
  · exact h.same.ite h.same.emit
  · exact h.same

theorem Keeps.coolHot {tIn tOut : Int} (h : Keeps F V s t) : Keeps F V s (t.coolHot tIn tOut) := by
  unfold State.coolHot
  dsimp only
  split
  · exact h.ite h.same.emit
  · exact h.same.ite h

theorem Keeps.plateStep {tIn : Int} (h : Keeps F V s t) : Keeps F V s (t.plateStep tIn) := by
  unfold State.plateStep
  dsimp only
  split
  · exact h.ite h.same
  · exact h.drawNat.same

theorem Keeps.dutyStep (h : Keeps F V s t) : Keeps F V s t.dutyStep := by
  unfold State.dutyStep
  split
  · exact h
  · split
    · exact h.setFld
    · dsimp only
      exact h.same.showRat.setFld

theorem Keeps.powerEpoch {e : EpochIn} (h : Keeps F V s t) : Keeps F V s (t.powerEpoch e) :=
  h.ite h.showEpoch.limitSource.hotSource.coolSensor.coolSensor.coolHot.plateStep.dutyStep

theorem Keeps.outlierRate {die : Nat} (h : Keeps F V s t) : Keeps F V s (t.outlierRate die) := h.ite h.emit

theorem Keeps.inboundDenied (h : Keeps F V s t) : Keeps F V s t.inboundDenied := h.ite h.same.emit

theorem Keeps.rwlDenied (h : Keeps F V s t) : Keeps F V s t.rwlDenied := h.ite h.same.emit

theorem Keeps.mergedRecords (h : Keeps F V s t) : Keeps F V s t.mergedRecords := (h.same.foldl fun _ _ _ h => h.emit).ite h.same

theorem Keeps.epochChecks {l : List (Nat × Nat × Nat × Nat)} (h : Keeps F V s t) : Keeps F V s (t.epochChecks l) :=
  (h.foldl fun _ _ _ h => h.analog fun _ _ h => h).foldl fun _ _ _ h => h.analog fun _ _ h => h.emit.ite
    (h.marginRecord.ite h.marginRecord)

theorem Keeps.managementEpochStep {e : EpochIn} (h : Keeps F V s t) : Keeps F V s (managementEpochStep e t) := by
  unfold Machine.managementEpochStep
  refine h.ite ?_
  extract_lets s1 s2 s3 s4 s5 _ s6 s7
  have k : Keeps F V s s3 := h.advance.latchRegs.powerEpoch
  clear_value s3
  have k : Keeps F V s s5 := (k.ite k.epochChecks).foldl fun _ _ _ h => h.outlierRate
  clear_value s5
  have k : Keeps F V s s7 := k.same.inboundDenied.rwlDenied.mergedRecords
  clear_value s7
  exact k.latchRegs.raiseSteps

/-! ### Operations of Machine/Ring -/

theorem Keeps.seeProd {n : Nat} {prod : Word} (h : Keeps F V s t) : Keeps F V s (t.seeProd n prod) := by
  unfold State.seeProd
  split
  · exact h
  · dsimp only
    split
    · exact h.updRing
    · exact h.updRing.ite h.updRing.stopRing.emit

theorem Keeps.seeLine {line : Nat} {words : List DWord} (h : Keeps F V s t) : Keeps F V s (t.seeLine line words) :=
  h.same.foldl fun _ _ _ h => h.seeProd.ite h

theorem Keeps.lineFault {line : Nat} {came : Bool} (h : Keeps F V s t) : Keeps F V s (t.lineFault line came) := by
  unfold State.lineFault
  dsimp only
  split
  · exact h.same.foldl fun _ _ _ h => h.stopRing
  · exact (h.same.foldl fun _ _ _ h => h.stopRing).emit

theorem Keeps.doorbellInvalidationStep {line : Nat} (h : Keeps F V s t) : Keeps F V s (doorbellInvalidationStep line t) := h.same

theorem Keeps.doorbellRereadStep {line : Nat} {rd : LineRead} (h : Keeps F V s t) : Keeps F V s (doorbellRereadStep line rd t) := by
  unfold Machine.doorbellRereadStep
  split
  · split
    · exact h.seeLine
    · exact h.lineFault
  · exact h

theorem Keeps.addConsist {r1 : Ring} {ws : List Slot} {split : Bool} (h : Keeps F V s t) : Keeps F V s (t.addConsist r1 ws split) :=
  h.same

theorem Keeps.passCons {n k : Nat} {step : Option Nat} (h : Keeps F V s t) : Keeps F V s (t.passCons n k step) := h.updRing.saveCtx

theorem Keeps.raiseV {p : Nat} (h : Keeps F V s t) : Keeps F V s (t.raiseV p) := by
  unfold State.raiseV
  split
  · exact h
  · dsimp only
    split
    · exact h.updPart
    · exact h.updPart

theorem Keeps.queueSwap {r1 : Ring} (h : Keeps F V s t) : Keeps F V s (t.queueSwap r1) := h.same.ite h

theorem Keeps.wakeFor {p : Nat} (h : Keeps F V s t) : Keeps F V s (t.wakeFor p) := h.foldl fun _ _ _ h => h.wake.wake.ite h

theorem Keeps.accept {r1 : Ring} {ws : List Slot} (h : Keeps F V s t) : Keeps F V s (t.accept r1 ws) :=
  (h.raiseV.addConsist.same.same.same.ite h.raiseV.addConsist.same.same).passCons.wakeFor.examine

theorem Keeps.consistAcceptStep {n : Nat} {slots : List SlotRead} (h : Keeps F V s t) : Keeps F V s (consistAcceptStep n slots t) := by
  unfold Machine.consistAcceptStep
  split
  · exact h
  · extract_lets +onlyGivenNames v1
    have k1 : Keeps F V s v1 := h.grpPoll.flush.settle.ite h
    clear_value v1
    dsimp only
    split
    · exact k1
    · split
      · exact k1.faultRing
      · exact k1.passCons.addConsist.emit
      · exact k1.passCons.addConsist.emit.ite k1
      · exact k1.accept.ite k1.queueSwap

theorem Keeps.cacheLossStep {linkDown : Bool} (h : Keeps F V s t) : Keeps F V s (cacheLossStep linkDown t) := by
  unfold Machine.cacheLossStep
  extract_lets +onlyGivenNames v1
  have k1 : Keeps F V s v1 := h.setFld.ite h.setFld
  clear_value v1
  exact k1.same.ite k1

theorem Keeps.writeHeld {a : HeldWrite} (h : Keeps F V s t) : Keeps F V s (t.writeHeld a) := by
  unfold State.writeHeld
  split
  · exact h.writeRec
  · exact h.emit
  · split
    next e => exact h.writeCtx.snd e
    next e => exact (h.writeCtx.snd e).updRing.emit

theorem Keeps.watch {line : Nat} (h : Keeps F V s t) : Keeps F V s (t.watch line) := h.ite h.same

theorem Keeps.lineCame {line : Nat} {a : Option LineRead} (h : Keeps F V s t) : Keeps F V s (t.lineCame line a) := by
  unfold State.lineCame
  split
  · exact h.seeLine
  · exact h.lineFault
  · exact h

theorem Keeps.cacheReturnStep {speed width : Nat} {reads : List (Nat × LineRead)} (h : Keeps F V s t) :
    Keeps F V s (cacheReturnStep speed width reads t) := by
  unfold Machine.cacheReturnStep
  split
  · exact h
  · dsimp only
    split
    · exact h.setFld.setFld.setFld.unmaskAll
    · exact (((h.setFld.setFld.setFld.foldl fun _ _ _ h => h.watch.lineCame).same.foldl fun _ _ _ h => h.flush).foldl fun _ _ _ h =>
        h.writeHeld).emit.unmaskAll.settle

theorem Keeps.rngResult {v : Nat} (h : Keeps F V s t) : Keeps F V s (t.rngResult v) := h.setFld

theorem Keeps.rngEnableStep (h : Keeps F V s t) : Keeps F V s (rngEnableStep t) := by
  unfold Machine.rngEnableStep
  split
  · exact h
  · exact h.setFld.ite h.rngResult

theorem Keeps.detachRing {r1 : Ring} (h : Keeps F V s t) : Keeps F V s (t.detachRing r1) := by
  unfold State.detachRing
  split
  · exact h.updRing.saveCtx.forgetRing
  · exact h.updRing.saveCtx.ite h

theorem Keeps.dropHeld {x : Group} (h : Keeps F V s t) : Keeps F V s (t.dropHeld x) := (h.foldl fun _ _ _ h => h.dropWb).updGrp

theorem Keeps.abandonRings (h : Keeps F V s t) : Keeps F V s t.abandonRings := by
  unfold State.abandonRings
  exact ((h.foldl fun _ _ _ h => by
    split
    · exact h.dropWb
    · exact h.bump
    · exact h).foldl fun _ _ _ h => h.dropHeld).same

theorem Keeps.rngDisableStep (h : Keeps F V s t) : Keeps F V s (rngDisableStep t) := by
  unfold Machine.rngDisableStep
  split
  · exact h
  · exact (h.setFld.foldl fun _ _ _ h => h.detachRing).ite h.setFld.abandonRings.settle

theorem Keeps.attachStep {n : Nat} {ctx : SlotRead} {rd : LineRead} (h : Keeps F V s t) : Keeps F V s (attachStep n ctx rd t) := by
  unfold Machine.attachStep
  exact h.byCmd fun _ _ h => by
    split
    · exact h.rngResult
    · split
      · exact h.rngResult
      · split
        · exact h.rngResult
        · split
          · split
            · exact h.rngResult
            · dsimp only
              split
              next e => exact (h.same.watch.writeCtx.snd e).forgetRing.rngResult
              next e =>
                have k1 := h.same.watch.writeCtx.snd e
                split
                · exact k1.seeLine.seeProd.rngResult
                · exact k1.lineFault.rngResult
          · exact h.rngResult

theorem Keeps.detachStep {n : Nat} (h : Keeps F V s t) : Keeps F V s (detachStep n t) := by
  unfold Machine.detachStep
  exact h.byCmd fun _ _ h => by
    split
    · exact h.rngResult
    · exact h.rngResult.ite h.detachRing.rngResult

theorem Keeps.ringDrainEndStep {n : Nat} (h : Keeps F V s t) : Keeps F V s (ringDrainEndStep n t) := by
  unfold Machine.ringDrainEndStep
  split
  · exact h
  · split
    · exact h
    · split
      · exact h.forgetRing
      · split
        next e => exact (h.writeCtx.snd e).forgetRing
        next e => exact (h.writeCtx.snd e).emit.forgetRing

theorem Keeps.evqEnableStep {w : Word} (h : Keeps F V s t) : Keeps F V s (evqEnableStep w t) := by
  unfold Machine.evqEnableStep
  split
  · exact h
  · split
    · exact h.setFld.setFld
    · exact h.setFld.setFld.same.evqLostPut.ite h.setFld

theorem Keeps.grpEnableStep {g : Nat} {w : Word} (h : Keeps F V s t) : Keeps F V s (grpEnableStep g w t) := by
  unfold Machine.grpEnableStep
  split
  · exact h
  · split
    · split
      · exact h
      · exact h.setFld.same.ite (h.setFld.same.foldl fun _ _ _ h => h.dropWb).settle
    · exact h.setFld.setFld.same.ite h.setFld

theorem Keeps.grpFaultRetryStep {g : Nat} (h : Keeps F V s t) : Keeps F V s (grpFaultRetryStep g t) := h.updGrp.flush.settle.ite h

theorem Keeps.msixGapExpireStep {g : Nat} (h : Keeps F V s t) : Keeps F V s (msixGapExpireStep g t) := by
  unfold Machine.msixGapExpireStep
  split
  · exact h
  · split
    · exact h
    · exact h.raise.updGrp.ite h.updGrp

theorem Keeps.grpHeadPollStep {g : Nat} (h : Keeps F V s t) : Keeps F V s (grpHeadPollStep g t) := h.grpPoll.flush.settle.ite h

theorem Keeps.cqStallStep {g : Nat} (h : Keeps F V s t) : Keeps F V s (cqStallStep g t) := by
  unfold Machine.cqStallStep
  split
  · exact h
  · exact h.updGrp.emit.ite h

theorem Keeps.evqHeadPollStep (h : Keeps F V s t) : Keeps F V s (evqHeadPollStep t) := h.evqPoll.evqLostPut.ite h

/-! ### Operations of Machine/Reset -/

theorem Keeps.domainSleepStep {d : Nat} (h : Keeps F V s t) : Keeps F V s (domainSleepStep d t) := h.setFld.ite h

theorem Keeps.domainWakeStep {d : Nat} (h : Keeps F V s t) : Keeps F V s (domainWakeStep d t) := h.wake

theorem Keeps.pllLockStep {d : Nat} (h : Keeps F V s t) : Keeps F V s (pllLockStep d t) := by
  unfold Machine.pllLockStep
  split
  · exact h
  · dsimp only
    split
    · split
      · exact h.setFld.same
      · exact h.setFld.ite h.setFld.setFld
    · split
      · exact h.setFld.same
      · exact h.setFld.ite h.setFld.setFld

theorem Keeps.clkForceWriteStep {w : Word} (h : Keeps F V s t) : Keeps F V s (clkForceWriteStep w t) := by
  unfold Machine.clkForceWriteStep
  split
  · exact h
  · exact h.writeReg.foldl fun _ _ _ h => h.domainWakeStep.ite h

theorem Keeps.cxlReferenceClockChangeStep {present : Bool} (h : Keeps F V s t) : Keeps F V s (cxlReferenceClockChangeStep present t) :=
  h.same

theorem Keeps.crystalLostStep (h : Keeps F V s t) : Keeps F V s (crystalLostStep t) := h.same.assertReset

theorem Keeps.aonRailUpStep {busSel : Bool} {addr : Nat} (h : Keeps F V s t) : Keeps F V s (aonRailUpStep busSel addr t) :=
  h.same.assertReset

theorem Keeps.auxiliaryRailLossStep (h : Keeps F V s t) : Keeps F V s (auxiliaryRailLossStep t) := h.clearAll.setReg.same.put

theorem Keeps.powerGoodFallStep (h : Keeps F V s t) : Keeps F V s (powerGoodFallStep t) := h.setFld.assertReset

theorem Keeps.inputSwitchOpenStep (h : Keeps F V s t) : Keeps F V s (inputSwitchOpenStep t) := h.assertReset

theorem Keeps.thermalTripStep {die : Nat} (h : Keeps F V s t) : Keeps F V s (thermalTripStep die t) :=
  h.ite h.setFld.setFld.assertReset

theorem Keeps.watchdogExpireStep (h : Keeps F V s t) : Keeps F V s (watchdogExpireStep t) := h.assertReset.ite h

theorem Keeps.watchdogRestartStep (h : Keeps F V s t) : Keeps F V s (watchdogRestartStep t) := h.setReg.ite h

theorem Keeps.perstAssertStep (h : Keeps F V s t) : Keeps F V s (perstAssertStep t) := h.same.assertReset

theorem Keeps.mctpResetStep {kind : Nat} (h : Keeps F V s t) : Keeps F V s (mctpResetStep kind t) := by
  unfold Machine.mctpResetStep
  split
  · exact h
  · exact h.put.assertReset.ite h.put

theorem Keeps.resetCmdStep {port : Option Nat} (h : Keeps F V s t) : Keeps F V s (resetCmdStep port t) := by
  unfold Machine.resetCmdStep
  split
  · exact h
  next e =>
    have k1 := h.takeMgt e
    exact k1.misroute.ite k1.assertReset

theorem Keeps.resetHoldEndStep {source : Nat} (h : Keeps F V s t) : Keeps F V s (resetHoldEndStep source t) := h.ite h.same

theorem Keeps.releaseDomains {r1 : RstRun} {ds : List Nat} (h : Keeps F V s t) : Keeps F V s (t.releaseDomains r1 ds) := h.setReg.same

theorem Keeps.releaseDie {x : DieRun} (h : Keeps F V s t) : Keeps F V s (t.releaseDie x) := by
  unfold State.releaseDie
  dsimp only
  split
  · exact h.setReg.same.ite h
  · split
    · exact h
    · exact h.setReg.same.ite h

theorem Keeps.resetReleaseStep (h : Keeps F V s t) : Keeps F V s (resetReleaseStep t) := by
  unfold Machine.resetReleaseStep
  split
  · split
    · exact h.releaseDie
    · exact h
  · split
    · exact h
    · split
      · exact h.releaseDomains.ite h
      · split
        · exact h.releaseDomains
        · exact h.releaseDomains.ite h

theorem Keeps.pllLockTimeoutStep {d : Nat} (h : Keeps F V s t) : Keeps F V s (pllLockTimeoutStep d t) := by
  unfold Machine.pllLockTimeoutStep
  split
  · split
    · exact h
    · exact h.setFld.setFld.ite h
  · split
    · exact h
    · dsimp only
      split
      · exact h.setFld.setFld
      · split
        · exact h.setFld.setFld.same
        · split
          · exact h.setFld.setFld.assertReset
          · split
            · exact (h.setFld.setFld.setFld.ite h.setFld.setFld).setReg.same.emit
            · exact (h.setFld.setFld.setFld.ite h.setFld.setFld).setReg.same

theorem Keeps.startupTest {failed : List (EngKind × Nat × Nat)} (h : Keeps F V s t) : Keeps F V s (t.startupTest failed) := by
  unfold State.startupTest
  split
  · exact h
  · exact h.foldl fun _ _ _ h => by
      split
      · exact h
      · split
        · exact h.bump64
        · exact h.bump64.bump.bump.setReg.setFailed.setFld

theorem Keeps.deviceReadyStep {failed : List (EngKind × Nat × Nat)} (h : Keeps F V s t) : Keeps F V s (deviceReadyStep failed t) := by
  unfold Machine.deviceReadyStep
  split
  · exact h
  · exact h.setFld.put.ite h.startupTest.drawInc.same.setFld.put

theorem Keeps.blockResult {v : Nat} (h : Keeps F V s t) : Keeps F V s (t.blockResult v) := h.setFld

theorem Keeps.blockResetStep {w : Word} (h : Keeps F V s t) : Keeps F V s (blockResetStep w t) := by
  unfold Machine.blockResetStep
  exact h.byCmd fun _ _ h => by
    dsimp only
    split
    · split
      · exact h.blockResult
      · exact h.blockResult.ite h.clearEngine.blockResult.emit
    · split
      · exact h.blockResult
      · split
        · exact h.blockResult
        · exact h.blockResult.ite h.same.zeroRegs.blockResult.emit

theorem Keeps.dieResult {v : Nat} (h : Keeps F V s t) : Keeps F V s (t.dieResult v) := h.setFld

theorem Keeps.dieFenceStep {kind die cause : Nat} (h : Keeps F V s t) : Keeps F V s (dieFenceStep kind die cause t) := by
  unfold Machine.dieFenceStep
  split
  · exact h.fenceDie.ite h
  · exact h.byCmd fun _ _ h => h.dieResult.ite (h.dieResult.fenceDie.ite (h.dieResult.ite h.dieResult.fenceDie))

theorem Keeps.dieRestartStep {kind die : Nat} (h : Keeps F V s t) : Keeps F V s (dieRestartStep kind die t) :=
  h.byCmd fun _ _ h => h.dieResult.ite (h.dieResult.ite h.dieResult.setFld.setReg.setReg.same)

theorem Keeps.reviveCompute {die : Nat} (h : Keeps F V s t) : Keeps F V s (t.reviveCompute die) := h.same.zeroRegs

theorem Keeps.reviveMemory {die : Nat} (h : Keeps F V s t) : Keeps F V s (t.reviveMemory die).2 := by
  unfold State.reviveMemory
  exact (h.foldl fun _ _ _ h => h.poisonPage).same.zeroRegs

theorem Keeps.reviveIo {die : Nat} (h : Keeps F V s t) : Keeps F V s (t.reviveIo die) := h.same.foldl fun _ _ _ h => h.setFld.zeroRegs

theorem Keeps.dieRestartedStep {ok : Bool} (h : Keeps F V s t) : Keeps F V s (dieRestartedStep ok t) := by
  unfold Machine.dieRestartedStep
  split
  · exact h
  · refine h.ite ?_
    extract_lets _ s1 took doms s2 said fenced _ s3 s4
    have k2 : Keeps F V s s2 := h.same.setFld.setReg
    clear_value s2
    have k4 : Keeps F V s s4 := k2.same.foldl fun _ _ _ h => h.clearEngine
    clear_value s4
    have told {u : State} {r pages : Nat} (k : Keeps F V s u) : Keeps F V s (said r pages u) := k.dieResult.emit
    clear_value said
    refine (told k2.setReg).ite ?_
    split
    next u e =>
      refine (told ?_).settle
      split at e
      · cases e
        exact k4.reviveCompute
      · exact k4.reviveMemory.snd e
      · cases e
        exact k4.reviveIo

/-! ### Operations of Machine/Tables -/

theorem Keeps.putTable {q : TableSlot} (h : Keeps F V s t) : Keeps F V s (t.putTable q) := h.same

theorem Keeps.tableRun {die : Nat} {ue : Bool} (h : Keeps F False s t) : Keeps F False s (t.tableRun die ue) := by
  unfold State.tableRun
  extract_lets w slot p a inP reads
  split
  next e =>
    have k := h.prepareFor.snd e
    refine k.ite ?_
    extract_lets bad file r s2 s3
    have k2 : Keeps F False s s2 := k.foldl fun _ _ _ h => h.noteRead
    clear_value s2
    exact (show Keeps F False s s3 from k2.putTable.ite k2).setFld.setFld

theorem Keeps.tableLoadStep {die : Nat} {w : Option Word} {ue : Bool} (h : Keeps F False s t) :
    Keeps F False s (tableLoadStep die w ue t) := by
  unfold Machine.tableLoadStep
  dsimp only
  split
  · exact h
  · split
    · exact h.tableRun.settle.ite h
    · split
      · exact h
      · exact h.setFld.ite h.setReg.setFld.tableRun.settle

theorem Keeps.tableClearStep {die : Nat} {w : Word} (h : Keeps F V s t) : Keeps F V s (tableClearStep die w t) := by
  unfold Machine.tableClearStep
  split
  · exact h
  · exact h.byCmd fun _ _ h => h.same.setFld.ite h.setFld

/-! ### Operations of Machine/SecOps -/

theorem Keeps.bootGood (h : Keeps F V s t) : Keeps F V s t.bootGood := h.same.setReg.freeDies

theorem Keeps.bootBad {code : Nat} (h : Keeps F V s t) : Keeps F V s (t.bootBad code) := h.same.setReg.keepDies

theorem Keeps.boot {flashOk : Bool} (h : Keeps F V s t) : Keeps F V s (t.boot flashOk) := by
  unfold State.boot
  split
  · exact h.bootBad
  · split
    · exact h.same.bootBad
    · split
      · exact h.bootGood
      · exact h.bootBad

theorem Keeps.setUpdate {u1 : Option Update} (h : Keeps F V s t) : Keeps F V s (t.setUpdate u1) := h.same

theorem Keeps.rcvShow {busy : Nat} {result : Option Nat} (h : Keeps F V s t) : Keeps F V s (t.rcvShow busy result) := by
  unfold State.rcvShow
  split
  · exact h
  · dsimp only
    split
    · exact h.setFld.setFld
    · exact h.setFld

theorem Keeps.eraseFlash (h : Keeps F V s t) : Keeps F V s t.eraseFlash := h.same

theorem Keeps.denyUnstarted (h : Keeps F V s t) : Keeps F V s t.denyUnstarted := h.ite (h.foldl fun _ _ _ h => h.cancelWb).settle

theorem Keeps.sealEvent {p : Option Nat} {digest : List Byte} (h : Keeps F V s t) : Keeps F V s (t.sealEvent p digest) := h.emit

theorem Keeps.sealResult {r1 : Nat} (h : Keeps F V s t) : Keeps F V s (t.sealResult r1) := h.setFld

/-! ### Operations of Machine/Sec -/

theorem Keeps.bootVerifyStep {flashOk : Bool} (h : Keeps F V s t) : Keeps F V s (bootVerifyStep flashOk t) := h.ite h.boot

theorem Keeps.rcvStartStep {host : BytesRead} (h : Keeps F V s t) : Keeps F V s (rcvStartStep host t) := by
  unfold Machine.rcvStartStep
  dsimp only
  split
  · exact h.setFld.setFld
  · exact h.byCmd fun _ _ h => by
      split
      · exact h.setFld
      · split
        · exact h.setFld
        · split
          · split
            · exact h.eraseFlash.setUpdate.same.setReg.setFld
            · exact h.setFld
          · exact h.same.setFld

theorem Keeps.rcvTransferDoneStep (h : Keeps F V s t) : Keeps F V s (rcvTransferDoneStep t) := by
  unfold Machine.rcvTransferDoneStep
  split
  · exact h
  · split
    · exact h
    · exact h.setUpdate.setReg.setFld.setFld.boot.ite h.setUpdate.setReg.setFld.setFld

theorem Keeps.mgmtSay {msg code : Nat} (h : Keeps F V s t) : Keeps F V s (t.mgmtSay msg code) := h.put

theorem Keeps.requestUpdateStep {size : Nat} (h : Keeps F V s t) : Keeps F V s (requestUpdateStep size t) := by
  unfold Machine.requestUpdateStep
  split
  · exact h
  · exact h.mgmtSay.ite h.setUpdate.rcvShow.mgmtSay

theorem Keeps.passComponentTableStep (h : Keeps F V s t) : Keeps F V s (passComponentTableStep t) := h.mgmtSay.ite h

theorem Keeps.pldmFail {msg code : Nat} (h : Keeps F V s t) : Keeps F V s (t.pldmFail msg code) := h.setUpdate.rcvShow.mgmtSay

theorem Keeps.updateComponentStep {head : List Byte} (h : Keeps F V s t) : Keeps F V s (updateComponentStep head t) := by
  unfold Machine.updateComponentStep
  split
  · exact h
  · split
    · exact h
    · dsimp only
      split
      · split
        · exact h.pldmFail
        · exact h.eraseFlash.setUpdate.mgmtSay.setReg.ite h.eraseFlash.setUpdate.mgmtSay
      · exact h.pldmFail

theorem Keeps.requestFirmwareDataStep {off : Nat} {bytes : List Byte} (h : Keeps F V s t) :
    Keeps F V s (requestFirmwareDataStep off bytes t) := by
  unfold Machine.requestFirmwareDataStep
  split
  · exact h
  · split
    · exact h
    · exact h.same.setReg.ite h.same

theorem Keeps.transferCompleteStep (h : Keeps F V s t) : Keeps F V s (transferCompleteStep t) := by
  unfold Machine.transferCompleteStep
  split
  · exact h
  · exact h.setUpdate.mgmtSay.ite h

theorem Keeps.verifyCompleteStep (h : Keeps F V s t) : Keeps F V s (verifyCompleteStep t) := by
  unfold Machine.verifyCompleteStep
  split
  · exact h
  · split
    · exact h
    · exact h.setUpdate.mgmtSay.ite h.pldmFail

theorem Keeps.applyCompleteStep (h : Keeps F V s t) : Keeps F V s (applyCompleteStep t) := by
  unfold Machine.applyCompleteStep
  split
  · exact h
  · split
    · exact h
    · exact h.setUpdate.rcvShow.mgmtSay.boot.ite h.setUpdate.rcvShow.mgmtSay

theorem Keeps.svnCommitStep {mctp : Bool} (h : Keeps F V s t) : Keeps F V s (svnCommitStep mctp t) := by
  unfold Machine.svnCommitStep
  dsimp only
  split
  · split
    · split
      · exact h.mgmtSay
      · exact h.same.mgmtSay.emit
    · exact h
  · split
    · exact h.setFld.ite h
    · exact h.byCmd fun _ _ h => by
        split
        · exact h.setFld
        · exact h.same.setFld.emit

theorem Keeps.sealDeviceStep (h : Keeps F V s t) : Keeps F V s (sealDeviceStep t) :=
  h.byCmd fun _ _ h => h.sealResult.ite h.same.sealResult.sealEvent

theorem Keeps.sealPartitionStep {p : Nat} (h : Keeps F V s t) : Keeps F V s (sealPartitionStep p t) :=
  h.byCmd fun _ _ h => h.sealResult.ite (h.sealResult.ite (h.sealResult.ite h.same.setFld.sealResult.sealEvent.denyUnstarted))

theorem Keeps.setSpdm {x : Spdm} (h : Keeps F V s t) : Keeps F V s (t.setSpdm x) := h.same

theorem Keeps.spdmSay {q code : Nat} {data : List Byte} (h : Keeps F V s t) : Keeps F V s (t.spdmSay q code data) := h.put

theorem Keeps.spdmError {q code : Nat} (h : Keeps F V s t) : Keeps F V s (t.spdmError q code) := h.spdmSay

theorem Keeps.spdmOn {q : Nat} {need : Spdm → Bool} {f : Firmware → State → State}
    (h : Keeps F V s t) (k : ∀ u v x0, Keeps F V u v → Keeps F V u (f x0 v)) : Keeps F V s (t.spdmOn q need f) := by
  unfold State.spdmOn
  split
  · exact h
  · split
    · exact h
    · exact (k _ _ _ h).ite h.spdmError

theorem Keeps.spdmSeal {q code : Nat} {key : List Byte} {n : Nat} {data : List Byte} (h : Keeps F V s t) :
    Keeps F V s (t.spdmSeal q code key n data) :=
  h.spdmSay

/-! ### Operations of Machine/Bits -/

theorem Keeps.signed {q : Nat} {fw : Firmware} {code : Nat} {body seen : List Byte} (h : Keeps F V s t) :
    Keeps F V s (t.signed q fw code body seen) :=
  h.spdmError.ite h.spdmSay

/-! ### Operations of Machine/Sec -/

theorem Keeps.getVersionStep {q : Nat} (h : Keeps F V s t) : Keeps F V s (getVersionStep q t) :=
  h.spdmOn fun _ _ _ h => h.setSpdm.spdmSay

theorem Keeps.getCapabilitiesStep {q : Nat} (h : Keeps F V s t) : Keeps F V s (getCapabilitiesStep q t) := by
  unfold Machine.getCapabilitiesStep
  exact h.spdmOn fun _ _ _ h => by
    split
    next e => exact (h.drawBytes.snd e).setSpdm.spdmSay

theorem Keeps.negotiateAlgorithmsStep {q : Nat} {offered : List SpdmAlg} (h : Keeps F V s t) :
    Keeps F V s (negotiateAlgorithmsStep q offered t) :=
  h.spdmOn fun _ _ _ h => h.spdmError.ite h.setSpdm.spdmSay

theorem Keeps.getDigestsStep {q : Nat} (h : Keeps F V s t) : Keeps F V s (getDigestsStep q t) := h.spdmOn fun _ _ _ h => h.spdmSay

theorem Keeps.getCertificateStep {q slot off len : Nat} (h : Keeps F V s t) : Keeps F V s (getCertificateStep q slot off len t) :=
  h.spdmOn fun _ _ _ h => h.spdmError.ite h.spdmSay

theorem Keeps.challengeStep {q slot : Nat} {nonce : List Byte} (h : Keeps F V s t) : Keeps F V s (challengeStep q slot nonce t) := by
  unfold Machine.challengeStep
  exact h.spdmOn fun _ _ _ h => by
    split
    · exact h.spdmError
    · split
      next e => exact (h.drawBytes.snd e).signed

theorem Keeps.getMeasurementsStep {q : Nat} {index : Option Nat} {sign : Bool} {nonce : List Byte} (h : Keeps F V s t) :
    Keeps F V s (getMeasurementsStep q index sign nonce t) := by
  unfold Machine.getMeasurementsStep
  exact h.spdmOn fun _ _ _ h => by
    dsimp only
    split
    · split
      · exact h.spdmError
      · exact h.drawBytes.signed.ite h.spdmSay
    · split
      · exact h.spdmError
      · exact h.drawBytes.signed.ite h.spdmSay

theorem Keeps.keyExchangeStep {q : Nat} {key : List Byte} (h : Keeps F V s t) : Keeps F V s (keyExchangeStep q key t) := by
  unfold Machine.keyExchangeStep
  exact h.spdmOn fun _ _ _ h => by
    split
    next e =>
      have k1 := h.drawBytes.snd e
      exact k1.signed.ite k1.signed.setSpdm

theorem Keeps.finishStep {q : Nat} {ok : Bool} (h : Keeps F V s t) : Keeps F V s (finishStep q ok t) :=
  h.spdmOn fun _ _ _ h => h.setSpdm.spdmSeal.ite h.setSpdm.spdmError

theorem Keeps.inSession {q code : Nat} {data : List Byte} (h : Keeps F V s t) : Keeps F V s (t.inSession q code data) := by
  unfold State.inSession
  split
  · exact h.setSpdm.spdmSeal

theorem Keeps.endSessionStep {q : Nat} (h : Keeps F V s t) : Keeps F V s (endSessionStep q t) :=
  h.spdmOn fun _ _ _ h => h.inSession.setSpdm

theorem Keeps.ideKmStep {q : Nat} {key : List Byte} (h : Keeps F V s t) : Keeps F V s (ideKmStep q key t) :=
  h.spdmOn fun _ _ _ h => h.inSession.ite (h.same.inSession.ite (h.inSession.ite h.setFld.inSession))

theorem Keeps.debugChallengeReadStep {mctp : Bool} (h : Keeps F V s t) : Keeps F V s (debugChallengeReadStep mctp t) := by
  unfold Machine.debugChallengeReadStep
  split
  · exact h
  · dsimp only
    exact h.put.ite h.drawBytes.same.put

theorem Keeps.debugUnlockStep {level : Nat} {sig : List Byte} {mctp : Bool} (h : Keeps F V s t) :
    Keeps F V s (debugUnlockStep level sig mctp t) := by
  unfold Machine.debugUnlockStep
  split
  · exact h
  · dsimp only
    split
    · exact h.same.emit
    · exact h.same.setFld.emit.denyUnstarted

theorem Keeps.debugChallengeExpireStep (h : Keeps F V s t) : Keeps F V s (debugChallengeExpireStep t) := h.same

theorem Keeps.debugLockoutEndStep (h : Keeps F V s t) : Keeps F V s (debugLockoutEndStep t) := h.same

theorem Keeps.mctpControlMessageStep {msg : List Byte} (h : Keeps F V s t) : Keeps F V s (mctpControlMessageStep msg t) := h.put.ite h

/-! ### Operations of Machine/Registers -/

theorem Keeps.bar0BadAccessStep {off size : Nat} (h : Keeps F V s t) : Keeps F V s (bar0BadAccessStep off size t) := h.ite h.put

theorem Keeps.loReadLatchStep {off : Nat} (h : Keeps F V s t) : Keeps F V s (loReadLatchStep off t) := h.same.ite h

theorem Keeps.registerWriteStep {off : Nat} {w : Word} (h : Keeps F V s t) : Keeps F V s (registerWriteStep off w t) := by
  unfold Machine.registerWriteStep
  split
  · exact h
  · split
    · exact h.cmdWrite
    · split
      · exact h
      · split
        · exact h.setReg.unmask
        · split
          · exact h.noteBreak
          · dsimp only
            split
            · exact h.setFld.ite h.writeRegAs
            · exact h.writeRegAs.sweepBusy.rePlace.reCle.settle.ite h.writeRegAs

theorem Keeps.cfgServe {speed width : Nat} {a : CfgOp} (h : Keeps F V s t) : Keeps F V s (t.cfgServe speed width a) := by
  unfold State.cfgServe
  split
  · exact (h.withIo fun _ _ h => h.cacheReturnStep).ite h.setFld
  · exact h.cacheLossStep.ite h
  · exact h.setFld
  · exact h.same.unmaskAll
  · exact h.same
  · exact h.put
  · exact h.same.unmaskAll.ite h.same

theorem Keeps.configRequestStep {speed width : Nat} {op : CfgOp} (h : Keeps F V s t) :
    Keeps F V s (configRequestStep speed width op t) := by
  unfold Machine.configRequestStep
  split
  · exact h
  · exact h.setFld.setFld.setFld.cfgServe.put.ite h.setFld.setFld.setFld.put

/-! ### Operations of Machine/Run -/

theorem Keeps.handed {w : Wb} (h : Keeps F V s t) : Keeps F V s (t.handed w) := h.ite h.same

theorem Keeps.failTt {w : Wb} {st detail : Nat} (h : Keeps F V s t) : Keeps F V s (t.failTt w st detail) := h.dropRun.endWb

theorem Keeps.waitRoom {w : Wb} {die : Nat} (h : Keeps F V s t) : Keeps F V s (t.waitRoom w die) := by
  unfold State.waitRoom
  split
  · exact h.ite h.updRun.bump
  · exact h

theorem Keeps.issue {w : Wb} {die : Nat} {q : List Byte} {shapes : List Nat} {b : Nat} (h : Keeps F V s t) :
    Keeps F V s (t.issue w die q shapes b) :=
  h.failTt.ite h.dropRun.same.addCopy.updWb.schedule

theorem Keeps.checkTt {w : Wb} (h : Keeps F False s t) : Keeps F False s (t.checkTt w) := by
  unfold State.checkTt
  extract_lets a shapes v die
  split
  next e =>
    have k1 := (show Keeps F False s v from h.handed).prepareFor.snd e
    clear_value v
    refine k1.ite ?_
    extract_lets hd s2
    have k2 : Keeps F False s s2 := k1.noteRead
    clear_value s2
    split
    · exact k2.failTt
    · split
      · exact k2.failTt
      · refine k2.failTt.ite (k1.waitRoom.ite ?_)
        split
        next e =>
          have k3 := k1.prepareFor.snd e
          refine k3.ite ?_
          extract_lets q s4
          have k4 : Keeps F False s s4 := k3.noteRead
          clear_value s4
          split
          · exact k4.failTt
          · refine k4.failTt.ite ?_
            split
            · exact k4.failTt
            · exact k4.issue

theorem Keeps.runTimetableStep {wid : Nat} (h : Keeps F False s t) : Keeps F False s (runTimetableStep wid t) := by
  unfold Machine.runTimetableStep
  split
  · exact h
  · exact h.checked fun _ _ h => h.checkTt

theorem Keeps.tstoreRoomFreeStep {die : Nat} (h : Keeps F False s t) : Keeps F False s (tstoreRoomFreeStep die t) :=
  h.foldl fun _ _ _ h => h.ite (h.runTimetableStep.ite ((h.addCopy.beginInsts.ite h).ite h))

theorem Keeps.positionReportStep {kind : EngKind} {inst ns : Nat} (h : Keeps F V s t) :
    Keeps F V s (positionReportStep kind inst ns t) := by
  unfold Machine.positionReportStep
  split
  · exact h
  · split
    · exact h
    · exact h.ite h.same.requeue

end

/-- What a command answers is a state that keeps what every operation keeps, with nothing of the command left over. -/
def Answers (s : State) (o : Host.Outcome State Fault Refusal) : Prop := ∃ t, o = .next t ∧ Keeps True True s t

/-- Every command answers, by the rule of its step: what it found and what served it is taken back where the step does not do so itself. -/
theorem answers_exec (c : Instr) (s : State) : Answers s (exec c s) :=
  have h {F V : Prop} : Keeps F V s s := .refl
  match c with
  | .doorbellInvalidation _ => ⟨_, rfl, h.doorbellInvalidationStep⟩
  | .doorbellReread _ _ _ => ⟨_, rfl, h.withIo fun _ _ h => h.doorbellRereadStep⟩
  | .consistAccept _ _ _ => ⟨_, rfl, h.withIo fun _ _ h => h.consistAcceptStep⟩
  | .cacheLoss _ => ⟨_, rfl, h.cacheLossStep⟩
  | .cacheReturn _ _ _ _ => ⟨_, rfl, h.withIo fun _ _ h => h.cacheReturnStep⟩
  | .nop _ => ⟨_, rfl, h.nopStep⟩
  | .timestamp _ _ => ⟨_, rfl, (h.withIo fun _ _ h => h.timestampStep).served⟩
  | .runTimetable _ => ⟨_, rfl, h.meetsErr.runTimetableStep.served⟩
  | .xfer _ => ⟨_, rfl, h.xferStep⟩
  | .fill _ => ⟨_, rfl, h.fillStep⟩
  | .map _ => ⟨_, rfl, h.mapStep⟩
  | .unmap _ => ⟨_, rfl, h.unmapStep⟩
  | .hint _ => ⟨_, rfl, h.hintStep⟩
  | .lendHost _ => ⟨_, rfl, h.lendHostStep⟩
  | .lendFabric _ => ⟨_, rfl, h.lendFabricStep⟩
  | .reclaim _ => ⟨_, rfl, h.reclaimStep⟩
  | .reclaimDone _ => ⟨_, rfl, h.reclaimDoneStep⟩
  | .unmapRelease _ => ⟨_, rfl, h.unmapReleaseStep⟩
  | .hash _ _ => ⟨_, rfl, h.meetsErr.kvOpStep.served⟩
  | .lookup _ _ => ⟨_, rfl, h.meetsErr.kvOpStep.served⟩
  | .insert _ _ => ⟨_, rfl, h.meetsErr.kvOpStep.served⟩
  | .release _ _ => ⟨_, rfl, h.meetsErr.kvOpStep.served⟩
  | .remove _ _ => ⟨_, rfl, h.meetsErr.kvOpStep.served⟩
  | .viewOpen _ _ => ⟨_, rfl, h.meetsErr.viewOpenStep.served⟩
  | .viewClose _ _ => ⟨_, rfl, h.meetsErr.viewCloseStep.served⟩
  | .viewCloseDone _ => ⟨_, rfl, h.viewCloseDoneStep⟩
  | .viewRead _ _ _ _ => ⟨_, rfl, h.viewReadStep.served⟩
  | .codecOpen _ => ⟨_, rfl, h.meetsErr.codecOpenStep.served⟩
  | .codecClose _ => ⟨_, rfl, h.codecCloseStep.served⟩
  | .decode _ => ⟨_, rfl, h.decodeStep.served⟩
  | .encode _ => ⟨_, rfl, h.encodeStep.served⟩
  | .codecRelease _ => ⟨_, rfl, h.codecReleaseStep.served⟩
  | .pictureDone _ _ _ => ⟨_, rfl, h.pictureDoneStep.served⟩
  | .tileRowBoundary _ _ => ⟨_, rfl, h.tileRowBoundaryStep⟩
  | .classAge _ => ⟨_, rfl, h.classAgeStep⟩
  | .allReduce _ _ => ⟨_, rfl, h.meetsErr.beginColl.served⟩
  | .reduceScatter _ _ => ⟨_, rfl, h.meetsErr.beginColl.served⟩
  | .allGather _ _ => ⟨_, rfl, h.meetsErr.beginColl.served⟩
  | .allToAllV _ _ => ⟨_, rfl, h.meetsErr.beginColl.served⟩
  | .collOpen _ => ⟨_, rfl, h.meetsErr.collOpenStep.seen⟩
  | .join _ => ⟨_, rfl, (h.onColl fun _ _ _ _ _ h => h.meetsErr.ite (h.meetsErr.poisonColl.ite h.meetsErr.updColl)).seen⟩
  | .joinResend _ => ⟨_, rfl, h.joinResendStep⟩
  | .grant _ => ⟨_, rfl, (h.onColl fun _ _ _ _ _ h => h.meetsErr.updColl).seen⟩
  | .data _ _ => ⟨_, rfl, (h.onColl fun _ _ _ _ _ h => h.bump64.chargeWb.meetsErr.addRx).seen⟩
  | .check _ => ⟨_, rfl, h.onColl fun _ _ _ _ _ h => h.addRx⟩
  | .verdict _ => ⟨_, rfl, h.onColl fun _ _ _ _ _ h => h.updColl.poisonEnd⟩
  | .poison _ => ⟨_, rfl, h.onColl fun _ _ _ _ _ h => h.updColl.poisonColl.poisonEnd⟩
  | .abort _ => ⟨_, rfl, h.onColl fun _ _ _ _ _ h => h.stallColl⟩
  | .collStepTimeout _ _ => ⟨_, rfl, h.collStepTimeoutStep⟩
  | .tileNotice _ => ⟨_, rfl, h.tileNoticeStep⟩
  | .tstoreRoomFree _ => ⟨_, rfl, h.tstoreRoomFreeStep.served⟩
  | .mxeStep _ _ _ _ => ⟨_, rfl, h.mxeStepStep.served⟩
  | .positionReport _ _ _ => ⟨_, rfl, h.positionReportStep⟩
  | .epilogueDrainDone _ _ _ _ => ⟨_, rfl, h.epilogueDrainDoneStep.served⟩
  | .theodoliteCheckDone _ => ⟨_, rfl, h.theodoliteCheckDoneStep.seen⟩
  | .vxeStep _ _ _ _ => ⟨_, rfl, h.vxeStepStep.served⟩
  | .cveStep _ _ _ _ => ⟨_, rfl, h.cveStepStep.served⟩
  | .waybillComplete _ _ => ⟨_, rfl, h.withIo fun _ _ h => h.waybillCompleteStep⟩
  | .msixGapExpire _ => ⟨_, rfl, h.msixGapExpireStep⟩
  | .grpHeadPoll _ _ => ⟨_, rfl, h.withIo fun _ _ h => h.grpHeadPollStep⟩
  | .cqStall _ => ⟨_, rfl, h.cqStallStep⟩
  | .evqHeadPoll _ => ⟨_, rfl, h.withIo fun _ _ h => h.evqHeadPollStep⟩
  | .ringDrainEnd _ _ => ⟨_, rfl, h.withIo fun _ _ h => h.ringDrainEndStep⟩
  | .rngEnable => ⟨_, rfl, h.rngEnableStep⟩
  | .rngDisable _ => ⟨_, rfl, h.withIo fun _ _ h => h.rngDisableStep⟩
  | .attach _ _ _ _ => ⟨_, rfl, h.withIo fun _ _ h => h.attachStep⟩
  | .detach _ _ => ⟨_, rfl, h.withIo fun _ _ h => h.detachStep⟩
  | .evqEnable _ _ => ⟨_, rfl, h.withIo fun _ _ h => h.evqEnableStep⟩
  | .grpEnable _ _ _ => ⟨_, rfl, h.grpEnableStep⟩
  | .grpFaultRetry _ _ => ⟨_, rfl, h.withIo fun _ _ h => h.grpFaultRetryStep⟩
  | .bar0BadAccess _ _ _ => ⟨_, rfl, h.bar0BadAccessStep⟩
  | .loReadLatch _ => ⟨_, rfl, h.loReadLatchStep⟩
  | .registerWrite _ _ => ⟨_, rfl, h.registerWriteStep⟩
  | .mxeCtrClr _ => ⟨_, rfl, h.mxeCtrClrStep⟩
  | .mxeNfClr _ => ⟨_, rfl, h.mxeNfClrStep⟩
  | .thdClrEntry _ => ⟨_, rfl, h.thdClrEntryStep⟩
  | .thdClrAll _ => ⟨_, rfl, h.thdClrAllStep⟩
  | .vxeCtrClr _ => ⟨_, rfl, h.vxeCtrClrStep⟩
  | .tableLoad _ _ => ⟨_, rfl, h.noteMarks.tableLoadStep.served⟩
  | .tableClear _ _ => ⟨_, rfl, h.tableClearStep⟩
  | .gazEnable _ _ => ⟨_, rfl, h.gazEnableStep⟩
  | .gazCtrClr _ => ⟨_, rfl, h.gazCtrClrStep⟩
  | .expCtrClr _ => ⟨_, rfl, h.expCtrClrStep⟩
  | .srvCtrClr _ => ⟨_, rfl, h.srvCtrClrStep⟩
  | .xfeCtrClr _ => ⟨_, rfl, h.xfeCtrClrStep⟩
  | .cveCtrClr _ => ⟨_, rfl, h.cveCtrClrStep⟩
  | .cdeCtrClr _ => ⟨_, rfl, h.cdeCtrClrStep⟩
  | .cleCtrClr _ => ⟨_, rfl, h.cleCtrClrStep⟩
  | .quotaWrite _ _ => ⟨_, rfl, h.quotaWriteStep⟩
  | .poolFaultClear _ _ => ⟨_, rfl, h.poolFaultClearStep⟩
  | .moveStart _ => ⟨_, rfl, h.moveStartStep⟩
  | .moveSwitch _ _ => ⟨_, rfl, h.moveSwitchStep.seen⟩
  | .moveDrainEnd _ _ => ⟨_, rfl, h.moveDrainEndStep⟩
  | .poolFault _ _ => ⟨_, rfl, h.poolFaultStep⟩
  | .heatDecay _ => ⟨_, rfl, h.heatDecayStep⟩
  | .xferPieceDone _ _ _ _ _ _ => ⟨_, rfl, (h.withIo fun _ _ h => h.xferPieceDoneStep).seen⟩
  | .hostHdmAccess _ _ _ => ⟨_, rfl, h.hostHdmAccessStep.seen⟩
  | .portEnable _ => ⟨_, rfl, h.portEnableStep⟩
  | .portDisable _ => ⟨_, rfl, h.portDisableStep⟩
  | .portRetrain _ => ⟨_, rfl, h.portRetrainStep⟩
  | .linkTrained _ _ => ⟨_, rfl, h.linkTrainedStep⟩
  | .frameLock _ => ⟨_, rfl, h.frameLockStep⟩
  | .lockLost _ => ⟨_, rfl, h.lockLostStep⟩
  | .laneLost _ => ⟨_, rfl, h.laneLostStep⟩
  | .flitData _ _ => ⟨_, rfl, h.flitIn⟩
  | .flitNak _ _ => ⟨_, rfl, h.flitIn⟩
  | .flitIdle _ _ => ⟨_, rfl, h.flitIn⟩
  | .replayTimeout _ => ⟨_, rfl, h.replay.pumpPort⟩
  | .ackTimeout _ => ⟨_, rfl, h.ackTimeoutStep⟩
  | .assign _ => ⟨_, rfl, h.assignStep⟩
  | .noAssign _ => ⟨_, rfl, h.noAssignStep⟩
  | .read _ _ => ⟨_, rfl, h.readStep.seen⟩
  | .write _ => ⟨_, rfl, h.writeStep⟩
  | .atomicAdd _ => ⟨_, rfl, h.atomic⟩
  | .atomicSwap _ => ⟨_, rfl, h.atomic⟩
  | .atomicCas _ => ⟨_, rfl, h.atomic⟩
  | .readRsp _ => ⟨_, rfl, h.response⟩
  | .writeRsp _ => ⟨_, rfl, h.response⟩
  | .atomicRsp _ => ⟨_, rfl, h.response⟩
  | .resolveRsp _ => ⟨_, rfl, h.resolveRspStep⟩
  | .resolveTimeout _ => ⟨_, rfl, h.resolveTimeoutStep⟩
  | .notice _ => ⟨_, rfl, h.noticeStep⟩
  | .resetCmd _ => ⟨_, rfl, h.resetCmdStep⟩
  | .fabTimeout _ => ⟨_, rfl, h.fabTimeoutStep⟩
  | .tagQuarantineEnd _ => ⟨_, rfl, h.tagQuarantineEndStep⟩
  | .vrlPortClr _ => ⟨_, rfl, h.vrlPortClrStep⟩
  | .vrlCtrClr => ⟨_, rfl, h.vrlCtrClrStep⟩
  | .create _ => ⟨_, rfl, h.createStep⟩
  | .partitionRemove _ => ⟨_, rfl, h.partitionRemoveStep⟩
  | .evict _ => ⟨_, rfl, h.evictStep⟩
  | .suspend _ => ⟨_, rfl, h.suspendStep⟩
  | .resume _ => ⟨_, rfl, h.resumeStep⟩
  | .instanceFree _ _ => ⟨_, rfl, h.instanceFreeStep⟩
  | .semSet _ => ⟨_, rfl, h.semSetStep⟩
  | .semRangeWrite _ _ => ⟨_, rfl, h.semRangeWriteStep⟩
  | .modeWrite _ _ => ⟨_, rfl, h.modeWriteStep⟩
  | .shareWrite _ _ => ⟨_, rfl, h.shareWriteStep⟩
  | .prtCtrClr _ => ⟨_, rfl, h.prtCtrClrStep⟩
  | .managementEpoch _ _ => ⟨_, rfl, h.withIo fun _ _ h => h.managementEpochStep⟩
  | .governorEval _ _ => ⟨_, rfl, h.governorEvalStep⟩
  | .brownout _ _ => ⟨_, rfl, h.brownoutStep⟩
  | .brownoutEnd => ⟨_, rfl, h.brownoutEndStep⟩
  | .currentLimit _ _ => ⟨_, rfl, h.currentLimitStep⟩
  | .ilimRelease => ⟨_, rfl, h.ilimReleaseStep⟩
  | .dieHot _ _ => ⟨_, rfl, h.dieHotStep⟩
  | .flowLow => ⟨_, rfl, h.flowLowStep⟩
  | .flowRelease => ⟨_, rfl, h.flowReleaseStep⟩
  | .leak _ => ⟨_, rfl, h.leakStep⟩
  | .sensorRefFail _ _ => ⟨_, rfl, h.sensorRefFailStep⟩
  | .sensorRefPass _ => ⟨_, rfl, h.sensorRefPassStep⟩
  | .ballastHoldExpire _ => ⟨_, rfl, h.ballastHoldExpireStep⟩
  | .pwrStatClr => ⟨_, rfl, h.pwrStatClrStep⟩
  | .domainSleep _ => ⟨_, rfl, h.domainSleepStep⟩
  | .domainWake _ => ⟨_, rfl, h.domainWakeStep⟩
  | .pllLock _ => ⟨_, rfl, h.pllLockStep⟩
  | .clkForceWrite _ => ⟨_, rfl, h.clkForceWriteStep⟩
  | .crystalLost => ⟨_, rfl, h.crystalLostStep⟩
  | .aonRailUp _ _ => ⟨_, rfl, h.aonRailUpStep⟩
  | .powerGoodFall => ⟨_, rfl, h.powerGoodFallStep⟩
  | .inputSwitchOpen => ⟨_, rfl, h.inputSwitchOpenStep⟩
  | .thermalTrip _ => ⟨_, rfl, h.thermalTripStep⟩
  | .watchdogExpire => ⟨_, rfl, h.watchdogExpireStep⟩
  | .perstAssert => ⟨_, rfl, h.perstAssertStep⟩
  | .hotReset => ⟨_, rfl, h.assertReset⟩
  | .functionLevelReset => ⟨_, rfl, h.assertReset⟩
  | .mctpReset _ => ⟨_, rfl, h.mctpResetStep⟩
  | .resetHoldEnd _ => ⟨_, rfl, h.resetHoldEndStep⟩
  | .resetRelease => ⟨_, rfl, h.resetReleaseStep⟩
  | .pllLockTimeout _ => ⟨_, rfl, h.pllLockTimeoutStep⟩
  | .deviceReady _ => ⟨_, rfl, h.deviceReadyStep⟩
  | .blockReset _ => ⟨_, rfl, h.blockResetStep⟩
  | .dieFence _ _ _ => ⟨_, rfl, h.dieFenceStep⟩
  | .dieRestart _ _ => ⟨_, rfl, h.dieRestartStep⟩
  | .dieRestarted _ => ⟨_, rfl, h.dieRestartedStep⟩
  | .bootVerify _ => ⟨_, rfl, h.bootVerifyStep⟩
  | .rcvStart _ => ⟨_, rfl, h.rcvStartStep⟩
  | .rcvTransferDone => ⟨_, rfl, h.rcvTransferDoneStep⟩
  | .requestUpdate _ => ⟨_, rfl, h.requestUpdateStep⟩
  | .passComponentTable => ⟨_, rfl, h.passComponentTableStep⟩
  | .updateComponent _ => ⟨_, rfl, h.updateComponentStep⟩
  | .requestFirmwareData _ _ => ⟨_, rfl, h.requestFirmwareDataStep⟩
  | .transferComplete => ⟨_, rfl, h.transferCompleteStep⟩
  | .verifyComplete => ⟨_, rfl, h.verifyCompleteStep⟩
  | .applyComplete => ⟨_, rfl, h.applyCompleteStep⟩
  | .svnCommit _ => ⟨_, rfl, h.svnCommitStep⟩
  | .sealDevice => ⟨_, rfl, h.sealDeviceStep⟩
  | .sealPartition _ => ⟨_, rfl, h.sealPartitionStep⟩
  | .getVersion _ => ⟨_, rfl, h.getVersionStep⟩
  | .getCapabilities _ => ⟨_, rfl, h.getCapabilitiesStep⟩
  | .negotiateAlgorithms _ _ => ⟨_, rfl, h.negotiateAlgorithmsStep⟩
  | .getDigests _ => ⟨_, rfl, h.getDigestsStep⟩
  | .getCertificate _ _ _ _ => ⟨_, rfl, h.getCertificateStep⟩
  | .challenge _ _ _ => ⟨_, rfl, h.challengeStep⟩
  | .getMeasurements _ _ _ _ => ⟨_, rfl, h.getMeasurementsStep⟩
  | .keyExchange _ _ => ⟨_, rfl, h.keyExchangeStep⟩
  | .finish _ _ => ⟨_, rfl, h.finishStep⟩
  | .endSession _ => ⟨_, rfl, h.endSessionStep⟩
  | .ideKm _ _ => ⟨_, rfl, h.ideKmStep⟩
  | .debugChallengeRead _ => ⟨_, rfl, h.debugChallengeReadStep⟩
  | .debugUnlock _ _ _ => ⟨_, rfl, h.debugUnlockStep⟩
  | .debugChallengeExpire => ⟨_, rfl, h.debugChallengeExpireStep⟩
  | .debugLockoutEnd => ⟨_, rfl, h.debugLockoutEndStep⟩
  | .blockIdleTimeout _ _ => ⟨_, rfl, h.blockIdleTimeoutStep⟩
  | .junctionFlitBad _ _ _ _ _ => ⟨_, rfl, h.junctionFlitBadStep⟩
  | .junctionLinkFail _ _ _ _ => ⟨_, rfl, h.junctionLinkFailStep⟩
  | .chipFatal _ _ => ⟨_, rfl, h.withIo fun _ _ h => h.chipFatalStep⟩
  | .scrubRead _ _ _ _ => ⟨_, rfl, h.scrubReadStep⟩
  | .bstSliceDue _ _ _ => ⟨_, rfl, h.bstSliceDueStep⟩
  | .bstSliceOverdue _ _ _ => ⟨_, rfl, h.bstSliceOverdueStep⟩
  | .bstSliceStart _ _ _ => ⟨_, rfl, h.bstSliceStartStep⟩
  | .bstSliceDone _ _ _ _ => ⟨_, rfl, h.bstSliceDoneStep⟩
  | .bstCmd _ _ => ⟨_, rfl, h.bstCmdStep⟩
  | .bstCtrClr => ⟨_, rfl, h.bstCtrClrStep⟩
  | .errCtrClr => ⟨_, rfl, h.errCtrClrStep⟩
  | .hbmPhyMarginCheck _ _ _ => ⟨_, rfl, h.hbmPhyMarginCheckStep⟩
  | .lpddrPhyCheck _ _ _ => ⟨_, rfl, h.lpddrPhyCheckStep⟩
  | .portLoopbackCheck _ _ => ⟨_, rfl, h.portLoopbackCheckStep⟩
  | .cxlMarginCheck _ _ => ⟨_, rfl, h.cxlMarginCheckStep⟩
  | .collPoisonTimeout _ => ⟨_, rfl, h.collPoisonTimeoutStep⟩
  | .controlParityFailure _ => ⟨_, rfl, h.controlParityFailureStep⟩
  | .watchdogRestart => ⟨_, rfl, h.watchdogRestartStep⟩
  | .auxiliaryRailLoss => ⟨_, rfl, h.auxiliaryRailLossStep⟩
  | .cxlReferenceClockChange _ => ⟨_, rfl, h.cxlReferenceClockChangeStep⟩
  | .mctpControlMessage _ => ⟨_, rfl, h.mctpControlMessageStep⟩
  | .configRequest _ _ _ => ⟨_, rfl, h.configRequestStep⟩
  | .brownoutReleaseLevel _ _ => ⟨_, rfl, h.brownoutReleaseLevelStep⟩

theorem keeps_of_exec {c : Instr} {s t : State} (h : exec c s = .next t) : Keeps True True s t := by
  obtain ⟨u, e, k⟩ := answers_exec c s
  rw [h] at e
  cases e
  exact k

/-- A state that keeps what a sound one had, with nothing of a command left over, is sound. -/
theorem Keeps.inv {s t : State} (h : Keeps True True s t) (i : Inv s) : Inv t := by
  obtain ⟨mem, marks, sems, regs, latched, io, fresh, serving, via, ctxs⟩ := i
  have w := h.sound ⟨mem, marks, sems, regs, latched, ctxs⟩
  exact ⟨w.mem, w.marks, w.sems, w.regs, w.latched, h.noIo io, h.noFresh trivial fresh, h.noServed trivial serving, h.noVia trivial via,
    w.ctxs⟩

/-- Settles O4, by the rules of the tick and of every command. -/
theorem stepKeepsTheStateSound : Obligations.StepKeepsTheStateSound := by
  intro s t i h
  unfold step at h
  split at h
  · cases h
    exact Keeps.refl.tick.inv i
  next rest _ =>
    have i' : Inv { s with pending := rest } := { i with }
    exact (keeps_of_exec h).inv i'

/-- Settles O6, by the same rules. -/
theorem noCommandTouchesTheQueue : Obligations.NoCommandTouchesTheQueue :=
  fun _ _ _ h => ⟨(keeps_of_exec h).queue, (keeps_of_exec h).assembly⟩

end Sys2Proof.Machine
end

section
/-! Settles O29: TIMESTAMP, and the beginning of XFER and FILL (R32, R52, R284 to R286, R289). -/

namespace Sys2Proof.Machine

open Sys2Proof

/-! ### Waybills that begin and end -/

/-- What an entry of a list reads as when entries are changed and keep what is asked for. -/
theorem find?_updIf {α : Type} {p q : α → Bool} {f : α → α} (h : ∀ x, q (f x) = q x) (l : List α) :
    (updIf p f l).find? q = (l.find? q).map fun x => if p x then f x else x := by
  have e : (q ∘ fun x => if p x then f x else x) = q := by
    funext x
    rw [Function.comp_apply]
    split
    exacts [h x, rfl]
  rw [updIf, List.find?_map, e]

theorem State.wid_of_wb {s : State} {wid : Nat} {w : Wb} (h : s.wb wid = some w) : w.wid = wid := by
  simpa using List.find?_some h

/-- The entry of a Waybill after a change that keeps its number. -/
theorem State.wb_updWb (s : State) {wid : Nat} {f : Wb → Wb} (hf : ∀ w, (f w).wid = w.wid) (n : Nat) :
    (s.updWb wid f).wb n = if n = wid then (s.wb n).map f else s.wb n := by
  refine (find?_updIf (fun x => by rw [hf x]) s.sched.wbs).trans ?_
  change (s.wb n).map _ = _
  cases h : s.wb n with
  | none => simp
  | some w =>
    have e : w.wid = n := State.wid_of_wb h
    by_cases c : n = wid <;> simp [e, c]

/-- A Waybill that may begin is one that was accepted and asks for that opcode (R54). -/
theorem State.begin?_eq_some {s : State} {wid op : Nat} {w : Wb} (h : s.begin? wid op = some w) :
    s.wb wid = some w ∧ wOpcode w.slot = op := by
  unfold State.begin? at h
  split at h
  · rename_i v hv
    rw [Option.ite_none_right_eq_some, Bool.and_eq_true, decide_eq_true_eq] at h
    obtain ⟨⟨-, op⟩, e⟩ := h
    cases e
    exact ⟨hv, op⟩
  · cases h

/-- A Waybill that starts is running; a change of its Consist is no change of its entry (R423). -/
theorem State.wb_startWb {s : State} {wid : Nat} {w : Wb} (h : s.wb wid = some w) :
    (s.startWb w).wb wid = some { w with phase := .running } := by
  refine (State.wb_updWb s (fun _ => by rfl) wid).trans ?_
  rw [if_pos (State.wid_of_wb h).symm, h]
  rfl

/-- What a Waybill's entry holds once its work is over; one that met a die fenced is lost (R483). -/
def Wb.over (w : Wb) (st detail src : Nat) : Wb :=
  let x := match w.lost with
    | some d => if st = stDevFatal then (st, detail) else (stDieLost, d)
    | none => (st, detail)
  { w with phase := .ended, status := x.1, detail := detailSat x.2, src := src, held := [] }

/-- The end of a Waybill's work is a change of its own entry among Waybills. -/
theorem State.endWb_sched (s : State) (wid st detail src : Nat) :
    (s.endWb wid st detail src).sched = (s.updWb wid fun w => w.over st detail src).sched := by
  have h := State.endLeases_eq s fun l => decide (l.wid = wid)
  unfold State.endWb
  rw [h]
  rfl

theorem State.wb_congr {s t : State} (h : t.sched.wbs = s.sched.wbs) (n : Nat) : t.wb n = s.wb n := by rw [State.wb, h, State.wb]

/-- What entries of Waybills read as after the end of one's work. -/
theorem State.wb_endWb (s : State) (wid st detail src n : Nat) :
    (s.endWb wid st detail src).wb n = if n = wid then (s.wb n).map (·.over st detail src) else s.wb n := by
  rw [State.wb_congr (congrArg Sched.wbs (s.endWb_sched wid st detail src))]
  exact State.wb_updWb s (fun _ => by rfl) n

/-- A Waybill that was not lost ends with the status given (R54, R59). -/
theorem State.endWb_endedWith {s : State} {wid : Nat} {w : Wb} (h : s.wb wid = some w) (hl : w.lost = none) (st src : Nat) :
    (s.endWb wid st 0 src).endedWith wid st 0 src := by
  refine ⟨w.over st 0 src, ?_, rfl, ?_⟩
  · rw [State.wb_endWb, if_pos rfl, h]
    rfl
  · simp only [Wb.over, hl]
    exact ⟨trivial, rfl, trivial⟩

/-- The end of a Waybill's work moves nothing but what EndOnly names. -/
theorem State.endWb_endOnly (s : State) (wid st detail src : Nat) : EndOnly wid s (s.endWb wid st detail src) := by
  refine ⟨?_, fun n hn => by rw [State.wb_endWb, if_neg hn]⟩
  have sched : (s.endWb wid st detail src).sched = { s.sched with wbs := (s.endWb wid st detail src).sched.wbs } := by
    rw [State.endWb_sched]
    rfl
  rw [← sched]
  exact s.endWb_eq wid st detail src

/-- A state without outcomes of host accesses is left as it is when they are cleared. -/
theorem State.clearIo_eq {s : State} (h : s.io = []) : { s with io := [] } = s := by rw [← h]

/-! ### TIMESTAMP -/

/-! ### Accesses to pages in place -/

/-- An access to a page in place finds it (R23, R252, R466). -/
theorem State.accPage_inPlace {s : State} {a n p : Nat} (h : s.inPlace s.place.via a n) (hp : p ∈ pagesOf a n) (wr : Bool) :
    s.accPage wr p = .ok := by
  obtain ⟨g, page, loc, gone, awake, reach⟩ := h p hp
  have reach : s.unreached g.die = false := reach
  unfold State.accPage
  simp only [page, gone, reach, Option.isSome_none, Bool.false_and, Bool.false_eq_true, if_false]
  cases hg : g.place with
  | hbm => simp only [awake hg, if_true]
  | siding => rfl
  | none => simp [Place.isLocal, Place.isHbm, Place.isSid, hg] at loc
  | host j => simp [Place.isLocal, Place.isHbm, Place.isSid, hg] at loc
  | fabric k j => simp [Place.isLocal, Place.isHbm, Place.isSid, hg] at loc

/-- A page in place has its backing already. -/
theorem State.takeBacking_inPlace {s : State} {via : Option (Nat × Nat)} {a n p : Nat} (h : s.inPlace via a n) (hp : p ∈ pagesOf a n) :
    s.takeBacking p = s := by
  obtain ⟨g, page, loc, -⟩ := h p hp
  have backed : g.place ≠ .none := by
    rintro hg
    simp [Place.isLocal, Place.isHbm, Place.isSid, hg] at loc
  unfold State.takeBacking
  simp only [page, if_pos backed]

/-- With no view open no address lies in a window. -/
theorem State.viewAt_none {s : State} (h : s.kv.views = []) (a : Nat) : s.viewAt a = none := by rw [State.viewAt, h]; rfl

theorem State.inPlace_congr {s t : State} (pages : t.place.pages = s.place.pages) (clk : t.clk = s.clk)
    (run : t.reg rClkRun = s.reg rClkRun) {via : Option (Nat × Nat)} {a n : Nat} (h : s.inPlace via a n) : t.inPlace via a n := by
  simpa only [State.inPlace, State.page, State.hbmAwake, State.outOf, State.routeOut, State.fenced, pages, clk, run] using h

theorem foldl_eq_self {σ α : Type} {f : σ → α → σ} {s : σ} {l : List α} (h : ∀ x ∈ l, f s x = s) : l.foldl f s = s := by
  induction l with
  | nil => rfl
  | cons x l ih => rw [List.foldl_cons, h x List.mem_cons_self, ih fun y hy => h y (List.mem_cons_of_mem x hy)]

/-- A write to pages in place has nothing to wait for and asks for nothing (R252). -/
theorem State.prepare_write {s : State} {a n : Nat} (h : s.inPlace s.place.via a n) : s.prepare [] [(a, n)] = (true, s) := by
  obtain ⟨wp, e, pages⟩ : ∃ wp, s.accPages [] [(a, n)] = ([], wp) ∧ ∀ p ∈ wp, p ∈ pagesOf a n :=
    ⟨_, rfl, fun p hp => by simpa using List.mem_of_mem_filter hp⟩
  have ok (p : Nat) (hp : p ∈ wp) : s.accPage true p = .ok := State.accPage_inPlace h (pages p hp) true
  have backed : wp.foldl (fun s n => if s.accPage true n = .fault then s else s.takeBacking n) s = s :=
    foldl_eq_self fun p hp => by rw [ok p hp, State.takeBacking_inPlace h (pages p hp)]; rfl
  have ready : (wp.filter fun n => s.accPage true n = .wait) = [] := by
    rw [List.filter_eq_nil_iff]
    exact fun p hp => by simp [ok p hp]
  unfold State.prepare
  rw [e]
  simp only [List.filter_nil, List.isEmpty_nil, if_true, backed, ready, List.append_nil, List.foldl_nil, Bool.and_self]

/-- The same of an access of a Waybill: only what is noted of accesses under way changes (R256). -/
theorem State.prepareFor_write {s : State} {wid key a n : Nat} (h : s.inPlace (s.accDie wid key) a n) :
    ∃ p, s.prepareFor wid key [] [(a, n)] = (true, { s with place := p }) ∧ p.via = s.accDie wid key ∧ p.pages = s.place.pages := by
  unfold State.prepareFor
  extract_lets same held
  obtain ⟨wp, e⟩ : ∃ wp, s.accPages [] [(a, n)] = ([], wp) := ⟨_, rfl⟩
  have ready := State.prepare_write
    (s := { s with place := { s.place with serving := s.place.serving ++ held, via := s.accDie wid key } }) h
  rw [e]
  dsimp only
  rw [ready]
  exact ⟨_, rfl, rfl, rfl⟩

/-! ### A word that is written -/

theorem leBytes_length (n v : Nat) : (leBytes n v).length = n := by
  induction n generalizing v with
  | zero => rfl
  | succ n ih => rw [leBytes, List.length_cons, ih]

/-- A read of device memory is its bytes one by one. -/
theorem State.memRead_eq (s : State) (a n : Nat) : s.memRead a n = (List.range n).map fun i => s.memByte (a + i) := by
  have all (m : List Host.Cell) : sgetMany memReset m a n = (List.range n).map fun i => sget memReset m (a + i) := by
    induction n generalizing a with
    | zero => rfl
    | succ n ih =>
      rw [sgetMany, ih, List.range_succ_eq_map, List.map_cons, List.map_map]
      exact congrArg _ (List.map_congr_left fun i _ => congrArg _ (by rw [Nat.succ_eq_add_one]; omega))
  exact all s.mem

/-- What is stored is read back. -/
theorem State.memRead_memStore {s : State} (h : Memory.wf s.mem = true) (a : Nat) (bs : List Byte) :
    (s.memStore a bs).memRead a bs.length = bs := by
  rw [State.memRead_eq]
  refine List.ext_getElem (by simp) fun i _ hi => ?_
  rw [List.getElem_map, List.getElem_range, State.memByte_memStore h, if_pos (Nat.le_add_right a i), Nat.add_sub_cancel_left,
    List.getD_eq_getElem _ _ hi]

/-- An aligned word lies in one page. -/
theorem pagesOf_word {a : Nat} (h : a % 8 = 0) : pagesOf a 8 = [pageOf a] := by
  have e : pageOf (a + 8 - 1) + 1 - pageOf a = 1 := by simp only [pageOf]; omega
  rw [pagesOf, if_neg (by decide), e]
  rfl

theorem pageSlices_word {a : Nat} (h : a % 8 = 0) : pageSlices a 8 = [(a, 8)] := by
  have lo : max a (pageOf a * 2 ^ 21) = a := by simp only [pageOf]; omega
  have hi : min (a + 8) ((pageOf a + 1) * 2 ^ 21) - a = 8 := by simp only [pageOf]; omega
  rw [pageSlices, pagesOf_word h, List.map_singleton]
  simp only [lo, hi]

/-- Taking host copies away touches the snoop filter and what is put out (R276). -/
theorem State.invalidate_eq (s : State) (a n : Nat) :
    s.invalidate a n = { s with place := (s.invalidate a n).place, out := (s.invalidate a n).out } := by
  have fold (l : List Nat) (t : State) : l.foldl (fun s l => s.put (.backInvalidate l)) t
      = { t with out := (l.foldl (fun s l => s.put (.backInvalidate l)) t).out } := by
    induction l generalizing t with
    | nil => rfl
    | cons x l ih => rw [List.foldl_cons, ih]; rfl
  unfold State.invalidate
  dsimp only
  rw [fold]

/-- A write to a page in place stores its bytes; beside memory it moves no Waybill (R260, R276). -/
theorem State.writeSlice_spec {s : State} {a : Nat} (h : s.takeBacking (pageOf a) = s) (bs : List Byte) :
    (s.writeSlice a bs false).mem = (s.memStore a bs).mem ∧ (s.writeSlice a bs false).sched = s.sched := by
  have copy (t : State) (n : Nat) : (t.copyWrite a n).mem = t.mem ∧ (t.copyWrite a n).sched = t.sched := by
    unfold State.copyWrite
    split
    · exact ⟨rfl, rfl⟩
    · split <;> exact ⟨rfl, rfl⟩
  obtain ⟨mem, sched⟩ := copy ((s.invalidate a bs.length).memWrite a bs) bs.length
  unfold State.writeSlice
  rw [h]
  refine ⟨mem.trans ?_, sched.trans ?_⟩
  · rw [State.memWrite_eq, State.invalidate_eq]
    rfl
  · rw [State.memWrite_eq, State.invalidate_eq]

/-- A Waybill's write of a word in place stores it and moves no Waybill (R28, R220). -/
theorem State.writeBytes_word {s : State} (hv : s.kv.views = []) {a : Nat} (ha : a % 8 = 0) (h : s.inPlace s.place.via a 8) (wid : Nat)
    {bs : List Byte} (hb : bs.length = 8) :
    (s.writeBytes wid a bs false).2.mem = (s.memStore a bs).mem ∧ (s.writeBytes wid a bs false).2.sched = s.sched := by
  have page : pageOf a ∈ pagesOf a 8 := by rw [pagesOf_word ha]; exact List.mem_singleton_self _
  have ok := State.accPage_inPlace h page true
  have spec := State.writeSlice_spec (State.takeBacking_inPlace h page) bs
  have e : (s.writeBytes wid a bs false).2 = (s.writeSlice a bs false).noteDirty wid a 8 := by
    unfold State.writeBytes
    rw [hb, pageSlices_word ha, List.foldl_cons, List.foldl_nil]
    simp only [State.viewAt_none hv, ok, Option.isSome_none, Bool.false_eq_true, if_false, Nat.sub_self, List.drop_zero,
      List.take_of_length_le hb.le, hb]
  have dirty (t : State) : (t.noteDirty wid a 8).mem = t.mem ∧ (t.noteDirty wid a 8).sched = t.sched := ⟨rfl, rfl⟩
  rw [e, (dirty _).1, (dirty _).2]
  exact spec

/-! ### The command -/

/-- A TIMESTAMP that fails a check ends with that status (R53). -/
theorem timestampStep_refused {s : State} {wid : Nat} {w : Wb} (hb : s.begin? wid opStamp = some w) {st : Nat}
    (h : s.r53 w.part w.slot = some st) : timestampStep wid s = s.endWb wid st 0 0 := by
  simp only [timestampStep, hb, h]

/-- One to host memory is one write, when nothing is told of its outcome (R52). -/
theorem timestampStep_host {s : State} {wid : Nat} {w : Wb} (hb : s.begin? wid opStamp = some w) (h : s.r53 w.part w.slot = none)
    (hd : wDstSpace w.slot = 1) (hio : s.io = []) :
    timestampStep wid s = ((s.startWb w).put (.hostWrite (wArg w.slot 0) (leBytes 8 s.aon))).endWb wid stOk 0 0 := by
  simp [timestampStep, hb, h, hd, State.takeIo, hio]

/-- One to the fabric is a transaction, and what can be sent is (R52, R311). -/
theorem timestampStep_fabric {s : State} {wid : Nat} {w : Wb} (hb : s.begin? wid opStamp = some w) (h : s.r53 w.part w.slot = none)
    (hd : wDstSpace w.slot = 2) : ∃ x : Txn, timestampStep wid s
        = ({ s.startWb w with vrl := { s.vrl with txns := s.vrl.txns ++ [x] } } : State).pump
      ∧ x.op = 2 ∧ x.dst = wArg w.slot 0 / 2 ^ 48 ∧ x.off = wArg w.slot 0 % 2 ^ 48 ∧ x.len = 8 ∧ x.data = leBytes 8 s.aon ∧ x.poison = 0
      ∧ x.owner = .stamp wid ∧ x.sent = false := by
  simp only [timestampStep, hb, h, hd]
  exact ⟨_, rfl, rfl, rfl, rfl, rfl, rfl, rfl, rfl, rfl⟩

/-- A Waybill that passes the checks of R53 asks for work, and its arguments are aligned. -/
theorem State.of_r53_none {s : State} {p : Nat} {w : Slot} (h : s.r53 p w = none) : wbZeroWork w = false ∧ wbAlignBad w = none := by
  unfold State.r53 at h
  split at h
  · cases h
  · split at h
    · cases h
    · split at h
      · cases h
      · rename_i work
        split at h
        · cases h
        · rename_i aligned
          exact ⟨Bool.eq_false_iff.2 work, aligned⟩

/-- A TIMESTAMP's address is then a multiple of 8 (R51). -/
theorem stamp_aligned {w : Slot} (op : wOpcode w = opStamp) (h : wbAlignBad w = none) : wArg w 0 % 8 = 0 := by
  unfold wbAlignBad at h
  dsimp only at h
  split at h
  · cases h
  · rename_i c
    simpa [op] using c

/-- One to device memory in place writes the count and ends (R52). -/
theorem timestampStep_memory {s : State} {wid : Nat} {w : Wb} (hb : s.begin? wid opStamp = some w) (h : s.r53 w.part w.slot = none)
    (hd : wDstSpace w.slot = 0) (hl : w.lost = none) (hv : s.kv.views = []) (hp : s.inPlace (s.accDie wid 0) (wArg w.slot 0) 8)
    (hw : accStatus w 0 = 0) : (timestampStep wid s).endedWith wid 0x00 0 0
      ∧ (timestampStep wid s).mem = (s.memStore (wArg w.slot 0) (leBytes 8 s.aon)).mem := by
  obtain ⟨hwb, op⟩ := State.begin?_eq_some hb
  have aligned := stamp_aligned op (State.of_r53_none h).2
  obtain ⟨p, ready, via, pages⟩ := State.prepareFor_write hp
  have start : (({ s with place := p } : State).startWb w).wb wid = some { w with phase := .running } := State.wb_startWb hwb
  have place : (({ s with place := p } : State).startWb w).inPlace p.via (wArg w.slot 0) 8 :=
    State.inPlace_congr (t := ({ s with place := p } : State).startWb w) pages rfl rfl (via ▸ hp)
  obtain ⟨mem, sched⟩ := State.writeBytes_word (s := ({ s with place := p } : State).startWb w) hv aligned place wid
    (leBytes_length 8 s.aon)
  have entry := (State.wb_congr (congrArg Sched.wbs sched) wid).trans start
  have e : timestampStep wid s = ((({ s with place := p } : State).startWb w).writeBytes wid (wArg w.slot 0) (leBytes 8 s.aon) false).2.endWb
      wid (accStatus { w with phase := .running } stOk) 0 0 := by
    simp only [timestampStep, hb, h, hd, ready, entry, if_true, Bool.not_true, Bool.false_eq_true, if_false]
  have status : accStatus { w with phase := .running } stOk = 0 := hw
  rw [e, status]
  exact ⟨State.endWb_endedWith entry hl 0 0, (State.endWb_mem _ _ _ _ _).trans mem⟩

/-- TIMESTAMP by the result of its checks and the space it writes to (R32, R52, R53). -/
theorem timestamp_completes {s : State} {wid : Nat} {w : Wb} (hb : s.begin? wid opStamp = some w) (hl : w.lost = none) :
    let a := wArg w.slot 0
    (∀ st, s.r53 w.part w.slot = some st →
        ∃ t, exec (.timestamp wid []) s = .next t.served ∧ EndOnly wid { s with io := [] } t ∧ t.endedWith wid st 0 0)
    ∧ (s.r53 w.part w.slot = none →
      (wDstSpace w.slot = 1 → ∃ t, exec (.timestamp wid []) s = .next t.served
        ∧ t.out = s.out ++ [.hostWrite a (leBytes 8 s.aon)] ∧ t.endedWith wid 0x00 0 0
        ∧ EndOnly wid { s.startWb w with out := t.out, io := [] } t)
      ∧ (wDstSpace w.slot = 0 → s.kv.views = [] → s.inPlace (s.accDie wid 0) a 8 → Memory.wf s.mem = true → accStatus w 0 = 0 →
          ∃ t, exec (.timestamp wid []) s = .next t ∧ t.endedWith wid 0x00 0 0
            ∧ t.memRead a 8 = leBytes 8 s.aon ∧ ∀ x, x < a ∨ a + 8 ≤ x → t.memByte x = s.memByte x)
      ∧ (wDstSpace w.slot = 2 → ∃ u : State, exec (.timestamp wid []) s = .next ({ u.pump with io := [] } : State).served
          ∧ ∃ x, x.op = 2 ∧ x.dst = a / 2 ^ 48 ∧ x.off = a % 2 ^ 48 ∧ x.len = 8 ∧ x.data = leBytes 8 s.aon ∧ x.poison = 0
            ∧ x.owner = .stamp wid ∧ x.sent = false
            ∧ u = { s.startWb w with io := [], vrl := { s.vrl with txns := s.vrl.txns ++ [x] } })) := by
  intro a
  have ex : exec (.timestamp wid []) s = .next ({ timestampStep wid { s with io := [] } with io := [] } : State).served := rfl
  obtain ⟨hwb, -⟩ := State.begin?_eq_some hb
  -- The state with no outcome of a host access told, which the command acts on, has the same Waybills, checks and placement.
  have hb' : ({ s with io := [] } : State).begin? wid opStamp = some w := hb
  have hwb' : ({ s with io := [] } : State).wb wid = some w := hwb
  refine ⟨fun st h => ?_, fun h => ⟨fun hd => ?_, fun hd hv hp hm hw => ?_, fun hd => ?_⟩⟩
  · rw [timestampStep_refused hb' h, State.clearIo_eq (State.endWb_io _ _ _ _ _)] at ex
    exact ⟨_, ex, State.endWb_endOnly _ _ _ _ _, State.endWb_endedWith hwb' hl st 0⟩
  · have out := State.endWb_out ((({ s with io := [] } : State).startWb w).put (.hostWrite a (leBytes 8 s.aon))) wid stOk 0 0
    have started : ((({ s with io := [] } : State).startWb w).put (.hostWrite a (leBytes 8 s.aon))).wb wid
      = some { w with phase := .running } := State.wb_startWb hwb'
    rw [timestampStep_host hb' h hd rfl, State.clearIo_eq (State.endWb_io _ _ _ _ _)] at ex
    refine ⟨_, ex, out, State.endWb_endedWith started hl stOk 0, ?_⟩
    rw [out]
    exact State.endWb_endOnly _ _ _ _ _
  · obtain ⟨ended, mem⟩ := timestampStep_memory hb' h hd hl hv hp hw
    have byte (x : Nat) : ({ timestampStep wid { s with io := [] } with io := [] } : State).served.memByte x
        = (s.memStore a (leBytes 8 s.aon)).memByte x := congrArg (sget memReset · x) mem
    refine ⟨_, ex, ended, ?_, fun x hx => ?_⟩
    · have read := State.memRead_memStore hm a (leBytes 8 s.aon)
      rw [leBytes_length] at read
      exact (congrArg (sgetMany memReset · a 8) mem).trans read
    · rw [byte, State.memByte_memStore_other hm (by rwa [leBytes_length])]
  · obtain ⟨x, e, h1, h2, h3, h4, h5, h6, h7, h8⟩ := timestampStep_fabric hb' h hd
    rw [e] at ex
    exact ⟨_, ex, x, h1, h2, h3, h4, h5, h6, h7, h8, rfl⟩

/-! ### The pieces of an XFER or FILL -/

/-! ### The cut at 2 MiB -/

/-- Where the first j pieces of a range end, as an offset in it: at the j-th 2 MiB boundary, and at the range's end (R285). -/
def cutAt (a n j : Nat) : Nat := max a (min (a + n) ((pageOf a + j) * 2 ^ 21)) - a

theorem pageOf_bounds (a : Nat) : pageOf a * 2 ^ 21 ≤ a ∧ a < (pageOf a + 1) * 2 ^ 21 := by
  unfold pageOf
  omega

theorem cutAt_zero (a n : Nat) : cutAt a n 0 = 0 := by
  have := pageOf_bounds a
  unfold cutAt
  omega

/-- The pages that a range touches, counted. -/
def pageCount (a n : Nat) : Nat := pageOf (a + n - 1) + 1 - pageOf a

theorem inside_of_lt_pageCount {a n j : Nat} (hn : 0 < n) (h : j < pageCount a n) : (pageOf a + j) * 2 ^ 21 < a + n := by
  unfold pageCount pageOf at h
  unfold pageOf
  omega

theorem cutAt_last {a n : Nat} (hn : 0 < n) : cutAt a n (pageCount a n) = n := by
  have := pageOf_bounds (a + n - 1)
  have e : pageOf a + pageCount a n = pageOf (a + n - 1) + 1 := by
    unfold pageCount pageOf
    omega
  unfold cutAt
  rw [e]
  omega

/-- The ends of a piece: from the range's start or a boundary to the next boundary or the range's end. -/
theorem cutAt_ends {a n j : Nat} (hn : 0 < n) (hj : j < pageCount a n) :
    a + cutAt a n j = max a ((pageOf a + j) * 2 ^ 21) ∧ a + cutAt a n (j + 1) = min (a + n) ((pageOf a + j + 1) * 2 ^ 21) := by
  have start := inside_of_lt_pageCount hn hj
  have := pageOf_bounds a
  unfold cutAt
  omega

/-- The pieces lie between one boundary and the next. -/
theorem cutPieces_eq {a n : Nat} (hn : 0 < n) :
    cutPieces a n = (List.range (pageCount a n)).map fun j => (cutAt a n j, cutAt a n (j + 1) - cutAt a n j) := by
  unfold cutPieces pageSlices pagesOf
  rw [if_neg (by omega), List.map_map, List.map_map]
  refine List.map_congr_left fun j hj => ?_
  obtain ⟨start, stop⟩ := cutAt_ends hn (List.mem_range.1 hj)
  simp only [Function.comp_apply, Prod.mk.injEq]
  omega

/-- A piece is not empty, lies within one 2 MiB block, and starts on one unless it is the first (R285). -/
theorem piece_within_block {a n j : Nat} (hn : 0 < n) (hj : j < pageCount a n) :
    0 < cutAt a n (j + 1) - cutAt a n j
      ∧ (a + cutAt a n j) / 2 ^ 21 = (a + cutAt a n j + (cutAt a n (j + 1) - cutAt a n j) - 1) / 2 ^ 21
      ∧ (0 < j → (a + cutAt a n j) % 2 ^ 21 = 0) := by
  have inside := inside_of_lt_pageCount hn hj
  obtain ⟨start, stop⟩ := cutAt_ends hn hj
  have := pageOf_bounds a
  generalize cutAt a n (j + 1) = y at *
  generalize cutAt a n j = x at *
  omega

theorem cutAt_le_succ (a n j : Nat) : cutAt a n j ≤ cutAt a n (j + 1) := by
  unfold cutAt
  omega

/-- The pieces before the j-th make up all that lies before it. -/
theorem sum_take_cutPieces {a n j : Nat} (hn : 0 < n) (hj : j ≤ pageCount a n) :
    (((cutPieces a n).take j).map (·.2)).sum = cutAt a n j := by
  rw [cutPieces_eq hn, ← List.map_take, List.take_range, Nat.min_eq_left hj, List.map_map]
  exact (Finset.sum_range_tsub (monotone_nat_of_le_succ (cutAt_le_succ a n)) j).trans (by rw [cutAt_zero, Nat.sub_zero])

/-- The pieces make up the range. -/
theorem sum_cutPieces {a n : Nat} (hn : 0 < n) : ((cutPieces a n).map (·.2)).sum = n := by
  have len : (cutPieces a n).length = pageCount a n := by rw [cutPieces_eq hn, List.length_map, List.length_range]
  have all := sum_take_cutPieces (a := a) hn le_rfl
  rwa [List.take_of_length_le len.le, cutAt_last hn] at all

/-! ### The engine of each piece -/

theorem pickMin_eq_none {α : Type} {lt : α → α → Bool} {l : List α} (h : pickMin lt l = none) : l = [] := by
  cases l with
  | nil => rfl
  | cons a as =>
    unfold pickMin at h
    split at h
    · cases h
    · split at h <;> cases h

theorem pickMin_mem {α : Type} {lt : α → α → Bool} {l : List α} {x : α} (h : pickMin lt l = some x) : x ∈ l := by
  induction l with
  | nil => cases h
  | cons a as ih =>
    unfold pickMin at h
    split at h
    · cases h
      exact List.mem_cons_self
    · rename_i b hb
      split at h
      · cases h
        exact List.mem_cons_of_mem a (ih hb)
      · cases h
        exact List.mem_cons_self

/-- The engine found for a piece is one that the partition may use (R282, R289). -/
theorem State.mayUse_of_pieceXfe {s : State} {p home i : Nat} {queued : Nat → Nat} (h : s.pieceXfe p home queued = some i) :
    s.mayUse p .xfe i = true := by
  unfold State.pieceXfe at h
  dsimp only at h
  split at h
  · cases h
  · rename_i l hl
    obtain ⟨d, -, rfl⟩ := List.mem_map.1 (List.mem_of_find?_eq_some hl)
    exact (List.mem_filter.1 (pickMin_mem h)).2

theorem State.mem_usable {s : State} {p i : Nat} {k : EngKind} : i ∈ s.usable p k ↔ s.mayUse p k i = true := by
  rw [State.usable, List.mem_filter, List.mem_range]
  refine ⟨fun h => h.2, fun h => ⟨?_, h⟩⟩
  unfold State.mayUse State.inMask at h
  simp only [Bool.and_eq_true, decide_eq_true_eq] at h
  exact h.1.1.1

/-- A piece finds no engine exactly when the partition may use none: the search goes over the engines of all four dies (R282, R289). -/
theorem State.pieceXfe_eq_none {s : State} {p home : Nat} {queued : Nat → Nat} :
    s.pieceXfe p home queued = none ↔ s.usable p .xfe = [] := by
  constructor
  · intro h
    refine List.eq_nil_iff_forall_not_mem.2 fun i hi => ?_
    have bound : i < 8 := List.mem_range.1 (List.mem_of_mem_filter hi)
    have here : [2 * (i / 2), 2 * (i / 2) + 1].filter (s.mayUse p .xfe) ≠ [] :=
      List.ne_nil_of_mem (List.mem_filter.2 ⟨by simp only [List.mem_cons]; omega, State.mem_usable.1 hi⟩)
    have die : i / 2 ∈ (List.range 4).map fun k => (home + k) % 4 :=
      List.mem_map.2 ⟨(i / 2 + 4 - home % 4) % 4, List.mem_range.2 (by omega), by omega⟩
    unfold State.pieceXfe at h
    dsimp only at h
    split at h
    · rename_i missed
      exact List.find?_eq_none.1 missed _ (List.mem_map.2 ⟨i / 2, die, rfl⟩) (by simpa using here)
    · rename_i l found
      rw [pickMin_eq_none h] at found
      simpa using List.find?_some found
  · intro h
    cases e : s.pieceXfe p home queued with
    | none => rfl
    | some i => exact absurd (State.mem_usable.2 (State.mayUse_of_pieceXfe e)) (by simp [h])

/-- Pieces are given engines one by one, each one that the partition may use; nothing else of a piece changes (R282, R289). -/
theorem State.placePieces_some {s : State} {p : Nat} (h : s.usable p .xfe ≠ []) (l done : List Piece) :
    ∃ l', s.placePieces p done l = some (done ++ l')
      ∧ List.Forall₂ (fun q q' => ∃ i, q' = { q with xfe := some i } ∧ s.mayUse p .xfe i = true) l l' := by
  induction l generalizing done with
  | nil => exact ⟨[], by rw [State.placePieces, List.append_nil], .nil⟩
  | cons q l ih =>
    unfold State.placePieces
    dsimp only
    split
    · rename_i missed
      exact absurd (State.pieceXfe_eq_none.1 missed) h
    · rename_i i found
      obtain ⟨l', e, rest⟩ := ih (done ++ [{ q with xfe := some i }])
      exact ⟨{ q with xfe := some i } :: l', by rw [e, List.append_assoc]; rfl, .cons ⟨i, rfl, State.mayUse_of_pieceXfe found⟩ rest⟩

/-- With no engine to be had the first piece finds none (R289). -/
theorem State.placePieces_none {s : State} {p : Nat} (h : s.usable p .xfe = []) {l : List Piece} (hl : l ≠ []) :
    s.placePieces p [] l = none := by
  cases l with
  | nil => exact absurd rfl hl
  | cons q l =>
    unfold State.placePieces
    dsimp only
    rw [State.pieceXfe_eq_none.2 h]

/-! ### The commands -/

/-- The pieces of an XFER or FILL before they have engines (R285). -/
def newPieces (wid a n : Nat) : List Piece :=
  (cutPieces a n).zipIdx.map fun (c : (Nat × Nat) × Nat) =>
    ({ wid := wid, idx := c.2, off := c.1.1, len := c.1.2, home := homeOf (a + c.1.1), xfe := none, run := false,
       sent := false, failed := false, late := [], lost := 0 } : Piece)

/-- The transfer that a Waybill asks for, with its pieces (R284 to R286). -/
def newXfer (w : Wb) (fill : Bool) (ps : List Piece) : Xfer :=
  { wid := w.wid, fill := fill, src := if fill then 0 else wArg w.slot 0, dst := if fill then wArg w.slot 0 else wArg w.slot 1,
    len := wArg w.slot 2, srcSpace := wSrcSpace w.slot, dstSpace := wDstSpace w.slot, pieces := ps, unmoved := 0 }

/-- The address on which it is cut (R285). -/
def xferCut (w : Wb) (fill : Bool) : Nat :=
  cutAddr fill (wSrcSpace w.slot) (wDstSpace w.slot) (if fill then 0 else wArg w.slot 0) (if fill then wArg w.slot 0 else wArg w.slot 1)

/-- A transfer is entered and its Waybill waits for an engine. -/
def State.enterXfer (s : State) (w : Wb) (fill : Bool) (ps : List Piece) : State :=
  ({ s with place := { s.place with xfers := s.place.xfers ++ [newXfer w fill ps] } } : State).updWb w.wid fun w =>
    { w with phase := .ready, kind := some .xfe, need := 0, src := ((ps.head?.bind (·.xfe)).map (engSrc .xfe)).getD 0 }

/-- Engines are served; a Waybill that must still wait may preempt (R287, R422). -/
def State.serveOrPreempt (s : State) (wid : Nat) : State :=
  match s.serveXfes.wb wid with
  | some w => if w.phase = .ready then s.serveXfes.preemptFor w .xfe else s.serveXfes
  | none => s.serveXfes

theorem State.beginXfer_eq (s : State) (w : Wb) (fill : Bool) :
    s.beginXfer w fill = match s.placePieces w.part [] (newPieces w.wid (xferCut w fill) (wArg w.slot 2)) with
      | none => s.endWb w.wid stBlkBusy 0 0
      | some ps => (s.enterXfer w fill ps).serveOrPreempt w.wid := by
  unfold State.beginXfer newPieces xferCut
  dsimp only
  cases s.placePieces w.part [] _ with
  | none => rfl
  | some ps =>
    unfold State.serveOrPreempt State.enterXfer newXfer
    dsimp only <;> generalize State.serveXfes _ = u <;> cases u.wb w.wid <;> rfl

/-- XFER and FILL that pass their checks begin (R53, R509). -/
theorem transfer_begins {s : State} {wid : Nat} {w : Wb} {fill : Bool} (hb : s.begin? wid (if fill then opFill else opXfer) = some w)
    (h1 : s.r53 w.part w.slot = none) (h2 : s.secCheck w.part = none) :
    exec (if fill then Instr.fill wid else Instr.xfer wid) s = .next (s.beginXfer w fill) := by
  cases fill with
  | false =>
    change Host.Outcome.next (xferStep wid s) = _
    rw [if_neg Bool.false_ne_true] at hb
    simp only [xferStep, hb, State.checked, h1, h2]
  | true =>
    change Host.Outcome.next (fillStep wid s) = _
    rw [if_pos rfl] at hb
    simp only [fillStep, hb, State.checked, h1, h2]

/-- One that passes R53 moves at least a byte (R51). -/
theorem transfer_len_pos {s : State} {wid : Nat} {w : Wb} {fill : Bool} (hb : s.begin? wid (if fill then opFill else opXfer) = some w)
    (h : s.r53 w.part w.slot = none) : 0 < wArg w.slot 2 := by
  obtain ⟨-, op⟩ := State.begin?_eq_some hb
  have work := (State.of_r53_none h).1
  have asked : wOpcode w.slot = opXfer ∨ wOpcode w.slot = opFill := by
    rw [op]
    cases fill <;> simp
  refine Nat.pos_of_ne_zero fun zero => ?_
  obtain asked | asked := asked <;> simp [wbZeroWork, asked, zero] at work

/-- A piece of a transfer as it is cut, before it has an engine. -/
theorem getElem?_newPieces {wid a n j : Nat} (hn : 0 < n) {q : Piece} (h : (newPieces wid a n)[j]? = some q) :
    j < pageCount a n ∧ q.idx = j ∧ q.off = cutAt a n j ∧ q.len = cutAt a n (j + 1) - cutAt a n j ∧ q.run = false := by
  unfold newPieces at h
  rw [cutPieces_eq hn] at h
  simp only [List.getElem?_map, List.getElem?_zipIdx, Option.map_eq_some_iff, Nat.zero_add] at h
  obtain ⟨c, ⟨x, ⟨k, hk, rfl⟩, rfl⟩, rfl⟩ := h
  obtain ⟨hj, rfl⟩ := List.getElem?_eq_some_iff.1 hk
  rw [List.getElem_range]
  exact ⟨by simpa using hj, rfl, rfl, rfl, rfl⟩

theorem map_len_newPieces (wid a n : Nat) : (newPieces wid a n).map (·.len) = (cutPieces a n).map (·.2) := by
  rw [newPieces, List.map_map, ← congrArg (List.map Prod.snd) (List.zipIdx_map_fst 0 (cutPieces a n)), List.map_map]
  rfl

/-- Pieces that have engines are as long as they were. -/
theorem map_len_placed {p : Nat} {s : State} {l l' : List Piece}
    (h : List.Forall₂ (fun q q' => ∃ i, q' = { q with xfe := some i } ∧ s.mayUse p .xfe i = true) l l') :
    l'.map (·.len) = l.map (·.len) := by
  induction h with
  | nil => rfl
  | cons one _ ih =>
    obtain ⟨i, rfl, -⟩ := one
    rw [List.map_cons, List.map_cons, ih]

/-- The pieces of a transfer, each with its engine: they make up the range in order, and each lies in one 2 MiB block (R285, R289). -/
theorem placed_pieces {s : State} {p wid a n : Nat} (hn : 0 < n) {ps : List Piece}
    (h : List.Forall₂ (fun q q' => ∃ i, q' = { q with xfe := some i } ∧ s.mayUse p .xfe i = true) (newPieces wid a n) ps) :
    (ps.map (·.len)).sum = n
      ∧ ∀ j q, ps[j]? = some q → q.idx = j ∧ q.off = ((ps.take j).map (·.len)).sum ∧ 0 < q.len
          ∧ (a + q.off) / 2 ^ 21 = (a + q.off + q.len - 1) / 2 ^ 21 ∧ (0 < j → (a + q.off) % 2 ^ 21 = 0)
          ∧ q.run = false ∧ ∃ i, q.xfe = some i ∧ s.mayUse p .xfe i = true := by
  have len : ps.map (·.len) = (cutPieces a n).map (·.2) := (map_len_placed h).trans (map_len_newPieces wid a n)
  refine ⟨by rw [len, sum_cutPieces hn], fun j q hq => ?_⟩
  obtain ⟨hj, rfl⟩ := List.getElem?_eq_some_iff.1 hq
  have hj' : j < (newPieces wid a n).length := h.length_eq ▸ hj
  obtain ⟨i, e, use⟩ := h.get hj' hj
  obtain ⟨lt, idx, off, size, run⟩ := getElem?_newPieces hn (List.getElem?_eq_getElem hj')
  obtain ⟨pos, block, aligned⟩ := piece_within_block hn lt
  have before : ((ps.take j).map (·.len)).sum = cutAt a n j := by
    rw [List.map_take, len, ← List.map_take, sum_take_cutPieces hn lt.le]
  simp only [List.get_eq_getElem] at e
  rw [before, e]
  dsimp only
  rw [idx, off, size, run]
  exact ⟨rfl, rfl, pos, block, aligned, rfl, i, rfl, use⟩

/-- XFER or FILL for which no engine is to be had ends with BLK_BUSY (R289). -/
theorem transfer_busy {s : State} {wid : Nat} {w : Wb} {fill : Bool} (hb : s.begin? wid (if fill then opFill else opXfer) = some w)
    (h1 : s.r53 w.part w.slot = none) (hu : s.usable w.part .xfe = []) : s.beginXfer w fill = s.endWb wid stBlkBusy 0 0 := by
  have pieces : newPieces w.wid (xferCut w fill) (wArg w.slot 2) ≠ [] := by
    intro nil
    have sum := sum_cutPieces (a := xferCut w fill) (transfer_len_pos hb h1)
    rw [← map_len_newPieces w.wid, nil] at sum
    exact absurd (transfer_len_pos hb h1) (by simp [← sum])
  rw [State.beginXfer_eq, State.placePieces_none hu pieces, State.wid_of_wb (State.begin?_eq_some hb).1]

/-- With an engine to be had it is entered, cut into pieces (R285, R289). -/
theorem transfer_entered {s : State} {wid : Nat} {w : Wb} {fill : Bool} (hb : s.begin? wid (if fill then opFill else opXfer) = some w)
    (hu : s.usable w.part .xfe ≠ []) : ∃ ps, s.beginXfer w fill = (s.enterXfer w fill ps).serveOrPreempt wid
      ∧ List.Forall₂ (fun q q' => ∃ i, q' = { q with xfe := some i } ∧ s.mayUse w.part .xfe i = true)
          (newPieces w.wid (xferCut w fill) (wArg w.slot 2)) ps := by
  obtain rfl := State.wid_of_wb (State.begin?_eq_some hb).1
  obtain ⟨ps, placed, engines⟩ := State.placePieces_some hu (newPieces w.wid (xferCut w fill) (wArg w.slot 2)) []
  exact ⟨ps, by rw [State.beginXfer_eq, placed, List.nil_append], engines⟩

/-- A transfer that is entered is found by its Waybill, when none was. -/
theorem State.xferOf_enterXfer {s : State} {w : Wb} (h : s.xferOf w.wid = none) (fill : Bool) (ps : List Piece) :
    (s.enterXfer w fill ps).xferOf w.wid = some (newXfer w fill ps) := by
  unfold State.xferOf at h ⊢
  unfold State.enterXfer
  rw [State.updWb_place]
  dsimp only
  rw [List.find?_append, h]
  simp [newXfer]

/-- Settles O29, by the cases of the checks, of the space that a TIMESTAMP writes to, and of the engines to be had. -/
theorem transfersBegin : Obligations.TransfersBegin := by
  refine ⟨fun wid s w hb hl => timestamp_completes hb hl, fun wid s w fill hb h1 h2 => ?_⟩
  have ex := transfer_begins hb h1 h2
  obtain ⟨hwb, -⟩ := State.begin?_eq_some hb
  refine ⟨fun hu hl => ⟨_, ?_, State.endWb_endOnly s wid stBlkBusy 0 0, State.endWb_endedWith hwb hl stBlkBusy 0⟩, fun hu hx => ?_⟩
  · rw [ex, transfer_busy hb h1 hu]
  · obtain ⟨ps, e, engines⟩ := transfer_entered hb hu
    obtain ⟨sum, pieces⟩ := placed_pieces (transfer_len_pos hb h1) engines
    rw [← State.wid_of_wb hwb] at hx
    have found := State.xferOf_enterXfer hx fill ps
    rw [State.wid_of_wb hwb] at found
    refine ⟨s.enterXfer w fill ps, newXfer w fill ps, ?_, found, rfl, rfl, rfl, rfl, rfl, rfl, sum, pieces, rfl, rfl⟩
    rw [ex, e]
    unfold State.serveOrPreempt
    generalize State.serveXfes _ = u
    cases u.wb wid <;> rfl

end Sys2Proof.Machine
end

section
/-! Settles O52: clock domains, the governor's evaluation and statistics, and the management epoch (R31, R446, R462 to R467, R523). -/

namespace Sys2Proof.Machine

open Sys2Proof

/-! ### Clock domains: sleep, wake and force -/

theorem RegsOnly.trans {p q : Nat → Bool} {s t u : State} (h : RegsOnly p s t) (k : RegsOnly q t u) :
    RegsOnly (fun o => p o || q o) s u := by
  obtain ⟨ht, rt⟩ := h
  obtain ⟨hu, ru⟩ := k
  refine ⟨by rw [hu, ht], fun o ho => ?_⟩
  rw [Bool.or_eq_false_iff] at ho
  rw [ru o ho.2, rt o ho.1]

theorem State.regsOnly_bump {s : State} (h : s.regsWf) (off n : Nat) : RegsOnly (fun o => o = off) s (s.bump off n) :=
  State.regsOnly_setReg h off _

/-- A field of one bit that is stored: that bit, and every other as before. -/
theorem State.bit_setFld {s : State} (h : s.regsWf) (off : Nat) {d : Nat} (v : Nat) (hd : d < 32) (k : Nat) :
    bit k ((s.setFld off d d v).reg off) = if k = d then v.testBit 0 else bit k (s.reg off) := by
  rw [State.setFld, State.reg_setReg_same h]
  by_cases hk : k < 32
  · rw [setBits_bit _ _ _ _ _ hk]
    by_cases e : k = d
    · rw [if_pos (by omega), if_pos e, e, Nat.sub_self]
    · rw [if_neg (by omega), if_neg e]
  · rw [if_neg (by omega)]
    simp only [bit, BitVec.getLsbD_of_ge _ _ (Nat.le_of_not_lt hk)]

theorem lt_of_mem_asmDomains {a : Assembly} {d : Nat} (h : d ∈ asmDomains a) : d < 25 := by
  rw [asmDomains, List.mem_range] at h
  have : asmIoDies a ≤ 4 := by cases a <;> decide
  omega

theorem mem_asmDomains_of_sleeps {a : Assembly} {d : Nat} (h : sleeps a d = true) : d ∈ asmDomains a := by
  rw [sleeps, Bool.and_eq_true] at h
  exact List.contains_iff_mem.1 h.1

theorem lt_of_bit {d : Nat} {w : Word} (h : bit d w = true) : d < 32 :=
  Nat.lt_of_not_le fun hd => by simp [bit, BitVec.getLsbD_of_ge _ _ hd] at h

/-- An idle domain that may sleep stops (R465). -/
theorem domainSleepStep_idle {s : State} {d : Nat} (h1 : sleeps s.assy d = true) (h2 : s.clk.run = none)
    (h3 : s.effFld rClkSleep 16 16 = 1) (h4 : s.heldOn d = false) (h5 : s.domainOff d = false) (h6 : s.domainBusy d = false)
    (h7 : bit d (s.reg rClkRun) = true) : domainSleepStep d s = s.setFld rClkRun d d 0 := by
  simp [domainSleepStep, h1, h2, h3, h4, h5, h6, h7]

/-- One that is held on, has work, or never sleeps does not (R465, R467). -/
theorem domainSleepStep_stays {s : State} {d : Nat} (h : s.heldOn d = true ∨ s.domainBusy d = true ∨ sleeps s.assy d = false) :
    domainSleepStep d s = s := by
  obtain h | h | h := h <;> simp [domainSleepStep, h]

/-- A domain that stops runs no more, and no other changes. -/
theorem State.stops {s : State} (h : s.regsWf) {d : Nat} (hd : d < 32) :
    RegsOnly (fun off => off = rClkRun) s (s.setFld rClkRun d d 0) ∧ bit d ((s.setFld rClkRun d d 0).reg rClkRun) = false
      ∧ ∀ k, k ≠ d → bit k ((s.setFld rClkRun d d 0).reg rClkRun) = bit k (s.reg rClkRun) := by
  refine ⟨State.regsOnly_setFld h _ _ _ _, ?_, fun k hk => ?_⟩
  · rw [State.bit_setFld h _ _ hd, if_pos rfl]
    rfl
  · rw [State.bit_setFld h _ _ hd, if_neg hk]

/-- A stopped domain that nothing holds off wakes: its PLL starts, and the wake is counted (R466). -/
theorem State.wake_stopped {s : State} {d : Nat} (h1 : d ∈ asmDomains s.assy) (h2 : s.domainOff d = false)
    (h3 : bit d (s.reg rClkRun) = false) (h4 : bit d (s.reg rClkLocking) = false) :
    s.wake d = (s.setFld rClkLocking d d 1).bump rClkWakes 1 := by
  simp [State.wake, h1, h2, h3, h4]

/-- What a wake that is carried out leaves. -/
theorem State.starts {s : State} (h : s.regsWf) {d : Nat} (hd : d < 32) :
    RegsOnly (fun off => off = rClkLocking || off = rClkWakes) s ((s.setFld rClkLocking d d 1).bump rClkWakes 1)
      ∧ (∀ k, bit k (((s.setFld rClkLocking d d 1).bump rClkWakes 1).reg rClkLocking) = (decide (k = d) || bit k (s.reg rClkLocking)))
      ∧ (((s.setFld rClkLocking d d 1).bump rClkWakes 1).reg rClkWakes).toNat = satAdd 32 (s.reg rClkWakes).toNat 1 := by
  have wf := State.regsWf_setFld h rClkLocking d d 1
  refine ⟨(State.regsOnly_setFld h _ _ _ _).trans (State.regsOnly_bump wf _ _), fun k => ?_, ?_⟩
  · rw [State.reg_bump_other wf _ (by decide), State.bit_setFld h _ _ hd]
    by_cases e : k = d <;> simp [e]
  · rw [State.reg_bump wf, if_pos rfl, State.setFld, State.reg_setReg_other h _ (by decide)]

/-- What wakes may do: PLLs that lock go on locking, and beside them only the count of wakes moves. -/
structure Woken (s t : State) : Prop where
  only : RegsOnly (fun off => off = rClkLocking || off = rClkWakes) s t
  wf   : t.regsWf
  lock : ∀ k, bit k (s.reg rClkLocking) = true → bit k (t.reg rClkLocking) = true

theorem Woken.refl {s : State} (h : s.regsWf) : Woken s s := ⟨⟨rfl, fun _ _ => rfl⟩, h, fun _ => id⟩

theorem Woken.trans {s t u : State} (h : Woken s t) (k : Woken t u) : Woken s u where
  only := by simpa only [Bool.or_self] using h.only.trans k.only
  wf := k.wf
  lock d := k.lock d ∘ h.lock d

theorem Woken.clk {s t : State} (h : Woken s t) : t.clk = s.clk := by rw [h.only.1]

theorem Woken.assy {s t : State} (h : Woken s t) : t.assy = s.assy := by rw [h.only.1]

theorem Woken.run {s t : State} (h : Woken s t) : t.reg rClkRun = s.reg rClkRun := h.only.2 _ (by decide)

theorem State.domainOff_congr {s t : State} (h : t.clk = s.clk) (d : Nat) : t.domainOff d = s.domainOff d := by
  simp only [State.domainOff, State.fenced, h]

theorem State.wake_woken {s : State} (h : s.regsWf) (d : Nat) : Woken s (s.wake d) := by
  by_cases c : d ∈ asmDomains s.assy ∧ s.domainOff d = false ∧ bit d (s.reg rClkRun) = false ∧ bit d (s.reg rClkLocking) = false
  · obtain ⟨h1, h2, h3, h4⟩ := c
    obtain ⟨only, lock, -⟩ := State.starts h (d := d) (by have := lt_of_mem_asmDomains h1; omega)
    rw [State.wake_stopped h1 h2 h3 h4]
    exact ⟨only, State.regsWf_bump (State.regsWf_setFld h _ _ _ _) _ _, fun k hk => by rw [lock, hk, Bool.or_true]⟩
  · have e : s.wake d = s := by
      rw [State.wake, if_pos]
      simp only [Bool.or_eq_true, Bool.not_eq_true', ← Bool.not_eq_true, List.contains_iff_mem] at c ⊢
      tauto
    rw [e]
    exact .refl h

/-- After a wake a domain that nothing holds off runs, or its PLL locks (R466). -/
theorem State.wake_awake {s : State} (h : s.regsWf) {d : Nat} (h1 : d ∈ asmDomains s.assy) (h2 : s.domainOff d = false) :
    bit d ((s.wake d).reg rClkRun) = true ∨ bit d ((s.wake d).reg rClkLocking) = true := by
  have w := State.wake_woken h d
  rw [w.run]
  cases h3 : bit d (s.reg rClkRun) with
  | true => exact .inl rfl
  | false =>
    cases h4 : bit d (s.reg rClkLocking) with
    | true => exact .inr (w.lock d h4)
    | false =>
      obtain ⟨-, lock, -⟩ := State.starts h (d := d) (by have := lt_of_mem_asmDomains h1; omega)
      rw [State.wake_stopped h1 h2 h3 h4, lock]
      exact .inr (by simp)

/-- The wakes of those domains of a list whose bit is set. -/
def State.wakeAll (s : State) (w : Word) (ds : List Nat) : State := ds.foldl (fun s d => if bit d w then domainWakeStep d s else s) s

theorem State.wakeAll_woken {s : State} (h : s.regsWf) (w : Word) (ds : List Nat) : Woken s (s.wakeAll w ds) := by
  induction ds generalizing s with
  | nil => exact .refl h
  | cons d ds ih =>
    have one : Woken s (if bit d w then domainWakeStep d s else s) := by
      split
      exacts [State.wake_woken h d, .refl h]
    exact one.trans (ih one.wf)

/-- Every domain of the list whose bit is set then runs or locks, when nothing holds it off. -/
theorem State.wakeAll_awake {s : State} (h : s.regsWf) {w : Word} {ds : List Nat} {d : Nat} (hd : d ∈ ds) (hw : bit d w = true)
    (h1 : d ∈ asmDomains s.assy) (h2 : s.domainOff d = false) :
    bit d ((s.wakeAll w ds).reg rClkRun) = true ∨ bit d ((s.wakeAll w ds).reg rClkLocking) = true := by
  induction ds generalizing s with
  | nil => cases hd
  | cons k ds ih =>
    have one : Woken s (if bit k w then domainWakeStep k s else s) := by
      split
      exacts [State.wake_woken h k, .refl h]
    rcases List.mem_cons.1 hd with rfl | hd
    · have rest := State.wakeAll_woken (s := s.wake d) (State.wake_woken h d).wf w ds
      have e : s.wakeAll w (d :: ds) = (s.wake d).wakeAll w ds := by
        rw [State.wakeAll, List.foldl_cons, if_pos hw]
        rfl
      rw [e, rest.run]
      exact (State.wake_awake h h1 h2).imp_right (rest.lock d)
    · exact ih one.wf hd (one.assy ▸ h1) ((State.domainOff_congr one.clk d).trans h2)

theorem testBit_one_shiftLeft (d i : Nat) : (1 <<< d).testBit i = decide (i = d) := by
  rw [Nat.one_shiftLeft, Nat.testBit_two_pow]
  exact decide_eq_decide.2 eq_comm

/-- The bits of a word that masks a list of places. -/
theorem bit_maskOf (l : List Nat) {i : Nat} (hi : i < 32) : bit i (maskOf l) = decide (i ∈ l) := by
  have fold (l : List Nat) (m : Word) :
      bit i (l.foldl (fun m d => m ||| BitVec.ofNat 32 (1 <<< d)) m) = (bit i m || decide (i ∈ l)) := by
    induction l generalizing m with
    | nil => simp
    | cons d l ih =>
      have one : bit i (m ||| BitVec.ofNat 32 (1 <<< d)) = (bit i m || decide (i = d)) := by
        simp only [bit, BitVec.getLsbD_or, BitVec.getLsbD_ofNat, hi, decide_true, Bool.true_and, testBit_one_shiftLeft]
      rw [List.foldl_cons, ih, one, Bool.or_assoc, ← Bool.decide_or]
      simp only [List.mem_cons]
  rw [maskOf, fold]
  simp [bit]

/-- CLK_FORCE is one field of access code RW (R487). -/
theorem regAt_clkForce : regAt rClkForce = some (⟨0x301020, 1, 1, 0x0, 0, 0, 0, 0, [⟨.rw, 24, 0, 0⟩]⟩, (0, 0, 0)) := by decide +kernel

/-- A write of CLK_FORCE stores its field, which no seal covers. -/
theorem State.writeReg_clkForce (s : State) (w : Word) :
    s.writeReg rClkForce w = s.setReg rClkForce (setBits 24 0 (s.reg rClkForce) (bits 24 0 w)) := by
  have e : s.noteBreak rClkForce w = s := by
    rw [State.noteBreak_of_broken regAt_clkForce]
    exact if_neg (by rw [Bool.and_eq_true, any_breaksSeal]; simp)
  unfold State.writeReg State.writeRegAs
  rw [regAt_clkForce]
  exact congrArg (State.setReg · rClkForce _) e

/-- CLK_FORCE holds the sleepable domains of the word written (R467, R487). -/
theorem State.bit_writeReg_clkForce {s : State} (h : s.regsWf) (w : Word) {d : Nat} (hd : d < 25) :
    bit d ((s.writeReg rClkForce (w &&& maskOf ((List.range 25).filter (sleeps s.assy)))).reg rClkForce)
      = (bit d w && sleeps s.assy d) := by
  generalize hl : (List.range 25).filter (sleeps s.assy) = l
  have m : bit d (maskOf l) = sleeps s.assy d := by
    rw [bit_maskOf l (by omega), ← hl]
    simp only [List.mem_filter, List.mem_range, hd, true_and, Bool.decide_eq_true]
  have t := testBit_bits (hi := 24) (w &&& maskOf l) (Nat.zero_le d) (by omega)
  rw [State.writeReg_clkForce, State.reg_setReg_same h, setBits_bit _ _ _ _ _ (by omega), if_pos (by omega), t, ← m]
  exact BitVec.getLsbD_and

/-! ### PLL locks, and the commands of the domains -/

/-- A PLL that locks for a domain which woke: the domain runs (R466). -/
theorem pllLockStep_woken {s : State} {d : Nat} (h : bit d (s.reg rClkLocking) = true) (off : s.domainOff d = false)
    (hr : ∀ x, s.clk.restart = some x → d ∉ dieDomains x.kind x.die) :
    pllLockStep d s = (s.setFld rClkLocking d d 0).setFld rClkRun d d 1 := by
  have off' : (s.setFld rClkLocking d d 0).domainOff d = false := off
  have away : s.clk.restart.filter (fun x => decide (d ∈ dieDomains x.kind x.die)) = none := by
    rw [Option.filter_eq_none_iff]
    exact fun x hx => by simpa using hr x hx
  cases hrun : s.clk.run with
  | none => simp [pllLockStep, h, hrun, away, off']
  | some r =>
    have out : d ∉ r.inReset := fun c => by simp [State.domainOff, hrun, c] at off
    simp [pllLockStep, h, hrun, out, off']

/-- One that locks for a domain of a die being restarted is noted (R484). -/
theorem pllLockStep_restart {s : State} {d : Nat} {x : DieRun} (h : bit d (s.reg rClkLocking) = true) (hrun : s.clk.run = none)
    (hx : s.clk.restart = some x) (hd : d ∈ dieDomains x.kind x.die) :
    pllLockStep d s = { s.setFld rClkLocking d d 0 with
      clk := { s.clk with restart := some { x with locked := x.locked ++ [(d, s.aon)] } } } := by
  simp [pllLockStep, h, hrun, hx, Option.filter, hd]

/-- One that locks for a domain in reset is noted (R477). -/
theorem pllLockStep_inReset {s : State} {d : Nat} {r : RstRun} (h : bit d (s.reg rClkLocking) = true) (hr : s.clk.run = some r)
    (hd : r.inReset.contains d = true) :
    pllLockStep d s = { s.setFld rClkLocking d d 0 with
      clk := { s.clk with run := some { r with locked := r.locked ++ [(d, s.aon)] } } } := by
  simp only [List.contains_iff_mem] at hd
  simp [pllLockStep, h, hr, hd]

/-- What the register of locking PLLs and the running domains read as when a lock has been taken. -/
theorem State.locks {s : State} (h : s.regsWf) {d : Nat} (hd : d < 32) :
    bit d ((s.setFld rClkLocking d d 0).reg rClkLocking) = false ∧ (s.setFld rClkLocking d d 0).reg rClkRun = s.reg rClkRun := by
  refine ⟨?_, State.reg_setReg_other h _ (by decide)⟩
  rw [State.bit_setFld h _ _ hd, if_pos rfl]
  rfl

/-- DOMAIN_SLEEP, DOMAIN_WAKE and PLL_LOCK of one domain (R465, R466, R477, R484). -/
theorem domains_sleep_wake_lock {s : State} (h : s.regsWf) (d : Nat) :
      (sleeps s.assy d = true → s.clk.run = none → s.effFld rClkSleep 16 16 = 1 → s.heldOn d = false → s.domainOff d = false → s.domainBusy d = false →
        bit d (s.reg rClkRun) = true → ∃ t, exec (.domainSleep d) s = .next t ∧ RegsOnly (fun off => off = rClkRun) s t
          ∧ bit d (t.reg rClkRun) = false ∧ ∀ k, k ≠ d → bit k (t.reg rClkRun) = bit k (s.reg rClkRun))
      ∧ (s.heldOn d = true ∨ s.domainBusy d = true ∨ sleeps s.assy d = false → exec (.domainSleep d) s = .next s)
      ∧ (d ∈ asmDomains s.assy → s.domainOff d = false → bit d (s.reg rClkRun) = false → bit d (s.reg rClkLocking) = false →
        ∃ t, exec (.domainWake d) s = .next t ∧ RegsOnly (fun off => off = rClkLocking || off = rClkWakes) s t
          ∧ bit d (t.reg rClkLocking) = true ∧ (t.reg rClkWakes).toNat = satAdd 32 (s.reg rClkWakes).toNat 1)
      ∧ (d < 32 → bit d (s.reg rClkLocking) = true → s.domainOff d = false →
        (∀ x, s.clk.restart = some x → d ∉ dieDomains x.kind x.die) →
        ∃ t, exec (.pllLock d) s = .next t ∧ RegsOnly (fun off => off = rClkLocking || off = rClkRun) s t
          ∧ bit d (t.reg rClkLocking) = false ∧ bit d (t.reg rClkRun) = true)
      ∧ (∀ x, bit d (s.reg rClkLocking) = true → s.clk.run = none → s.clk.restart = some x → d ∈ dieDomains x.kind x.die →
          ∃ t, exec (.pllLock d) s = .next t ∧ t.clk = { s.clk with restart := some { x with locked := x.locked ++ [(d, s.aon)] } }
            ∧ bit d (t.reg rClkLocking) = false ∧ t.reg rClkRun = s.reg rClkRun)
      ∧ ∀ r, bit d (s.reg rClkLocking) = true → s.clk.run = some r → r.inReset.contains d = true →
          ∃ t r', exec (.pllLock d) s = .next t ∧ t.clk.run = some r' ∧ r' = { r with locked := r.locked ++ [(d, s.aon)] }
            ∧ bit d (t.reg rClkLocking) = false ∧ t.reg rClkRun = s.reg rClkRun := by
  refine ⟨fun h1 h2 h3 h4 h5 h6 h7 => ?_, fun c => ?_, fun h1 h2 h3 h4 => ?_, fun hd hl off hr => ?_, fun x hl hrun hx hd => ?_,
    fun r hl hr hd => ?_⟩
  · exact ⟨_, congrArg Host.Outcome.next (domainSleepStep_idle h1 h2 h3 h4 h5 h6 h7), State.stops h (lt_of_bit h7)⟩
  · exact congrArg Host.Outcome.next (domainSleepStep_stays c)
  · obtain ⟨only, lock, count⟩ := State.starts h (d := d) (by have := lt_of_mem_asmDomains h1; omega)
    exact ⟨_, congrArg Host.Outcome.next (State.wake_stopped h1 h2 h3 h4), only, by rw [lock]; simp, count⟩
  · have wf := State.regsWf_setFld h rClkLocking d d 0
    refine ⟨_, congrArg Host.Outcome.next (pllLockStep_woken hl off hr),
      (State.regsOnly_setFld h _ _ _ _).trans (State.regsOnly_setFld wf _ _ _ _), ?_, ?_⟩
    · rw [State.setFld, State.reg_setReg_other wf _ (by decide)]
      exact (State.locks h hd).1
    · rw [State.bit_setFld wf _ _ hd, if_pos rfl]
      rfl
  · exact ⟨_, congrArg Host.Outcome.next (pllLockStep_restart hl hrun hx hd), rfl, State.locks h (lt_of_bit hl)⟩
  · exact ⟨_, _, congrArg Host.Outcome.next (pllLockStep_inReset hl hr hd), rfl, rfl, State.locks h (lt_of_bit hl)⟩

/-- CLK_FORCE_WRITE stores sleepable domains only and wakes those it names (R466, R467, R487). -/
theorem clkForceWrite_wakes {s : State} (h : s.regsWf) (w : Word) (hb : s.barOpen rClkForce = true) (h1 : s.clk.run = none)
    (h2 : s.clk.fenced = []) (h3 : s.clk.kept = []) : ∃ t, exec (.clkForceWrite w) s = .next t
        ∧ RegsOnly (fun off => off = rClkForce || off = rClkLocking || off = rClkWakes) s t
        ∧ (∀ d, d < 25 → bit d (t.reg rClkForce) = (bit d w && sleeps s.assy d))
        ∧ ∀ d, d < 32 → sleeps s.assy d = true → bit d w = true → bit d (t.reg rClkRun) = true ∨ bit d (t.reg rClkLocking) = true := by
  have force (d : Nat) (hd : d < 25) := State.bit_writeReg_clkForce h w hd
  generalize hl : (List.range 25).filter (sleeps s.assy) = l at force
  have e : exec (.clkForceWrite w) s = .next ((s.writeReg rClkForce (w &&& maskOf l)).wakeAll w l) := by
    change Host.Outcome.next (clkForceWriteStep w s) = _
    rw [clkForceWriteStep, hb, hl]
    rfl
  generalize hu : s.writeReg rClkForce (w &&& maskOf l) = u at force e
  rw [State.writeReg_clkForce] at hu
  have only : RegsOnly (fun o => o = rClkForce) s u := hu ▸ State.regsOnly_setReg h _ _
  have woken := State.wakeAll_woken (hu ▸ State.regsWf_setReg h _ _ : u.regsWf) w l
  refine ⟨_, e, ?_, fun d hd => ?_, fun d hd hs hw => ?_⟩
  · simpa only [Bool.or_assoc] using only.trans woken.only
  · rw [woken.only.2 _ (by decide)]
    exact force d hd
  · have hd := mem_asmDomains_of_sleeps hs
    have off : u.domainOff d = false := by
      rw [State.domainOff_congr (s := s) (by rw [only.1])]
      simp [State.domainOff, State.fenced, h1, h2, h3]
    have assy : u.assy = s.assy := by rw [only.1]
    refine State.wakeAll_awake (hu ▸ State.regsWf_setReg h _ _) ?_ hw (assy ▸ hd) off
    rw [← hl, List.mem_filter, List.mem_range]
    exact ⟨lt_of_mem_asmDomains hd, hs⟩

/-! ### The governor's statistics -/

/-- PWR_STAT_CLR puts the statistics at their reset values and leaves what was last measured (R462). -/
theorem pwrStatClr_resets {s : State} (h : s.regsWf) (hb : s.barOpen rPwrStatClr = true) : ∃ t, exec .pwrStatClr s = .next t
      ∧ RegsOnly (fun off => [rPwrVin, rPwrIin, rPwrBrownouts, rPwrThrCycLo, rPwrThrCycHi].contains off) s t
      ∧ t.fld rPwrVin 31 16 = 0xFFFF ∧ t.fld rPwrVin 15 0 = s.fld rPwrVin 15 0 ∧ t.fld rPwrIin 31 16 = 0
      ∧ t.fld rPwrIin 15 0 = s.fld rPwrIin 15 0 ∧ t.reg rPwrBrownouts = 0 ∧ t.reg64 rPwrThrCycLo = 0 := by
  have e : exec .pwrStatClr s = .next (((s.setFld rPwrVin 31 16 0xFFFF).setFld rPwrIin 31 16 0).zeroRegs
      [rPwrBrownouts, rPwrThrCycLo, rPwrThrCycHi]) := by
    change Host.Outcome.next (pwrStatClrStep s) = _
    rw [pwrStatClrStep, hb]
    rfl
  have wf1 := State.regsWf_setFld h rPwrVin 31 16 0xFFFF
  have wf2 := State.regsWf_setFld wf1 rPwrIin 31 16 0
  obtain ⟨only, zero⟩ := State.regsOnly_zeroRegs wf2 [rPwrBrownouts, rPwrThrCycLo, rPwrThrCycHi]
  generalize ((s.setFld rPwrVin 31 16 0xFFFF).setFld rPwrIin 31 16 0).zeroRegs [rPwrBrownouts, rPwrThrCycLo, rPwrThrCycHi] = t
    at e only zero
  have kept (off hi lo : Nat) (ho : [rPwrBrownouts, rPwrThrCycLo, rPwrThrCycHi].contains off = false) :
      t.fld off hi lo = ((s.setFld rPwrVin 31 16 0xFFFF).setFld rPwrIin 31 16 0).fld off hi lo := by
    rw [State.fld, only.2 off ho, State.fld]
  have vin (hi lo : Nat) : t.fld rPwrVin hi lo = (s.setFld rPwrVin 31 16 0xFFFF).fld rPwrVin hi lo := by
    rw [kept _ _ _ (by decide), State.fld, State.setFld, State.reg_setReg_other wf1 _ (by decide), State.fld]
  have iin (hi lo : Nat) : (s.setFld rPwrVin 31 16 0xFFFF).fld rPwrIin hi lo = s.fld rPwrIin hi lo := by
    rw [State.fld, State.setFld, State.reg_setReg_other h _ (by decide), State.fld]
  refine ⟨t, e, ?_, ?_, ?_, ?_, ?_, zero _ (by decide), ?_⟩
  · have all := ((State.regsOnly_setFld h rPwrVin 31 16 0xFFFF).trans (State.regsOnly_setFld wf1 rPwrIin 31 16 0)).trans only
    refine ⟨all.1, fun off ho => all.2 off ?_⟩
    simpa [and_assoc] using ho
  · exact (vin 31 16).trans (State.fld_setFld h _ _ _ _ (by decide) (by decide))
  · rw [vin, State.fld_setFld_other h _ (by decide) (by decide)]
  · exact (kept _ 31 16 (by decide)).trans (State.fld_setFld wf1 _ _ _ _ (by decide) (by decide))
  · rw [kept _ _ _ (by decide), State.fld_setFld_other wf1 _ (by decide) (by decide), iin]
  · rw [State.reg64, zero _ (by decide), show rPwrThrCycLo + 4 = rPwrThrCycHi from rfl, zero _ (by decide)]
    rfl

/-! ### What is measured -/

/-- A value shown in the low half of a register, and in its high half too when that holds a value to be replaced (R462). -/
def State.showBoth (s : State) (off v : Nat) (f : Nat → Prop) [DecidablePred f] : State :=
  if f ((s.setFld off 15 0 v).fld off 31 16) then (s.setFld off 15 0 v).setFld off 31 16 v else s.setFld off 15 0 v

theorem State.showBoth_spec {s : State} (h : s.regsWf) (off : Nat) {v : Nat} (hv : v ≤ 0xFFFF) (f : Nat → Prop) [DecidablePred f] :
    RegsOnly (fun o => o = off) s (s.showBoth off v f) ∧ (s.showBoth off v f).regsWf ∧ (s.showBoth off v f).fld off 15 0 = v
      ∧ (s.showBoth off v f).fld off 31 16 = if f (s.fld off 31 16) then v else s.fld off 31 16 := by
  have wf := State.regsWf_setFld h off 15 0 v
  have only := State.regsOnly_setFld h off 15 0 v
  have low : (s.setFld off 15 0 v).fld off 15 0 = v :=
    (State.fld_setFld h _ _ _ _ (by decide) (by decide)).trans (Nat.mod_eq_of_lt (by omega))
  have high : (s.setFld off 15 0 v).fld off 31 16 = s.fld off 31 16 := State.fld_setFld_other h _ (by decide) (by decide)
  unfold State.showBoth
  rw [high]
  split
  · refine ⟨by simpa using only.trans (State.regsOnly_setFld wf off 31 16 v), State.regsWf_setFld wf _ _ _ _, ?_, ?_⟩
    · rw [State.fld_setFld_other wf _ (by decide) (by decide), low]
    · exact (State.fld_setFld wf _ _ _ _ (by decide) (by decide)).trans (Nat.mod_eq_of_lt (by omega))
  · exact ⟨only, wf, low, high⟩

/-- What a measurement moves: two registers, and of the governor's state the input's values and the episodes under way (R450, R462). -/
structure Measured (iin vin : Nat) (s t : State) : Prop where
  eq  : t = { s with regs := t.regs, pwr := { s.pwr with iin := iin, vin := vin, brown := t.pwr.brown, ilim := t.pwr.ilim } }
  wf  : t.regsWf
  vNow : t.fld rPwrVin 15 0 = min (vin / 10) 0xFFFF
  vLow : t.fld rPwrVin 31 16 = min (s.fld rPwrVin 31 16) (min (vin / 10) 0xFFFF)
  iNow : t.fld rPwrIin 15 0 = min (iin / 10) 0xFFFF
  iHigh : t.fld rPwrIin 31 16 = max (s.fld rPwrIin 31 16) (min (iin / 10) 0xFFFF)

theorem PowerOnly.trans {s t u : State} (h : PowerOnly s t) (k : PowerOnly t u) : PowerOnly s u := by
  unfold PowerOnly at h k ⊢
  rw [k, h]

theorem Measured.powerOnly {iin vin : Nat} {s t : State} (h : Measured iin vin s t) : PowerOnly s t := by
  unfold PowerOnly
  rw [h.eq]

theorem State.measure_measured {s : State} (h : s.regsWf) (iin vin : Nat) : Measured iin vin s (s.measure iin vin) := by
  obtain ⟨p, a, hp, ha, e⟩ : ∃ (p : Power) (a : State), p = { s.pwr with iin := iin, vin := vin, brown := p.brown, ilim := p.ilim }
      ∧ a = ({ s with pwr := p } : State).showBoth rPwrVin (min (vin / 10) 0xFFFF) (min (vin / 10) 0xFFFF < ·)
      ∧ s.measure iin vin = a.showBoth rPwrIin (min (iin / 10) 0xFFFF) (· < min (iin / 10) 0xFFFF) := ⟨_, _, rfl, rfl, rfl⟩
  obtain ⟨only1, wf1, now1, ext1⟩ := State.showBoth_spec (s := { s with pwr := p }) h rPwrVin (Nat.min_le_right (vin / 10) 0xFFFF)
    (min (vin / 10) 0xFFFF < ·)
  rw [← ha] at only1 wf1 now1 ext1
  obtain ⟨only2, wf2, now2, ext2⟩ := State.showBoth_spec wf1 rPwrIin (Nat.min_le_right (iin / 10) 0xFFFF) (· < min (iin / 10) 0xFFFF)
  rw [← e] at only2 wf2 now2 ext2
  generalize s.measure iin vin = t at only2 wf2 now2 ext2
  have v : t.reg rPwrVin = a.reg rPwrVin := only2.2 _ (by decide)
  have i : a.reg rPwrIin = s.reg rPwrIin := only1.2 _ (by decide)
  refine ⟨?_, wf2, ?_, ?_, now2, ?_⟩
  · rw [only2.1, only1.1]
    simp only [← hp]
  · rw [State.fld, v]
    exact now1
  · rw [State.fld, v]
    refine Eq.trans ext1 ?_
    change (if _ < s.fld rPwrVin 31 16 then _ else s.fld rPwrVin 31 16) = _
    split <;> omega
  · rw [ext2, State.fld, i]
    change (if s.fld rPwrIin 31 16 < _ then _ else s.fld rPwrIin 31 16) = _
    split <;> omega

/-! ### The governor's steps -/

/-- Of the governor's state only steps, allowances and ballast have moved, the allowance for a rise not upward, and nothing else. -/
structure Adjusts (s t : State) : Prop where
  eq : t = { s with pwr := { s.pwr with steps := t.pwr.steps, up := t.pwr.up, down := t.pwr.down, ballast := t.pwr.ballast } }
  up : t.pwr.up ≤ s.pwr.up

theorem Adjusts.refl (s : State) : Adjusts s s := ⟨rfl, le_rfl⟩

theorem Adjusts.trans {s t u : State} (h : Adjusts s t) (k : Adjusts t u) : Adjusts s u where
  eq := by rw [k.eq, h.eq]
  up := k.up.trans h.up

theorem Adjusts.powerOnly {s t : State} (h : Adjusts s t) : PowerOnly s t := by
  unfold PowerOnly
  rw [h.eq]

/-- Steps, allowances and ballast request nothing. -/
theorem Adjusts.target {s t : State} (h : Adjusts s t) (d : Nat) : t.target d = s.target d := by rw [h.eq]; rfl

theorem State.raiseSteps_adjusts (s : State) : Adjusts s s.raiseSteps := by
  unfold State.raiseSteps
  simp only []
  split <;> split <;> exact ⟨rfl, by simp⟩

/-- A request that has risen takes effect at once (R445). -/
theorem State.stepOf_raiseSteps (s : State) {d : Nat} (hd : d < 4) :
    s.raiseSteps.stepOf d = if s.fenced 1 d then 0 else max (s.stepOf d) (s.target d) := by
  have steps : s.raiseSteps.pwr.steps = (List.range 4).map fun d => if s.fenced 1 d then 0 else max (s.stepOf d) (s.target d) := by
    unfold State.raiseSteps
    simp only []
    split <;> split <;> rfl
  rw [State.stepOf, steps]
  simp [hd]

theorem State.rampDown_adjusts (s : State) : Adjusts s s.rampDown := by
  unfold State.rampDown
  simp only []
  split
  · exact .refl s
  · exact ⟨rfl, Nat.sub_le _ _⟩

/-- The ramp lowers a domain above its target by one step, if it does at all (R446). -/
theorem State.stepOf_rampDown (s : State) {d : Nat} (hd : d < 4) :
    s.rampDown.stepOf d = s.stepOf d ∨ s.target d < s.stepOf d ∧ s.rampDown.stepOf d = s.stepOf d - 1 := by
  unfold State.rampDown
  simp only []
  split
  · exact .inl rfl
  · rw [State.stepOf, List.getD_eq_getElem?_getD, List.getElem?_map, List.getElem?_range hd]
    simp only [Option.map_some, Option.getD_some, List.contains_iff_mem, List.mem_filter, Bool.and_eq_true, decide_eq_true_eq]
    split
    · rename_i c
      exact .inr ⟨c.2.1, rfl⟩
    · exact .inl rfl

/-- Of the governor's state only allowances and ballast have moved, the allowance for a rise not upward, and nothing else. -/
structure Rations (s t : State) : Prop where
  eq : t = { s with pwr := { s.pwr with up := t.pwr.up, down := t.pwr.down, ballast := t.pwr.ballast } }
  up : t.pwr.up ≤ s.pwr.up

theorem Rations.refl (s : State) : Rations s s := ⟨rfl, le_rfl⟩

theorem Rations.trans {s t u : State} (h : Rations s t) (k : Rations t u) : Rations s u where
  eq := by rw [k.eq, h.eq]
  up := k.up.trans h.up

theorem Rations.ite {s t u : State} {c : Prop} {i : Decidable c} (h : Rations s t) (k : Rations s u) : Rations s (if c then t else u) := by
  split
  exacts [h, k]

theorem Rations.steps {s t : State} (h : Rations s t) : t.pwr.steps = s.pwr.steps := by rw [h.eq]

theorem Rations.adjusts {s t : State} (h : Rations s t) : Adjusts s t := ⟨by rw [h.eq], h.up⟩

/-- Ballast moves within the allowances (R449). -/
theorem State.moveBallast_rations (s : State) : Rations s s.moveBallast := by
  unfold State.moveBallast
  extract_lets +onlyGivenNames _ a w rise keep fall _ b
  have h : Rations s a := (Rations.refl s).ite ⟨rfl, le_rfl⟩
  clear_value a rise fall
  have k : Rations s b := by
    unfold b
    split
    · exact h.ite (h.trans ⟨rfl, le_rfl⟩)
    · exact h
  clear_value b
  split
  · split
    · exact k
    · exact k.trans ⟨rfl, Nat.sub_le _ _⟩
  · exact k

/-- The report of a brown-out is an event and the end of the note for it (R446, R460). -/
theorem State.brownReport_event (s : State) : ∃ x, EventOnly { s with pwr := { s.pwr with brownEnd := x } } s.brownReport := by
  unfold State.brownReport
  split
  · exact ⟨s.pwr.brownEnd, .refl _⟩
  · split
    · exact ⟨s.pwr.brownEnd, .refl _⟩
    · exact ⟨none, State.emit_event _ _⟩

/-- What an evaluation does after the measurement: no step stays below what is requested and none falls by more than one, and the
allowance does not rise again (R445, R446). -/
theorem State.evaluate_spec (s : State) : ∃ t x, Adjusts s t ∧ EventOnly { t with pwr := { t.pwr with brownEnd := x } }
    s.raiseSteps.rampDown.moveBallast.brownReport
    ∧ ∀ d, d < 4 → s.fenced 1 d = false → t.target d ≤ t.stepOf d ∧ s.stepOf d ≤ t.stepOf d + 1 := by
  have ballast := s.raiseSteps.rampDown.moveBallast_rations
  have ramp := s.raiseSteps.rampDown_adjusts
  have raise := s.raiseSteps_adjusts
  have all := (raise.trans ramp).trans ballast.adjusts
  obtain ⟨x, ev⟩ := s.raiseSteps.rampDown.moveBallast.brownReport_event
  refine ⟨_, x, all, ev, fun d hd hf => ?_⟩
  have up : s.raiseSteps.stepOf d = max (s.stepOf d) (s.target d) := by rw [s.stepOf_raiseSteps hd, hf]; rfl
  have down := s.raiseSteps.stepOf_rampDown hd
  rw [all.target, State.stepOf, ballast.steps, ← State.stepOf]
  rw [raise.target] at down
  omega

/-- The allowances grow by what 10 µs give, up to their caps (R446). -/
def State.growAllowances (s : State) : State :=
  let grow (rate have_ : Nat) : Nat := min (have_ + 10 * rate) (10 * rate + s.stepRise 4)
  { s with pwr := { s.pwr with up := grow (s.effFld rPwrRamp 7 0) s.pwr.up, down := grow (s.effFld rPwrRamp 15 8) s.pwr.down } }

theorem governorEvalStep_eq {s : State} (on : s.govOn = true) (iin vin : Nat) :
    governorEvalStep iin vin s = (s.measure iin vin).growAllowances.raiseSteps.rampDown.moveBallast.brownReport := by
  rw [governorEvalStep, on]
  rfl

/-- GOVERNOR_EVAL (R446, R462). -/
theorem governorEval_spec {s : State} (h : s.regsWf) (iin vin : Nat) (on : s.govOn = true) :
    ∃ t, exec (.governorEval iin vin) s = .next t ∧ PowerOnly s t ∧ t.pwr.iin = iin
      ∧ t.pwr.vin = vin ∧ t.fld rPwrVin 15 0 = min (vin / 10) 0xFFFF ∧ t.fld rPwrIin 15 0 = min (iin / 10) 0xFFFF
      ∧ t.fld rPwrVin 31 16 = min (s.fld rPwrVin 31 16) (min (vin / 10) 0xFFFF)
      ∧ t.fld rPwrIin 31 16 = max (s.fld rPwrIin 31 16) (min (iin / 10) 0xFFFF)
      ∧ (∀ d, d < 4 → s.fenced 1 d = false → t.target d ≤ t.stepOf d ∧ s.stepOf d ≤ t.stepOf d + 1)
      ∧ t.pwr.up ≤ 10 * s.effFld rPwrRamp 7 0 + t.stepRise 4 := by
  have m := State.measure_measured h iin vin
  generalize hm : s.measure iin vin = a at m
  have e : exec (.governorEval iin vin) s = .next a.growAllowances.raiseSteps.rampDown.moveBallast.brownReport := by
    rw [← hm, ← governorEvalStep_eq on]
    rfl
  have grow : PowerOnly a a.growAllowances := rfl
  have cap : a.growAllowances.pwr.up ≤ 10 * a.effFld rPwrRamp 7 0 + a.stepRise 4 := Nat.min_le_right _ _
  have same : a.growAllowances.pwr.iin = a.pwr.iin ∧ a.growAllowances.pwr.vin = a.pwr.vin ∧ a.growAllowances.pwr.steps = a.pwr.steps
    ∧ a.growAllowances.regs = a.regs := ⟨rfl, rfl, rfl, rfl⟩
  generalize a.growAllowances = g at e grow cap same
  obtain ⟨iinG, vinG, stepsG, regsG⟩ := same
  obtain ⟨b, x, adj, ev, steps⟩ := g.evaluate_spec
  generalize g.raiseSteps.rampDown.moveBallast.brownReport = t at ev e
  have ht : t = { b with pwr := { b.pwr with brownEnd := x }, regs := t.regs, out := t.out, host := t.host, io := t.io } := ev.host
  have all : PowerOnly s b := (m.powerOnly.trans grow).trans adj.powerOnly
  have assy : b.assy = a.assy := by rw [adj.powerOnly, grow]
  have wf : b.regsWf := by
    have : b.regs = a.regs := by rw [adj.eq, regsG]
    rw [State.regsWf, this, assy]
    exact m.wf
  have fld (off hi lo : Nat) (h1 : off ≠ rRngEvqLost) (h2 : off ≠ rRngEvqCfg) : t.fld off hi lo = a.fld off hi lo := by
    have : t.reg off = a.reg off := by
      refine (ev.reg wf off h1 h2).trans ?_
      change sget (regReset b.assy) b.regs off = _
      rw [assy, adj.eq, regsG]
      rfl
    rw [State.fld, this, State.fld]
  have iinB : b.pwr.iin = iin := by
    have : b.pwr.iin = g.pwr.iin := by rw [adj.eq]
    rw [this, iinG, m.eq]
  have vinB : b.pwr.vin = vin := by
    have : b.pwr.vin = g.pwr.vin := by rw [adj.eq]
    rw [this, vinG, m.eq]
  have iinT : t.pwr.iin = b.pwr.iin := by rw [ht]
  have vinT : t.pwr.vin = b.pwr.vin := by rw [ht]
  have upT : t.pwr.up = b.pwr.up := by rw [ht]
  refine ⟨t, e, all.trans (by unfold PowerOnly; rw [ht]), iinT.trans iinB, vinT.trans vinB,
    (fld _ _ _ (by decide) (by decide)).trans m.vNow, (fld _ _ _ (by decide) (by decide)).trans m.iNow,
    (fld _ _ _ (by decide) (by decide)).trans m.vLow, (fld _ _ _ (by decide) (by decide)).trans m.iHigh, fun d hd hf => ?_, ?_⟩
  · have fenced : g.fenced 1 d = false := by rw [grow, m.eq]; exact hf
    have was : g.stepOf d = s.stepOf d := by rw [State.stepOf, stepsG, m.eq]; rfl
    have := steps d hd fenced
    rw [was] at this
    rw [ht]
    exact this
  · have rise : t.stepRise 4 = a.stepRise 4 := by
      simp only [State.stepRise, State.amps, vinT, vinB]
      rw [m.eq]
    have rate : s.effFld rPwrRamp 7 0 = a.effFld rPwrRamp 7 0 := by rw [m.eq]; rfl
    rw [rise, rate, upT]
    exact adj.up.trans cap

/-! ### The management epoch -/

/-- What measurements, the governor and reports may move: registers, the host interface with what is put out, free values, and the
governor's, the security's and the errors' own state. -/
def Reports (s t : State) : Prop :=
  t = { s with regs := t.regs, out := t.out, host := t.host, io := t.io, free := t.free, pwr := t.pwr, sec := t.sec, err := t.err }

section
variable {s t u : State}

theorem Reports.refl (s : State) : Reports s s := rfl

/-- A change of the parts that Reports leaves open. -/
theorem Reports.same {regs : List (Nat × Word)} {out : List Out} {host : HostIf} {io : List IoRes} {free : Nat} {pwr : Power} {sec : Sec}
    {err : Errors} (h : Reports s t) :
    Reports s { t with regs := regs, out := out, host := host, io := io, free := free, pwr := pwr, sec := sec, err := err } := by
  unfold Reports at h ⊢
  rw [h]

theorem Reports.trans (h : Reports s t) (k : Reports t u) : Reports s u := by
  unfold Reports at k
  rw [k]
  exact h.same

theorem Reports.ite {c : Prop} {i : Decidable c} (h : Reports s t) (k : Reports s u) : Reports s (if c then t else u) := by
  split
  exacts [h, k]

theorem Reports.foldl {α : Type} {l : List α} {f : State → α → State} (h : Reports s t)
    (k : ∀ u v x, Reports u v → Reports u (f v x)) : Reports s (l.foldl f t) := by
  induction l generalizing t with
  | nil => exact h
  | cons x l ih => exact ih (h.trans (k _ _ x (.refl t)))

theorem Reports.event (h : Reports s t) (k : EventOnly t u) : Reports s u := by
  rw [k.host]
  exact h.same

theorem Reports.emit {e : Ev} (h : Reports s t) : Reports s (t.emit e) := h.event (t.emit_event e)

theorem Reports.setReg {off : Nat} {w : Word} (h : Reports s t) : Reports s (t.setReg off w) := h.same

theorem Reports.setFld {off hi lo v : Nat} (h : Reports s t) : Reports s (t.setFld off hi lo v) := h.setReg

/-- What Reports keeps, of what an epoch's end speaks of. -/
theorem Reports.kept (h : Reports s t) : t.aon = s.aon ∧ t.mem = s.mem ∧ t.sched = s.sched ∧ t.clk = s.clk ∧ t.eng = s.eng ∧ t.vrl = s.vrl := by
  rw [h]
  exact ⟨rfl, rfl, rfl, rfl, rfl, rfl⟩

theorem Reports.measure {iin vin : Nat} (h : Reports s t) : Reports s (t.measure iin vin) := by
  unfold State.measure
  extract_lets +onlyGivenNames br low il _ a v i b c d
  have k : Reports s b := Reports.setFld (Reports.same h)
  clear_value b v i
  have k : Reports s d := (k.setFld.ite k).setFld
  clear_value d
  exact k.setFld.ite k

theorem Reports.showRat {q : Rat} (h : Reports s t) : Reports s (t.showRat q).2 := h.same

theorem Reports.showEpoch {e : EpochIn} (h : Reports s t) : Reports s (t.showEpoch e) := by
  unfold State.showEpoch
  dsimp only
  exact (h.measure.same.setFld.foldl fun _ _ _ h => h.ite h.setReg).setFld.setFld.showRat.setFld

theorem Reports.limitSource {power : Nat} (h : Reports s t) : Reports s (t.limitSource power) := by
  unfold State.limitSource
  dsimp only
  split
  · exact h.same
  · split
    · exact h.same.ite (Reports.emit h.same)
    · exact h

theorem Reports.hotSource {dies : List Int} (h : Reports s t) : Reports s (t.hotSource dies) :=
  h.foldl fun _ _ _ h => ((Reports.emit h.same.same).ite h.same.same).ite h.same

theorem Reports.coolSensor {k : Nat} {q : Int} (h : Reports s t) : Reports s (t.coolSensor k q) := by
  unfold State.coolSensor
  dsimp only
  split
  · exact h.same.ite (Reports.emit h.same)
  · exact h.same

theorem Reports.coolHot {tIn tOut : Int} (h : Reports s t) : Reports s (t.coolHot tIn tOut) := by
  unfold State.coolHot
  dsimp only
  split
  · exact h.ite (Reports.emit h.same)
  · exact h.same.ite h

theorem Reports.plateStep {tIn : Int} (h : Reports s t) : Reports s (t.plateStep tIn) := by
  unfold State.plateStep
  dsimp only
  split
  · exact h.ite h.same
  · exact h.same

theorem Reports.dutyStep (h : Reports s t) : Reports s t.dutyStep := by
  unfold State.dutyStep
  split
  · exact h
  · split
    · exact h.setFld
    · dsimp only
      exact Reports.setFld (Reports.showRat h.same)

/-- The governor's part of an epoch (R450, R454 to R458). -/
theorem Reports.powerEpoch {e : EpochIn} (h : Reports s t) : Reports s (t.powerEpoch e) :=
  h.ite h.showEpoch.limitSource.hotSource.coolSensor.coolSensor.coolHot.plateStep.dutyStep

theorem Reports.marginRecord {check value limit lane src : Nat} (h : Reports s t) : Reports s (t.marginRecord check value limit lane src) :=
  h.same

theorem Reports.analog {check item : Nat} {bad : Bool} {say : State → State} (h : Reports s t)
    (k : ∀ u v, Reports u v → Reports u (say v)) : Reports s (t.analog check item bad say) :=
  (k _ _ (Reports.setFld h.same)).ite (Reports.setFld h.same)

/-- The analogue checks of an epoch (R531). -/
theorem Reports.epochChecks {l : List (Nat × Nat × Nat × Nat)} (h : Reports s t) : Reports s (t.epochChecks l) :=
  (h.foldl fun _ _ _ h => h.analog fun _ _ h => h).foldl fun _ _ _ h => h.analog fun _ _ h => h.emit.ite
    (h.marginRecord.ite h.marginRecord)

theorem Reports.outlierRate {die : Nat} (h : Reports s t) : Reports s (t.outlierRate die) := h.ite h.emit

theorem Reports.rwlDenied (h : Reports s t) : Reports s t.rwlDenied := h.ite (Reports.emit h.same)

end

/-- The count of denied accesses is reported and begins anew (R330). -/
theorem State.inboundDenied_event (s : State) : EventOnly { s with vrl := { s.vrl with denied := 0 } } s.inboundDenied := by
  unfold State.inboundDenied
  dsimp only
  split
  · rename_i h
    rw [← h]
    exact .refl s
  · exact State.emit_event _ _

theorem EventOnly.foldl {α : Type} {l : List α} {f : State → α → State} {s t : State} (h : EventOnly s t)
    (k : ∀ u x, EventOnly u (f u x)) : EventOnly s (l.foldl f t) := by
  induction l generalizing t with
  | nil => exact h
  | cons x l ih => exact ih (h.trans (k t x))

/-- Merged records are written and none is gathered any more (R523). -/
theorem State.mergedRecords_event (s : State) : EventOnly { s with err := { s.err with merged := [] } } s.mergedRecords := by
  unfold State.mergedRecords
  dsimp only
  split
  · exact (EventOnly.refl _).foldl fun u x => State.emit_event u _
  · exact .refl _

/-- Time passes with the auxiliary rail up: the count rises, and beside it only registers move (R464). -/
theorem State.advance_eq {s : State} (h : s.pins.aux = true) (n : Nat) :
    s.advance n = { s with aon := s.aon + n, regs := (s.advance n).regs } := by
  unfold State.advance
  rw [h, if_neg (by decide)]
  dsimp only
  split <;> rfl

/-- What the end of an epoch leaves when its boundary is taken: the state up to the raise of steps (R31, R464). -/
structure EpochEnded (s u : State) : Prop where
  aon    : u.aon = s.aon + (1200 - s.aon % 1200)
  mem    : u.mem = s.mem
  sched  : u.sched = s.sched
  clk    : u.clk = s.clk
  ovf    : u.eng.ovfEpoch = []
  denied : u.vrl.denied = 0
  merged : u.err.merged = []

theorem managementEpochStep_ended {s : State} (h : s.pins.aux = true) (e : EpochIn) :
    ∃ u, EpochEnded s u ∧ managementEpochStep e s = ({ u with latched := u.regs } : State).raiseSteps := by
  unfold managementEpochStep
  rw [h, if_neg (by decide)]
  have start : ∀ a : State, Reports { s.advance (1200 - s.aon % 1200) with latched := (s.advance (1200 - s.aon % 1200)).regs } a →
      a.aon = s.aon + (1200 - s.aon % 1200) ∧ a.mem = s.mem ∧ a.sched = s.sched ∧ a.clk = s.clk := by
    intro a k
    obtain ⟨aon, mem, sched, clk, -, -⟩ := k.kept
    rw [aon, mem, sched, clk, State.advance_eq h]
    exact ⟨rfl, rfl, rfl, rfl⟩
  extract_lets s1 s2 s3 s4 s5 _ s6 s7
  have k3 : Reports s2 s3 := (Reports.refl s2).powerEpoch
  clear_value s3
  have k5 : Reports s2 s5 := (k3.ite k3.epochChecks).foldl fun _ _ _ h => h.outlierRate
  clear_value s5
  obtain ⟨aon, mem, sched, clk⟩ := start s5 k5
  have k7 : Reports { s6 with vrl := { s6.vrl with denied := 0 } } s7 :=
    (Reports.rwlDenied ((Reports.refl _).event s6.inboundDenied_event)).trans
      (Reports.event (Reports.same (Reports.refl _)) (State.mergedRecords_event _))
  have merged : s7.err.merged = [] := by
    have := (State.mergedRecords_event s6.inboundDenied.rwlDenied).host
    exact (congrArg (fun u => u.err.merged) this).trans rfl
  obtain ⟨aon7, mem7, sched7, clk7, eng7, vrl7⟩ := k7.kept
  exact ⟨s7, ⟨aon7.trans aon, mem7.trans mem, sched7.trans sched, clk7.trans clk, by rw [eng7], by rw [vrl7], merged⟩, rfl⟩

/-- MANAGEMENT_EPOCH (R31, R330, R464, R523). -/
theorem managementEpoch_spec {s : State} (h : s.pins.aux = true) (e : EpochIn) (io : List IoRes) :
    ∃ t, exec (.managementEpoch e io) s = .next t
      ∧ t.aon = s.aon + (1200 - s.aon % 1200) ∧ t.latched = t.regs ∧ t.eng.ovfEpoch = [] ∧ t.vrl.denied = 0 ∧ t.err.merged = []
      ∧ t.io = [] ∧ t.mem = s.mem ∧ t.sched = s.sched ∧ ∀ d, d < 4 → s.fenced 1 d = false → t.target d ≤ t.stepOf d := by
  obtain ⟨u, ⟨aon, mem, sched, clk, ovf, denied, merged⟩, step⟩ :=
    managementEpochStep_ended (s := { s with io := io }) h e
  have raise := State.raiseSteps_adjusts { u with latched := u.regs }
  have steps (d : Nat) (hd : d < 4) := State.stepOf_raiseSteps { u with latched := u.regs } hd
  rw [← step] at raise steps
  have ex : exec (.managementEpoch e io) s = .next { managementEpochStep e { s with io := io } with io := [] } := rfl
  generalize managementEpochStep e { s with io := io } = t at raise steps ex
  have kept : t.aon = u.aon ∧ t.latched = t.regs ∧ t.eng = u.eng ∧ t.vrl = u.vrl ∧ t.err = u.err ∧ t.mem = u.mem ∧ t.sched = u.sched := by
    rw [raise.eq]
    exact ⟨rfl, rfl, rfl, rfl, rfl, rfl, rfl⟩
  obtain ⟨aon', latched, eng, vrl, err, mem', sched'⟩ := kept
  refine ⟨_, ex, aon'.trans aon, latched, by rw [eng, ovf], by rw [vrl, denied], by rw [err, merged], rfl, mem'.trans mem,
    sched'.trans sched, fun d hd hf => ?_⟩
  have fenced : ({ u with latched := u.regs } : State).fenced 1 d = false := by
    change u.clk.fenced.contains (1, d) = false
    rw [clk]
    exact hf
  change t.target d ≤ t.stepOf d
  rw [steps d hd, fenced, raise.target]
  exact le_max_right _ _

/-- Settles O52, command by command: what an epoch's end, an evaluation of the governor and a command of the clocks leave. -/
theorem epochsAndDomains : Obligations.EpochsAndDomains := by
  intro s h
  exact ⟨fun e io aux => managementEpoch_spec aux e io, fun iin vin on => governorEval_spec h iin vin on, pwrStatClr_resets h,
    domains_sleep_wake_lock h, clkForceWrite_wakes h⟩

end Sys2Proof.Machine
end

section
/-! Settles O11, O16, O18 and O19: lines and CXL.cache, the enables of the ring engine, of the event ring and of the groups, and the polls
of head words (R34, R35, R38, R45, R60 to R62, R67, R75, R76, R553). -/

namespace Sys2Proof.Machine

open Sys2Proof

/-- A field that lies within the one stored reads its bits of the value. -/
theorem bits_setBits_within {hi lo hi2 lo2 : Nat} (x : Word) (v : Nat) (h1 : lo ≤ lo2) (h2 : lo2 ≤ hi2) (h3 : hi2 ≤ hi) (h32 : hi < 32) :
    bits hi2 lo2 (setBits hi lo x v) = bitsN (hi2 - lo) (lo2 - lo) v := by
  apply Nat.eq_of_testBit_eq
  intro i
  unfold bits bitsN
  rw [Nat.testBit_mod_two_pow, Nat.testBit_shiftRight, Nat.testBit_mod_two_pow, Nat.testBit_shiftRight]
  by_cases hi2' : i < hi2 + 1 - lo2
  · have stored := setBits_bit hi lo x v (lo2 + i) (by omega)
    rw [if_pos (by omega)] at stored
    unfold bit BitVec.getLsbD at stored
    rw [stored, show lo2 + i - lo = lo2 - lo + i by omega, decide_eq_true hi2', decide_eq_true (by omega)]
  · rw [decide_eq_false hi2', decide_eq_false (by omega), Bool.false_and, Bool.false_and]

/-- A bit of a register after a field of it is stored. -/
theorem State.bit_reg_setFld {s : State} (h : s.regsWf) (off hi lo v : Nat) {i : Nat} (hi32 : i < 32) :
    bit i ((s.setFld off hi lo v).reg off) = if lo ≤ i ∧ i ≤ hi then v.testBit (i - lo) else bit i (s.reg off) := by
  rw [State.setFld, State.reg_setReg_same h, setBits_bit _ _ _ _ _ hi32]

theorem State.reg_setFld_other {s : State} (h : s.regsWf) {off j : Nat} (hi lo v : Nat) (hj : j ≠ off) :
    (s.setFld off hi lo v).reg j = s.reg j := State.reg_setReg_other h _ hj

/-- A field that is stored with one of its own values reads it. -/
theorem State.fld_setFld_bits {s : State} (h : s.regsWf) (off hi lo : Nat) (w : Word) (h1 : lo ≤ hi) (h2 : hi < 32) :
    (s.setFld off hi lo (bits hi lo w)).fld off hi lo = bits hi lo w := by
  rw [State.fld_setFld h off hi lo _ h1 h2, bits, bitsN, Nat.mod_mod]

/-- CACHE_LOSS as one store and what the engine gives up (R35). -/
theorem cacheLossStep_eq {s : State} (h : s.regsWf) (down : Bool) :
    cacheLossStep down s = { s.setFld rHifLinkStatus 10 (if down then 0 else 10) 0 with
      host := if s.rngOn = true ∧ s.host.lostSince = none then { s.host with lines := [], lostSince := some s.aon } else s.host } := by
  have on (lo : Nat) : (s.setFld rHifLinkStatus 10 lo 0).rngOn = s.rngOn :=
    congrArg (bit 0) (State.reg_setFld_other h 10 lo 0 (by decide))
  have store : (if down then s.setFld rHifLinkStatus 10 0 0 else s.setFld rHifLinkStatus 10 10 0)
      = s.setFld rHifLinkStatus 10 (if down then 0 else 10) 0 := by cases down <;> rfl
  unfold cacheLossStep
  rw [store]
  generalize (if down then 0 else 10) = lo at *
  by_cases lost : s.rngOn = true ∧ s.host.lostSince = none
  · simp [on, State.cacheOk, lost.1, lost.2]
  · have no : ((s.setFld rHifLinkStatus 10 lo 0).rngOn && (s.setFld rHifLinkStatus 10 lo 0).cacheOk) = false := by
      rw [on, Bool.eq_false_iff, Ne, Bool.and_eq_true]
      exact fun c => lost ⟨c.1, Option.isNone_iff_eq_none.1 c.2⟩
    simp only [no, if_neg lost, Bool.false_eq_true, if_false]
    rfl

/-- Settles O11, from the store that CACHE_LOSS makes. -/
theorem linesAndCacheLoss : Obligations.LinesAndCacheLoss := by
  refine ⟨fun line s => ?_, fun down s h => ⟨cacheLossStep down s, rfl, ?_⟩⟩
  · change Host.Outcome.next (doorbellInvalidationStep line s) = _
    simp only [doorbellInvalidationStep, updIf, decide_eq_true_eq]
  · rw [cacheLossStep_eq h]
    refine ⟨?_, fun hd => ?_, fun off ho => State.reg_setFld_other h _ _ _ ho, rfl⟩
    · refine (State.bit_reg_setFld h _ _ _ _ (by decide)).trans ?_
      rw [if_pos (by split <;> omega), Nat.zero_testBit]
    · subst hd
      have zero (hi2 lo2 : Nat) (h2 : lo2 ≤ hi2) (h3 : hi2 ≤ 10) : (s.setFld rHifLinkStatus 10 0 0).fld rHifLinkStatus hi2 lo2 = 0 := by
        rw [State.fld, State.setFld, State.reg_setReg_same h, bits_setBits_within _ _ (Nat.zero_le _) h2 h3 (by decide), bitsN,
          Nat.zero_shiftRight, Nat.zero_mod]
      exact ⟨zero 3 0 (by decide) (by decide), zero 8 4 (by decide) (by decide)⟩

/-- RNG_ENABLE of an engine that is off: by the refusal that R34 and R38 give. -/
theorem rngEnable_off {s : State} (hb : s.barOpen rRngCtl = true) (ho : s.rngOn = false) {v : Nat} (hv : s.rngRefusal = v) :
    exec .rngEnable s = .next (if v = 0 then s.setFld rRngCtl 0 0 1 else s.setFld rRngCmdStatus 7 4 v) := by
  change Host.Outcome.next (rngEnableStep s) = _
  rw [rngEnableStep, hb, ho, hv]
  rfl

/-- Settles O16. -/
theorem ringEngineEnable : Obligations.RingEngineEnable := by
  intro s hb ho
  refine ⟨fun he => rngEnable_off hb ho (v := 3) ?_, fun he hbad => rngEnable_off hb ho (v := 2) ?_,
    fun he h1 h2 h3 h4 => rngEnable_off hb ho (v := 0) ?_⟩
  · simp [State.rngRefusal, he]
  · simp only [State.rngRefusal, he, Bool.not_true, Bool.false_eq_true, if_false]
    rw [if_pos]
    simpa [or_assoc] using hbad
  · simpa [State.rngRefusal, he] using ⟨⟨⟨h1, h2⟩, h3⟩, h4⟩

/-- A head word that the command was given is taken (R61). -/
theorem State.grpPoll_head (s : State) (g : Nat) (v : Word) :
    ({ s with io := [.head v] } : State).grpPoll g = ({ s with io := [] } : State).updGrp g fun x => { x with head := v } := rfl

theorem State.evqPoll_head (s : State) (v : Word) :
    ({ s with io := [.head v] } : State).evqPoll = { s with io := [], host := { s.host with evqHead := v } } := rfl

/-- Settles O19. -/
theorem headPolls : Obligations.HeadPolls := by
  refine ⟨fun g v s x hc hg hh hf => ?_, fun g s x hg hs hh => ⟨fun hr => ?_, fun hr => ?_⟩, fun v s hc he ho hl => ?_⟩
  · have polls : (({ s with io := [.head v] } : State).cacheOk
        && (({ s with io := [.head v] } : State).grp g).any fun x => !x.held.isEmpty && !x.fault) = true := by
      change (s.cacheOk && (s.grp g).any _) = true
      simp [hc, hg, hh, hf]
    change Host.Outcome.next (withIo [.head v] (grpHeadPollStep g) s) = _
    rw [withIo, grpHeadPollStep, if_pos polls, State.grpPoll_head]
  · change Host.Outcome.next (cqStallStep g s) = _
    simp [cqStallStep, hg, hr]
  · change Host.Outcome.next (cqStallStep g s) = _
    simp [cqStallStep, hg, hr, hs, hh]
  · have polls : (({ s with io := [.head v] } : State).cacheOk && ({ s with io := [.head v] } : State).cacheEn
        && ({ s with io := [.head v] } : State).evqOn && decide (({ s with io := [.head v] } : State).reg rRngEvqLost ≠ 0)) = true := by
      change (s.cacheOk && s.cacheEn && s.evqOn && decide (s.reg rRngEvqLost ≠ 0)) = true
      rw [hc, he, ho, decide_eq_true hl]
      rfl
    change Host.Outcome.next (withIo [.head v] evqHeadPollStep s) = _
    rw [withIo, evqHeadPollStep, if_pos polls, State.evqPoll_head]

/-! ### Enables of the event ring and of the groups (R38, R75, R76) -/

theorem State.reg64_setFld_other {s : State} (h : s.regsWf) {off j : Nat} (hi lo v : Nat) (h1 : j ≠ off) (h2 : j + 4 ≠ off) :
    (s.setFld off hi lo v).reg64 j = s.reg64 j := by
  rw [State.reg64, State.reg_setFld_other h _ _ _ h1, State.reg_setFld_other h _ _ _ h2, State.reg64]

/-- A register whose field [b - 1:0] is stored and then its bit e above it. -/
theorem State.fld_below_setFld {s : State} (h : s.regsWf) {off hi e : Nat} (w : Word) (v : Nat) (h1 : hi < e) (h2 : e < 32) :
    ((s.setFld off hi 0 (bits hi 0 w)).setFld off e e v).fld off hi 0 = bits hi 0 w := by
  rw [State.fld_setFld_other (State.regsWf_setFld h _ _ _ _) v (h1.trans h2) (.inl h1), State.fld_setFld_bits h _ _ _ w (Nat.zero_le _) (h1.trans h2)]

/-- Are size and addresses of the event ring legal (R38)? -/
def State.evqLegal (s : State) (w : Word) : Prop :=
  4 ≤ bits 4 0 w ∧ bits 4 0 w ≤ 16 ∧ baseHeadOk (s.reg64 rRngEvqBaseLo) (s.reg64 rRngEvqHeadLo) = true

/-- A write with EN to RNG_EVQ_CFG of an event ring that is off (R38, R75). -/
theorem evqEnableStep_off {s : State} (h : s.regsWf) {w : Word} (hb : s.barOpen rRngEvqCfg = true) (ho : s.evqOn = false)
    (hw : bit 16 w = true) (hl : s.reg rRngEvqLost = 0) : let u := s.setFld rRngEvqCfg 15 0 (bits 15 0 w)
      (s.evqLegal w → evqEnableStep w s = { u.setFld rRngEvqCfg 16 16 1 with host := { s.host with evqCount := 0, evqHead := 0 } })
      ∧ (¬s.evqLegal w → evqEnableStep w s = u) := by
  intro u
  have base : u.reg64 rRngEvqBaseLo = s.reg64 rRngEvqBaseLo := State.reg64_setFld_other h _ _ _ (by decide) (by decide)
  have head : u.reg64 rRngEvqHeadLo = s.reg64 rRngEvqHeadLo := State.reg64_setFld_other h _ _ _ (by decide) (by decide)
  have lost : (u.setFld rRngEvqCfg 16 16 1).reg rRngEvqLost = 0 := by
    rw [State.reg_setFld_other (State.regsWf_setFld h _ _ _ _) _ _ _ (by decide), State.reg_setFld_other h _ _ _ (by decide), hl]
  have legal : (bit 16 w && decide (4 ≤ bits 4 0 w ∧ bits 4 0 w ≤ 16) && baseHeadOk (u.reg64 rRngEvqBaseLo) (u.reg64 rRngEvqHeadLo)) = true
      ↔ s.evqLegal w := by
    rw [hw, base, head, Bool.true_and, Bool.and_eq_true, decide_eq_true_eq, and_assoc, State.evqLegal]
  have shape : evqEnableStep w s = if bit 16 w && decide (4 ≤ bits 4 0 w ∧ bits 4 0 w ≤ 16)
      && baseHeadOk (u.reg64 rRngEvqBaseLo) (u.reg64 rRngEvqHeadLo)
      then ({ u.setFld rRngEvqCfg 16 16 1 with host := { s.host with evqCount := 0, evqHead := 0 } } : State).evqLostPut else u := by
    rw [evqEnableStep, hb, ho]
    rfl
  refine ⟨fun c => ?_, fun c => by rw [shape, if_neg (mt legal.1 c)]⟩
  rw [shape, if_pos (legal.2 c), State.evqLostPut]
  exact if_pos (by rw [Bool.or_eq_true, Bool.or_eq_true, Bool.or_eq_true, Bool.or_eq_true, decide_eq_true_eq]; exact .inl (.inl (.inl (.inl lost))))

/-- EVQ_ENABLE of an event ring that is off. -/
theorem evqEnable_off {s : State} (h : s.regsWf) {w : Word} (hb : s.barOpen rRngEvqCfg = true) (ho : s.evqOn = false)
    (hw : bit 16 w = true) (hl : s.reg rRngEvqLost = 0) (io : List IoRes) :
    ∃ t, exec (.evqEnable w io) s = .next t ∧ t.fld rRngEvqCfg 15 0 = bits 15 0 w
      ∧ (s.evqLegal w → t.evqOn = true ∧ t = { s with regs := t.regs, host := { s.host with evqCount := 0, evqHead := 0 }, io := [] })
      ∧ (¬s.evqLegal w → t.evqOn = false ∧ t = { s with regs := t.regs, io := [] }) := by
  obtain ⟨on, off⟩ := evqEnableStep_off (s := { s with io := io }) h hb ho hw hl
  have wf := State.regsWf_setFld h rRngEvqCfg 15 0 (bits 15 0 w)
  have ex : exec (.evqEnable w io) s = .next { evqEnableStep w { s with io := io } with io := [] } := rfl
  refine ⟨_, ex, ?_⟩
  by_cases c : s.evqLegal w
  · rw [on c]
    exact ⟨State.fld_below_setFld h w 1 (by decide) (by decide),
      fun _ => ⟨(State.bit_reg_setFld wf _ _ _ _ (by decide)).trans rfl, rfl⟩, fun n => absurd c n⟩
  · rw [off c]
    exact ⟨State.fld_setFld_bits h _ _ _ w (by decide) (by decide), fun n => absurd n c,
      fun _ => ⟨(State.bit_reg_setFld h _ _ _ _ (by decide)).trans ho, rfl⟩⟩

/-- Are size and addresses of a group's completion ring legal (R38)? -/
def State.grpLegal (s : State) (g : Nat) (w : Word) : Prop :=
  4 ≤ bits 4 0 w ∧ bits 4 0 w ≤ 16 ∧ baseHeadOk (s.reg64 (rRngGrpBaseLo g)) (s.reg64 (rRngGrpHeadLo g)) = true

/-- A group as it is enabled: no record written, none held (R60). -/
def newGroup (g : Nat) : Group :=
  { g := g, written := 0, head := 0, held := [], fault := false, stalled := false, reported := false, gapRun := false, gapPend := false }

/-- A write with EN to RNG_GRP_CFG of a group that is off (R38, R76). -/
theorem grpEnableStep_off {s : State} (h : s.regsWf) {g : Nat} {w : Word} (hb : s.barOpen (rRngGrpCfg g) = true) (hg : s.grp g = none)
    (hw : bit 31 w = true) : let u := s.setFld (rRngGrpCfg g) 21 0 (bits 21 0 w)
      (s.grpLegal g w → grpEnableStep g w s = { u.setFld (rRngGrpCfg g) 31 31 1 with host :=
        { s.host with groups := s.host.groups ++ [newGroup g] } })
      ∧ (¬s.grpLegal g w → grpEnableStep g w s = u) := by
  intro u
  have apart : rRngGrpBaseLo g + 4 ≠ rRngGrpCfg g ∧ rRngGrpHeadLo g + 4 ≠ rRngGrpCfg g ∧ rRngGrpBaseLo g ≠ rRngGrpCfg g
      ∧ rRngGrpHeadLo g ≠ rRngGrpCfg g := by
    simp only [rRngGrpBaseLo, rRngGrpHeadLo, rRngGrpCfg]
    omega
  obtain ⟨b4, h4, b0, h0⟩ := apart
  have base : u.reg64 (rRngGrpBaseLo g) = s.reg64 (rRngGrpBaseLo g) := State.reg64_setFld_other h _ _ _ b0 b4
  have head : u.reg64 (rRngGrpHeadLo g) = s.reg64 (rRngGrpHeadLo g) := State.reg64_setFld_other h _ _ _ h0 h4
  have legal : (bit 31 w && decide (4 ≤ bits 4 0 w ∧ bits 4 0 w ≤ 16)
      && baseHeadOk (u.reg64 (rRngGrpBaseLo g)) (u.reg64 (rRngGrpHeadLo g))) = true ↔ s.grpLegal g w := by
    rw [hw, base, head, Bool.true_and, Bool.and_eq_true, decide_eq_true_eq, and_assoc, State.grpLegal]
  have shape : grpEnableStep g w s = if bit 31 w && decide (4 ≤ bits 4 0 w ∧ bits 4 0 w ≤ 16)
      && baseHeadOk (u.reg64 (rRngGrpBaseLo g)) (u.reg64 (rRngGrpHeadLo g))
      then { u.setFld (rRngGrpCfg g) 31 31 1 with host := { s.host with groups := s.host.groups ++ [newGroup g] } } else u := by
    rw [grpEnableStep, hb, hg]
    rfl
  exact ⟨fun c => by rw [shape, if_pos (legal.2 c)], fun c => by rw [shape, if_neg (mt legal.1 c)]⟩

/-- GRP_ENABLE of a group that is off. -/
theorem grpEnable_off {s : State} (h : s.regsWf) {g : Nat} {w : Word} (hb : s.barOpen (rRngGrpCfg g) = true) (hg : s.grp g = none)
    (hw : bit 31 w = true) (he : bit 31 (s.reg (rRngGrpCfg g)) = false) (io : List IoRes) :
    ∃ t, exec (.grpEnable g w io) s = .next t ∧ t.fld (rRngGrpCfg g) 21 0 = bits 21 0 w
      ∧ (s.grpLegal g w → bit 31 (t.reg (rRngGrpCfg g)) = true ∧ ∃ x, t = { s with regs := t.regs, host := { s.host with
            groups := s.host.groups ++ [x] } } ∧ x.g = g ∧ x.written = 0 ∧ x.head = 0 ∧ x.held = [] ∧ x.fault = false)
      ∧ (¬s.grpLegal g w → bit 31 (t.reg (rRngGrpCfg g)) = false ∧ t = { s with regs := t.regs }) := by
  obtain ⟨on, off⟩ := grpEnableStep_off h hb hg hw
  have wf := State.regsWf_setFld h (rRngGrpCfg g) 21 0 (bits 21 0 w)
  have ex : exec (.grpEnable g w io) s = .next (grpEnableStep g w s) := rfl
  refine ⟨_, ex, ?_⟩
  by_cases c : s.grpLegal g w
  · rw [on c]
    exact ⟨State.fld_below_setFld h w 1 (by decide) (by decide), fun _ => ⟨(State.bit_reg_setFld wf _ _ _ _ (by decide)).trans rfl,
      newGroup g, rfl, rfl, rfl, rfl, rfl, rfl⟩, fun n => absurd c n⟩
  · rw [off c]
    exact ⟨State.fld_setFld_bits h _ _ _ w (by decide) (by decide), fun n => absurd n c,
      fun _ => ⟨(State.bit_reg_setFld h _ _ _ _ (by decide)).trans he, rfl⟩⟩

/-- GRP_ENABLE of a group that is on and holds no record (R76). -/
theorem grpEnable_on {s : State} {g : Nat} {w : Word} (hb : s.barOpen (rRngGrpCfg g) = true) {x : Group} (hg : s.grp g = some x)
    (hx : x.held = []) (io : List IoRes) :
    exec (.grpEnable g w io) s = .next (if bit 31 w = false ∧ ∀ r ∈ s.host.rings, r.group ≠ g then
      { s.setFld (rRngGrpCfg g) 31 31 0 with host := { s.host with groups := s.host.groups.filter (fun x => x.g ≠ g) } } else s) := by
  change Host.Outcome.next (grpEnableStep g w s) = _
  have stays : (bit 31 w || s.host.rings.any fun r => r.group = g) = true ↔ ¬(bit 31 w = false ∧ ∀ r ∈ s.host.rings, r.group ≠ g) := by
    rw [← Bool.not_eq_false, Bool.or_eq_false_iff, List.any_eq_false]
    simp only [decide_eq_true_eq, ne_eq]
  have shape : grpEnableStep g w s = if (bit 31 w || s.host.rings.any fun r => r.group = g) = true then s else
      { s.setFld (rRngGrpCfg g) 31 31 0 with host := { s.host with groups := s.host.groups.filter (fun x => x.g ≠ g) } } := by
    rw [grpEnableStep, hb, hg]
    simp only [Bool.not_true, Bool.false_eq_true, if_false, Option.isSome_some, if_true, Option.map_some, Option.getD_some, hx,
      List.isEmpty_nil, State.setFld_host]
  rw [shape, if_congr stays rfl rfl, ite_not]

/-- Settles O18. -/
theorem ringEnables : Obligations.RingEnables := by
  refine ⟨fun w io s hb ho hw hl h => evqEnable_off h hb ho hw hl io,
    fun g w io s hb h => ⟨fun hg hw he => grpEnable_off h hb hg hw he io, fun x hg hx => grpEnable_on hb hg hx io⟩,
    fun g io s x hb hg hf => ?_, fun g s x hg hr => ⟨fun hp => ?_, fun hp => ?_⟩⟩
  · have faulted : (({ s with io := io } : State).barOpen (rRngGrpStatus g) && (({ s with io := io } : State).grp g).any fun x => x.fault)
        = true := by
      change (s.barOpen (rRngGrpStatus g) && (s.grp g).any _) = true
      rw [hb, hg, Option.any_some, hf]
      rfl
    change Host.Outcome.next (withIo io (grpFaultRetryStep g) s) = _
    rw [withIo, grpFaultRetryStep, if_pos faulted]
  · change Host.Outcome.next (msixGapExpireStep g s) = _
    simp [msixGapExpireStep, hg, hr, hp]
  · change Host.Outcome.next (msixGapExpireStep g s) = _
    simp [msixGapExpireStep, hg, hr, hp]

end Sys2Proof.Machine
end

section
/-! Settles O23, and refutes O17 and O22, each by a state in which a clause asks too little of what the command must move or wait for. -/

namespace Sys2Proof.Machine

open Sys2Proof

/-! ### The checks that come first (R53, R509) -/

/-- The checks of an opcode end a Waybill with the first one's status. -/
theorem State.checked_refused {s : State} {w : Wb} {st : Nat}
    (h : s.r53 w.part w.slot = some st ∨ (s.r53 w.part w.slot = none ∧ s.secCheck w.part = some st)) (f : State → State) :
    s.checked w f = s.endWb w.wid st 0 0 := by
  unfold State.checked
  obtain h | ⟨h1, h2⟩ := h
  · rw [h]
  · rw [h1, h2]

/-- A Waybill's entry that is ended with a status, put where none was. -/
def State.withEnded (s : State) (wid st : Nat) (w : Wb) : State :=
  { s.endWb wid st 0 0 with sched := { s.sched with
      wbs := { w with wid := wid, phase := .ended, status := st, detail := 0, src := 0 } :: s.sched.wbs } }

theorem State.withEnded_endOnly (s : State) (wid st : Nat) (w : Wb) :
    EndOnly wid s (s.withEnded wid st w) ∧ (s.withEnded wid st w).endedWith wid st 0 0 := by
  refine ⟨⟨?_, fun n hn => List.find?_cons_of_neg (by simpa using hn.symm)⟩, _, List.find?_cons_of_pos (by simp), rfl, rfl, rfl, rfl⟩
  unfold State.withEnded
  rw [State.endWb_eq]

/-- Settles O23. With the Waybill accepted, its end is what each of the three commands comes to; without it none of them begins. -/
theorem checksComeFirst : Obligations.ChecksComeFirst := by
  intro wid s w st hl hst
  have ends := fun f => State.checked_refused hst f
  by_cases hw : s.wb wid = some w
  · obtain rfl := State.wid_of_wb hw
    refine ⟨s.endWb w.wid st 0 0, s.endWb_endOnly w.wid st 0 0, State.endWb_endedWith hw hl st 0, fun hb s0 m hm => ?_, fun hb => ?_, fun hb => ?_⟩
    · change Host.Outcome.next (runTimetableStep w.wid (s0.meetsErr w.wid m)).served = _
      simp only [hm, runTimetableStep, hb, ends]
    · change Host.Outcome.next (xferStep w.wid s) = _
      simp only [xferStep, hb, ends]
    · change Host.Outcome.next (fillStep w.wid s) = _
      simp only [fillStep, hb, ends]
  · obtain ⟨only, ended⟩ := s.withEnded_endOnly wid st w
    have idle (op : Nat) (hb : s.begin? wid op = some w) : False := hw (State.begin?_eq_some hb).1
    exact ⟨_, only, ended, fun hb => (idle _ hb).elim, fun hb => (idle _ hb).elim, fun hb => (idle _ hb).elim⟩

/-! ### A ring that is forgotten leaves the queue of swap partitions (R79, R433) -/

/-- A ring that drains with nothing to write, and still stands in the queue of swap partitions. -/
def queuedRing : State :=
  { State.reset with
    host := { State.reset.host with rings := [{ n := 0, state := 3, cause := 0, cons := 0, prod := 0, lastStep := 0, base := 0, log2 := 4,
                                                group := 0, part := 0, mute := true }] }
    sched := { State.reset.sched with swapWait := [0] } }

theorem queuedRing_forgotten : ∃ u, exec (.ringDrainEnd 0 []) queuedRing = .next u ∧ u.sched.swapWait = [] := ⟨_, rfl, rfl⟩

/-- Refutes O17: a ring that is forgotten is taken out of the queue of rings whose Consist waits for its swap partition, so that RING_DRAIN_END
moves the scheduler too, which HostOnly does not allow. -/
theorem not_attachAndDetach : ¬ Obligations.AttachAndDetach := by
  intro h
  obtain ⟨-, -, drains, -⟩ := h
  obtain ⟨t, ex, only, -⟩ := drains 0 [] queuedRing _ rfl rfl (fun c hc => nomatch hc)
  obtain ⟨u, ex', out⟩ := queuedRing_forgotten
  cases ex.symm.trans ex'
  have kept : t.sched.swapWait = [0] := by rw [only]; rfl
  rw [out] at kept
  cases kept

/-! ### A collective whose messages have yet to leave (R73, R347) -/

/-- A COLLECTIVE with QUIET whose work has ended well. -/
def endedColl : Wb := { newWb 1 1 0 0 none (BitVec.ofNat 512 0x460) with phase := .ended }

/-- It stands alone, and its VERDICT for a member still waits to be sent. -/
def verdictWaits : State :=
  { State.reset with
    sched := { State.reset.sched with wbs := [endedColl] }
    colls := { State.reset.colls with owed := [{ wid := 1, cle := 0, dst := 0, inc := none, place := 0, tag := 0, off := 5, mdata := 0,
                                                 body := [], poison := 0 }] } }

theorem verdictWaits_stays : exec (.waybillComplete 1 []) verdictWaits = .next verdictWaits := by
  have waits : verdictWaits.collWaits endedColl = true := by decide +kernel
  change Host.Outcome.next (withIo [] (waybillCompleteStep 1) verdictWaits) = _
  have step : waybillCompleteStep 1 verdictWaits = if verdictWaits.collWaits endedColl then verdictWaits
    else (verdictWaits.finish endedColl).settle := rfl
  exact congrArg Host.Outcome.next (congrArg (fun s : State => { s with io := [] }) (step.trans (if_pos waits)))

theorem verdictWaits_finished : (verdictWaits.finish endedColl).settle.sched.wbs = [] := by decide +kernel

theorem wbs_of_next {s u : State} (h : (Host.Outcome.next s : Host.Outcome State Fault Refusal) = .next { u with io := [] })
    (k : u.sched.wbs = []) : s.sched.wbs = [] := by
  injection h with h
  rw [h]
  exact k

/-- Refutes O22: WAYBILL_COMPLETE of a COLLECTIVE whose work is over does not finish it while a VERDICT of it waits to leave the module (R73),
where the statement has it finished at once. -/
theorem not_nopAndCompletion : ¬ Obligations.NopAndCompletion := by
  intro h
  obtain ⟨-, completes, -⟩ := h
  have ex := (completes 1 [] verdictWaits endedColl rfl).1 rfl
  rw [verdictWaits_stays, State.clearIo_eq (s := verdictWaits) rfl] at ex
  cases wbs_of_next (u := (verdictWaits.finish endedColl).settle) ex verdictWaits_finished

end Sys2Proof.Machine
end

section
/-! Settles O58: attestation, request by request (R33, R495, R500 to R503, R508). -/

namespace Sys2Proof.Machine

open Sys2Proof

/-! ### What a requester has negotiated -/

theorem State.transport_spdmOf (s : State) (t : Nat) : (s.spdmOf t).transport = t := by
  unfold State.spdmOf
  cases h : s.sec.spdm.find? fun x => x.transport = t with
  | none => rfl
  | some x => simpa using List.find?_some h

/-- What is set for a transport is read there, and other transports' is unchanged. -/
theorem State.spdmOf_setSpdm (s : State) (x : Spdm) (n : Nat) : (s.setSpdm x).spdmOf n = if n = x.transport then x else s.spdmOf n := by
  unfold State.spdmOf State.setSpdm
  rw [List.find?_append]
  split
  · rename_i h
    subst h
    have none : (s.sec.spdm.filter fun y => y.transport ≠ x.transport).find? (fun y => y.transport = x.transport) = none := by
      simp [List.find?_eq_none]
    rw [none]
    simp
  · rename_i h
    have same : (s.sec.spdm.filter fun y => y.transport ≠ x.transport).find? (fun y => y.transport = n)
        = s.sec.spdm.find? fun y => y.transport = n := by
      rw [List.find?_filter]
      congr 1
      funext y
      by_cases hy : y.transport = n <;> simp [hy, h]
    have other : [x].find? (fun y => y.transport = n) = none := by simp [Ne.symm h]
    rw [same, other, Option.or_none]

/-- A response that changes what its requester has negotiated, perhaps with bytes drawn. -/
theorem State.spdmTo_set (s : State) {t : Nat} {x : Spdm} (ht : x.transport = t) (free : Nat) (o : Out) :
    SpdmTo s ((({ s with free := free } : State).setSpdm x).put o) t x o := by
  have read (n : Nat) : ((({ s with free := free } : State).setSpdm x).put o).spdmOf n = if n = t then x else s.spdmOf n := by
    rw [← ht]
    exact State.spdmOf_setSpdm { s with free := free } x n
  exact ⟨rfl, by rw [read, if_pos rfl], fun n hn => by rw [read, if_neg hn]⟩

/-- A response that changes nothing of it. -/
theorem State.spdmTo_put (s : State) (t free : Nat) (o : Out) : SpdmTo s (({ s with free := free } : State).put o) t (s.spdmOf t) o :=
  ⟨rfl, rfl, fun _ _ => rfl⟩

/-! ### Requests in their order (R502) -/

section
variable {s : State} {fw : Firmware} {t : Nat} (hfw : s.sec.fw = some fw) (hon : s.firmwareOn = true) (ht : t < 2)
  (hr : t = 1 → s.hifReset = false)
include hfw hon ht hr

/-- With the firmware running and the transport up, a request is answered once what must come before it has been negotiated. -/
theorem State.spdmOn_eq (need : Spdm → Bool) (f : Firmware → State → State) :
    s.spdmOn t need f = if need (s.spdmOf t) then f fw s else s.spdmError t 4 := by
  have up : (!s.firmwareOn || (decide (t = 1) && s.hifReset) || decide (2 ≤ t)) = false := by
    rw [hon, decide_eq_false (Nat.not_le.2 ht)]
    by_cases h : t = 1
    · rw [hr h, Bool.and_false]
      rfl
    · rw [decide_eq_false h]
      rfl
  unfold State.spdmOn
  rw [hfw]
  simp only [up, Bool.false_eq_true, if_false]

theorem State.spdmOn_of {need : Spdm → Bool} (h : need (s.spdmOf t) = true) (f : Firmware → State → State) :
    s.spdmOn t need f = f fw s := by rw [State.spdmOn_eq hfw hon ht hr, if_pos h]

theorem State.spdmOn_of_not {need : Spdm → Bool} (h : need (s.spdmOf t) = false) (f : Firmware → State → State) :
    s.spdmOn t need f = s.spdmError t 4 := by rw [State.spdmOn_eq hfw hon ht hr, if_neg (Bool.eq_false_iff.1 h)]

/-- A request whose predecessor has not been done is answered UnexpectedRequest. -/
theorem unexpected_requests (b : Bool) (l : List SpdmAlg) (n off len : Nat) (i : Option Nat) (bs : List Byte) :
    ∀ c ∈ ([(.getCapabilities t, (s.spdmOf t).version), (.negotiateAlgorithms t l, (s.spdmOf t).caps),
        (.getDigests t, !(s.spdmOf t).algs.isEmpty), (.getCertificate t n off len, !(s.spdmOf t).algs.isEmpty),
        (.challenge t n bs, !(s.spdmOf t).algs.isEmpty), (.getMeasurements t i b bs, !(s.spdmOf t).algs.isEmpty),
        (.keyExchange t bs, !(s.spdmOf t).algs.isEmpty), (.finish t b, (s.spdmOf t).handshake.isSome),
        (.endSession t, (s.spdmOf t).session.isSome), (.ideKm t bs, (s.spdmOf t).session.isSome)] : List (Instr × Bool)),
      c.2 = false → exec c.1 s = .next (s.spdmError t 4) := by
  have no {need : Spdm → Bool} (h : need (s.spdmOf t) = false) (f : Firmware → State → State) :
      (Host.Outcome.next (s.spdmOn t need f) : Host.Outcome State Fault Refusal) = .next (s.spdmError t 4) :=
    congrArg _ (State.spdmOn_of_not hfw hon ht hr h f)
  simp only [List.forall_mem_cons, List.not_mem_nil, false_imp_iff, implies_true, and_true]
  exact ⟨fun h => no h _, fun h => no h _, fun h => no h _, fun h => no h _, fun h => no h _, fun h => no h _, fun h => no h _,
    fun h => no h _, fun h => no h _, fun h => no h _⟩

/-- A request that is due, as what its answer makes of the state. -/
theorem exec_due {c : Instr} {need : Spdm → Bool} {f : Firmware → State → State} (hc : exec c s = .next (s.spdmOn t need f))
    (h : need (s.spdmOf t) = true) : exec c s = .next (f fw s) := by rw [hc, State.spdmOn_of hfw hon ht hr h]

end

/-! ### Measurements (R503) -/

theorem State.isSome_measurement (s : State) (fw : Firmware) (i : Nat) :
    (s.measurement fw i).isSome = decide ((1 ≤ i ∧ i ≤ 6) ∨ (0x10 ≤ i ∧ i < 0x30)) := by
  unfold State.measurement
  by_cases range : 0x10 ≤ i ∧ i < 0x30
  · rw [if_neg (by omega), if_neg (by omega), if_neg (by omega), if_neg (by omega), if_neg (by omega), if_neg (by omega), if_pos range,
      decide_eq_true (.inr range)]
    rfl
  · by_cases low : 1 ≤ i ∧ i ≤ 6
    · obtain ⟨h1, h6⟩ := low
      interval_cases i <;> rfl
    · rw [if_neg (by omega), if_neg (by omega), if_neg (by omega), if_neg (by omega), if_neg (by omega), if_neg (by omega), if_neg range,
        decide_eq_false (by omega)]
      rfl

/-- A signed response carries a signature by the key of the running image, or tells that the key is destroyed (R502, R508). -/
theorem State.signed_eq (s : State) (t : Nat) (fw : Firmware) (code : Nat) (body seen : List Byte) :
    s.signed t fw code body seen = s.put (if s.sec.aliasGone then .mgmt (0x100 * (t + 1) + 0x7F) [BitVec.ofNat 8 5]
      else .mgmt (0x100 * (t + 1) + code) (body ++ Config.mlDsaSign (s.aliasSeed fw.digest fw.svn) (shake256 64 (seen ++ body)))) := by
  unfold State.signed
  split <;> rfl

theorem length_drawn (s : State) (n : Nat) : (s.drawBytes n).1.length = n := by simp [State.drawBytes]

/-- The measurement blocks that a request asks for: those of one index, or of every index (R503). -/
def State.measured (s : State) (fw : Firmware) (index : Option Nat) : List (List Byte) :=
  (match index with
    | none => measureIndices
    | some i => [i]).filterMap fun i => (s.measurement fw i).map (measureBlock i)

/-- GET_MEASUREMENTS of a requester that may ask, by whether there is anything to tell. -/
theorem getMeasurements_due {s : State} {fw : Firmware} {t : Nat} (hfw : s.sec.fw = some fw) (hon : s.firmwareOn = true) (ht : t < 2)
    (hr : t = 1 → s.hifReset = false) (ha : (!(s.spdmOf t).algs.isEmpty) = true) (index : Option Nat) (sign : Bool) (nonce : List Byte) :
    exec (.getMeasurements t index sign nonce) s = .next (if s.measured fw index = [] then s.spdmError t 1 else if sign then
      (s.drawBytes 32).2.signed t fw 0x60 ((s.measured fw index).flatten ++ (s.drawBytes 32).1) nonce
      else s.spdmSay t 0x60 (s.measured fw index).flatten) := by
  refine (exec_due hfw hon ht hr (need := (!·.algs.isEmpty)) rfl ha).trans ?_
  change Host.Outcome.next (if (s.measured fw index).isEmpty = true then _ else _) = _
  rw [if_congr List.isEmpty_iff rfl rfl]
  rfl

/-! ### Sessions and IDE (R33, R502) -/

/-- A response within the session is sealed with its key and counted. -/
theorem State.inSession_eq {s : State} {t : Nat} {key : List Byte} {n : Nat} (h : (s.spdmOf t).session = some (key, n)) (code : Nat)
    (data : List Byte) : s.inSession t code data = (s.setSpdm { s.spdmOf t with session := some (key, n + 1) }).put
      (.mgmt (0x100 * (t + 1) + code) (Config.sessionSeal key n (leBytes 1 code ++ data))) := by
  unfold State.inSession
  rw [h]
  rfl

/-- Such a response, of a state whose requester has negotiated what s tells. -/
theorem State.spdmTo_inSession {s : State} {t : Nat} {key : List Byte} {n : Nat} (h : (s.spdmOf t).session = some (key, n)) (code : Nat)
    (data : List Byte) : SpdmTo s (s.inSession t code data) t { s.spdmOf t with session := some (key, n + 1) }
      (.mgmt (0x100 * (t + 1) + code) (Config.sessionSeal key n (leBytes 1 code ++ data))) := by
  rw [State.inSession_eq h]
  refine s.spdmTo_set ?_ s.free _
  exact s.transport_spdmOf t

/-- What IDE_KM does within a session, by its object (R33, R75, R502). -/
def State.ideKm (s : State) (t : Nat) (k : List Byte) : State :=
  let op := rdN k 0 1
  let b := if rdN k 1 1 = 0 then 12 else 13
  if t ≠ 1 || !(decide (op = 2 ∨ op = 4 ∨ op = 5)) then s.inSession t 0x7F [7]
  else if op = 2 then ({ s with sec := { s.sec with ideKeys := s.sec.ideKeys ++ [k.drop 1] } }).inSession t 0x7E [0x03]
  else if op = 4 && !s.sec.ideKeys.any fun z => rdN z 0 1 = rdN k 1 1 then s.inSession t 0x7F [1]
  else (s.setFld rHifLinkStatus b b (if op = 4 then 1 else 0)).inSession t 0x7E [0x06]

section
variable {s : State} {fw : Firmware} {t : Nat} (hfw : s.sec.fw = some fw) (hon : s.firmwareOn = true) (ht : t < 2)
  (hr : t = 1 → s.hifReset = false)
include hfw hon ht hr

/-- END_SESSION: its answer is the session's last (R502). -/
theorem endSession_closes {key : List Byte} {n : Nat} (h : (s.spdmOf t).session = some (key, n)) :
    ∃ u, exec (.endSession t) s = .next u ∧ SpdmTo s u t { s.spdmOf t with session := none }
      (.mgmt (0x100 * (t + 1) + 0x6C) (Config.sessionSeal key n [0x6C])) := by
  have ex := exec_due hfw hon ht hr (c := .endSession t) (need := (·.session.isSome)) rfl (by rw [h]; rfl)
  dsimp only at ex
  obtain ⟨eq, own, others⟩ := State.spdmTo_inSession h 0x6C []
  have here : (s.inSession t 0x6C []).spdmOf t = { s.spdmOf t with session := some (key, n + 1) } := own
  have read := (s.inSession t 0x6C []).spdmOf_setSpdm { s.spdmOf t with session := none }
  rw [s.transport_spdmOf t] at read
  rw [here] at ex
  refine ⟨_, ex, ?_, ?_, fun m hm => ?_⟩
  · rw [eq]
    rfl
  · exact (read t).trans (if_pos rfl)
  · exact (read m).trans ((if_neg hm).trans (others m hm))

/-- IDE_KM within a session (R33, R75, R502). -/
theorem ideKm_answers {key : List Byte} {n : Nat} (h : (s.spdmOf t).session = some (key, n)) :
    let within (code : Nat) (data : List Byte) : Out := .mgmt (0x100 * (t + 1) + code) (Config.sessionSeal key n (leBytes 1 code ++ data))
    let y : Spdm := { s.spdmOf t with session := some (key, n + 1) }
    (∀ k, t = 0 ∨ rdN k 0 1 ∉ [2, 4, 5] → ∃ u, exec (.ideKm t k) s = .next u ∧ SpdmTo s u t y (within 0x7F [7]))
    ∧ (∀ k, t = 1 → rdN k 0 1 = 2 → ∃ u, exec (.ideKm t k) s = .next u
        ∧ SpdmTo { s with sec := { s.sec with ideKeys := s.sec.ideKeys ++ [k.drop 1] } } u t y (within 0x7E [0x03]))
    ∧ (∀ k, t = 1 → rdN k 0 1 = 4 → (∀ z ∈ s.sec.ideKeys, rdN z 0 1 ≠ rdN k 1 1) →
          ∃ u, exec (.ideKm t k) s = .next u ∧ SpdmTo s u t y (within 0x7F [1]))
    ∧ ∀ k, s.regsWf → t = 1 → (rdN k 0 1 = 5 ∨ (rdN k 0 1 = 4 ∧ ∃ z ∈ s.sec.ideKeys, rdN z 0 1 = rdN k 1 1)) →
          let b := if rdN k 1 1 = 0 then 12 else 13
          ∃ v u, exec (.ideKm t k) s = .next u ∧ RegsOnly (fun off => off = rHifLinkStatus) s v ∧ SpdmTo v u t y (within 0x7E [0x06])
            ∧ bit b (v.reg rHifLinkStatus) = decide (rdN k 0 1 = 4)
            ∧ ∀ j, j ≠ b → bit j (v.reg rHifLinkStatus) = bit j (s.reg rHifLinkStatus) := by
  intro within y
  have ex (k : List Byte) : exec (.ideKm t k) s = .next (s.ideKm t k) :=
    exec_due hfw hon ht hr (need := (·.session.isSome)) (f := fun _ s => s.ideKm t k) rfl (by rw [h]; rfl)
  refine ⟨fun k hk => ⟨_, ex k, ?_⟩, fun k h1 h2 => ⟨_, ex k, ?_⟩, fun k h1 h4 hz => ⟨_, ex k, ?_⟩, fun k wf h1 hk => ?_⟩
  · have other : (t ≠ 1 || !(decide (rdN k 0 1 = 2 ∨ rdN k 0 1 = 4 ∨ rdN k 0 1 = 5))) = true := by
      rcases hk with rfl | hk
      · rfl
      · simp only [List.mem_cons, List.not_mem_nil, or_false] at hk
        rw [decide_eq_false hk, Bool.not_false, Bool.or_true]
    have e : s.ideKm t k = s.inSession t 0x7F [7] := if_pos other
    rw [e]
    exact State.spdmTo_inSession h 0x7F [7]
  · have e : s.ideKm t k = ({ s with sec := { s.sec with ideKeys := s.sec.ideKeys ++ [k.drop 1] } } : State).inSession t 0x7E [0x03] := by
      simp [State.ideKm, h1, h2]
    rw [e]
    exact State.spdmTo_inSession (s := { s with sec := { s.sec with ideKeys := s.sec.ideKeys ++ [k.drop 1] } }) h 0x7E [0x03]
  · have none : (s.sec.ideKeys.any fun z => rdN z 0 1 = rdN k 1 1) = false := by simpa using hz
    have e : s.ideKm t k = s.inSession t 0x7F [1] := by simp [State.ideKm, h1, h4, none]
    rw [e]
    exact State.spdmTo_inSession h 0x7F [1]
  · intro b
    have lt : b < 32 := by simp only [b]; split <;> decide
    have go : rdN k 0 1 ≠ 2 ∧ (rdN k 0 1 = 4 ∨ rdN k 0 1 = 5)
        ∧ (decide (rdN k 0 1 = 4) && !s.sec.ideKeys.any fun z => rdN z 0 1 = rdN k 1 1) = false := by
      rcases hk with h5 | ⟨h4, hz⟩
      · simp [h5]
      · simpa [h4] using hz
    obtain ⟨not2, op, keyed⟩ := go
    have e : s.ideKm t k = (s.setFld rHifLinkStatus b b (if rdN k 0 1 = 4 then 1 else 0)).inSession t 0x7E [0x06] := by
      simp only [State.ideKm, h1, op, not2, keyed, false_or, ne_eq, not_true_eq_false, decide_false, decide_true, Bool.not_true,
        Bool.or_false, Bool.false_eq_true, if_false, b]
    refine ⟨_, _, ex k, State.regsOnly_setFld wf rHifLinkStatus b b (if rdN k 0 1 = 4 then 1 else 0), ?_, ?_, fun j hj => ?_⟩
    · rw [e]
      exact State.spdmTo_inSession (s := s.setFld rHifLinkStatus b b (if rdN k 0 1 = 4 then 1 else 0)) h 0x7E [0x06]
    · rw [State.bit_setFld wf rHifLinkStatus _ lt, if_pos rfl]
      split <;> simp_all
    · rw [State.bit_setFld wf rHifLinkStatus _ lt, if_neg hj]

end

section
variable {s : State} {fw : Firmware} {t : Nat} (hfw : s.sec.fw = some fw) (hon : s.firmwareOn = true) (ht : t < 2)
  (hr : t = 1 → s.hifReset = false)
include hfw hon ht hr

/-! ### Negotiation, certificates and signatures (R502, R503, R508) -/

theorem getVersion_restarts : ∃ u, exec (.getVersion t) s = .next u ∧ SpdmTo s u t
    { transport := t, version := true, caps := false, algs := [], handshake := none, session := none } (.mgmt (0x100 * (t + 1) + 0x04) [0x12]) :=
  ⟨_, exec_due hfw hon ht hr (need := fun _ => true) rfl rfl, s.spdmTo_set rfl s.free _⟩

theorem getCapabilities_answers (h : (s.spdmOf t).version = true) : ∃ (u : State) (own : List Byte), exec (.getCapabilities t) s = .next u
    ∧ own.length = 9 ∧ SpdmTo s u t { s.spdmOf t with caps := true }
      (.mgmt (0x100 * (t + 1) + 0x61) ([0] ++ own.take 1 ++ [0, 0] ++ leBytes 4 spdmFlags ++ own.drop 1)) := by
  refine ⟨_, (s.drawBytes 9).1, exec_due hfw hon ht hr (need := (·.version)) rfl h, length_drawn s 9, ?_⟩
  refine s.spdmTo_set ?_ (s.free + 9) _
  exact s.transport_spdmOf t

theorem negotiateAlgorithms_selects (h : (s.spdmOf t).caps = true) {l : List SpdmAlg} (hl : l ≠ []) :
    ∃ u, exec (.negotiateAlgorithms t l) s = .next u ∧ SpdmTo s u t { s.spdmOf t with algs := l.eraseDups }
      (.mgmt (0x100 * (t + 1) + 0x63) (algorithmsBody l)) := by
  have ex := exec_due hfw hon ht hr (c := .negotiateAlgorithms t l) (need := (·.caps)) rfl h
  rw [if_neg (by simpa using hl)] at ex
  refine ⟨_, ex, s.spdmTo_set ?_ s.free _⟩
  exact s.transport_spdmOf t

theorem getCertificate_answers (h : (!(s.spdmOf t).algs.isEmpty) = true) (slot off len : Nat) :
    let chain := s.sec.certs.flatten ++ fw.cert
    let part := (chain.drop off).take len
    exec (.getCertificate t slot off len) s = .next (s.put (if slot ≠ 0 ∨ chain.length ≤ off then
        .mgmt (0x100 * (t + 1) + 0x7F) [BitVec.ofNat 8 1]
      else .mgmt (0x100 * (t + 1) + 0x02) (leBytes 2 part.length ++ leBytes 2 (chain.length - off - part.length) ++ part))) := by
  intro chain part
  have ex := exec_due hfw hon ht hr (c := .getCertificate t slot off len) (need := (!·.algs.isEmpty)) rfl h
  refine ex.trans (congrArg _ ?_)
  change (if slot ≠ 0 || chain.length ≤ off then _ else _) = _
  by_cases c : slot ≠ 0 ∨ chain.length ≤ off
  · rw [if_pos (by simpa using c), if_pos c]
    rfl
  · rw [if_neg (by simpa using c), if_neg c]
    rfl

/-- CHALLENGE of slot 0 is signed over the digest of the chain and bytes of the responder's own. -/
theorem challenge_signed (h : (!(s.spdmOf t).algs.isEmpty) = true) (nonce : List Byte) :
    ∃ (u : State) (own : List Byte), exec (.challenge t 0 nonce) s = .next u ∧ own.length = 32
      ∧ let body := shake256 64 (s.sec.certs.flatten ++ fw.cert) ++ own
        SpdmTo s u t (s.spdmOf t) (if s.sec.aliasGone then .mgmt (0x100 * (t + 1) + 0x7F) [BitVec.ofNat 8 5] else
          .mgmt (0x100 * (t + 1) + 0x03) (body ++ Config.mlDsaSign (s.aliasSeed fw.digest fw.svn) (shake256 64 (nonce ++ body)))) := by
  refine ⟨_, (s.drawBytes 32).1, exec_due hfw hon ht hr (need := (!·.algs.isEmpty)) rfl h, length_drawn s 32, ?_⟩
  dsimp only
  rw [if_neg (not_not.2 rfl), State.signed_eq]
  exact s.spdmTo_put t (s.free + 32) _

/-- Signed measurements are signed over their blocks and bytes of the responder's own. -/
theorem getMeasurements_signed (h : (!(s.spdmOf t).algs.isEmpty) = true) (index : Option Nat) (nonce : List Byte)
    (hb : s.measured fw index ≠ []) : ∃ (u : State) (own : List Byte), exec (.getMeasurements t index true nonce) s = .next u ∧ own.length = 32
      ∧ let body := (s.measured fw index).flatten ++ own
        SpdmTo s u t (s.spdmOf t) (if s.sec.aliasGone then .mgmt (0x100 * (t + 1) + 0x7F) [BitVec.ofNat 8 5] else
          .mgmt (0x100 * (t + 1) + 0x60) (body ++ Config.mlDsaSign (s.aliasSeed fw.digest fw.svn) (shake256 64 (nonce ++ body)))) := by
  have ex := getMeasurements_due hfw hon ht hr h index true nonce
  rw [if_neg hb, if_pos rfl, State.signed_eq] at ex
  exact ⟨_, (s.drawBytes 32).1, ex, length_drawn s 32, s.spdmTo_put t (s.free + 32) _⟩

/-- KEY_EXCHANGE opens a handshake with its shared secret, unless it cannot be signed. -/
theorem keyExchange_opens (h : (!(s.spdmOf t).algs.isEmpty) = true) (key : List Byte) : ∃ u m, exec (.keyExchange t key) s = .next u
    ∧ m.length = 32 ∧ let body := Config.mlKemEncapsulate key m
      SpdmTo s u t (if s.sec.aliasGone then s.spdmOf t else { s.spdmOf t with handshake := some (Config.mlKemSecret key m), session := none })
        (if s.sec.aliasGone then .mgmt (0x100 * (t + 1) + 0x7F) [BitVec.ofNat 8 5] else
          .mgmt (0x100 * (t + 1) + 0x64) (body ++ Config.mlDsaSign (s.aliasSeed fw.digest fw.svn) (shake256 64 (key ++ body)))) := by
  refine ⟨_, (s.drawBytes 32).1, exec_due hfw hon ht hr (need := (!·.algs.isEmpty)) rfl h, length_drawn s 32, ?_⟩
  dsimp only
  rw [State.signed_eq]
  cases gone : s.sec.aliasGone with
  | true =>
    have gone' : (s.drawBytes 32).2.sec.aliasGone = true := gone
    simp only [State.put, gone', if_true]
    exact s.spdmTo_put t (s.free + 32) _
  | false =>
    have gone' : (s.drawBytes 32).2.sec.aliasGone = false := gone
    simp only [State.put, gone', Bool.false_eq_true, if_false]
    refine s.spdmTo_set ?_ (s.free + 32) _
    exact s.transport_spdmOf t

/-- FINISH opens the session of a handshake when its check value is right, and ends the handshake. -/
theorem finish_opens {secret : List Byte} (h : (s.spdmOf t).handshake = some secret) :
    (∃ u, exec (.finish t true) s = .next u ∧ SpdmTo s u t
      { s.spdmOf t with handshake := none, session := some (Config.sessionKey secret, 0) }
        (.mgmt (0x100 * (t + 1) + 0x65) (Config.sessionSeal secret 0 [0x65])))
    ∧ ∃ u, exec (.finish t false) s = .next u ∧ SpdmTo s u t { s.spdmOf t with handshake := none, session := none }
        (.mgmt (0x100 * (t + 1) + 0x7F) [BitVec.ofNat 8 6]) := by
  have ex (ok : Bool) := exec_due hfw hon ht hr (c := .finish t ok) (need := (·.handshake.isSome)) rfl (by rw [h]; rfl)
  dsimp only at ex
  rw [h] at ex
  refine ⟨⟨_, ex true, s.spdmTo_set ?_ s.free _⟩, _, ex false, s.spdmTo_set ?_ s.free _⟩ <;> exact s.transport_spdmOf t

end

/-- Settles O58, request by request. -/
theorem attestation : Obligations.Attestation := by
  intro s fw t hfw hon ht hr x say err chain sig
  refine ⟨getVersion_restarts hfw hon ht hr, unexpected_requests hfw hon ht hr, getCapabilities_answers hfw hon ht hr,
    fun hc => ⟨fun l hl => negotiateAlgorithms_selects hfw hon ht hr hc hl, (exec_due hfw hon ht hr (need := (·.caps)) rfl hc).trans rfl⟩, fun ha => ?_,
    fun secret hs => finish_opens hfw hon ht hr hs,
    fun key n hs => ⟨endSession_closes hfw hon ht hr hs, ideKm_answers hfw hon ht hr hs⟩, fun msg => ?_⟩
  · have ha : (!(s.spdmOf t).algs.isEmpty) = true := by simpa [x] using ha
    refine ⟨(exec_due hfw hon ht hr (need := (!·.algs.isEmpty)) rfl ha).trans rfl, getCertificate_answers hfw hon ht hr ha, fun slot nonce hs => ?_,
      challenge_signed hfw hon ht hr ha, fun index nonce => ?_, s.isSome_measurement fw, keyExchange_opens hfw hon ht hr ha⟩
    · refine (exec_due hfw hon ht hr (need := (!·.algs.isEmpty)) rfl ha).trans ?_
      dsimp only
      rw [if_pos hs]
      rfl
    · intro want blocks
      exact ⟨fun hb sign => (getMeasurements_due hfw hon ht hr ha index sign nonce).trans (congrArg _ (if_pos hb)),
        fun hb => ⟨(getMeasurements_due hfw hon ht hr ha index false nonce).trans (congrArg _ (if_neg hb)),
          getMeasurements_signed hfw hon ht hr ha index nonce hb⟩⟩
  · have on : s.pldmOn = true := by
      rw [State.pldmOn, hon]
      rfl
    change Host.Outcome.next (mctpControlMessageStep msg s) = _
    rw [mctpControlMessageStep, if_pos on]
    rfl

end Sys2Proof.Machine
end

section
/-! What events, host writes and ring contexts leave of rings, doorbell lines and groups, said once for the statements on rings. -/

namespace Sys2Proof.Machine

open Sys2Proof

/-! ### What is told to the host -/

/-- Telling the host moves, beside registers of the event ring and what is put out, only the event ring's own state, pending vectors, and what
is held while CXL.cache is away (R35, R58, R62, R63). -/
structure Tells (s t : State) : Prop where
  event : EventOnly s t
  host  : t.host = { s.host with evqCount := t.host.evqCount, evqHead := t.host.evqHead, evqSeq := t.host.evqSeq, held := t.host.held,
                                 pba := t.host.pba }
  held  : s.cacheOk = true → t.host.held = s.host.held

theorem Tells.refl (s : State) : Tells s s := ⟨.refl s, rfl, fun _ => rfl⟩

theorem Tells.cacheOk {s t : State} (h : Tells s t) : t.cacheOk = s.cacheOk := by rw [State.cacheOk, h.host]; rfl

theorem Tells.trans {s t u : State} (h : Tells s t) (k : Tells t u) : Tells s u where
  event := h.event.trans k.event
  host := by rw [k.host, h.host]
  held c := (k.held (h.cacheOk.trans c)).trans (h.held c)

theorem Tells.ite {s t u : State} {c : Prop} {i : Decidable c} (h : Tells s t) (k : Tells s u) : Tells s (if c then t else u) := by
  split
  exacts [h, k]

theorem Tells.snd {α : Type} {s u : State} {x : α × State} {r : α} (h : Tells s x.2) (e : x = (r, u)) : Tells s u := by
  rw [e] at h
  exact h

/-- A change that leaves the host interface alone. -/
theorem Tells.ofEvent {s t : State} (h : EventOnly s t) (k : t.host = s.host) : Tells s t := ⟨h, by rw [k], fun _ => by rw [k]⟩

theorem State.raise_tells (s : State) (v : Nat) : Tells s (s.raise v) := by
  refine ⟨s.raise_event v, ?_, fun _ => ?_⟩ <;> unfold State.raise
  · split
    · rfl
    · split
      · split <;> rfl
      · rfl
  · split
    · rfl
    · split
      · split <;> rfl
      · rfl

theorem State.takeIo_tells (s : State) : Tells s s.takeIo.2 := by
  refine .ofEvent s.takeIo_event ?_
  unfold State.takeIo
  split <;> rfl

theorem State.takeHead_tells (s : State) : Tells s s.takeHead.2 := by
  refine .ofEvent s.takeHead_event ?_
  unfold State.takeHead
  split <;> rfl

/-- The event ring's own state may change. -/
theorem Tells.ofEvq (s : State) (n : Nat) (h q : Word) : Tells s { s with host := { s.host with evqCount := n, evqHead := h, evqSeq := q } } :=
  ⟨.ofHost s _, rfl, fun _ => rfl⟩

theorem Tells.ofPut (s : State) (o : Out) : Tells s (s.put o) := .ofEvent (.ofPut s o) rfl

theorem Tells.ofReg (s : State) {off : Nat} (w : Word) (h : off = rRngEvqLost ∨ off = rRngEvqCfg) : Tells s (s.setReg off w) :=
  .ofEvent (.ofReg s w h) rfl

theorem State.evqPoll_tells (s : State) : Tells s s.evqPoll := by
  have h := s.takeHead_tells
  unfold State.evqPoll
  split
  next v t e => exact (h.snd e).trans (.ofEvq t _ _ _)
  next t e => exact h.snd e

theorem State.evqPut_tells (s : State) (e : Ev) : Tells s (s.evqPut e) := by
  have h := s.takeIo_tells
  unfold State.evqPut
  split
  next t eq => exact (((h.snd eq).trans (.ofReg t _ (.inl rfl))).trans (.ofReg _ _ (.inr rfl))).trans (State.raise_tells _ _)
  next r t _ eq => exact (((h.snd eq).trans (.ofPut t _)).trans (.ofEvq _ _ _ _)).trans (State.raise_tells _ _)

theorem State.evqLostPut_tells (s : State) : Tells s s.evqLostPut := by
  unfold State.evqLostPut
  exact (Tells.refl s).ite (((s.evqPut_tells _).trans (.ofReg _ _ (.inl rfl))).ite (s.evqPut_tells _))

/-- Writing an event, holding it or losing it (R35, R63, R67). -/
theorem State.emit_tells (s : State) (e : Ev) : Tells s (s.emit e) := by
  have room : Tells s (if s.evqFull = true then s.evqPoll else s).evqLostPut :=
    (s.evqPoll_tells.ite (.refl s)).trans (State.evqLostPut_tells _)
  have lost {u : State} (h : Tells s u) : Tells s (u.bump rRngEvqLost 1) := h.trans (.ofReg _ _ (.inl rfl))
  unfold State.emit
  split
  · exact .refl s
  · split
    · exact lost (.refl s)
    · split
      next away => exact ⟨.ofHost s _, rfl, fun ok => absurd ok (by simpa using away)⟩
      next => exact (lost (.refl s)).ite ((lost room).ite (room.trans (State.evqPut_tells _ _)))

/-! ### Rings -/

theorem State.n_of_ring {s : State} {n : Nat} {r : Ring} (h : s.ring n = some r) : r.n = n := by simpa using List.find?_some h

theorem State.mem_of_ring {s : State} {n : Nat} {r : Ring} (h : s.ring n = some r) : r ∈ s.host.rings := List.mem_of_find?_eq_some h

/-- Where ring numbers are listed once, a listed ring is the one of its number. -/
theorem State.ring_of_mem {s : State} (h : (s.host.rings.map (·.n)).Nodup) {r : Ring} (hr : r ∈ s.host.rings) : s.ring r.n = some r := by
  unfold State.ring
  generalize s.host.rings = l at *
  induction l with
  | nil => cases hr
  | cons x l ih =>
    rw [List.map_cons, List.nodup_cons] at h
    rcases List.mem_cons.1 hr with rfl | hr
    · simp
    · have ne : x.n ≠ r.n := fun e => h.1 (e ▸ List.mem_map_of_mem hr)
      rw [List.find?_cons_of_neg (by simpa using ne), ih h.2 hr]

theorem Tells.ring {s t : State} (h : Tells s t) (n : Nat) : t.ring n = s.ring n := by rw [State.ring, h.host]; rfl

/-- A change of a ring's entry that keeps its number. -/
theorem State.ring_updRing (s : State) {n : Nat} {f : Ring → Ring} (hf : ∀ r, (f r).n = r.n) (k : Nat) :
    (s.updRing n f).ring k = if k = n then (s.ring k).map f else s.ring k := by
  refine (find?_updIf (fun x => by rw [hf x]) s.host.rings).trans ?_
  change (s.ring k).map _ = _
  cases h : s.ring k with
  | none => simp
  | some r =>
    have e : r.n = k := State.n_of_ring h
    by_cases c : k = n <;> simp [e, c]

/-- Two changes of one ring's entry are one. -/
theorem State.updRing_updRing (s : State) {n : Nat} {f g : Ring → Ring} (hf : ∀ r, (f r).n = r.n) :
    (s.updRing n f).updRing n g = s.updRing n fun r => g (f r) := by
  have twice : ((fun x => if decide (x.n = n) = true then g x else x) ∘ fun x => if decide (x.n = n) = true then f x else x)
      = fun x => if decide (x.n = n) = true then g (f x) else x := by
    funext x
    by_cases c : x.n = n <;> simp [c, hf]
  unfold State.updRing updIf
  rw [List.map_map, twice]

/-- What is told is told with a ring's entry changed as well. -/
theorem Tells.updRing {s t : State} (h : Tells s t) (n : Nat) (f : Ring → Ring) : Tells (s.updRing n f) (t.updRing n f) := by
  obtain ⟨⟨only, wf, reg, io⟩, host, held⟩ := h
  refine ⟨⟨?_, wf, reg, io⟩, ?_, held⟩
  · unfold HostOnly at only ⊢
    unfold State.updRing
    rw [only]
  · unfold State.updRing
    rw [host]

/-- The context is put out, held, or not written (R35, R41, R58). -/
theorem State.writeCtx_tells (s : State) (r : Ring) : Tells s (s.writeCtx r).2 := by
  have h := s.takeIo_tells
  unfold State.writeCtx
  split
  next away => exact ⟨.ofHost s _, rfl, fun ok => absurd ok (by simpa using away)⟩
  next =>
    split
    next t e => exact (h.snd e).trans (.ofPut t _)
    next t _ e => exact h.snd e

/-- With no outcome given the context is written (log entry 3). -/
theorem State.writeCtx_fst {s : State} (h : s.io = []) (r : Ring) : (s.writeCtx r).1 = true := by
  unfold State.writeCtx State.takeIo
  rw [h]
  split <;> rfl

theorem State.saveCtx_tells {s : State} (h : s.io = []) (n : Nat) : Tells s (s.saveCtx n) := by
  unfold State.saveCtx
  split
  · exact .refl s
  next r _ =>
    have ok := State.writeCtx_fst h r
    have k := s.writeCtx_tells r
    split
    next e => exact k.snd e
    next e => rw [e] at ok; cases ok

/-- A ring that is stopped (R43, R49). -/
def Ring.stopped (cause : Nat) (r : Ring) : Ring := { r with state := 2, cause := cause }

/-- A ring is stopped with the cause, or with 7 where its context cannot be written (R43, R49, R58). -/
theorem State.stopRing_tells (s : State) (n cause : Nat) : ∃ c, (c = cause ∨ c = 7) ∧ (s.io = [] → c = cause)
    ∧ Tells (s.updRing n (Ring.stopped c)) (s.stopRing n cause) := by
  by_cases h : s.io = []
  · exact ⟨cause, .inl rfl, fun _ => rfl, State.saveCtx_tells (s := s.updRing n (Ring.stopped cause)) h n⟩
  unfold State.stopRing
  change ∃ c, _ ∧ _ ∧ Tells _ ((s.updRing n (Ring.stopped cause)).saveCtx n)
  unfold State.saveCtx
  split
  · exact ⟨cause, .inl rfl, fun _ => rfl, .refl _⟩
  next r hr =>
    have two : r.state ≠ 3 := by
      rw [State.ring_updRing s (f := Ring.stopped cause) (fun _ => rfl), if_pos rfl, Option.map_eq_some_iff] at hr
      obtain ⟨x, -, rfl⟩ := hr
      exact (by decide : (2 : Nat) ≠ 3)
    have k := (s.updRing n (Ring.stopped cause)).writeCtx_tells r
    split
    next e => exact ⟨cause, .inl rfl, fun _ => rfl, k.snd e⟩
    next t e =>
      refine ⟨7, .inr rfl, fun i => absurd i h, ?_⟩
      have again := (k.snd e).updRing n (Ring.stopped 7)
      rw [State.updRing_updRing s (f := Ring.stopped cause) fun _ => rfl] at again
      dsimp only
      rw [if_neg two]
      exact again.trans (State.emit_tells _ _)

end Sys2Proof.Machine
end

section
/-! Settles O12: what the re-read of a doorbell line makes of its rings, one ring after another (R43, R45, R47, R49). -/

namespace Sys2Proof.Machine

open Sys2Proof

/-! ### One ring after another -/

/-- Beside what is told, only rings' entries have moved. -/
structure RingsMove (s t : State) : Prop where
  only  : HostOnly s t
  io    : s.io = [] → t.io = []
  lines : t.host.lines = s.host.lines

theorem RingsMove.refl (s : State) : RingsMove s s := ⟨rfl, id, rfl⟩

theorem RingsMove.trans {s t u : State} (h : RingsMove s t) (k : RingsMove t u) : RingsMove s u where
  only := by
    have h1 := h.only; have h2 := k.only
    unfold HostOnly at *
    rw [h2, h1]
  io := k.io ∘ h.io
  lines := k.lines.trans h.lines

theorem Tells.ringsMove {s t : State} (h : Tells s t) : RingsMove s t := ⟨h.event.host, h.event.io, by rw [h.host]⟩

/-- A ring's entry is changed, and what is told of it is told. -/
theorem Tells.ofRing {s t : State} {r : Ring} {f : Ring → Ring} (h : Tells (s.updRing r.n f) t) (hf : ∀ r, (f r).n = r.n)
    (hr : s.ring r.n = some r) : RingsMove s t ∧ t.ring r.n = some (f r) ∧ ∀ k, k ≠ r.n → t.ring k = s.ring k := by
  have start : RingsMove s (s.updRing r.n f) := ⟨rfl, id, rfl⟩
  refine ⟨start.trans h.ringsMove, ?_, fun k hk => ?_⟩
  · rw [h.ring, State.ring_updRing s hf, if_pos rfl, hr, Option.map_some]
  · rw [h.ring, State.ring_updRing s hf, if_neg hk]

/-- Rings that are acted on one after another, each beside the others: each comes out as its own step makes it. -/
theorem State.foldl_rings {s0 : State} {f : State → Ring → State} {Q : Ring → Ring → Prop} {l : List Ring}
    (step : ∀ r ∈ l, ∀ s, RingsMove s0 s → s.ring r.n = some r →
      RingsMove s (f s r) ∧ (∃ r', (f s r).ring r.n = some r' ∧ Q r r') ∧ ∀ k, k ≠ r.n → (f s r).ring k = s.ring k)
    (nodup : (l.map (·.n)).Nodup) {s : State} (start : RingsMove s0 s) (listed : ∀ r ∈ l, s.ring r.n = some r) :
    RingsMove s0 (l.foldl f s) ∧ (∀ r ∈ l, ∃ r', (l.foldl f s).ring r.n = some r' ∧ Q r r')
      ∧ ∀ k, k ∉ l.map (·.n) → (l.foldl f s).ring k = s.ring k := by
  induction l generalizing s with
  | nil => exact ⟨start, fun r hr => (nomatch hr), fun _ _ => rfl⟩
  | cons x l ih =>
    rw [List.map_cons, List.nodup_cons] at nodup
    obtain ⟨moved, ⟨x', hx, q⟩, others⟩ := step x List.mem_cons_self s start (listed x List.mem_cons_self)
    have rest (r : Ring) (hr : r ∈ l) : (f s x).ring r.n = some r := by
      rw [others r.n fun e => nodup.1 (e ▸ List.mem_map_of_mem hr)]
      exact listed r (List.mem_cons_of_mem x hr)
    obtain ⟨all, each, apart⟩ := ih (fun r hr => step r (List.mem_cons_of_mem x hr)) nodup.2 (start.trans moved) rest
    refine ⟨all, fun r hr => ?_, fun k hk => ?_⟩
    · rcases List.mem_cons.1 hr with rfl | hr
      · exact ⟨x', (apart r.n nodup.1).trans hx, q⟩
      · exact each r hr
    · rw [List.map_cons, List.mem_cons, not_or] at hk
      rw [List.foldl_cons, apart k hk.2, others k hk.1]

/-- The running rings of a doorbell line. -/
def State.lineRings (s : State) (line : Nat) : List Ring := s.host.rings.filter fun r => decide (r.state = 1 ∧ r.n / 8 = line)

theorem State.mem_lineRings {s : State} {line : Nat} {r : Ring} : r ∈ s.lineRings line ↔ r ∈ s.host.rings ∧ r.state = 1 ∧ r.n / 8 = line := by
  rw [State.lineRings, List.mem_filter, decide_eq_true_eq]

/-- The running rings of a line acted on one after another, where ring numbers are listed once. -/
theorem State.foldl_lineRings {s : State} {line : Nat} {f : State → Ring → State} {Q : Ring → Ring → Prop} (h : (s.host.rings.map (·.n)).Nodup)
    (step : ∀ r u, r.state = 1 → RingsMove s u → u.ring r.n = some r →
      RingsMove u (f u r) ∧ (∃ r', (f u r).ring r.n = some r' ∧ Q r r') ∧ ∀ k, k ≠ r.n → (f u r).ring k = u.ring k) :
    RingsMove s ((s.lineRings line).foldl f s)
      ∧ (∀ n r, s.ring n = some r → r.state = 1 → n / 8 = line → ∃ r', ((s.lineRings line).foldl f s).ring n = some r' ∧ Q r r')
      ∧ (∀ n, n / 8 ≠ line → ((s.lineRings line).foldl f s).ring n = s.ring n)
      ∧ ∀ n r, s.ring n = some r → r.state ≠ 1 → ((s.lineRings line).foldl f s).ring n = some r := by
  have part := h.sublist ((List.filter_sublist (p := fun r : Ring => decide (r.state = 1 ∧ r.n / 8 = line))).map fun r => r.n)
  have listed (r : Ring) (hr : r ∈ s.lineRings line) : s.ring r.n = some r := State.ring_of_mem h (State.mem_lineRings.1 hr).1
  obtain ⟨moved, each, apart⟩ := State.foldl_rings (l := s.lineRings line)
    (fun r hr u => step r u (State.mem_lineRings.1 hr).2.1) part (.refl s) listed
  refine ⟨moved, fun n r hr h1 hn => ?_, fun n hn => apart n fun m => ?_, fun n r hr h1 => (apart n fun m => ?_).trans hr⟩
  · obtain rfl := State.n_of_ring hr
    exact each r (State.mem_lineRings.2 ⟨State.mem_of_ring hr, h1, hn⟩)
  · obtain ⟨x, hx, rfl⟩ := List.mem_map.1 m
    exact hn (State.mem_lineRings.1 hx).2.2
  · obtain ⟨x, hx, rfl⟩ := List.mem_map.1 m
    rw [listed x hx] at hr
    cases hr
    exact h1 (State.mem_lineRings.1 hx).2.1

/-! ### The re-read -/

/-- A running ring that sees a PROD: above its size pending it stops with an overrun (R43). -/
def Ring.saw (prod : Word) (r : Ring) : Ring :=
  if (prod - r.cons).toNat ≤ 2 ^ r.log2 then { r with prod := prod } else { r with prod := prod, state := 2, cause := 1 }

theorem State.seeProd_spec {s : State} {r : Ring} (hio : s.io = []) (hr : s.ring r.n = some r) (h1 : r.state = 1) (prod : Word) :
    RingsMove s (s.seeProd r.n prod) ∧ (s.seeProd r.n prod).ring r.n = some (r.saw prod)
      ∧ ∀ k, k ≠ r.n → (s.seeProd r.n prod).ring k = s.ring k := by
  unfold State.seeProd Ring.saw
  rw [hr]
  dsimp only
  rw [if_neg (not_not.2 h1)]
  by_cases fits : (prod - r.cons).toNat ≤ 2 ^ r.log2
  · rw [if_pos fits, if_pos (show (prod - r.cons).toNat ≤ ringSize r from fits)]
    exact Tells.ofRing (s := s) (f := fun x => { x with prod := prod }) (.refl _) (fun _ => rfl) hr
  · rw [if_neg fits, if_neg (show ¬(prod - r.cons).toNat ≤ ringSize r from fits)]
    obtain ⟨c, -, first, told⟩ := (s.updRing r.n fun x => { x with prod := prod }).stopRing_tells r.n 1
    obtain rfl := first hio
    rw [State.updRing_updRing s (f := fun x => { x with prod := prod }) fun _ => rfl] at told
    exact Tells.ofRing (f := fun x => Ring.stopped 1 { x with prod := prod }) (told.trans (State.emit_tells _ _)) (fun _ => rfl) hr

/-- The words of a doorbell line as last seen. -/
def State.lineWords (s : State) (line : Nat) : List DWord := ((s.host.lines.find? fun l => l.line = line).map (·.words)).getD []

/-- A doorbell line with the words of its re-read. -/
def State.withWords (s : State) (line : Nat) (words : List DWord) : State :=
  { s with host := { s.host with
      lines := updIf (fun x => decide (x.line = line)) (fun x => { x with words := words, await := false }) s.host.lines } }

/-- A ring acts on its word of a line when it has changed (R45). -/
def State.seeWord (old words : List DWord) (s : State) (r : Ring) : State :=
  if old.isEmpty || prodOf words r.n ≠ prodOf old r.n then s.seeProd r.n (prodOf words r.n) else s

theorem State.seeLine_eq (s : State) (line : Nat) (words : List DWord) :
    s.seeLine line words = (s.lineRings line).foldl (State.seeWord (s.lineWords line) words) (s.withWords line words) := rfl

/-- What a re-read that returned does to rings and lines (R43, R45, R47). -/
theorem State.seeLine_spec {s : State} (hio : s.io = []) (h : (s.host.rings.map (·.n)).Nodup) (line : Nat) (words : List DWord) :
    RingsMove (s.withWords line words) (s.seeLine line words)
      ∧ (∀ n r, s.ring n = some r → r.state = 1 → n / 8 = line → (s.seeLine line words).ring n
          = some (if (s.lineWords line).isEmpty || prodOf words n ≠ prodOf (s.lineWords line) n then r.saw (prodOf words n) else r))
      ∧ (∀ n, n / 8 ≠ line → (s.seeLine line words).ring n = s.ring n)
      ∧ ∀ n r, s.ring n = some r → r.state ≠ 1 → (s.seeLine line words).ring n = some r := by
  rw [State.seeLine_eq]
  generalize s.lineWords line = old
  obtain ⟨moved, each, apart, still⟩ := State.foldl_lineRings (s := s.withWords line words) (line := line) (f := State.seeWord old words)
    (Q := fun r r' => r' = if old.isEmpty || prodOf words r.n ≠ prodOf old r.n then r.saw (prodOf words r.n) else r) h
    fun r u h1 m hr => by
      unfold State.seeWord
      split
      · obtain ⟨moved, seen, others⟩ := State.seeProd_spec (m.io hio) hr h1 (prodOf words r.n)
        exact ⟨moved, ⟨_, seen, rfl⟩, others⟩
      · exact ⟨.refl u, ⟨r, hr, rfl⟩, fun _ _ => rfl⟩
  refine ⟨moved, fun n r hr h1 hn => ?_, apart, still⟩
  obtain ⟨r', hr', rfl⟩ := each n r hr h1 hn
  rw [State.n_of_ring hr] at hr'
  exact hr'

/-- What a line that cannot be read does to its rings (R49). -/
theorem State.lineFault_spec {s : State} (h : (s.host.rings.map (·.n)).Nodup) (line : Nat) (came : Bool) :
    HostOnly s (s.lineFault line came)
      ∧ (∀ n r, s.ring n = some r → r.state = 1 → n / 8 = line →
          ∃ c, (s.lineFault line came).ring n = some (r.stopped c) ∧ (c = 6 ∨ c = 7) ∧ (s.io = [] → c = 6))
      ∧ (∀ n, n / 8 ≠ line → (s.lineFault line came).ring n = s.ring n)
      ∧ ∀ n r, s.ring n = some r → r.state ≠ 1 → (s.lineFault line came).ring n = some r := by
  obtain ⟨ls, hls⟩ : ∃ ls, (if came then updIf (fun x => decide (x.line = line)) (fun x => { x with await := false }) s.host.lines
    else s.host.lines.filter fun x => x.line ≠ line) = ls := ⟨_, rfl⟩
  let s1 : State := { s with host := { s.host with lines := ls } }
  obtain ⟨moved, each, apart, still⟩ := State.foldl_lineRings (s := s1) (line := line) (f := fun s r => s.stopRing r.n 6)
    (Q := fun r r' => ∃ c, r' = r.stopped c ∧ (c = 6 ∨ c = 7) ∧ (s.io = [] → c = 6)) h
    fun r u h1 m hr => by
      obtain ⟨c, hc, first, told⟩ := u.stopRing_tells r.n 6
      obtain ⟨moved, stopped, others⟩ := told.ofRing (fun _ => rfl) hr
      exact ⟨moved, ⟨_, stopped, c, rfl, hc, fun i => first (m.io i)⟩, others⟩
  have told : Tells ((s1.lineRings line).foldl (fun s r => s.stopRing r.n 6) s1) (s.lineFault line came) := by
    unfold State.lineFault
    rw [hls]
    dsimp only
    split
    · exact .refl _
    · exact State.emit_tells _ _
  have only : HostOnly s s1 := rfl
  refine ⟨?_, fun n r hr h1 hn => ?_, fun n hn => (told.ring n).trans (apart n hn), fun n r hr h1 => (told.ring n).trans (still n r hr h1)⟩
  · have rest := (moved.trans told.ringsMove).only
    unfold HostOnly at rest ⊢
    rw [rest]
  · obtain ⟨r', hr', c, rfl, hc⟩ := each n r hr h1 hn
    exact ⟨c, (told.ring n).trans hr', hc⟩

/-- Outcomes of host accesses are a matter of the command. -/
theorem HostOnly.ofIo {s t : State} {a b : List IoRes} (h : HostOnly { s with io := a } t) : HostOnly s { t with io := b } := by
  unfold HostOnly at *
  rw [h]

/-- Settles O12, from what the re-read does to each ring of its line. -/
theorem rereadIsActedOn : Obligations.RereadIsActedOn := by
  intro line s hc nd l hl hline hawait hfind
  have watched : (s.cacheOk && s.host.lines.any fun x => decide (x.line = line) && x.await) = true := by
    rw [hc, Bool.true_and, List.any_eq_true]
    exact ⟨l, hl, by rw [decide_eq_true hline, hawait]; rfl⟩
  have ex (rd : LineRead) (io : List IoRes) : exec (.doorbellReread line rd io) s
      = .next { doorbellRereadStep line rd { s with io := io } with io := [] } := rfl
  refine ⟨fun words => ?_, fun rd io hrd => ?_⟩
  · have step : doorbellRereadStep line (.ok words) { s with io := [] } = ({ s with io := [] } : State).seeLine line words := if_pos watched
    have old : ({ s with io := [] } : State).lineWords line = l.words := by
      change ((s.host.lines.find? _).map _).getD _ = _
      rw [hfind]
      rfl
    obtain ⟨moved, each, apart, still⟩ := State.seeLine_spec (s := { s with io := [] }) rfl nd line words
    rw [old] at each
    rw [← step] at moved each apart still
    refine ⟨_, ex _ _, ?_, fun x hx hxl => ?_, fun n r hr h1 hn hw => ?_, apart, fun n r hr hw => ?_⟩
    · have only := moved.only
      unfold HostOnly at only ⊢
      rw [only]
      rfl
    · have lines : _ = updIf (fun x => decide (x.line = line)) (fun x => { x with words := words, await := false }) s.host.lines := moved.lines
      change x ∈ (doorbellRereadStep line (.ok words) { s with io := [] }).host.lines at hx
      rw [lines] at hx
      obtain ⟨y, -, rfl⟩ := List.mem_map.1 hx
      split
      · exact ⟨rfl, rfl⟩
      next other =>
        rw [if_neg other] at hxl
        exact absurd (decide_eq_true hxl) other
    · refine (each n r hr h1 hn).trans ?_
      rw [if_pos (by simpa using hw)]
      rfl
    · rcases hw with h1 | ⟨hw, same⟩
      · exact still n r hr h1
      · by_cases h1 : r.state = 1
        · by_cases hn : n / 8 = line
          · refine (each n r hr h1 hn).trans ?_
            rw [if_neg (by simp [hw, same])]
          · exact (apart n hn).trans hr
        · exact still n r hr h1
  · have step : doorbellRereadStep line rd { s with io := io } = ({ s with io := io } : State).lineFault line (rd == LineRead.poisoned) := by
      rcases hrd with rfl | rfl <;> exact if_pos watched
    obtain ⟨only, each, apart, still⟩ := State.lineFault_spec (s := { s with io := io }) nd line (rd == LineRead.poisoned)
    rw [← step] at only each apart still
    refine ⟨_, ex _ _, only.ofIo, fun n r hr => ?_⟩
    split
    next c =>
      obtain ⟨k, hk, h6, first⟩ := each n r hr c.1 c.2
      exact ⟨k, hk, h6, first⟩
    next c =>
      by_cases h1 : r.state = 1
      · exact (apart n fun hn => c ⟨h1, hn⟩).trans hr
      · exact still n r hr h1

end Sys2Proof.Machine
end

section
/-! Settles O13: the three ways in which the covered Waybills of a ring are taken (R41, R55 to R58). -/

namespace Sys2Proof.Machine

open Sys2Proof

/-! ### A Consist is entered -/

/-- Hints are read from memory as it is placed: entries of partitions, Consists and Waybills do not change them (R447). -/
theorem State.hintOf_sched (s : State) (parts : List Partn) (consists : List Consist) (wbs : List Wb) (nextWid nextCid p : Nat) (w : Slot) :
    ({ s with sched := { s.sched with parts, consists, wbs, nextWid, nextCid } } : State).hintOf p w = s.hintOf p w := rfl

theorem State.raiseV_eq (s : State) (p : Nat) : ∃ parts, s.raiseV p = { s with sched := { s.sched with parts := parts } } := by
  unfold State.raiseV
  split
  · exact ⟨s.sched.parts, rfl⟩
  · dsimp only
    split <;> exact ⟨_, rfl⟩

theorem State.wake_eq (s : State) (d : Nat) : ∃ regs, s.wake d = { s with regs := regs } := by
  unfold State.wake
  split
  · exact ⟨s.regs, rfl⟩
  · exact ⟨_, rfl⟩

/-- Waking domains moves nothing but registers (R466). -/
theorem State.wakeFor_eq (s : State) (p : Nat) : ∃ regs, s.wakeFor p = { s with regs := regs } := by
  unfold State.wakeFor
  generalize List.range 4 = l
  induction l generalizing s with
  | nil => exact ⟨s.regs, rfl⟩
  | cons n l ih =>
    rw [List.foldl_cons]
    split
    · obtain ⟨r1, e1⟩ := s.wake_eq (5 + n)
      obtain ⟨r2, e2⟩ := (s.wake (5 + n)).wake_eq (9 + n)
      obtain ⟨r3, e3⟩ := ih ((s.wake (5 + n)).wake (9 + n))
      rw [e3, e2, e1]
      exact ⟨r3, rfl⟩
    · exact ih s

/-- The Waybills of a Consist as they are entered, numbered in ring order (R56). -/
def State.enteredWbs (s : State) (r : Ring) (ws : List Slot) (preset : Option Nat) : List Wb :=
  ws.zipIdx.map fun x => newWb (s.sched.nextWid + x.2) s.sched.nextCid r.n r.part preset x.1

theorem State.slot_enteredWbs (s : State) (r : Ring) (ws : List Slot) (preset : Option Nat) :
    (s.enteredWbs r ws preset).map (·.slot) = ws := by
  rw [State.enteredWbs, List.map_map]
  exact List.zipIdx_map_fst 0 ws

theorem State.wid_enteredWbs (s : State) (r : Ring) (ws : List Slot) (preset : Option Nat) :
    (s.enteredWbs r ws preset).map (·.wid) = (List.range ws.length).map (s.sched.nextWid + ·) := by
  rw [State.enteredWbs, List.map_map, List.range_eq_range', ← List.zipIdx_map_snd 0 ws, List.map_map]
  rfl

theorem State.mem_enteredWbs {s : State} {r : Ring} {ws : List Slot} {preset : Option Nat} {w : Wb} (h : w ∈ s.enteredWbs r ws preset) :
    w.phase = .waiting ∧ w.preset = preset ∧ w.part = r.part ∧ w.ring = r.n := by
  obtain ⟨x, -, rfl⟩ := List.mem_map.1 h
  exact ⟨rfl, rfl, rfl, rfl⟩

/-- A Waybill with the engine kind that its hint names, when it is of the Consist being entered (R447). -/
def State.hinted (s : State) (w : Wb) : Wb :=
  if w.cid = s.sched.nextCid then { w with kind := (s.hintOf w.part w.slot).map (·.1) } else w

/-- A hint names a kind and changes nothing else of a Waybill. -/
theorem State.hinted_eq (s : State) (w : Wb) : s.hinted w = { w with kind := (s.hinted w).kind } := by
  unfold State.hinted
  split <;> rfl

theorem State.slot_hinted (s : State) (w : Wb) : (s.hinted w).slot = w.slot := by rw [State.hinted_eq]

theorem State.wid_hinted (s : State) (w : Wb) : (s.hinted w).wid = w.wid := by rw [State.hinted_eq]

/-- A ring whose CONS passes Waybills that have been read (R41). -/
def Ring.passed (k : Nat) (step : Option Nat) (r : Ring) : Ring :=
  { r with cons := r.cons + BitVec.ofNat 32 k, lastStep := (step.map (BitVec.ofNat 32)).getD r.lastStep }

theorem State.passCons_tells {s : State} (h : s.io = []) (n k : Nat) (step : Option Nat) :
    Tells (s.updRing n (Ring.passed k step)) (s.passCons n k step) := State.saveCtx_tells (s := s.updRing n (Ring.passed k step)) h n

/-- What telling leaves of scheduler and rings. -/
theorem Tells.sched {s t : State} (h : Tells s t) : t.sched = s.sched := by
  have := h.event.host
  unfold HostOnly at this
  rw [this]

/-- What an acceptance has entered before it is examined which Waybills may begin (R56, R58). -/
structure Accepted (s : State) (r : Ring) (ws : List Slot) (u : State) : Prop where
  ring     : u.ring r.n = some (r.passed ws.length (ws.head?.map wStep))
  consists : ∃ c, u.sched.consists = s.sched.consists ++ [c] ∧ c.cid = s.sched.nextCid ∧ c.ring = r.n ∧ c.part = r.part
    ∧ c.group = r.group ∧ c.split = false ∧ c.endWid = some (s.sched.nextWid + ws.length - 1)
  wbs      : u.sched.wbs = (s.sched.wbs ++ s.enteredWbs r ws none).map s.hinted
  nextWid  : u.sched.nextWid = s.sched.nextWid + ws.length
  nextCid  : u.sched.nextCid = s.sched.nextCid + 1

theorem State.accept_accepted {s : State} {r : Ring} (hio : s.io = []) (hr : s.ring r.n = some r) (ws : List Slot) :
    ∃ u : State, s.accept r ws = u.examine ∧ Accepted s r ws u := by
  obtain ⟨parts, raised⟩ := s.raiseV_eq r.part
  unfold State.accept
  rw [raised]
  extract_lets _ s1 cid pr s2 wbs _ s3 _ s4 _ s5 s6
  have entered : s5.sched.consists = s2.sched.consists ∧ s5.sched.wbs = (s.sched.wbs ++ s.enteredWbs r ws none).map s.hinted
      ∧ s5.sched.nextWid = s2.sched.nextWid ∧ s5.sched.nextCid = s2.sched.nextCid ∧ s5.host = s.host ∧ s5.io = s.io := by
    simp only [s5]
    by_cases swap : s4.swapMode r.part = true
    · simp only [swap, if_true]
      exact ⟨rfl, rfl, rfl, rfl, rfl, rfl⟩
    · simp only [swap]
      exact ⟨rfl, rfl, rfl, rfl, rfl, rfl⟩
  obtain ⟨consists, hwbs, nextWid, nextCid, host, io⟩ := entered
  clear_value s5
  have told : Tells (s5.updRing r.n (Ring.passed ws.length (ws.head?.map wStep))) s6 := State.passCons_tells (io.trans hio) _ _ _
  have sched : s6.sched = s5.sched := told.sched
  have ring5 : s5.ring r.n = some r := by rw [State.ring, host]; exact hr
  have ring6 : s6.ring r.n = some (r.passed ws.length (ws.head?.map wStep)) := by
    rw [told.ring, State.ring_updRing s5 (f := Ring.passed _ _) fun _ => rfl, if_pos rfl, ring5, Option.map_some]
  obtain ⟨regs, woken⟩ := s6.wakeFor_eq r.part
  refine ⟨_, rfl, ?_⟩
  rw [woken]
  exact ⟨ring6, ⟨_, (congrArg Sched.consists sched).trans consists, rfl, rfl, rfl, rfl, rfl, rfl⟩, (congrArg Sched.wbs sched).trans hwbs,
    (congrArg Sched.nextWid sched).trans nextWid, (congrArg Sched.nextCid sched).trans nextCid⟩

/-! ### The three ways -/

/-- A ring whose slot could not be read is stopped, whether its context can be written or not (R58). -/
theorem State.faultRing_tells (s : State) (r : Ring) (addr slot : Nat) :
    Tells (s.updRing r.n (Ring.stopped 7)) (s.faultRing r addr slot) := by
  unfold State.faultRing
  change Tells _ (match (s.updRing r.n (Ring.stopped 7)).ring r.n with | none => _ | some x => _)
  cases (s.updRing r.n (Ring.stopped 7)).ring r.n with
  | none => exact .refl _
  | some x => exact (State.writeCtx_tells _ x).trans (State.emit_tells _ _)

/-- CONSIST_ACCEPT of a running ring whose group is open, by what its slots hold. -/
theorem consistAcceptStep_open {s : State} {n : Nat} {r : Ring} (hr : s.ring n = some r) (h1 : r.state = 1) (on : s.rngOn = true)
    (ok : s.cacheOk = true) (hg : s.grpOpen r.group = true) (slots : List SlotRead) :
    (∀ ws, scanSlots none [] (slots.take (r.prod - r.cons).toNat) = .whole ws → (s.queueSwap r).roomFor r.part = true →
      consistAcceptStep n slots s = s.accept r ws)
    ∧ (∀ ws, scanSlots none [] (slots.take (r.prod - r.cons).toNat) = .split ws →
      consistAcceptStep n slots s = ((s.passCons n ws.length none).addConsist r ws true).emit
        (ev 0x0002 lvBlock (some r.part) (srcOf 11 n) [n, (ws.head?.map wStep).getD 0, ws.length]))
    ∧ ∀ k, scanSlots none [] (slots.take (r.prod - r.cons).toNat) = .bad k →
      consistAcceptStep n slots s = s.faultRing r (r.base.toNat + 64 * ((r.cons.toNat + k) % ringSize r)) ((r.cons.toNat + k) % ringSize r) := by
  have full : s.grpFull r.group = false := by
    unfold State.grpOpen at hg
    simpa using (Bool.and_eq_true_iff.1 hg).2
  have shut : (!s.rngOn || !s.cacheOk || r.state ≠ 1 || !s.grpOpen r.group) = false := by rw [on, ok, h1, hg]; rfl
  refine ⟨fun ws scan room => ?_, fun ws scan => ?_, fun k scan => ?_⟩
  · simp only [consistAcceptStep, hr, full, shut, scan, room, Bool.false_and, Bool.false_eq_true, if_false, if_true]
  · simp only [consistAcceptStep, hr, full, shut, scan, Bool.false_and, Bool.false_eq_true, if_false]
  · simp only [consistAcceptStep, hr, full, shut, scan, Bool.false_and, Bool.false_eq_true, if_false]

/-- The turn of swap partitions does not rest on outcomes of host accesses. -/
theorem State.roomFor_queueSwap_io (s : State) (io : List IoRes) (r : Ring) (p : Nat) :
    (({ s with io := io } : State).queueSwap r).roomFor p = (s.queueSwap r).roomFor p := by
  have mode : ({ s with io := io } : State).swapMode r.part = s.swapMode r.part := rfl
  unfold State.queueSwap
  rw [mode]
  split <;> rfl

/-- Settles O13, by what the ring's slots hold. -/
theorem acceptTakesAConsist : Obligations.AcceptTakesAConsist := by
  intro n slots s r hr h1 on ok hg
  obtain rfl := State.n_of_ring hr
  obtain ⟨whole, split, bad⟩ := consistAcceptStep_open (s := { s with io := [] }) hr h1 on ok hg slots
  have ex : exec (.consistAccept r.n slots []) s = .next { consistAcceptStep r.n slots { s with io := [] } with io := [] } := rfl
  refine ⟨fun ws scan room => ?_, fun ws scan => ?_, fun k scan => ?_⟩
  · obtain ⟨u, e, accepted⟩ := State.accept_accepted (s := { s with io := [] }) rfl hr ws
    rw [whole ws scan ((s.roomFor_queueSwap_io [] r r.part).trans room), e] at ex
    refine ⟨u, ex, accepted.ring, accepted.consists, ?_, accepted.nextWid, accepted.nextCid⟩
    refine ⟨(s.enteredWbs r ws none).map s.hinted, accepted.wbs.trans List.map_append, ?_, ?_, fun w hw => ?_⟩
    · rw [List.map_map]
      exact (List.map_congr_left fun w _ => s.slot_hinted w).trans (s.slot_enteredWbs r ws none)
    · rw [List.map_map]
      exact (List.map_congr_left fun w _ => s.wid_hinted w).trans (s.wid_enteredWbs r ws none)
    · obtain ⟨x, hx, rfl⟩ := List.mem_map.1 hw
      have new := State.mem_enteredWbs hx
      rw [State.hinted_eq]
      exact new
  · rw [split ws scan] at ex
    have passed := State.passCons_tells (s := { s with io := [] }) rfl r.n ws.length none
    obtain ⟨-, ring, -⟩ := Tells.ofRing (s := { s with io := [] }) passed (fun _ => rfl) hr
    have told := State.emit_tells ((({ s with io := [] } : State).passCons r.n ws.length none).addConsist r ws true)
      (ev 0x0002 lvBlock (some r.part) (srcOf 11 r.n) [r.n, (ws.head?.map wStep).getD 0, ws.length])
    have sched := passed.sched
    refine ⟨_, ex, (told.ring r.n).trans ring, s.enteredWbs r ws (some 0x10), ?_, s.slot_enteredWbs r ws (some 0x10),
      fun w hw => (State.mem_enteredWbs hw).2.1⟩
    refine (congrArg Sched.wbs told.sched).trans ?_
    unfold State.addConsist State.enteredWbs
    rw [sched]
    rfl
  · rw [bad k scan] at ex
    have told := State.faultRing_tells { s with io := [] } r (r.base.toNat + 64 * ((r.cons.toNat + k) % ringSize r))
      ((r.cons.toNat + k) % ringSize r)
    obtain ⟨-, ring, -⟩ := Tells.ofRing (s := { s with io := [] }) told (fun _ => rfl) hr
    exact ⟨_, ex, ring, told.sched⟩

end Sys2Proof.Machine
end

section
/-! Settles O15: what the return of CXL.cache leaves of the link, of doorbell lines and of what was held (R33, R35). The rule of an operation
f on rings, lines and groups is Serves.f, in the form of the rules of Keeps. -/

namespace Sys2Proof.Machine

open Sys2Proof

/-! ### The link that is shown -/

/-- The link with a rate and a width, CXL.cache on (R33, R35). -/
def State.linked (s : State) (speed width : Nat) : State :=
  ((s.setFld rHifLinkStatus 3 0 speed).setFld rHifLinkStatus 8 4 width).setFld rHifLinkStatus 10 9 3

/-- What the registers of such a link show. -/
structure Shows (s t : State) (speed width : Nat) : Prop where
  cache : t.cacheEn = true
  speed : t.fld rHifLinkStatus 3 0 = speed
  width : t.fld rHifLinkStatus 8 4 = width
  other : ∀ off, off ≠ rHifLinkStatus → t.reg off = s.reg off

theorem State.linked_shows {s : State} (h : s.regsWf) {speed width : Nat} (hs : speed < 16) (hw : width < 32) :
    Shows s (s.linked speed width) speed width := by
  have h1 := State.regsWf_setFld h rHifLinkStatus 3 0 speed
  have h2 := State.regsWf_setFld h1 rHifLinkStatus 8 4 width
  refine ⟨(State.bit_reg_setFld h2 _ _ _ _ (by decide)).trans rfl, ?_, ?_, fun off ho => ?_⟩
  · rw [State.linked, State.fld_setFld_other h2 _ (by decide) (.inl (by decide)), State.fld_setFld_other h1 _ (by decide) (.inl (by decide)),
      State.fld_setFld h _ _ _ _ (by decide) (by decide)]
    exact Nat.mod_eq_of_lt hs
  · rw [State.linked, State.fld_setFld_other h2 _ (by decide) (.inl (by decide)), State.fld_setFld h1 _ _ _ _ (by decide) (by decide)]
    exact Nat.mod_eq_of_lt hw
  · rw [State.linked, State.reg_setFld_other h2 _ _ _ ho, State.reg_setFld_other h1 _ _ _ ho, State.reg_setFld_other h _ _ _ ho]

/-- A register of the link that stays goes on to show it. -/
theorem Shows.stay {s t u : State} {speed width : Nat} (h : Shows s t speed width) (e : u.reg rHifLinkStatus = t.reg rHifLinkStatus) :
    u.cacheEn = true ∧ u.fld rHifLinkStatus 3 0 = speed ∧ u.fld rHifLinkStatus 8 4 = width := by
  obtain ⟨cache, rfl, rfl, -⟩ := h
  exact ⟨(congrArg (bit 10) e).trans cache, congrArg (bits 3 0) e, congrArg (bits 8 4) e⟩

theorem linkOk_iff {speed width : Nat} : linkOk speed width = true ↔ (1 ≤ speed ∧ speed ≤ 4) ∧ (width = 16 ∨ width = 8 ∨ width = 4) := by
  simp [linkOk]

/-- Pending vectors that are sent leave the pending ones and what is put out (R77). -/
theorem State.unmaskAll_eq (s : State) : ∃ out pba, s.unmaskAll = { s with out := out, host := { s.host with pba := pba } } := by
  have one (s : State) (v : Nat) : ∃ out pba, s.unmask v = { s with out := out, host := { s.host with pba := pba } } := by
    unfold State.unmask
    split
    · exact ⟨_, _, rfl⟩
    · exact ⟨s.out, s.host.pba, rfl⟩
  unfold State.unmaskAll
  generalize s.host.pba = l
  induction l generalizing s with
  | nil => exact ⟨s.out, s.host.pba, rfl⟩
  | cons v l ih =>
    obtain ⟨o1, p1, e1⟩ := one s v
    obtain ⟨o2, p2, e2⟩ := ih (s.unmask v)
    exact ⟨o2, p2, by rw [List.foldl_cons, e2, e1]⟩

/-- The lines are acquired again, each with what its read gave (R35, R45). -/
def State.reacquire (s : State) (reads : List (Nat × LineRead)) (lines : List Nat) : State :=
  lines.foldl (fun s l => (s.watch l).lineCame l ((reads.find? fun x => x.1 = l).map (·.2))) s

theorem mem_insertByKey_iff {α : Type} {key : α → Nat} {x y : α} {l : List α} : y ∈ insertByKey key x l ↔ y = x ∨ y ∈ l := by
  refine ⟨mem_insertByKey, ?_⟩
  induction l with
  | nil => exact fun h => List.mem_singleton.2 (h.resolve_right (List.not_mem_nil))
  | cons z l ih =>
    rw [insertByKey]
    split
    · exact List.mem_cons.2
    · rw [List.mem_cons, List.mem_cons]
      rintro (h | h | h)
      exacts [.inr (ih (.inl h)), .inl h, .inr (ih (.inr h))]

theorem mem_sortByKey {α : Type} {key : α → Nat} {x : α} {l : List α} : x ∈ sortByKey key l ↔ x ∈ l := by
  induction l with
  | nil => exact .rfl
  | cons y l ih => exact mem_insertByKey_iff.trans ((or_congr_right ih).trans List.mem_cons.symm)

/-! ### What rings, lines and groups keep while they are served -/

section
variable {reads : List (Nat × LineRead)} {s t u : State}

/-- A doorbell line is watched, unless its read failed on the link (R35, R49). -/
def Watched (reads : List (Nat × LineRead)) (s : State) (k : Nat) : Prop := (∃ l ∈ s.host.lines, l.line = k) ∨ (k, LineRead.failed) ∈ reads

/-- What every operation on rings, lines and groups keeps: the link's register, whether a loss of CXL.cache is under way, the numbers of the
rings and the lines watched; unless CXL.cache is away nothing is held. -/
structure Serves (reads : List (Nat × LineRead)) (s t : State) : Prop where
  wf    : s.regsWf → t.regsWf
  link  : s.regsWf → t.reg rHifLinkStatus = s.reg rHifLinkStatus
  lost  : t.host.lostSince = s.host.lostSince
  held  : s.cacheOk = true → t.host.held = s.host.held
  rings : t.host.rings.map (·.n) = s.host.rings.map (·.n)
  lines : ∀ k, Watched reads s k → Watched reads t k

theorem Serves.refl : Serves reads s s := ⟨id, fun _ => rfl, rfl, fun _ => rfl, rfl, fun _ => id⟩

theorem Serves.cacheOk (h : Serves reads s t) : t.cacheOk = s.cacheOk := by rw [State.cacheOk, h.lost]; rfl

theorem Serves.trans (h : Serves reads s t) (k : Serves reads t u) : Serves reads s u where
  wf := k.wf ∘ h.wf
  link w := (k.link (h.wf w)).trans (h.link w)
  lost := k.lost.trans h.lost
  held c := (k.held (h.cacheOk.trans c)).trans (h.held c)
  rings := k.rings.trans h.rings
  lines n := k.lines n ∘ h.lines n

theorem Serves.ite {c : Prop} {i : Decidable c} (h : Serves reads s t) (k : Serves reads s u) : Serves reads s (if c then t else u) := by
  split
  exacts [h, k]

theorem Serves.snd {α : Type} {x : α × State} {r : α} (h : Serves reads s x.2) (e : x = (r, u)) : Serves reads s u := by
  rw [e] at h
  exact h

theorem Serves.foldl {α : Type} {l : List α} {f : State → α → State} (h : Serves reads s t)
    (k : ∀ u v x, Serves reads u v → Serves reads u (f v x)) : Serves reads s (l.foldl f t) := by
  induction l generalizing t with
  | nil => exact h
  | cons x l ih => exact ih (k _ _ _ h)

/-- What is told moves none of this. -/
theorem Serves.tells (h : Serves reads s t) (k : Tells t u) : Serves reads s u :=
  h.trans ⟨k.event.wf, fun w => k.event.reg w _ (by decide) (by decide), by rw [k.host], k.held, by rw [k.host], fun n hn => by
    unfold Watched at *
    rw [k.host]
    exact hn⟩

/-- Changes of Waybills, of what is put out and of groups move none of this. -/
theorem Serves.same {sched : Sched} {out : List Out} {groups : List Group} {pba : List Nat} (h : Serves reads s t) :
    Serves reads s { t with sched, out, host := { t.host with groups, pba } } := ⟨h.wf, h.link, h.lost, h.held, h.rings, h.lines⟩

/-- Ring entries may change that keep their numbers. -/
theorem Serves.updRing {n : Nat} {f : Ring → Ring} (h : Serves reads s t) (hf : ∀ r, (f r).n = r.n) : Serves reads s (t.updRing n f) := by
  refine h.trans ⟨id, fun _ => rfl, rfl, fun _ => rfl, ?_, fun _ => id⟩
  refine List.map_map.trans (List.map_congr_left fun r _ => ?_)
  dsimp only [Function.comp_apply]
  split
  exacts [hf r, rfl]

/-- Lines may change that keep their numbers. -/
theorem Serves.updLines {p : DbLine → Bool} {f : DbLine → DbLine} (h : Serves reads s t) (hf : ∀ l, (f l).line = l.line) :
    Serves reads s { t with host := { t.host with lines := updIf p f t.host.lines } } := by
  refine h.trans ⟨id, fun _ => rfl, rfl, fun _ => rfl, rfl, fun k hk => hk.imp_left fun ⟨l, hl, e⟩ => ?_⟩
  refine ⟨_, List.mem_map_of_mem hl, ?_⟩
  split
  exacts [(hf l).trans e, e]

theorem Serves.emit {e : Ev} (h : Serves reads s t) : Serves reads s (t.emit e) := h.tells (t.emit_tells e)

theorem Serves.put {o : Out} (h : Serves reads s t) : Serves reads s (t.put o) := h.tells (.ofPut t o)

theorem Serves.writeCtx {r : Ring} (h : Serves reads s t) : Serves reads s (t.writeCtx r).2 := h.tells (t.writeCtx_tells r)

theorem Serves.updGrp {g : Nat} {f : Group → Group} (h : Serves reads s t) : Serves reads s (t.updGrp g f) := h.same

theorem Serves.dropWb {wid : Nat} (h : Serves reads s t) : Serves reads s (t.dropWb wid) := h.same

theorem Serves.unstall {g : Nat} (h : Serves reads s t) : Serves reads s (t.unstall g) := h.same

theorem Serves.grpPoll {g : Nat} (h : Serves reads s t) : Serves reads s (t.grpPoll g) := by
  have k := h.tells t.takeHead_tells
  unfold State.grpPoll
  split
  next e => exact (k.snd e).updGrp
  next e => exact k.snd e

theorem Serves.raiseGrp {g : Nat} (h : Serves reads s t) : Serves reads s (t.raiseGrp g) := by
  have raised (v : Nat) := h.tells (t.raise_tells v)
  unfold State.raiseGrp
  split
  · exact h
  · split
    · exact h
    · exact (raised _).ite (h.updGrp.ite (raised _).updGrp)

theorem Serves.recPut {g : Nat} {x : Group} {r : Rec} (h : Serves reads s t) : Serves reads s (t.recPut g x r).2 := by
  have k := h.tells t.takeIo_tells
  unfold State.recPut
  split
  next e =>
    have k1 := k.snd e
    exact (k1.put.updGrp.raiseGrp.ite k1.put.updGrp).dropWb
  next e => exact (k.snd e).updGrp.emit

theorem Serves.flushGrp {g n : Nat} (h : Serves reads s t) : Serves reads s (t.flushGrp g n) := by
  induction n generalizing t with
  | zero => exact h
  | succ n ih =>
    rw [State.flushGrp]
    split
    · exact h
    · split
      · exact h.unstall
      · split
        · exact h
        · extract_lets v
          have k : Serves reads s v := h.grpPoll.ite h
          clear_value v
          split
          · exact k.updGrp
          · split
            · exact k.unstall
            · split
              next e => exact ih (k.unstall.recPut.snd e)
              next e => exact k.unstall.recPut.snd e

theorem Serves.flush {g : Nat} (h : Serves reads s t) : Serves reads s (t.flush g) := by
  unfold State.flush
  split
  · exact h
  · exact h.flushGrp

/-- Something more is held while CXL.cache is away. -/
theorem Serves.hold {w : HeldWrite} (h : Serves reads s t) (away : t.cacheOk = false) :
    Serves reads s { t with host := { t.host with held := t.host.held ++ [w] } } :=
  h.trans ⟨id, fun _ => rfl, rfl, fun ok => absurd ok (Bool.eq_false_iff.1 away), rfl, fun _ => id⟩

theorem Serves.writeRec {g : Nat} {r : Rec} (h : Serves reads s t) : Serves reads s (t.writeRec g r) := by
  unfold State.writeRec
  split
  next away => exact h.hold (by simpa using away)
  next => exact h.dropWb.ite h.updGrp.flush

theorem Serves.saveCtx {n : Nat} (h : Serves reads s t) : Serves reads s (t.saveCtx n) := by
  unfold State.saveCtx
  split
  · exact h
  · split
    next e => exact h.writeCtx.snd e
    next e =>
      have k := h.writeCtx.snd e
      exact (k.ite (k.updRing (f := Ring.stopped 7) fun _ => rfl)).emit

theorem Serves.stopRing {n cause : Nat} (h : Serves reads s t) : Serves reads s (t.stopRing n cause) :=
  (h.updRing (f := Ring.stopped cause) fun _ => rfl).saveCtx

theorem Serves.seeProd {n : Nat} {prod : Word} (h : Serves reads s t) : Serves reads s (t.seeProd n prod) := by
  unfold State.seeProd
  split
  · exact h
  · have k := h.updRing (n := n) (f := fun r => { r with prod := prod }) fun _ => rfl
    exact k.ite (k.ite k.stopRing.emit)

theorem Serves.seeLine {line : Nat} {words : List DWord} (h : Serves reads s t) : Serves reads s (t.seeLine line words) :=
  Serves.foldl (h.updLines (f := fun x => { x with words := words, await := false }) fun _ => rfl) fun _ _ _ h => h.seeProd.ite h

/-- A line that came with poison stays watched; one whose read failed is not held (R49). -/
theorem Serves.lineFault {line : Nat} {came : Bool} (h : Serves reads s t) (hf : came = false → (line, LineRead.failed) ∈ reads) :
    Serves reads s (t.lineFault line came) := by
  have k : Serves reads s { t with host := { t.host with lines :=
      (if came then updIf (fun x => decide (x.line = line)) (fun x => { x with await := false }) t.host.lines
        else t.host.lines.filter fun x => x.line ≠ line) } } := by
    cases came with
    | true => exact h.updLines (f := fun x => { x with await := false }) fun _ => rfl
    | false =>
      refine h.trans ⟨id, fun _ => rfl, rfl, fun _ => rfl, rfl, fun k hk => ?_⟩
      by_cases e : k = line
      · exact .inr (e ▸ hf rfl)
      · exact hk.imp_left fun ⟨l, hl, el⟩ => ⟨l, List.mem_filter.2 ⟨hl, by simpa [el] using e⟩, el⟩
  unfold State.lineFault
  dsimp only
  split
  · exact k.foldl fun _ _ _ h => h.stopRing
  · exact (k.foldl fun _ _ _ h => h.stopRing).emit

theorem Serves.writeHeld {a : HeldWrite} (h : Serves reads s t) : Serves reads s (t.writeHeld a) := by
  unfold State.writeHeld
  split
  · exact h.writeRec
  · exact h.emit
  · split
    next e => exact h.writeCtx.snd e
    next e =>
      refine Serves.emit ((h.writeCtx.snd e).updRing fun r => ?_)
      split <;> rfl

theorem Serves.unmaskAll (h : Serves reads s t) : Serves reads s t.unmaskAll := by
  obtain ⟨out, pba, e⟩ := t.unmaskAll_eq
  rw [e]
  exact h.same

/-- A line that is acquired is watched (R44). -/
theorem State.watch_watched (s : State) (line : Nat) : Watched reads (s.watch line) line := by
  unfold State.watch
  split
  next h =>
    obtain ⟨l, hl, e⟩ := List.any_eq_true.1 h
    exact .inl ⟨l, hl, of_decide_eq_true e⟩
  next => exact .inl ⟨_, mem_insertByKey_iff.2 (.inl rfl), rfl⟩

theorem Serves.watch {line : Nat} (h : Serves reads s t) : Serves reads s (t.watch line) := by
  unfold State.watch
  split
  · exact h
  · exact h.trans ⟨id, fun _ => rfl, rfl, fun _ => rfl, rfl, fun k hk => hk.imp_left fun ⟨l, hl, e⟩ => ⟨l, mem_insertByKey_iff.2 (.inr hl), e⟩⟩

/-- The read that a line got is one of those that the command carries. -/
theorem Serves.lineCame {line : Nat} (h : Serves reads s t) :
    Serves reads s (t.lineCame line ((reads.find? fun x => x.1 = line).map (·.2))) := by
  cases e : reads.find? fun x => x.1 = line with
  | none => exact h
  | some x =>
    obtain ⟨l, rd⟩ := x
    obtain rfl : l = line := of_decide_eq_true (List.find?_some e :)
    cases rd with
    | ok words => exact h.seeLine
    | poisoned => exact h.lineFault fun came => nomatch came
    | failed => exact h.lineFault fun _ => List.mem_of_find?_eq_some e

/-- Every line that is acquired again is watched in the end. -/
theorem Serves.reacquire {lines : List Nat} (h : Serves reads s t) :
    Serves reads s (t.reacquire reads lines) ∧ ∀ k ∈ lines, Watched reads (t.reacquire reads lines) k := by
  induction lines generalizing s t with
  | nil => exact ⟨h, nofun⟩
  | cons l ls ih =>
    have came : Serves reads (t.watch l) ((t.watch l).lineCame l ((reads.find? fun x => x.1 = l).map (·.2))) := Serves.refl.lineCame
    obtain ⟨kept, watched⟩ := ih (h.watch.trans came)
    exact ⟨kept, List.forall_mem_cons.2 ⟨(ih .refl).1.lines l (came.lines l (t.watch_watched l)), watched⟩⟩

/-! ### CACHE_RETURN -/

/-- The lines that the rings left watch, in rising order (R35). -/
def State.attachedLines (s : State) : List Nat :=
  (sortByKey id ((s.host.rings.filter fun r => decide (r.state ≠ 0)).map fun r => r.n / 8)).eraseDups

theorem State.mem_attachedLines {r : Ring} (h : r ∈ s.host.rings) (attached : r.state ≠ 0) : r.n / 8 ∈ s.attachedLines :=
  List.mem_eraseDups.2 (mem_sortByKey.2 (List.mem_map.2 ⟨r, List.mem_filter.2 ⟨h, decide_eq_true attached⟩, rfl⟩))

/-- The loss is over, with nothing held. -/
def State.released (s : State) : State := { s with host := { s.host with held := [], lostSince := none } }

/-- Once the link is back after a loss: the lines are acquired again, what groups and the engine held is written in order, and then CACHE_LOST
with the cycles lost and the records held (R35). -/
def State.resumed (s : State) (reads : List (Nat × LineRead)) (since : Nat) : State :=
  let v := s.reacquire reads s.attachedLines
  let records := (v.host.held.filter fun x => match x with | .record _ _ => true | _ => false).length
  let w := v.host.held.foldl State.writeHeld (v.host.groups.foldl (fun s x => s.flush x.g) v.released)
  (w.emit (ev 0x0008 lvChip none 0 [w.aon - since, records, w.host.rings.length])).unmaskAll

/-- What is served after the release of what was held has no loss under way and holds nothing. -/
theorem Serves.resumed {since : Nat} : ∃ v, Serves reads s v ∧ (∀ k ∈ s.attachedLines, Watched reads v k)
    ∧ Serves reads v.released (s.resumed reads since) := by
  obtain ⟨kept, watched⟩ := Serves.reacquire (reads := reads) (lines := s.attachedLines) (.refl (s := s))
  refine ⟨_, kept, watched, Serves.unmaskAll (Serves.emit ?_)⟩
  exact (Serves.refl.foldl fun _ _ _ h => h.flush).foldl fun _ _ _ h => h.writeHeld

end

section
variable {speed width : Nat} {reads : List (Nat × LineRead)} {s : State}

theorem cacheReturnStep_of_untrained (h : s.ready = false ∨ linkOk speed width = false) : cacheReturnStep speed width reads s = s := by
  unfold cacheReturnStep
  exact if_pos (by simpa using h)

theorem cacheReturnStep_of_kept (ready : s.ready = true) (trains : linkOk speed width = true) (kept : s.host.lostSince = none) :
    cacheReturnStep speed width reads s = (s.linked speed width).unmaskAll := by
  unfold cacheReturnStep
  rw [if_neg (by simp [ready, trains])]
  change (match s.host.lostSince with | none => _ | some t => _) = _
  rw [kept]
  rfl

theorem cacheReturnStep_of_lost {since : Nat} (ready : s.ready = true) (trains : linkOk speed width = true)
    (lost : s.host.lostSince = some since) :
    cacheReturnStep speed width reads s = ((s.linked speed width).resumed reads since).settle := by
  unfold cacheReturnStep
  rw [if_neg (by simp [ready, trains])]
  change (match s.host.lostSince with | none => _ | some t => _) = _
  rw [lost]
  rfl

end

/-- Settles O15: each step of the return serves rings, lines and groups, and what is served after the release holds nothing. -/
theorem cacheReturnWritesWhatWasHeld : Obligations.CacheReturnWritesWhatWasHeld := by
  unfold Obligations.CacheReturnWritesWhatWasHeld
  intro speed width reads io s wf
  have run : exec (.cacheReturn speed width reads io) s = .next { cacheReturnStep speed width reads { s with io := io } with io := [] } := rfl
  rw [run]
  refine ⟨fun ready low high widths => ?_, fun untrained => ?_⟩
  · have trains : linkOk speed width = true := linkOk_iff.2 ⟨⟨low, high⟩, widths⟩
    have shown : Shows { s with io := io } (State.linked { s with io := io } speed width) speed width :=
      State.linked_shows (s := { s with io := io }) wf (by omega) (by omega)
    have wf' : (State.linked { s with io := io } speed width).regsWf :=
      State.regsWf_setFld (State.regsWf_setFld (State.regsWf_setFld wf _ _ _ _) _ _ _ _) _ _ _ _
    refine ⟨fun kept => ?_, fun lost attached => ?_⟩
    · rw [cacheReturnStep_of_kept (s := { s with io := io }) ready trains kept]
      obtain ⟨out, pba, e⟩ := (State.linked { s with io := io } speed width).unmaskAll_eq
      rw [e]
      exact ⟨_, rfl, rfl, shown.cache, shown.speed, shown.width, shown.other⟩
    · obtain ⟨since, lost⟩ := Option.ne_none_iff_exists'.1 lost
      rw [cacheReturnStep_of_lost (s := { s with io := io }) ready trains lost]
      obtain ⟨v, kept, watched, freed⟩ := Serves.resumed (reads := reads) (s := State.linked { s with io := io } speed width) (since := since)
      have link := (freed.link (kept.wf wf')).trans (kept.link wf')
      obtain ⟨cache, rate, lanes⟩ := shown.stay link
      refine ⟨_, rfl, cache, rate, lanes, freed.lost, freed.held rfl, fun r hr => ?_⟩
      have old := List.mem_map_of_mem (f := fun x : Ring => x.n) hr
      rw [freed.rings.trans kept.rings] at old
      obtain ⟨x, hx, e⟩ := List.mem_map.1 old
      rw [← e]
      exact freed.lines _ (watched _ (State.mem_attachedLines hx (attached x hx)))
  · rw [cacheReturnStep_of_untrained (s := { s with io := io })]
    refine untrained.imp_right fun untrained => Bool.eq_false_iff.2 fun trains => ?_
    have := linkOk_iff.1 trains
    omega

end Sys2Proof.Machine
end

section
/-! Settles O24 and O25: the issue of a Timetable, and what lets waiting work go on (R84, R86, R108, R133, R143, R270, R418). -/

namespace Sys2Proof.Machine

open Sys2Proof

/-! ### The issue of a Timetable -/

/-- A Waybill that passes R53 and R509 goes on to the checks of its Timetable. -/
theorem runTimetableStep_passed {s : State} {wid : Nat} {w : Wb} (begins : s.begin? wid opRunTt = some w) (passes : s.r53 w.part w.slot = none)
    (secure : s.secCheck w.part = none) : runTimetableStep wid s = s.checkTt w := by
  simp only [runTimetableStep, begins, State.checked, passes, secure]

/-- The kind of engine that a Timetable is for (R79). -/
def RunCtx.kind (c : RunCtx) : EngKind := if c.h.engine = 1 then .mxe else if c.h.engine = 2 then .vxe else .cve

/-- The entry of a run at its issue: the bytes read, the shapes, the bucket, and what stands as the run is issued (R31, R133, R177). -/
def State.issuedRun (s : State) (w : Wb) (die : Nat) (t : List Byte) (shapes : List Nat) (b : Nat) : Run :=
  { newRun w die with
    kind := (runCtx t shapes b).kind, tt := t, shapes := shapes, bucket := b,
    storeWait := ((s.run w.wid).map (·.storeWait)).getD [],
    thd := (List.range 4).map (fun (d : Nat) => (s.reg (rMxeThdCfg d), s.reg (rMxeThdSeed d))),
    nfCfg := (List.range 4).map fun (d : Nat) => s.eff (rMxeNfCfg d),
    tables := s.issueTables die w.part (runCtx t shapes b) }

/-- A run is entered: its entry replaces the one that its checks had, and the receiving die holds a copy (R86). -/
def State.entered (s : State) (w : Wb) (r : Run) : State :=
  let s := s.dropRun w.wid
  (State.addCopy { s with eng := { s.eng with runs := s.eng.runs ++ [r] } } r.recv w.wid r.tt.length).updWb w.wid
    fun w => { w with resSince := none }

/-- A Timetable for which the partition has an engine is entered and asks for engines (R86, R91). -/
theorem State.issue_of_usable {s : State} {w : Wb} {die b : Nat} {t : List Byte} {shapes : List Nat} {c : RunCtx} (hc : runCtx t shapes b = c)
    (h : s.usable w.part c.kind ≠ []) : s.issue w die t shapes b
      = (s.entered w (s.issuedRun w die t shapes b)).schedule w.wid c.kind
          (min c.h.spread (min (ttTrip0 c.ls) (s.usable w.part c.kind).length)) := by
  subst hc
  exact if_neg (by simpa [RunCtx.kind] using h)

/-- The run of a Waybill is the one that was entered for it. -/
theorem State.run_entered {s : State} {w : Wb} {r : Run} (h : r.wid = w.wid) : (s.entered w r).run w.wid = some r := by
  have old : (s.eng.runs.filter fun x => x.wid ≠ w.wid).find? (fun x => x.wid = w.wid) = none :=
    List.find?_eq_none.2 fun x hx => by simpa using (List.mem_filter.1 hx).2
  change ((s.eng.runs.filter fun x => x.wid ≠ w.wid) ++ [r]).find? (fun x => x.wid = w.wid) = some r
  rw [List.find?_append, old]
  simp [h]

/-- The receiving die has a copy of an entered run's Timetable. -/
theorem State.hasCopy_entered {s : State} {w : Wb} {r : Run} : (s.entered w r).hasCopy r.recv w.wid = true := by
  simp [State.hasCopy, State.entered, State.addCopy, State.updWb]

/-- A Timetable that passes the ten checks is issued on the die that was handed its Waybill (R84). -/
theorem State.checkTt_passed {s s1 s3 : State} {w : Wb} {die size b : Nat} {t : List Byte}
    (page : (s.handed w).prepareFor w.wid 0 [(wArg w.slot 0, 256)] [] = (true, s1))
    (clean : (s1.noteRead w.wid (wArg w.slot 0) 256).readStatus w.wid = none)
    (header : ttCheckHeader (s1.readBytes (wArg w.slot 0) 256) = none)
    (hdie : (((s.handed w).run w.wid).map (·.recv)).getD 0 = die) (hsize : rdN (s1.readBytes (wArg w.slot 0) 256) 8 4 = size)
    (inside : rangeInPart w.part (wArg w.slot 0) size = true) (room : s1.storeRoom die size = true)
    (place : s1.prepareFor w.wid 1 [(wArg w.slot 0, size)] [] = (true, s3)) (ht : s3.readBytes (wArg w.slot 0) size = t)
    (read : (s3.noteRead w.wid (wArg w.slot 0) size).readStatus w.wid = none) (sealed : ttSealOk t = true)
    (checks : (s3.noteRead w.wid (wArg w.slot 0) size).ttChecks w die t
      (shapeVals (wArg w.slot 1) (wArg w.slot 2) (wArg w.slot 3)) = .inl b) :
    s.checkTt w = (s3.noteRead w.wid (wArg w.slot 0) size).issue w die t
      (shapeVals (wArg w.slot 1) (wArg w.slot 2) (wArg w.slot 3)) b := by
  unfold State.checkTt
  simp only [page, clean, header, hdie, hsize, inside, room, place, ht, read, sealed, checks, Bool.not_true, Bool.false_eq_true, if_false]

/-- Settles O24: with every check passed RUN_TIMETABLE is the issue of the run, which enters it and asks for engines. -/
theorem timetableIsIssued : Obligations.TimetableIsIssued := by
  unfold Obligations.TimetableIsIssued
  intro wid m s0 s s1 s3 w b met begins passes secure a shapes page size s2 clean header die inside room place t s4 read sealed checks c k engines
  obtain rfl : w.wid = wid := State.wid_of_wb (State.begin?_eq_some begins).1
  have checked : s.checkTt w = s4.issue w die t shapes b :=
    State.checkTt_passed page clean header rfl rfl inside room place rfl read sealed checks
  have run : exec (.runTimetable ⟨w.wid, m⟩) s0 = .next (runTimetableStep w.wid (s0.meetsErr w.wid m)).served := rfl
  rw [met, runTimetableStep_passed begins passes secure, checked] at run
  clear_value s4 t die shapes
  rw [State.issue_of_usable (c := c) rfl engines] at run
  exact ⟨s4.entered w (s4.issuedRun w die t shapes b), s4.issuedRun w die t shapes b, run, State.run_entered rfl,
    rfl, rfl, rfl, rfl, rfl, rfl, rfl, rfl, State.hasCopy_entered, rfl, rfl⟩

/-! ### What lets waiting work go on -/

/-- A run that waits for room with its checks passed takes its copy, and its engines there begin (R143). -/
theorem tstoreRoomFreeStep_of_waiting {die : Nat} {s : State} {r : Run} (only : (s.eng.runs.filter fun r => r.storeWait.contains die) = [r])
    (copy : s.hasCopy die r.wid = false) (checked : r.tt ≠ []) (waits : ∃ x ∈ r.insts, x.started = false ∧ (dieOf r.kind x.inst).2 = die)
    (room : s.storeRoom die r.tt.length = true) : tstoreRoomFreeStep die s = (s.addCopy die r.wid r.tt.length).beginInsts r.wid := by
  have waits : (r.insts.any fun x => !x.started && decide ((dieOf r.kind x.inst).2 = die)) = true := by simpa using waits
  have checked : r.tt.isEmpty = false := by simpa using checked
  simp only [tstoreRoomFreeStep, only, List.foldl_cons, List.foldl_nil, copy, checked, waits, room, if_true, Bool.false_eq_true, if_false]

/-- An engine 64 positions past its last report has a report due (R108). -/
theorem report_due {lo last pos : Nat} (low : lo ≤ last) (far : last + 64 ≤ pos) :
    (decide (last < pos) && decide ((last - lo) / 64 < (pos - lo) / 64)) = true := by
  rw [Bool.and_eq_true, decide_eq_true_eq, decide_eq_true_eq]
  omega

/-- The reports after an engine's new one (R270). -/
def State.reported (s : State) (wid inst pos ns passed : Nat) : State :=
  let l := updIf (fun (q : Report) => decide (q.wid = wid ∧ q.inst = inst))
    (fun (q : Report) => { q with pos := pos, nsPer := some (ns, passed) }) s.place.reports
  { s with place := { s.place with reports := l } }

/-- A report that is due is made, and the engine's intents are queued anew (R108, R271). -/
theorem positionReportStep_of_due {k : EngKind} {inst ns : Nat} {s : State} {r : Run} {x : RunInst} {p : Report}
    (runs : s.runOn k inst = some (r, x)) (last : s.place.reports.find? (fun p => decide (p.wid = r.wid ∧ p.inst = inst)) = some p)
    (low : x.lo ≤ p.pos) (far : p.pos + 64 ≤ x.pos) :
    positionReportStep k inst ns s = (s.reported r.wid inst x.pos ns (x.pos - p.pos)).requeue r.wid inst := by
  simp only [positionReportStep, runs, last, report_due low far, Bool.true_or, Bool.not_true, Bool.false_eq_true, if_false]
  rfl

/-- The report of an engine after its new one. -/
theorem State.report_reported {s : State} {wid inst pos ns passed : Nat} {p : Report}
    (last : s.place.reports.find? (fun p => decide (p.wid = wid ∧ p.inst = inst)) = some p) :
    (s.reported wid inst pos ns passed).place.reports.find? (fun p => decide (p.wid = wid ∧ p.inst = inst))
      = some { p with pos := pos, nsPer := some (ns, passed) } := by
  have mine := List.find?_some last
  refine (find?_updIf (f := fun (q : Report) => { q with pos := pos, nsPer := some (ns, passed) }) (fun _ => by rfl) s.place.reports).trans ?_
  rw [last, Option.map_some, if_pos mine]

/-! ### An engine that is free -/

/-- An engine that is not there, fenced or not available is given to nothing (R418). -/
theorem instanceFreeStep_of_out {k : EngKind} {i : Nat} {s : State}
    (out : kindCount s.assy k ≤ i ∨ s.fenced (dieOf k i).1 (dieOf k i).2 = true ∨ s.avail k i = false) : instanceFreeStep k i s = s :=
  if_pos (by simpa [or_assoc] using out)

/-- One of an engine that runs Timetables passes to the Waybill that ranks first for it (R418). -/
theorem instanceFreeStep_of_in {k : EngKind} {i : Nat} {s : State} (hk : k = .mxe ∨ k = .vxe ∨ k = .cve) (there : i < kindCount s.assy k)
    (up : s.fenced (dieOf k i).1 (dieOf k i).2 = false) (avail : s.avail k i = true) :
    instanceFreeStep k i s = (s.passInst k i).settleTakings := by
  unfold instanceFreeStep
  rw [if_neg (by simp [there, up, avail])]
  obtain rfl | rfl | rfl := hk <;> rfl

/-- An idle engine that nobody wants, or that a slice takes first, stays idle (R418, R527). -/
theorem State.passInst_of_unwanted {s : State} {k : EngKind} {i : Nat} (h : s.taker k i = none ∨ s.sliceFirst k i = true) :
    s.passInst k i = s := by
  unfold State.passInst
  split
  · rfl
  · rename_i idle
    rw [h.resolve_right fun slice => idle (by simp [slice])]

/-- One that a Waybill wants is given to it (R418). -/
theorem State.passInst_of_taker {s : State} {k : EngKind} {i : Nat} {w : Wb} (idle : s.useOf k i = none) (slice : s.sliceFirst k i = false)
    (taker : s.taker k i = some w) : s.passInst k i = s.giveInst w.wid k i := by
  simp only [State.passInst, idle, slice, taker, Option.isSome_none, Bool.or_self, Bool.false_eq_true, if_false]

/-- What an engine is given to, it is used for. -/
theorem State.useOf_setUse {s : State} {k : EngKind} {i : Nat} {u : Use} : (s.setUse k i (some u)).useOf k i = some u := by
  have old : (s.sched.insts.filter fun x => x.1 ≠ (k, i)).find? (fun x => x.1 = (k, i)) = none :=
    List.find?_eq_none.2 fun x hx => by simpa using (List.mem_filter.1 hx).2
  change (((s.sched.insts.filter fun x => x.1 ≠ (k, i)) ++ [((k, i), u)]).find? fun x => x.1 = (k, i)).map (·.2) = some u
  rw [List.find?_append, old]
  simp

/-- A Waybill that reserves has a place among those that do; no other entry moves (R418). -/
theorem State.wb_reserving {s : State} {wid : Nat} {w : Wb} (h : s.wb wid = some w) :
    (∃ n, (s.reserving wid).wb wid = some { w with resSince := some n }) ∧ OtherWbs wid s (s.reserving wid) := by
  unfold State.reserving
  split
  · rename_i does
    obtain ⟨n, hn⟩ := Option.isSome_iff_exists.1 (show w.resSince.isSome = true by simpa [h] using does)
    exact ⟨⟨n, by rw [h, ← hn]⟩, fun _ _ => rfl⟩
  · have entry (n : Nat) := State.wb_updWb s (wid := wid) (f := fun w => { w with resSince := some s.sched.nextRes }) (fun _ => rfl) n
    refine ⟨⟨s.sched.nextRes, (entry wid).trans ?_⟩, fun n hn => (entry n).trans (if_neg hn)⟩
    rw [if_pos rfl, h]
    rfl

/-- An engine is noted as held by a Waybill, in use and in the Waybill's entry. -/
def State.withInst (s : State) (wid : Nat) (k : EngKind) (i : Nat) : State :=
  (s.setUse k i (some (.reserved wid))).updWb wid fun w => { w with held := w.held ++ [i] }

theorem State.wb_withInst (s : State) (wid : Nat) (k : EngKind) (i n : Nat) : (s.withInst wid k i).wb n
    = if n = wid then (s.wb n).map fun w => { w with held := w.held ++ [i] } else s.wb n :=
  State.wb_updWb (s.setUse k i (some (.reserved wid))) (f := fun w => { w with held := w.held ++ [i] }) (fun _ => by rfl) n

/-- A ready Waybill that needs more engines holds the one it is given in reserve (R418). -/
theorem State.giveInst_of_lacking {s : State} {k : EngKind} {i : Nat} {w : Wb} (h : s.wb w.wid = some w) (ready : w.phase = .ready)
    (lacks : w.held.length + 1 < w.need) :
    (s.giveInst w.wid k i).useOf k i = some (.reserved w.wid)
      ∧ (∃ n, (s.giveInst w.wid k i).wb w.wid = some { w with held := w.held ++ [i], resSince := some n })
      ∧ OtherWbs w.wid s (s.giveInst w.wid k i) := by
  have given : (s.withInst w.wid k i).wb w.wid = some { w with held := w.held ++ [i] } := by
    rw [State.wb_withInst, if_pos rfl, h]
    rfl
  have gives : s.giveInst w.wid k i = (s.withInst w.wid k i).reserving w.wid := by
    have more : ¬ w.need ≤ (w.held ++ [i]).length := by simpa using lacks
    unfold State.giveInst
    change (match (s.withInst w.wid k i).wb w.wid with | none => s.withInst w.wid k i | some w' => _) = _
    rw [given]
    simp only [ready, more, if_false]
    exact if_neg Phase.noConfusion
  obtain ⟨mine, others⟩ := State.wb_reserving given
  rw [gives]
  refine ⟨?_, mine, fun n hn => (others n hn).trans ((State.wb_withInst s w.wid k i n).trans (if_neg hn))⟩
  have use : (s.withInst w.wid k i).useOf k i = some (.reserved w.wid) := State.useOf_setUse
  unfold State.reserving
  split
  exacts [use, use]

/-- Settles O25. -/
theorem waitingWorkGoesOn : Obligations.WaitingWorkGoesOn := by
  unfold Obligations.WaitingWorkGoesOn
  refine ⟨fun die s r only copy checked waits room => ?_, fun k inst ns s r x p runs last low far => ?_, fun k i s hk => ⟨fun out => ?_, ?_⟩⟩
  · exact congrArg (fun t => Host.Outcome.next (State.served t)) (tstoreRoomFreeStep_of_waiting only copy checked waits room)
  · exact ⟨s.reported r.wid inst x.pos ns (x.pos - p.pos), congrArg Host.Outcome.next (positionReportStep_of_due runs last low far), rfl,
      State.report_reported last⟩
  · exact congrArg Host.Outcome.next (instanceFreeStep_of_out out)
  · intro there up avail idle
    have run : exec (.instanceFree k i) s = .next (s.passInst k i).settleTakings :=
      congrArg Host.Outcome.next (instanceFreeStep_of_in hk there up avail)
    refine ⟨fun unwanted => ?_, fun w slice taker entry ready lacks => ?_⟩
    · rw [run, State.passInst_of_unwanted unwanted]
    · rw [State.passInst_of_taker idle slice taker] at run
      obtain ⟨use, ⟨n, mine⟩, others⟩ := State.giveInst_of_lacking (k := k) (i := i) entry ready lacks
      exact ⟨_, _, run, use, mine, rfl, rfl, others⟩

end Sys2Proof.Machine
end

section
/-! What the engines that run Timetables move as they work: the rule of each operation that their steps and drains are made of (R105, R139,
R259, R267). The rule of an operation f is Engaged.f, of the form: if t is what the work has come to, then so is t.f. -/

namespace Sys2Proof.Machine

open Sys2Proof

/-- What work leaves of device memory: all of it, marks included; or, where it may write ranges, every byte outside them. -/
def Spared : Option (List (Nat × Nat)) → State → State → Prop
  | none, s, t => t.mem = s.mem ∧ t.marks = s.marks
  | some l, s, t => Memory.wf s.mem = true → Memory.wf t.mem = true ∧ ∀ a, outside l a → t.memByte a = s.memByte a

/-- What the work of an engine has come to, from s to t: nothing has moved that a step of an engine does not move, its part of its run
stands as x, and memory is as R says. -/
structure Engaged (R : Option (List (Nat × Nat))) (wid i : Nat) (s : State) (x : RunInst) (t : State) : Prop where
  only : EngineOnly { s with mem := t.mem, marks := t.marks } t
  inst : t.instOf wid i = some x
  mem  : Spared R s t

section

variable {R : Option (List (Nat × Nat))} {wid i : Nat} {s t u : State} {x y : RunInst}

theorem Spared.refl : Spared R s s := by
  cases R with
  | none => exact ⟨rfl, rfl⟩
  | some l => exact fun wf => ⟨wf, fun _ _ => rfl⟩

theorem Spared.trans (h : Spared R s t) (k : Spared R t u) : Spared R s u := by
  cases R with
  | none => exact ⟨k.1.trans h.1, k.2.trans h.2⟩
  | some l =>
    intro wf
    obtain ⟨wft, st⟩ := h wf
    obtain ⟨wfu, tu⟩ := k wft
    exact ⟨wfu, fun a ha => (tu a ha).trans (st a ha)⟩

theorem Spared.same (mem : u.mem = t.mem) (marks : u.marks = t.marks) : Spared R t u := by
  cases R with
  | none => exact ⟨mem, marks⟩
  | some l => exact fun wf => ⟨mem ▸ wf, fun a _ => by rw [State.memByte, mem, State.memByte]⟩

theorem Engaged.refl (h : s.instOf wid i = some x) : Engaged R wid i s x s := ⟨rfl, h, .refl⟩

theorem Engaged.step (h : Engaged R wid i s x t) (e : EngineOnly { t with mem := u.mem, marks := u.marks } u)
    (k : u.instOf wid i = some y) (m : Spared R t u) : Engaged R wid i s y u where
  only := by
    have h := h.only
    unfold EngineOnly at h e ⊢
    rw [e, h]
  inst := k
  mem := h.mem.trans m

/-- A change of parts that a step of an engine may move, its run not among them. -/
theorem Engaged.same {regs : List (Nat × Word)} {out : List Out} {host : HostIf} {io : List IoRes} {free : Nat} {sched : Sched}
    {place : Placing} {eng : Engines} {err : Errors} (h : Engaged R wid i s x t) (e : eng.runs = t.eng.runs := by rfl) :
    Engaged R wid i s x { t with regs, out, host, io, free, sched, place, eng, err } :=
  h.step rfl (by rw [State.instOf, State.run, e]; exact h.inst) (.same rfl rfl)

theorem Engaged.ite {c : Prop} {d : Decidable c} (h : Engaged R wid i s x t) (k : Engaged R wid i s x u) :
    Engaged R wid i s x (if c then t else u) := by
  split
  exacts [h, k]

theorem Engaged.foldl {α : Type} {l : List α} {f : State → α → State} (h : Engaged R wid i s x t)
    (k : ∀ v, ∀ y ∈ l, Engaged R wid i s x v → Engaged R wid i s x (f v y)) : Engaged R wid i s x (l.foldl f t) := by
  induction l generalizing t with
  | nil => exact h
  | cons y l ih => exact ih (k _ _ List.mem_cons_self h) fun v z hz => k v z (List.mem_cons_of_mem y hz)

/-- As foldl, for an accumulator that holds the state as a part. -/
theorem Engaged.foldlBy {α β : Type} (g : β → State) {l : List α} {f : β → α → β} {b : β} (h : Engaged R wid i s x (g b))
    (k : ∀ v, ∀ y ∈ l, Engaged R wid i s x (g v) → Engaged R wid i s x (g (f v y))) : Engaged R wid i s x (g (l.foldl f b)) := by
  induction l generalizing b with
  | nil => exact h
  | cons y l ih => exact ih (k _ _ List.mem_cons_self h) fun v z hz => k v z (List.mem_cons_of_mem y hz)

/-- The same where each step also adds a result to a list: every result is as each step says. -/
theorem Engaged.foldlWith {α β γ : Type} (g : β → State) (o : β → List γ) {P : γ → Prop} {l : List α} {f : β → α → β} {b : β}
    (h : Engaged R wid i s x (g b)) (hb : ∀ z ∈ o b, P z)
    (k : ∀ v, ∀ y ∈ l, Engaged R wid i s x (g v) → Engaged R wid i s x (g (f v y)) ∧ ∃ z, P z ∧ o (f v y) = o v ++ [z]) :
    Engaged R wid i s x (g (l.foldl f b)) ∧ ∀ z ∈ o (l.foldl f b), P z := by
  induction l generalizing b with
  | nil => exact ⟨h, hb⟩
  | cons y l ih =>
    obtain ⟨h', z, hz, added⟩ := k b y List.mem_cons_self h
    refine ih h' (fun z' hz' => ?_) fun v y' hy' => k v y' (List.mem_cons_of_mem y hy')
    rw [added] at hz'
    rcases List.mem_append.1 hz' with old | new
    · exact hb z' old
    · exact List.mem_singleton.1 new ▸ hz

/-! ### Registers, events and Waybills -/

theorem Engaged.bump {off n : Nat} (h : Engaged R wid i s x t) : Engaged R wid i s x (t.bump off n) := h.same

theorem Engaged.bump64 {off n : Nat} (h : Engaged R wid i s x t) : Engaged R wid i s x (t.bump64 off n) := h.same

theorem Engaged.put {o : Out} (h : Engaged R wid i s x t) : Engaged R wid i s x (t.put o) := h.same

theorem Engaged.emit {e : Ev} (h : Engaged R wid i s x t) : Engaged R wid i s x (t.emit e) := by
  have only := (t.emit_event e).host
  unfold HostOnly at only
  rw [only]
  exact h.same

theorem Engaged.updWb {n : Nat} {f : Wb → Wb} (h : Engaged R wid i s x t) : Engaged R wid i s x (t.updWb n f) := h.same

theorem Engaged.chargeWb {n ns : Nat} (h : Engaged R wid i s x t) : Engaged R wid i s x (t.chargeWb n ns) := by
  unfold State.chargeWb
  split
  exacts [h, h.same]

theorem Engaged.endWb {n st detail src : Nat} (h : Engaged R wid i s x t) : Engaged R wid i s x (t.endWb n st detail src) := by
  rw [State.endWb_eq]
  exact h.same

theorem Engaged.served (h : Engaged R wid i s x t) : Engaged R wid i s x t.served := h.same

/-! ### Runs and their engines -/

/-- Entries of runs that are changed in other ways than their engines' parts. -/
theorem State.instOf_updIf {p : Run → Bool} {f : Run → Run} (hf : ∀ r, (f r).wid = r.wid ∧ (f r).insts = r.insts)
    (e : u.eng.runs = updIf p f t.eng.runs) (n j : Nat) : u.instOf n j = t.instOf n j := by
  have run : u.run n = (t.run n).map fun r => if p r then f r else r := by
    rw [State.run, e, find?_updIf (fun r => by rw [(hf r).1]), State.run]
  rw [State.instOf, run, State.instOf]
  cases t.run n with
  | none => rfl
  | some r =>
    change runInst (if p r then f r else r) j = runInst r j
    split
    · rw [runInst, (hf r).2, runInst]
    · rfl

/-- An engine's part of a run after a change that keeps its number. -/
theorem State.instOf_updInst (t : State) (n j : Nat) {f : RunInst → RunInst} (hf : ∀ x, (f x).inst = x.inst) :
    (t.updInst n j f).instOf n j = (t.instOf n j).map f := by
  have run : (t.updInst n j f).run n = (t.run n).map fun r =>
      if decide (r.wid = n) then { r with insts := updIf (fun x => decide (x.inst = j)) f r.insts } else r :=
    find?_updIf (fun _ => by rfl) t.eng.runs
  rw [State.instOf, run, State.instOf]
  cases e : t.run n with
  | none => rfl
  | some r =>
    have mine : r.wid = n := by simpa using List.find?_some e
    simp only [Option.map_some, mine, decide_true, if_true, Option.bind_some]
    change (updIf _ f r.insts).find? (fun x => x.inst = j) = (r.insts.find? fun x => x.inst = j).map f
    rw [find?_updIf (fun x => by rw [hf])]
    cases e : r.insts.find? fun x => x.inst = j with
    | none => rfl
    | some y => exact congrArg some (if_pos (List.find?_some e))

theorem Engaged.updRun {n : Nat} {f : Run → Run} (h : Engaged R wid i s x t)
    (hf : ∀ r, (f r).wid = r.wid ∧ (f r).insts = r.insts := by exact fun _ => ⟨rfl, rfl⟩) : Engaged R wid i s x (t.updRun n f) :=
  h.step rfl ((State.instOf_updIf hf rfl wid i).trans h.inst) (.same rfl rfl)

theorem Engaged.updInst {f : RunInst → RunInst} (h : Engaged R wid i s x t) (hf : ∀ x, (f x).inst = x.inst := by exact fun _ => rfl) :
    Engaged R wid i s (f x) (t.updInst wid i f) :=
  h.step rfl ((State.instOf_updInst t wid i hf).trans (congrArg _ h.inst)) (.same rfl rfl)

theorem Engaged.noteDirty {n a k : Nat} (h : Engaged R wid i s x t) : Engaged R wid i s x (t.noteDirty n a k) :=
  h.ite (h.step rfl ((State.instOf_updIf (fun _ => by exact ⟨rfl, rfl⟩) rfl wid i).trans h.inst) (.same rfl rfl))

theorem Engaged.noteQuant {n die part : Nat} {q : QCount} (h : Engaged R wid i s x t) : Engaged R wid i s x (t.noteQuant n die part q) :=
  h.ite h.bump64.bump64.updRun.same

theorem Engaged.noteLane {r : Run} {k : EngKind} {j n unit : Nat} (h : Engaged R wid i s x t) :
    Engaged R wid i s x (t.noteLane r k j n unit) := by
  unfold State.noteLane
  exact h.ite (h.bump.updRun.ite h.bump.updRun.same.updRun)

theorem Engaged.arrive {n j pos : Nat} (h : Engaged R wid i s x t) : Engaged R wid i s x (t.arrive n j pos) := by
  unfold State.arrive
  exact h.ite (h.foldl fun _ _ _ h => h.ite h.bump).same

/-- An engine on its next position. -/
theorem Engaged.advancePos {y : RunInst} {c : RunCtx} (h : Engaged R wid i s x t) (dense : ttSparse c.ls = false) (hy : y.inst = i) :
    Engaged R wid i s { x with pos := x.pos + 1, outer := y.outer } (t.advancePos wid y c) := by
  unfold State.advancePos
  subst hy
  simp only [dense, Bool.false_eq_true, if_false]
  exact Engaged.arrive (Engaged.updInst (f := fun z => { z with pos := z.pos + 1, outer := y.outer }) h)

/-! ### What is read -/

theorem Engaged.touchPage {a n : Nat} {view : Bool} (h : Engaged R wid i s x t) : Engaged R wid i s x (t.touchPage a n view) := h.same

theorem Engaged.readRaw {a n : Nat} {view : Bool} (h : Engaged R wid i s x t) : Engaged R wid i s x (t.readRaw a n view) :=
  Engaged.foldl h.same fun _ _ _ h => h.touchPage

theorem Engaged.noteAccess {n : Nat} {l : List (Nat × Nat)} (h : Engaged R wid i s x t) : Engaged R wid i s x (t.noteAccess n l) := by
  unfold State.noteAccess
  extract_lets sl v w
  have hv : Engaged R wid i s x v := by
    unfold v
    split
    exacts [h.updWb, h]
  have hw : Engaged R wid i s x w := hv.foldl fun _ _ _ h => Engaged.ite (Engaged.updWb h) (Engaged.updWb h)
  exact Engaged.ite hw.updWb hw

/-- With no view open reads move no view. -/
theorem Engaged.noteReads {n : Nat} {l : List (Nat × Nat)} (h : Engaged R wid i s x t) (views : t.kv.views = []) :
    Engaged R wid i s x (t.noteReads n l) := by
  have unviewed : t.viewSlices l = [] := by simp [State.viewSlices, State.viewAt_none views]
  simp only [State.noteReads, unviewed, List.flatMap_nil, List.filterMap_nil, List.eraseDups_nil, List.foldl_nil]
  exact Engaged.foldl (h.foldl fun _ _ _ h => h.noteAccess) fun _ _ _ h => h.readRaw

theorem Engaged.runReads {r : Run} {k : EngKind} {j : Nat} {l : List (Nat × Nat)} (h : Engaged R wid i s x t) (views : t.kv.views = []) :
    Engaged R wid i s x (t.runReads r k j l) :=
  Engaged.foldl (h.noteReads views) fun _ _ _ h => h.noteLane

/-! ### What is written -/

theorem Engaged.lendsDone (h : Engaged R wid i s x t) : Engaged R wid i s x t.lendsDone := h.foldl fun _ _ _ h => h.endWb.ite h

theorem Engaged.takeBacking {n : Nat} (h : Engaged R wid i s x t) : Engaged R wid i s x (t.takeBacking n) := by
  have placed {v : State} {q : Place} (h : Engaged R wid i s x v) : Engaged R wid i s x (v.pageAt n q) :=
    Engaged.ite (Engaged.lendsDone h.same) h.same
  unfold State.takeBacking
  split
  · exact h
  · split
    · exact h
    · split
      · exact placed (Engaged.ite h.same h)
      · exact h

theorem Engaged.invalidate {a n : Nat} (h : Engaged R wid i s x t) : Engaged R wid i s x (t.invalidate a n) :=
  Engaged.foldl h.same fun _ _ _ h => h.put

theorem Engaged.copyWrite {a n : Nat} (h : Engaged R wid i s x t) : Engaged R wid i s x (t.copyWrite a n) := by
  unfold State.copyWrite
  split
  · exact h
  · exact h.ite (h.step rfl h.inst (.same rfl rfl))

theorem Engaged.freeBytes {n : Nat} (h : Engaged R wid i s x t) : Engaged R wid i s x (t.freeBytes n).2 := by
  unfold State.freeBytes
  exact h.same

section

variable {l : List (Nat × Nat)} {a : Nat} {bs : List Byte}

/-- No byte outside some ranges lies in a range. -/
def Within (l : List (Nat × Nat)) (a n : Nat) : Prop := ∀ b, outside l b → b < a ∨ a + n ≤ b

/-- A store within the ranges leaves every byte outside them. -/
theorem Spared.memStore (inside : Within l a bs.length) (e : u.mem = (t.memStore a bs).mem) : Spared (some l) t u := by
  intro wf
  refine ⟨by rw [e]; exact Memory.wf_memStore wf a bs, fun b hb => ?_⟩
  rw [State.memByte, e]
  exact State.memByte_memStore_other wf (inside b hb)

theorem Engaged.memWrite (h : Engaged (some l) wid i s x t) (inside : Within l a bs.length) (poison : Bool) :
    Engaged (some l) wid i s x (if poison then t.memWritePoison a bs else t.memWrite a bs) := by
  rw [State.memWritePoison_eq, State.memWrite_eq]
  exact Engaged.ite (h.step rfl h.inst (Spared.memStore inside rfl)) (h.step rfl h.inst (Spared.memStore inside rfl))

theorem Engaged.writeSlice {poison : Bool} (h : Engaged (some l) wid i s x t) (inside : Within l a bs.length) :
    Engaged (some l) wid i s x (t.writeSlice a bs poison) := by
  unfold State.writeSlice
  exact ((h.takeBacking.invalidate.memWrite inside poison).copyWrite).touchPage

/-- A slice of a range begins in it. -/
theorem le_of_mem_pageSlices {a n : Nat} {y : Nat × Nat} (h : y ∈ pageSlices a n) : a ≤ y.1 := by
  obtain ⟨p, -, rfl⟩ := List.mem_map.1 h
  exact le_max_left _ _

theorem Engaged.writeBytes {n : Nat} {poison : Bool} (h : Engaged (some l) wid i s x t) (inside : Within l a bs.length) :
    Engaged (some l) wid i s x (t.writeBytes n a bs poison).2 := by
  unfold State.writeBytes
  refine Engaged.foldlBy (fun r : Bool × Bool × State => r.2.2) h fun r y hy h => ?_
  have part : Within l y.1 ((bs.drop (y.1 - a)).take y.2).length := fun b hb => by
    have low := le_of_mem_pageSlices hy
    have := inside b hb
    rw [List.length_take, List.length_drop]
    omega
  dsimp only
  split
  · exact Engaged.ite h h.updWb
  · exact Engaged.ite h.updWb h.updWb
  · exact (h.writeSlice part).noteDirty

theorem Engaged.runWrite {n : Nat} {bad : List (Nat × Nat)} {poison : Bool} (h : Engaged (some l) wid i s x t)
    (inside : Within l a bs.length) : Engaged (some l) wid i s x (t.runWrite n a bs bad poison) := by
  unfold State.runWrite
  split
  next bs' v e =>
    split at e
    · cases e
      exact h.freeBytes.writeBytes (by simpa using inside)
    · cases e
      exact h.writeBytes inside

/-- Ranges that are joined reach no further. -/
theorem outside_joinRanges {rs : List (Nat × Nat)} {b : Nat} (h : outside rs b) : outside (joinRanges rs) b := by
  suffices fold : ∀ acc : List (Nat × Nat), outside acc b → outside (rs.foldl (fun (acc : List (Nat × Nat)) x =>
      match acc with
      | (a, n) :: r => if a + n = x.1 then (a, n + x.2) :: r else x :: (a, n) :: r
      | [] => [x]) acc) b from
    fun x hx => fold [] (fun _ hx => nomatch hx) x (List.mem_reverse.1 hx)
  induction rs with
  | nil => exact fun acc hacc => hacc
  | cons y rs ih =>
    intro acc hacc
    have hy := h y List.mem_cons_self
    refine ih (fun z hz => h z (List.mem_cons_of_mem y hz)) _ ?_
    cases acc with
    | nil => simpa [outside] using hy
    | cons z r =>
      obtain ⟨a, n⟩ := z
      have hz := hacc (a, n) List.mem_cons_self
      dsimp only at hz ⊢
      split
      · intro q hq
        rcases List.mem_cons.1 hq with rfl | hq
        · dsimp only
          omega
        · exact hacc q (List.mem_cons_of_mem _ hq)
      · intro q hq
        rcases List.mem_cons.1 hq with rfl | hq
        exacts [hy, hacc q hq]

theorem Engaged.runWriteRow {n : Nat} {rs bad : List (Nat × Nat)} {poison : Bool} (h : Engaged (some l) wid i s x t)
    (inside : ∀ b, outside l b → outside rs b) : Engaged (some l) wid i s x (t.runWriteRow n rs bs bad poison) := by
  unfold State.runWriteRow
  refine Engaged.foldlBy (fun q : List Byte × State => q.2) h fun q y hy h => h.runWrite fun b hb => ?_
  have := outside_joinRanges (inside b hb) y hy
  rw [List.length_take]
  omega

end

end

end Sys2Proof.Machine
end

section
/-! The accesses of an engine to memory that is in place: they wait for nothing, read nothing bad, and what they write is read back
(R17, R28, R252, R260). -/

namespace Sys2Proof.Machine

open Sys2Proof

/-! ### Slices of a range -/

theorem mem_pagesOf {a n p : Nat} : p ∈ pagesOf a n ↔ n ≠ 0 ∧ pageOf a ≤ p ∧ p ≤ pageOf (a + n - 1) := by
  unfold pagesOf
  split
  · simp_all
  · simp only [List.mem_map, List.mem_range]
    constructor
    · rintro ⟨i, hi, rfl⟩
      omega
    · rintro ⟨-, low, high⟩
      exact ⟨p - pageOf a, by omega, by omega⟩

/-- A slice of a range is not empty, lies in the range, and touches one page, which the range touches. -/
theorem of_mem_pageSlices {a n : Nat} {y : Nat × Nat} (h : y ∈ pageSlices a n) :
    (y.2 ≠ 0 ∧ a ≤ y.1 ∧ y.1 + y.2 ≤ a + n) ∧ pagesOf y.1 y.2 = [pageOf y.1] ∧ pageOf y.1 ∈ pagesOf a n := by
  obtain ⟨p, hp, rfl⟩ := List.mem_map.1 h
  obtain ⟨some, low, high⟩ := mem_pagesOf.1 hp
  simp only [pageOf] at low high
  have first : max a (p * 2 ^ 21) / 2 ^ 21 = p := by omega
  have last : (max a (p * 2 ^ 21) + (min (a + n) ((p + 1) * 2 ^ 21) - max a (p * 2 ^ 21)) - 1) / 2 ^ 21 = p := by omega
  refine ⟨by dsimp only; omega, ?_, by simpa only [pageOf, first] using hp⟩
  simp only [pagesOf, pageOf, first, last]
  rw [if_neg (by omega), Nat.add_sub_cancel_left]
  rfl

/-- Every byte of a range lies in one of its slices. -/
theorem exists_pageSlice {a n b : Nat} (low : a ≤ b) (high : b < a + n) : ∃ y ∈ pageSlices a n, y.1 ≤ b ∧ b < y.1 + y.2 := by
  have hp : pageOf b ∈ pagesOf a n := mem_pagesOf.2 ⟨by omega, by simp only [pageOf]; omega, by simp only [pageOf]; omega⟩
  refine ⟨_, List.mem_map_of_mem hp, ?_⟩
  simp only [pageOf]
  omega

/-- The lines of a slice are lines of its range. -/
theorem linesOf_slice {a n l : Nat} {y : Nat × Nat} (h : y ∈ pageSlices a n) (hl : l ∈ linesOf y.1 y.2) : l ∈ linesOf a n := by
  obtain ⟨⟨-, low, high⟩, -⟩ := of_mem_pageSlices h
  rw [mem_linesOf] at hl ⊢
  omega

/-! ### Ranges that are ready -/

/-- No view is open, and ranges are in place for the die whose accesses the running command makes. -/
def State.Ready (s : State) (l : List (Nat × Nat)) : Prop := s.kv.views = [] ∧ ∀ x ∈ l, s.inPlace s.place.via x.1 x.2

section

variable {s t u : State} {l : List (Nat × Nat)}

/-- An access to a page of ready ranges finds it. -/
theorem State.Ready.acc (h : s.Ready l) {p : Nat} (hp : ∃ x ∈ l, p ∈ pagesOf x.1 x.2) (wr : Bool) : s.accPage wr p = .ok := by
  obtain ⟨x, hx, hp⟩ := hp
  exact State.accPage_inPlace (h.2 x hx) hp wr

theorem State.Ready.mono (h : s.Ready l) {k : List (Nat × Nat)} (sub : ∀ x ∈ k, x ∈ l) : s.Ready k := ⟨h.1, fun x hx => h.2 x (sub x hx)⟩

/-- The pages that reads and writes reach without views are those of their ranges. -/
theorem State.accPages_of_noView {reads writes : List (Nat × Nat)} (views : s.kv.views = []) :
    (∀ p ∈ (s.accPages reads writes).1, ∃ x ∈ reads, p ∈ pagesOf x.1 x.2) ∧ ∀ p ∈ (s.accPages reads writes).2, ∃ x ∈ writes, p ∈ pagesOf x.1 x.2 := by
  refine ⟨fun p hp => ?_, fun p hp => ?_⟩
  · simp only [State.accPages, State.touches, State.viewAt_none views, List.mem_eraseDups, List.mem_flatMap, List.mem_singleton] at hp
    obtain ⟨_, ⟨x, hx, y, hy, rfl⟩, hp⟩ := hp
    obtain ⟨-, one, page⟩ := of_mem_pageSlices hy
    rw [one, List.mem_singleton] at hp
    exact ⟨x, hx, hp ▸ page⟩
  · simp only [State.accPages, List.mem_filter, List.mem_eraseDups, List.mem_flatMap] at hp
    obtain ⟨⟨x, hx, hp⟩, -⟩ := hp
    exact ⟨x, hx, hp⟩

/-- Accesses to ready ranges have nothing to wait for and ask for nothing (R28, R252). -/
theorem State.Ready.prepare {reads writes : List (Nat × Nat)} (h : s.Ready (reads ++ writes)) : s.prepare reads writes = (true, s) := by
  obtain ⟨rp, wp⟩ := State.accPages_of_noView (reads := reads) (writes := writes) h.1
  have hr : s.Ready reads := h.mono fun x hx => List.mem_append_left _ hx
  have hw : s.Ready writes := h.mono fun x hx => List.mem_append_right _ hx
  have rw : ((s.accPages reads writes).1.filter fun n => s.accPage false n = .wait) = [] :=
    List.filter_eq_nil_iff.2 fun p hp => by simp [hr.acc (rp p hp)]
  have ww : ((s.accPages reads writes).2.filter fun n => s.accPage true n = .wait) = [] :=
    List.filter_eq_nil_iff.2 fun p hp => by simp [hw.acc (wp p hp)]
  have backed : (s.accPages reads writes).2.foldl (fun s n => if s.accPage true n = .fault then s else s.takeBacking n) s = s :=
    foldl_eq_self fun p hp => by
      obtain ⟨x, hx, page⟩ := wp p hp
      rw [hw.acc ⟨x, hx, page⟩, State.takeBacking_inPlace (hw.2 x hx) page]
      rfl
  simp only [State.prepare, rw, List.isEmpty_nil, if_true, backed, ww, List.append_nil, List.foldl_nil, Bool.and_self]

/-- The same for a Waybill: only what is noted of accesses under way changes, and the accesses that follow are of the die that makes them
(R17, R256). -/
theorem State.prepareFor_ready {wid key : Nat} {reads writes : List (Nat × Nat)} (views : s.kv.views = [])
    (h : ∀ x ∈ reads ++ writes, s.inPlace (s.accDie wid key) x.1 x.2) :
    ∃ p, s.prepareFor wid key reads writes = (true, { s with place := p }) ∧ p.via = s.accDie wid key ∧ p.pages = s.place.pages := by
  unfold State.prepareFor
  extract_lets same held
  have ready := State.Ready.prepare (reads := reads) (writes := writes)
    (s := { s with place := { s.place with serving := s.place.serving ++ held, via := s.accDie wid key } }) ⟨views, h⟩
  dsimp only
  rw [ready]
  exact ⟨_, rfl, rfl, rfl⟩

/-- Reads of ready ranges without marks deliver no poison (R260). -/
theorem State.Ready.anyBad (h : s.Ready l) (clean : ∀ x ∈ l, ∀ k ∈ linesOf x.1 x.2, s.poisoned (64 * k) = false) : s.anyBad l = false := by
  have slice {x y : Nat × Nat} (hx : x ∈ l) (hy : y ∈ pageSlices x.1 x.2) : s.rawBad y.1 y.2 = false := by
    obtain ⟨-, one, page⟩ := of_mem_pageSlices hy
    have ok := h.acc ⟨x, hx, page⟩ false
    have unmarked : s.poisonedIn y.1 y.2 = false := by
      refine List.any_eq_false.2 fun k hk => ?_
      have := clean x hx k (linesOf_slice hy hk)
      rw [State.poisoned, Nat.mul_div_cancel_left k (by decide)] at this
      simp [this]
    simp only [State.rawBad, one, List.any_cons, List.any_nil, ok, unmarked, Bool.or_self]
  refine List.any_eq_false.2 fun x hx => ?_
  rw [Bool.not_eq_true]
  refine List.any_eq_false.2 fun y hy => ?_
  simp only [State.viewAt_none h.1, slice hx hy, Bool.false_eq_true, not_false_iff]

/-! ### The die of an engine that runs Timetables -/

/-- From compute dies the way to a memory-side die has no relay, so what is in place for one is in place for all (R17). -/
theorem State.inPlace_compute {d e a n : Nat} (h : s.inPlace (some (1, d)) a n) : s.inPlace (some (1, e)) a n := by
  have way (d m : Nat) : s.outOf (1, d) m = s.fenced 2 m := by simp [State.outOf, State.routeOut, relays]
  simpa only [State.inPlace, way] using h

/-- The run on an engine is the run of its Waybill, of that kind, with the engine's part. -/
theorem State.of_runOn {k : EngKind} {i : Nat} {r : Run} {x : RunInst} (h : s.runOn k i = some (r, x)) :
    s.run r.wid = some r ∧ runInst r i = some x ∧ r.kind = k := by
  unfold State.runOn at h
  split at h
  · rename_i wid _
    obtain ⟨r', hr, h⟩ := Option.bind_eq_some_iff.1 h
    obtain ⟨x', hx, h⟩ := Option.bind_eq_some_iff.1 h
    rw [Option.ite_none_right_eq_some] at h
    obtain ⟨on, e⟩ := h
    cases e
    have mine : r.wid = wid := by simpa using List.find?_some hr
    simp only [Bool.and_eq_true, decide_eq_true_eq] at on
    obtain ⟨⟨⟨⟨kind, -⟩, -⟩, -⟩, -⟩ := on
    exact ⟨mine ▸ hr, hx, kind⟩
  · cases h

theorem State.instOf_of_runOn {k : EngKind} {i : Nat} {r : Run} {x : RunInst} (h : s.runOn k i = some (r, x)) :
    s.instOf r.wid i = some x ∧ x.inst = i := by
  obtain ⟨run, part, -⟩ := State.of_runOn h
  exact ⟨by rw [State.instOf, run]; exact part, by simpa using List.find?_some part⟩

/-- The accesses of an engine's part of a run are those of a compute die (R17). -/
theorem State.accDie_of_runOn {k : EngKind} (hk : k = .mxe ∨ k = .vxe ∨ k = .cve) {i key : Nat} {r : Run} {x : RunInst}
    (h : s.runOn k i = some (r, x)) (hkey : key / 2 = i) : ∃ d, s.accDie r.wid key = some (1, d) := by
  obtain ⟨run, part, kind⟩ := State.of_runOn h
  have mine : (r.insts.any fun x => x.inst = key / 2) = true :=
    List.any_eq_true.2 ⟨x, List.mem_of_find?_eq_some part, by rw [hkey]; simpa using (State.instOf_of_runOn h).2⟩
  have some : r.insts.isEmpty = false := by
    cases e : r.insts with
    | nil => simp [e] at mine
    | cons => rfl
  unfold State.accDie
  extract_lets bySrc
  split
  · exact ⟨_, rfl⟩
  · change s.eng.runs.find? (fun q => q.wid = r.wid) = _ at run
    rw [run]
    simp only [some, mine, if_true, Bool.false_eq_true, if_false, kind]
    obtain rfl | rfl | rfl := hk <;> exact ⟨_, rfl⟩

/-- An engine's accesses to clean ranges wait for nothing, and the ranges are ready for it from then on. -/
theorem State.prepareFor_of_runOn {k : EngKind} (hk : k = .mxe ∨ k = .vxe ∨ k = .cve) {i key : Nat} {r : Run} {x : RunInst}
    (h : s.runOn k i = some (r, x)) (hkey : key / 2 = i) {reads writes : List (Nat × Nat)} (views : s.kv.views = [])
    (place : ∀ x ∈ reads ++ writes, s.inPlace (some (dieOf k i)) x.1 x.2) :
    ∃ p, s.prepareFor r.wid key reads writes = (true, { s with place := p }) ∧ ({ s with place := p } : State).Ready (reads ++ writes) := by
  obtain ⟨d, die⟩ := State.accDie_of_runOn hk h hkey
  obtain ⟨e, he⟩ : ∃ e, dieOf k i = (1, e) := by obtain rfl | rfl | rfl := hk <;> exact ⟨_, rfl⟩
  have here : ∀ x ∈ reads ++ writes, s.inPlace (s.accDie r.wid key) x.1 x.2 := fun x hx => by
    rw [die]
    exact State.inPlace_compute (he ▸ place x hx)
  obtain ⟨p, ok, via, pages⟩ := State.prepareFor_ready views here
  refine ⟨p, ok, views, fun x hx => ?_⟩
  change ({ s with place := p } : State).inPlace p.via x.1 x.2
  exact State.inPlace_congr (t := { s with place := p }) pages rfl rfl (via ▸ here x hx)

/-! ### What keeps ranges ready -/

/-- What is in place stays so. -/
structure Steady (s t : State) : Prop where
  views : t.kv.views = s.kv.views
  via   : t.place.via = s.place.via
  pages : ∀ via a n, s.inPlace via a n → t.inPlace via a n

theorem State.Ready.steady (h : s.Ready l) (k : Steady s t) : t.Ready l :=
  ⟨k.views.trans h.1, fun x hx => k.via ▸ k.pages _ _ _ (h.2 x hx)⟩

theorem Steady.refl : Steady s s := ⟨rfl, rfl, fun _ _ _ => id⟩

theorem Steady.trans (h : Steady s t) (k : Steady t u) : Steady s u :=
  ⟨k.views.trans h.views, k.via.trans h.via, fun v a n => k.pages v a n ∘ h.pages v a n⟩

/-- A change of parts on which what is in place does not depend. -/
theorem Steady.same (h : Steady s t) (views : u.kv.views = t.kv.views := by rfl) (via : u.place.via = t.place.via := by rfl)
    (pages : u.place.pages = t.place.pages := by rfl) (clk : u.clk = t.clk := by rfl) (run : u.reg rClkRun = t.reg rClkRun := by rfl) :
    Steady s u := h.trans ⟨views, via, fun _ _ _ => State.inPlace_congr pages clk run⟩

theorem Steady.ite {c : Prop} {d : Decidable c} (h : Steady s t) (k : Steady s u) : Steady s (if c then t else u) := by
  split
  exacts [h, k]

theorem Steady.foldl {α : Type} {k : List α} {f : State → α → State} (h : Steady s t)
    (hf : ∀ v y, Steady s v → Steady s (f v y)) : Steady s (k.foldl f t) := by
  induction k generalizing t with
  | nil => exact h
  | cons y k ih => exact ih (hf _ _ h)

/-- A key other than the one written reads as before, in canonical form or not. -/
theorem sget_sset_ne {α : Type} [DecidableEq α] {d : Nat → α} {m : List (Nat × α)} {k j : Nat} (v : α) (h : j ≠ k) :
    sget d (sset d m k v) j = sget d m j := by
  induction m with
  | nil =>
    rw [sset]
    split
    · rfl
    · simp [sget, h.symm]
  | cons x m ih =>
    obtain ⟨k', v'⟩ := x
    rw [sset]
    split
    · split
      · rfl
      · rw [sget, if_neg h.symm]
    · split
      · rename_i same
        subst same
        split
        · rw [sget, if_neg h.symm]
        · rw [sget, if_neg h.symm, sget, if_neg h.symm]
      · rw [sget, sget, ih]

/-- Counting in a register other than the one that says which clocks run. -/
theorem Steady.bump {off n : Nat} (h : Steady s t) (other : rClkRun ≠ off) : Steady s (t.bump off n) :=
  h.same (run := sget_sset_ne _ other)

theorem Steady.touchPage {a n : Nat} {view : Bool} (h : Steady s t) : Steady s (t.touchPage a n view) := by
  refine h.trans ⟨rfl, rfl, fun via a' n' place p hp => ?_⟩
  obtain ⟨g, page, rest⟩ := place p hp
  let f (g : Page) : Page := { g with heat := min 65535 (g.heat + ceilDiv n 4096), last := t.aon, lastView := if view then t.aon else g.lastView }
  have e : (t.touchPage a n view).page p = (t.page p).map fun g => if decide (g.num = pageOf a) then f g else g :=
    find?_updIf (fun _ => by rfl) t.place.pages
  refine ⟨if decide (g.num = pageOf a) then f g else g, by rw [e, page]; rfl, ?_⟩
  split
  exacts [rest, rest]

theorem Steady.readRaw {a n : Nat} {view : Bool} (h : Steady s t) : Steady s (t.readRaw a n view) :=
  Steady.foldl ((h.bump (off := rErrPoisonRead) (by decide)).trans (Steady.refl.same)) fun _ _ h => h.touchPage

theorem Steady.noteAccess {n : Nat} {k : List (Nat × Nat)} (h : Steady s t) : Steady s (t.noteAccess n k) := by
  unfold State.noteAccess
  extract_lets sl v w
  have hv : Steady s v := by
    unfold v
    split
    exacts [h.same, h]
  have hw : Steady s w := hv.foldl fun _ _ h => Steady.ite h.same h.same
  exact Steady.ite hw.same hw

/-- With no view open reads move no page. -/
theorem Steady.noteReads {n : Nat} {k : List (Nat × Nat)} (h : Steady s t) (views : t.kv.views = []) : Steady s (t.noteReads n k) := by
  have unviewed : t.viewSlices k = [] := by simp [State.viewSlices, State.viewAt_none views]
  simp only [State.noteReads, unviewed, List.flatMap_nil, List.filterMap_nil, List.eraseDups_nil, List.foldl_nil]
  exact Steady.foldl (h.foldl fun _ _ h => h.noteAccess) fun _ _ h => h.readRaw

theorem Steady.noteLane {r : Run} {k : EngKind} {i n unit : Nat} (h : Steady s t) : Steady s (t.noteLane r k i n unit) := by
  have other : rClkRun ≠ rMxeNfLaneBad (dieOf k i).2 := by simp only [rClkRun, rMxeNfLaneBad]; omega
  have counted : Steady s ((t.bump (rMxeNfLaneBad (dieOf k i).2) n).updRun r.wid fun r => { r with laneBad := r.laneBad + n }) :=
    (h.bump other).same
  unfold State.noteLane
  exact h.ite (counted.ite counted.same)

theorem Steady.runReads {r : Run} {k : EngKind} {i : Nat} {m : List (Nat × Nat)} (h : Steady s t) (views : t.kv.views = []) :
    Steady s (t.runReads r k i m) :=
  Steady.foldl (h.noteReads views) fun _ _ h => h.noteLane

/-! ### What is written to ready ranges -/

theorem Steady.writeSlice {a : Nat} {bs : List Byte} (h : Steady s t) (backed : t.takeBacking (pageOf a) = t) :
    Steady s (t.writeSlice a bs false) := by
  have taken : Steady s (t.invalidate a bs.length) :=
    Steady.foldl (f := fun s l => s.put (.backInvalidate l)) (h.same) fun _ _ h => h.same
  have copied {v : State} (h : Steady s v) : Steady s (v.copyWrite a bs.length) := by
    unfold State.copyWrite
    split
    · exact h
    · exact h.ite h.same
  have written {v : State} (h : Steady s v) : Steady s (v.memWrite a bs) := by
    rw [State.memWrite_eq]
    exact h.same
  unfold State.writeSlice
  rw [backed]
  exact (copied (written taken)).touchPage

/-- The bytes of a range that a slice of it holds. -/
theorem getD_slice {a b : Nat} {bs : List Byte} {y : Nat × Nat} (h : y ∈ pageSlices a bs.length) (low : y.1 ≤ b) (high : b < y.1 + y.2)
    (v : Byte) : ((bs.drop (y.1 - a)).take y.2).getD (b - y.1) v = bs.getD (b - a) 0 := by
  obtain ⟨⟨-, first, last⟩, -⟩ := of_mem_pageSlices h
  have inside : b - a < bs.length := by omega
  rw [List.getD_eq_getElem?_getD, List.getElem?_take_of_lt (by omega), List.getElem?_drop, show y.1 - a + (b - y.1) = b - a by omega,
    List.getElem?_eq_getElem inside, Option.getD_some, List.getD_eq_getElem _ _ inside]

/-- A byte after one slice of a write: that of the write in the slice, and beyond it the one before. -/
theorem State.memByte_writeSlice {a b : Nat} {bs : List Byte} {y : Nat × Nat} (h : y ∈ pageSlices a bs.length)
    (backed : t.takeBacking (pageOf y.1) = t) (wf : Memory.wf t.mem = true) :
    (t.writeSlice y.1 ((bs.drop (y.1 - a)).take y.2) false).memByte b
      = if y.1 ≤ b ∧ b < y.1 + y.2 then bs.getD (b - a) 0 else t.memByte b := by
  obtain ⟨⟨-, first, last⟩, -⟩ := of_mem_pageSlices h
  rw [State.memByte, (State.writeSlice_spec backed _).1]
  change (t.memStore y.1 _).memByte b = _
  rw [State.memByte_memStore wf]
  split
  · rename_i low
    split
    · rename_i within
      exact getD_slice h low within.2 _
    · exact List.getD_eq_default _ _ (by rw [List.length_take, List.length_drop]; omega)
  · rw [if_neg (by omega)]

theorem State.noteDirty_mem (t : State) (wid a n : Nat) : (t.noteDirty wid a n).mem = t.mem := by
  unfold State.noteDirty
  split <;> rfl

/-- One slice after another of a write to ready memory: a byte that is the write's, or that a slice still to come holds, is the write's. -/
theorem State.memByte_writeSlices {wid a b : Nat} {bs : List Byte} (k : List (Nat × Nat)) (sub : ∀ y ∈ k, y ∈ pageSlices a bs.length)
    {q : Bool × Bool × State} (ready : q.2.2.Ready [(a, bs.length)]) (wf : Memory.wf q.2.2.mem = true)
    (goal : q.2.2.memByte b = bs.getD (b - a) 0 ∨ ∃ y ∈ k, y.1 ≤ b ∧ b < y.1 + y.2) :
    (k.foldl (fun (r : Bool × Bool × State) x =>
      let (ok, said, s) := r
      let part := (bs.drop (x.1 - a)).take x.2
      match (if (s.viewAt x.1).isSome then Acc.fault else s.accPage true (pageOf x.1)) with
      | .fault => (false, true, if said then s else s.noteFault wid x.1 true)
      | .lost => (false, said, if s.unreached (homeOf x.1) then s.noteCut wid (homeOf x.1) else s.noteQuota wid)
      | _ => (ok, said, (s.writeSlice x.1 part false).noteDirty wid x.1 part.length)) q).2.2.memByte b = bs.getD (b - a) 0 := by
  induction k generalizing q with
  | nil => exact goal.resolve_right fun ⟨y, hy, _⟩ => nomatch hy
  | cons y k ih =>
    obtain ⟨ok, said, t⟩ := q
    have hy := sub y List.mem_cons_self
    obtain ⟨-, one, page⟩ := of_mem_pageSlices hy
    have acc := ready.acc ⟨_, List.mem_singleton_self _, page⟩ true
    have backed := State.takeBacking_inPlace (ready.2 _ (List.mem_singleton_self _)) page
    have byte := State.memByte_writeSlice (b := b) hy backed wf
    have mem := (State.writeSlice_spec backed ((bs.drop (y.1 - a)).take y.2)).1
    have steady : Steady t ((t.writeSlice y.1 ((bs.drop (y.1 - a)).take y.2) false).noteDirty wid y.1 ((bs.drop (y.1 - a)).take y.2).length) :=
      Steady.ite (Steady.refl.writeSlice backed) (Steady.refl.writeSlice backed).same
    rw [List.foldl_cons]
    simp only [State.viewAt_none ready.1, acc, Option.isSome_none, Bool.false_eq_true, if_false]
    refine ih (fun z hz => sub z (List.mem_cons_of_mem y hz)) (ready.steady steady) ?_ ?_
    · rw [State.noteDirty_mem, mem]
      exact Memory.wf_memStore wf _ _
    · rw [State.memByte, State.noteDirty_mem]
      change (t.writeSlice y.1 _ false).memByte b = _ ∨ _
      rw [byte]
      split
      · exact .inl rfl
      · rename_i beyond
        refine goal.imp id fun ⟨z, hz, within⟩ => ⟨z, ?_, within⟩
        exact (List.mem_cons.1 hz).resolve_left fun e => beyond (e ▸ within)

/-- What a Waybill writes to ready memory is read back. -/
theorem State.memRead_writeBytes {wid a : Nat} {bs : List Byte} (ready : s.Ready [(a, bs.length)]) (wf : Memory.wf s.mem = true) :
    (s.writeBytes wid a bs false).2.memRead a bs.length = bs := by
  rw [State.memRead_eq]
  refine List.ext_getElem (by simp) fun j _ hj => ?_
  rw [List.getElem_map, List.getElem_range]
  have byte := State.memByte_writeSlices (wid := wid) (b := a + j) (pageSlices a bs.length) (fun _ => id) (q := (true, false, s)) ready wf
    (.inr (exists_pageSlice (by omega) (by omega)))
  rw [Nat.add_sub_cancel_left, List.getD_eq_getElem _ _ hj] at byte
  exact byte

end

end Sys2Proof.Machine
end

section
/-! What a step of a matrix engine makes of its tiles, and the notices that follow (R98, R105, R113, R135, R136, R171). -/

namespace Sys2Proof.Machine

open Sys2Proof

/-! ### Tiles of an engine -/

/-- An engine's part of a run with a tile changed, or added when it is new. -/
def RunInst.withTile (x : RunInst) (t : AccTile) : RunInst :=
  { x with tiles := if x.tiles.any fun y => !y.draining && decide (y.key = t.key) then
      updIf (fun y => !y.draining && decide (y.key = t.key)) (fun _ => t) x.tiles
    else x.tiles ++ [t] }

/-- The same with a tile that drains in place of the one that filled (R105). -/
def RunInst.finished (x : RunInst) (t : AccTile) : RunInst :=
  { x with tiles := x.tiles.filter (fun y => y.draining || decide (y.key ≠ t.key)) ++ [{ t with draining := true, refs := [] }] }

theorem RunInst.mem_withTile (x : RunInst) (t : AccTile) : t ∈ (x.withTile t).tiles := by
  unfold RunInst.withTile
  dsimp only
  split
  · rename_i some
    obtain ⟨y, hy, matched⟩ := List.any_eq_true.1 some
    exact List.mem_map.2 ⟨y, hy, if_pos matched⟩
  · simp

theorem RunInst.mem_withTile_of_other {x : RunInst} {t y : AccTile} (hy : y ∈ x.tiles) (other : y.draining = true ∨ y.key ≠ t.key) :
    y ∈ (x.withTile t).tiles := by
  have unmatched : ¬ (!y.draining && decide (y.key = t.key)) = true := by
    rcases other with drains | key <;> simp [*]
  unfold RunInst.withTile
  dsimp only
  split
  · exact List.mem_map.2 ⟨y, hy, if_neg unmatched⟩
  · exact List.mem_append_left _ hy

theorem RunInst.mem_finished_of_other {x : RunInst} {t y : AccTile} (hy : y ∈ x.tiles) (other : y.draining = true ∨ y.key ≠ t.key) :
    y ∈ (x.finished t).tiles :=
  List.mem_append_left _ (List.mem_filter.2 ⟨hy, by simpa using other⟩)

/-- The tile that a step works on fills, and has the step's key. -/
theorem tileFor_spec {c : RunCtx} {x : RunInst} {ds : List Nat} {t : AccTile} (h : tileFor c x ds = some t) : t.draining = false := by
  unfold tileFor at h
  split at h
  · rename_i y found
    cases h
    have := List.find?_some found
    simp_all
  · rw [Option.ite_none_right_eq_some] at h
    obtain ⟨-, e⟩ := h
    cases e
    rfl

section

variable {R : Option (List (Nat × Nat))} {wid i : Nat} {s t : State} {x : RunInst}

theorem Engaged.putTile {q : AccTile} (h : Engaged R wid i s x t) : Engaged R wid i s (x.withTile q) (t.putTile wid i q) :=
  Engaged.updInst (f := fun x => x.withTile q) h

/-- The first tile that finishes tells whether notices are sent (R136). -/
theorem Engaged.firstFinish {r : Run} {c : RunCtx} (h : Engaged R r.wid i s x t) :
    ∃ n m, Engaged R r.wid i s { x with noticed := n, missed := m } (t.firstFinish r c i) := by
  unfold State.firstFinish
  split
  · split
    · exact ⟨_, _, h⟩
    · extract_lets miss v
      have k : Engaged R r.wid i s { x with noticed := true, missed := miss } v :=
        Engaged.updInst (f := fun x => { x with noticed := true, missed := miss }) h
      exact ⟨_, _, k.bump.ite k⟩
  · exact ⟨_, _, h⟩

theorem Engaged.thdEntry {die part dig : Nat} (h : Engaged R wid i s x t) : Engaged R wid i s x (t.thdEntry die part dig).2 := by
  unfold State.thdEntry
  dsimp only
  split
  · exact h
  · split
    · exact h.same
    · split
      exacts [h, Engaged.emit h.same]

theorem Engaged.offerCheck {r : Run} {die pos bytes : Nat} {pairs : List (Word × DWord)} (h : Engaged R wid i s x t) :
    Engaged R wid i s x (t.offerCheck r die pos bytes pairs) := by
  unfold State.offerCheck
  dsimp only
  split
  · exact h
  · split
    · exact h.thdEntry.same
    · exact h.thdEntry.same.ite h.same

/-- A tile that finishes drains; no other tile moves (R105). -/
theorem Engaged.finishTile {r : Run} {c : RunCtx} {pos : Nat} {ds : List Nat} {q : AccTile} {byStep : Bool} (h : Engaged R r.wid i s x t) :
    ∃ n m, Engaged R r.wid i s { x.finished { q with pos := pos, digits := ds } with noticed := n, missed := m }
      (t.finishTile r c i pos ds q byStep) := by
  have drains : Engaged R r.wid i s (x.finished { q with pos := pos, digits := ds })
      (t.updInst r.wid i fun x => x.finished { q with pos := pos, digits := ds }) :=
    Engaged.updInst (f := fun x => x.finished { q with pos := pos, digits := ds }) h
  obtain ⟨n, m, k⟩ := drains.firstFinish (c := c)
  exact ⟨n, m, Engaged.ite k.offerCheck k⟩

/-- Notices that leave an engine move nothing but the list of them (R135). -/
theorem State.sendNotices_eq (t : State) (i n : Nat) :
    t.sendNotices i n = { t with eng := { t.eng with notices := (t.sendNotices i n).eng.notices } } := by
  induction n generalizing t with
  | zero => rfl
  | succ n ih =>
    rw [State.sendNotices]
    split
    · rfl
    · rw [ih]

theorem Engaged.sendNotices {n : Nat} (h : Engaged R wid i s x t) : Engaged R wid i s x (t.sendNotices i n) := by
  rw [State.sendNotices_eq]
  exact h.same

theorem Engaged.sendNotice {r : Run} {c : RunCtx} {j pos : Nat} {ds : List Nat} {l : List (Nat × Nat)} (h : Engaged R wid i s x t) :
    Engaged R wid i s x (t.sendNotice r c j pos ds l) := by
  unfold State.sendNotice
  split
  exacts [h.ite h.same, h]

/-- The run and the part that instOf speaks of. -/
theorem State.instOf_eq_some : t.instOf wid i = some x ↔
    ∃ r, ((t.run wid).bind fun r => (runInst r i).map fun x => (r, x)) = some (r, x) := by
  unfold State.instOf
  cases t.run wid with
  | none => simp
  | some r => simp

/-- An engine with a position or a tile left goes on with its part (R135). -/
theorem State.mxeEnd_of_work (h : (t.sendNotices i t.eng.notices.length).instOf wid i = some x) (work : x.pos < x.hi ∨ x.tiles ≠ []) :
    t.mxeEnd wid i = t.sendNotices i t.eng.notices.length := by
  obtain ⟨r, e⟩ := State.instOf_eq_some.1 h
  have busy : (decide (x.pos < x.hi) || !x.tiles.isEmpty) = true := by simpa using work
  unfold State.mxeEnd
  dsimp only
  rw [e]
  simp only [busy, Bool.true_or, if_true]

theorem Engaged.mxeEnd (h : Engaged R wid i s x t) (work : x.pos < x.hi ∨ x.tiles ≠ []) : Engaged R wid i s x (t.mxeEnd wid i) := by
  have sent := h.sendNotices (n := t.eng.notices.length)
  rw [State.mxeEnd_of_work sent.inst work]
  exact sent

/-- A vector or convolution engine with a position left goes on with its part. -/
theorem State.vecEnd_of_work {k : EngKind} (h : t.instOf wid i = some x) (work : x.pos < x.hi) : t.vecEnd wid k i = t := by
  obtain ⟨r, e⟩ := State.instOf_eq_some.1 h
  unfold State.vecEnd
  rw [e]
  simp only [work, decide_true, Bool.true_or, if_true]

end

/-! ### A step that is executed -/

section

variable {inst cycles ns : Nat} {s : State} {r : Run} {x : RunInst} {w : Wb} {t : AccTile}

/-- A step whose operands are in place and clean adds its products to its tile, which drains when the step finishes it (R105, R113). -/
theorem State.mxeRun_of_clean (runs : s.runOn .mxe inst = some (r, x)) {c : RunCtx} {ds : List Nat} (dense : ttSparse c.ls = false)
    (clean : s.cleanAll (some (dieOf .mxe inst)) (natRanges (stepRanges c ds))) (fills : t.draining = false) :
    ∃ x' : RunInst, Engaged none r.wid inst s x' (s.mxeRun r x c w ds t cycles ns ⟨[], [], []⟩) ∧ x'.pos = x.pos + 1
      ∧ (∃ t' ∈ x'.tiles, t'.key = t.key ∧ t'.draining = finishesTile c.h c.ls c.counts ds ∧ t'.poison = t.poison
          ∧ t'.vals = accumulate c t.vals ((rowsOf c ds 1).map (s.mxeRow c ds (dieOf .mxe inst).2 0))
            ((rowsOf c ds 2).map (s.mxeRow c ds (dieOf .mxe inst).2 1)))
      ∧ ∀ y ∈ x.tiles, y.draining = true ∨ y.key ≠ t.key → y ∈ x'.tiles := by
  obtain ⟨part, rfl⟩ := State.instOf_of_runOn runs
  obtain ⟨views, clean⟩ := clean
  obtain ⟨p, ok, ready⟩ := State.prepareFor_of_runOn (.inl rfl) runs (key := 2 * x.inst) (by omega) (reads := natRanges (stepRanges c ds)) (writes := []) views
    (fun y hy => (clean y (by simpa using hy)).2.1)
  rw [List.append_nil] at ready
  unfold State.mxeRun
  extract_lets i die reads pos take n bytes
  rw [ok]
  simp -zeta only [Bool.not_true, Bool.false_eq_true, if_false]
  extract_lets s2 bad rows cols ar br prods refs q s3 s4 s5 outl s6 s7
  have still : s2.Ready reads := ready
  have unspoilt : bad = false := by
    have := still.anyBad fun y hy => (clean y hy).2.2
    simp [bad, this, Marks.sramUe]
  have k3 : Engaged none r.wid x.inst s (x.withTile q) s3 :=
    Engaged.putTile (Engaged.runReads ((Engaged.refl part).same) views)
  have k5 : Engaged none r.wid x.inst s (x.withTile q) s5 := (k3.foldl fun _ _ _ h => h.noteQuant).foldl fun _ _ _ h => h.noteLane
  have k7 := (k5.bump (off := rMxeOutliers i) (n := outl)).bump64 (off := stepsReg .mxe i) (n := 1) |>.bump64 (off := cycReg .mxe i) (n := cycles)
    |>.chargeWb (n := r.wid) (ns := ns) |>.advancePos (y := x) dense rfl
  have poison : q.poison = t.poison := by simp [q, unspoilt]
  have other {y : AccTile} (hy : y ∈ x.tiles) (h : y.draining = true ∨ y.key ≠ t.key) : y ∈ (x.withTile q).tiles :=
    RunInst.mem_withTile_of_other hy h
  split
  · rename_i finishes
    obtain ⟨n, m, k⟩ := k7.finishTile (c := c) (pos := x.pos) (ds := ds) (q := q) (byStep := true)
    exact ⟨_, k, rfl, ⟨_, List.mem_append_right _ (List.mem_singleton_self _), rfl, finishes.symm, poison, rfl⟩,
      fun y hy h => RunInst.mem_finished_of_other (x := { x.withTile q with pos := x.pos + 1, outer := x.outer }) (other hy h) h⟩
  · rename_i more
    exact ⟨_, k7, rfl, ⟨q, x.mem_withTile q, rfl, by rw [Bool.eq_false_iff.2 more]; exact fills, poison, rfl⟩, fun y hy h => other hy h⟩

/-- MXE_STEP of a position that is not skipped, for which the ACC has a tile (R98, R103). -/
theorem mxeStepStep_of_step {m : Marks} (here : s.atStep .mxe inst r x w) (free : (ctxOf r).h.lap ≠ 0 ∨ ∀ t ∈ x.tiles, t.draining = false)
    (runs : skips (ctxOf r) (digs (ctxOf r) x.pos) = false) (tile : tileFor (ctxOf r) x (digs (ctxOf r) x.pos) = some t) :
    mxeStepStep inst cycles ns m s = (s.mxeRun r x (ctxOf r) w (digs (ctxOf r) x.pos) t cycles ns m).mxeEnd r.wid inst := by
  obtain ⟨on, entry, dense, left⟩ := here
  have acc : ((ctxOf r).h.lap = 0 && x.tiles.any fun t => t.draining) = false := by
    rcases free with lap | all
    · simp [lap]
    · simpa using fun _ => all
  simp only [mxeStepStep, on, entry, acc, dense, runs, tile, Bool.false_and, Bool.false_eq_true, if_false, Nat.not_le.2 left]

end

/-! ### A step that is skipped -/

section

variable {k : EngKind} {inst cycles ns : Nat} {s : State} {r : Run} {x : RunInst} {w : Wb}

/-- What a skipped step comes to: the skip is counted, and the engine is at its next position (R98). -/
def State.skipping (s : State) (k : EngKind) (wid inst : Nat) (x : RunInst) : State :=
  (s.bump64 (skipsReg k inst) 1).updInst wid inst fun y => { y with pos := y.pos + 1, outer := x.outer }

/-- With no intent of its Waybill an engine that goes on drops none (R272). -/
theorem State.advancePos_of_noIntent {c : RunCtx} (dense : ttSparse c.ls = false) (intents : ∀ y ∈ s.place.intents, y.wid ≠ r.wid) (n : Nat)
    (off : Nat) : (s.bump64 off n).advancePos r.wid x c
      = (s.bump64 off n).updInst r.wid x.inst fun y => { y with pos := y.pos + 1, outer := x.outer } := by
  have idle : (s.place.intents.filter fun y => decide (y.wid = r.wid ∧ y.inst = x.inst ∧ y.due ≤ x.pos + 1)) = [] :=
    List.filter_eq_nil_iff.2 fun y hy => by simp [intents y hy]
  unfold State.advancePos
  simp only [dense, Bool.false_eq_true, if_false]
  unfold State.arrive
  dsimp only
  exact if_pos (by rw [List.isEmpty_iff]; exact idle)

/-- A skipped step moves the engine's position and its counter, and of an MXE the notices that leave it. -/
theorem State.skipping_spec (runs : s.runOn k inst = some (r, x)) (wf : s.regsWf) (notices : List TileNotice) :
    let u := s.skipping k r.wid inst x
    let t := ({ u with eng := { u.eng with notices := notices } } : State).served
    t = { s.served with regs := t.regs, eng := t.eng } ∧ t.instOf r.wid inst = some { x with pos := x.pos + 1 }
      ∧ t.reg64 (skipsReg k inst) = (s.reg64 (skipsReg k inst) + 1) % 2 ^ 64
      ∧ ∀ off, off ≠ skipsReg k inst → off ≠ skipsReg k inst + 4 → t.reg off = s.reg off := by
  obtain ⟨part, rfl⟩ := State.instOf_of_runOn runs
  refine ⟨rfl, ?_, State.reg64_bump64 wf _ _, fun off low high => State.reg_setReg64_other wf low high⟩
  have moved := State.instOf_updInst (s.bump64 (skipsReg k x.inst) 1) r.wid x.inst
    (f := fun y => { y with pos := y.pos + 1, outer := x.outer }) (fun _ => rfl)
  rw [show (s.bump64 (skipsReg k x.inst) 1).instOf r.wid x.inst = some x from part] at moved
  exact moved

variable (here : s.atStep k inst r x w) (more : x.pos + 1 < x.hi) (skip : skips (ctxOf r) (digs (ctxOf r) x.pos) = true)
  (unfinished : finishesTile (ctxOf r).h (ctxOf r).ls (ctxOf r).counts (digs (ctxOf r) x.pos) = false)
  (intents : ∀ y ∈ s.place.intents, y.wid ≠ r.wid)

include here in
/-- An engine whose step was skipped is at its next position. -/
theorem State.instOf_skipping : (s.skipping k r.wid inst x).instOf r.wid inst = some { x with pos := x.pos + 1 } := by
  have part : (s.bump64 (skipsReg k inst) 1).instOf r.wid inst = some x := (State.instOf_of_runOn here.1).1
  refine (State.instOf_updInst _ _ _ (fun _ => by rfl)).trans ?_
  rw [part]
  rfl

include here more skip unfinished intents

theorem mxeStepStep_of_skip (hk : k = .mxe) (fills : ∀ t ∈ x.tiles, t.draining = false) (m : Marks) :
    mxeStepStep inst cycles ns m s = (s.skipping k r.wid inst x).sendNotices inst s.eng.notices.length := by
  subst hk
  have next := State.instOf_skipping here
  obtain ⟨on, entry, dense, left⟩ := here
  obtain ⟨-, rfl⟩ := State.instOf_of_runOn on
  have acc : ((ctxOf r).h.lap = 0 && x.tiles.any fun t => t.draining) = false := by simpa using fun _ => fills
  have skipped : s.mxeSkip r x (ctxOf r) (digs (ctxOf r) x.pos) = s.skipping .mxe r.wid x.inst x := by
    simp only [State.mxeSkip, unfinished, Bool.false_and, Bool.false_eq_true, if_false]
    exact State.advancePos_of_noIntent dense intents 1 _
  have sent : ((s.skipping .mxe r.wid x.inst x).sendNotices x.inst s.eng.notices.length).instOf r.wid x.inst = some { x with pos := x.pos + 1 } := by
    rw [State.sendNotices_eq]
    exact next
  simp only [mxeStepStep, on, entry, acc, dense, skip, skipped, Bool.false_and, Bool.false_eq_true, if_false, if_true, Nat.not_le.2 left]
  exact State.mxeEnd_of_work sent (.inl more)

theorem vxeStepStep_of_skip (hk : k = .vxe) (m : Marks) : vxeStepStep inst cycles ns m s = s.skipping k r.wid inst x := by
  subst hk
  have next := State.instOf_skipping here
  obtain ⟨on, entry, dense, left⟩ := here
  obtain ⟨-, rfl⟩ := State.instOf_of_runOn on
  simp only [vxeStepStep, on, entry, dense, skip, unfinished, Bool.false_and, Bool.or_self, Bool.not_true, Bool.false_eq_true, if_false, Nat.not_le.2 left,
    State.advancePos_of_noIntent dense intents]
  exact State.vecEnd_of_work next more

theorem cveStepStep_of_skip (hk : k = .cve) (m : Marks) : cveStepStep inst cycles ns m s = s.skipping k r.wid inst x := by
  subst hk
  have next := State.instOf_skipping here
  obtain ⟨on, entry, dense, left⟩ := here
  obtain ⟨-, rfl⟩ := State.instOf_of_runOn on
  simp only [cveStepStep, on, entry, skip, unfinished, Bool.false_and, Bool.or_self, Bool.not_true, Bool.false_eq_true, if_false, Nat.not_le.2 left,
    State.advancePos_of_noIntent dense intents]
  exact State.vecEnd_of_work next more

end

/-! ### Notices -/

section

variable {inst : Nat} {s : State} {n : TileNotice}

/-- A notice is no longer on its way (R135). -/
def State.withoutNotice (s : State) (n : TileNotice) : State := { s with eng := { s.eng with notices := s.eng.notices.filter fun y => y ≠ n } }

/-- A notice that no collective is open for, or that meets a fenced die on its way, is dropped (R136, R519). -/
theorem tileNoticeStep_of_lost (next : s.nextNotice inst = some n)
    (lost : ∀ c, s.openColl n.part n.coll = some c → s.routeOut (dieOf .mxe inst) (3, c.cle) = true) :
    tileNoticeStep inst s = s.withoutNotice n := by
  have same : (s.withoutNotice n).openColl n.part n.coll = s.openColl n.part n.coll := rfl
  unfold tileNoticeStep
  rw [next]
  change (match (s.withoutNotice n).openColl n.part n.coll with | none => _ | some c => _) = _
  rw [same]
  cases e : s.openColl n.part n.coll with
  | none => rfl
  | some c =>
    have out : (s.withoutNotice n).routeOut (dieOf .mxe inst) (3, c.cle) = true := lost c e
    exact if_neg (c := (!(s.withoutNotice n).routeOut (dieOf .mxe inst) (3, c.cle)) = true) (by rw [out]; decide)

/-- Byte ranges are marked ready in a collective (R348). -/
def State.markReady (s : State) (wid : Nat) (l : List (Nat × Nat)) : State :=
  { s with colls := { s.colls with list := updIf (fun (d : Coll) => decide (d.wid = wid)) (fun (d : Coll) => { d with ready := d.ready ++ l }) s.colls.list } }

/-- A notice that arrives marks its ranges ready in the open collective of its handle (R348). -/
theorem tileNoticeStep_of_open {c : Coll} (next : s.nextNotice inst = some n) (opened : s.openColl n.part n.coll = some c)
    (way : s.routeOut (dieOf .mxe inst) (3, c.cle) = false) :
    tileNoticeStep inst s = ((s.withoutNotice n).markReady c.wid n.ranges).pumpColls := by
  have opened' : (s.withoutNotice n).openColl n.part n.coll = some c := opened
  have way' : (s.withoutNotice n).routeOut (dieOf .mxe inst) (3, c.cle) = false := way
  unfold tileNoticeStep
  rw [next]
  change (match (s.withoutNotice n).openColl n.part n.coll with | none => _ | some c => _) = _
  rw [opened']
  exact if_pos (c := (!(s.withoutNotice n).routeOut (dieOf .mxe inst) (3, c.cle)) = true) (by rw [way']; rfl)

end

end Sys2Proof.Machine
end

section
/-! What a finished tile writes: its rows, their statistics, and nothing else (R105, R125 to R132, R134, R139). -/

namespace Sys2Proof.Machine

open Sys2Proof

/-! ### The statistics of a row -/

/-- The slots that an operation records statistics in (R129, R200). -/
def opSlots (o : EpiOp) : List Nat :=
  if isStatOp o.op then [o.arg] else if o.op = 0x20 && o.arg = 1 then [0, 1] else []

theorem mem_putStat {l : List (Nat × Word)} {slot : Nat} {v : Option Word} {p : Nat × Word} (h : p ∈ putStat l slot v) :
    p ∈ l ∨ p.1 = slot := by
  unfold putStat at h
  split at h
  · exact .inl h
  · rcases List.mem_append.1 h with old | new
    · exact .inl (List.mem_of_mem_filter old)
    · exact .inr (by rw [List.mem_singleton.1 new])

/-- An operation records no statistic outside its slots. -/
theorem mem_stats_rowOp {i : RowIn} {s : RowSt} {o : EpiOp} {p : Nat × Word} (h : p ∈ (rowOp i s o).stats) :
    p ∈ s.stats ∨ p.1 ∈ opSlots o := by
  unfold rowOp at h
  unfold opSlots isStatOp
  split at h
  case h_7 e => exact (mem_putStat h).imp_right fun slot => by simp [e, slot]
  case h_9 e => exact (mem_putStat h).imp_right fun slot => by simp [e, slot]
  case h_12 e =>
    split at h
    · exact .inl h
    · dsimp only at h
      split at h
      · rename_i arg
        rcases mem_putStat h with h | slot
        · exact (mem_putStat h).imp_right fun slot => by simp [e, arg, slot]
        · exact .inr (by simp [e, arg, slot])
      · exact .inl h
  all_goals exact .inl h

/-- An operation sets a channel index only when it looks for one. -/
theorem arg_rowOp {i : RowIn} {s : RowSt} {o : EpiOp} (h : (rowOp i s o).arg.isSome = true) : s.arg.isSome = true ∨ o.op = 0x40 := by
  unfold rowOp at h
  split at h
  case h_15 e => exact .inr e
  case h_12 e =>
    split at h
    exacts [.inl h, .inl h]
  all_goals exact .inl h

/-- A program records statistics in the slots of its operations only, and a channel index only when one of them looks for it. -/
theorem rowRun_spec (i : RowIn) (ops : List EpiOp) (xs : List (Option Word)) :
    (∀ p ∈ (rowRun i ops xs).stats, p.1 ∈ ops.flatMap opSlots) ∧ ((rowRun i ops xs).arg.isSome = true → ∃ o ∈ ops, o.op = 0x40) := by
  have fold (l : List EpiOp) (s : RowSt) : (∀ p ∈ (l.foldl (rowOp i) s).stats, p ∈ s.stats ∨ p.1 ∈ l.flatMap opSlots)
      ∧ ((l.foldl (rowOp i) s).arg.isSome = true → s.arg.isSome = true ∨ ∃ o ∈ l, o.op = 0x40) := by
    induction l generalizing s with
    | nil => exact ⟨fun p hp => .inl hp, fun h => .inl h⟩
    | cons o l ih =>
      obtain ⟨stats, arg⟩ := ih (rowOp i s o)
      refine ⟨fun p hp => ?_, fun h => ?_⟩
      · rw [List.flatMap_cons, List.mem_append]
        rcases stats p hp with now | later
        · exact (mem_stats_rowOp now).imp_right .inl
        · exact .inr (.inr later)
      · rcases arg h with now | ⟨o', ho, op⟩
        · exact (arg_rowOp now).imp_right fun op => ⟨o, List.mem_cons_self, op⟩
        · exact .inr ⟨o', List.mem_cons_of_mem o ho, op⟩
  obtain ⟨stats, arg⟩ := fold ops { xs := xs, rmax := none, mean := 0, rstd := 0, stats := [], clamps := 0, arg := none }
  exact ⟨fun p hp => (stats p hp).resolve_left (fun h => nomatch h), fun h => (arg h).resolve_left (fun h => nomatch h)⟩

theorem mem_statSlots {c : RunCtx} (h : c.h.engine ≠ 3) {k : Nat} : k ∈ statSlots c ↔ k ∈ (progOf c).flatMap opSlots := by
  unfold statSlots
  rw [if_neg h, List.mem_eraseDups]
  exact Iff.rfl

/-- A row's statistics lie in slots of its program. -/
def RowWrite.Proper (c : RunCtx) (ds : List Nat) (o : RowWrite) : Prop := o.row ∈ rowsOf c ds 1 ∧ ∀ p ∈ o.st, p.1 ∈ statSlots c

/-- Where no statistics are recorded, a row has none. -/
theorem RowWrite.Proper.bare {c : RunCtx} {ds : List Nat} {o : RowWrite} (proper : o.Proper c ds) (stats : statSlots c = []) : o.st = [] :=
  List.eq_nil_iff_forall_not_mem.2 fun p hp => by
    have slot := proper.2 p hp
    rw [stats] at slot
    exact nomatch slot

/-- What is free of a row is in the slots that it had (R139). -/
theorem State.freeRow_spec (s : State) (c : RunCtx) (d : RowDep) (o : RowSt) :
    (∀ p ∈ (s.freeRow c d o).1.stats, ∃ q ∈ o.stats, q.1 = p.1) ∧ ((s.freeRow c d o).1.arg.isSome = true → o.arg.isSome = true) := by
  unfold State.freeRow
  refine ⟨fun p hp => ?_, fun h => ?_⟩
  · obtain ⟨q, hq, rfl⟩ := List.mem_map.1 hp
    exact ⟨q, hq, by split <;> rfl⟩
  · dsimp only at h
    split at h
    · simpa using h
    · exact h

theorem convertRow_proper {c : RunCtx} {ds : List Nat} {shift row n : Nat} {i : RowIn} {xs : List (Option Word)} {o : RowSt}
    (engine : c.h.engine ≠ 3) (hrow : row ∈ rowsOf c ds 1) (ho : ∀ p ∈ o.stats, ∃ q ∈ (rowRun i (progOf c) xs).stats, q.1 = p.1) :
    (convertRow c ds shift row n o).Proper c ds := by
  refine ⟨hrow, fun p hp => ?_⟩
  obtain ⟨q, hq, e⟩ := ho p hp
  exact (mem_statSlots engine).2 (e ▸ (rowRun_spec i (progOf c) xs).1 q hq)

/-! ### Ranges of what is written -/

theorem outside_natRanges {l : List (Int × Nat)} {b : Nat} : outside (natRanges l) b ↔ ∀ x ∈ l, b < x.1.toNat ∨ x.1.toNat + x.2 ≤ b := by
  unfold outside natRanges
  constructor
  · intro h x hx
    by_cases some : x.2 = 0
    · omega
    · exact h _ (List.mem_map_of_mem (List.mem_filter.2 ⟨hx, by simpa using some⟩))
  · intro h y hy
    obtain ⟨x, hx, rfl⟩ := List.mem_map.1 hy
    exact h x (List.mem_of_mem_filter hx)

/-- What is outside all that a tile writes is outside its C, and outside its statistics. -/
theorem outside_tile {c : RunCtx} {ds : List Nat} {b : Nat} (h : outside (natRanges (tileC c ds ++ tileStats c ds)) b) :
    (∀ x ∈ tileC c ds, b < x.1.toNat ∨ x.1.toNat + x.2 ≤ b) ∧ ∀ x ∈ tileStats c ds, b < x.1.toNat ∨ x.1.toNat + x.2 ≤ b := by
  rw [outside_natRanges] at h
  exact ⟨fun x hx => h x (List.mem_append_left _ hx), fun x hx => h x (List.mem_append_right _ hx)⟩

/-- The elements of a row of C that a tile writes (R97, R183). -/
def RunCtx.rowLen (c : RunCtx) (ds : List Nat) : Nat := if c.h.engine = 2 then c.h.tn else liveOf c ds 2

theorem outside_atRow {c : RunCtx} {ds : List Nat} {b row : Nat} (engine : c.h.engine ≠ 3) (hrow : row ∈ rowsOf c ds 1)
    (h : outside (natRanges (tileC c ds ++ tileStats c ds)) b) : outside (atRow c ds 2 row (c.rowLen ds)) b := by
  intro y hy
  obtain ⟨x, hx, rfl⟩ := List.mem_map.1 hy
  refine (outside_tile h).1 x ?_
  unfold tileC
  rw [if_neg engine]
  exact List.mem_flatMap.2 ⟨row, hrow, hx⟩

theorem within_statAddr {c : RunCtx} {ds : List Nat} {row slot : Nat} (engine : c.h.engine ≠ 3) (hrow : row ∈ rowsOf c ds 1)
    (hslot : slot ∈ statSlots c) (v : Nat) :
    Within (natRanges (tileC c ds ++ tileStats c ds)) (statAddr c ds row slot).toNat (leBytes 4 v).length := by
  intro b h
  rw [leBytes_length]
  refine (outside_tile h).2 (statAddr c ds row slot, 4) ?_
  unfold tileStats
  rw [if_neg engine]
  exact List.mem_flatMap.2 ⟨row, hrow, List.mem_map_of_mem hslot⟩

/-! ### The rows of a tile -/

section

variable {R : Option (List (Nat × Nat))} {wid i : Nat} {s t : State} {x : RunInst} {r : Run} {c : RunCtx} {ds : List Nat}

/-- The rows of a tile and their statistics are written where they lie, and counted (R105, R129, R132). -/
theorem Engaged.writeRows {k : EngKind} {j : Nat} {poison : Bool} {rows : List RowWrite} (engine : c.h.engine ≠ 3)
    (h : Engaged (some (natRanges (tileC c ds ++ tileStats c ds))) wid i s x t) (proper : ∀ o ∈ rows, o.Proper c ds) :
    Engaged (some (natRanges (tileC c ds ++ tileStats c ds))) wid i s x (t.writeRows r c k j ds poison rows) := by
  unfold State.writeRows
  refine h.foldl fun v o ho h => ?_
  obtain ⟨hrow, slots⟩ := proper o ho
  have written := ((h.runWriteRow (n := r.wid) (bs := o.c) (bad := foreign c r.addr ds) (poison := poison)
    fun b hb => outside_atRow engine hrow hb).foldl (l := o.st) fun v p hp h =>
      h.writeBytes (n := r.wid) (poison := poison) (within_statAddr engine hrow (slots p hp) p.2.toNat)).noteQuant
        (n := r.wid) (die := (dieOf k j).2) (part := r.part) (q := o.q)
  exact written.ite written.bump.updRun

theorem State.noteQuant_mem (t : State) (n die part : Nat) (q : QCount) : (t.noteQuant n die part q).mem = t.mem := by
  unfold State.noteQuant
  split <;> rfl

/-- The range of a row is ready when all that its tile writes is. -/
theorem State.Ready.row {a n row : Nat} (h : s.Ready (natRanges (tileC c ds ++ tileStats c ds))) (engine : c.h.engine ≠ 3)
    (hrow : row ∈ rowsOf c ds 1) (one : atRow c ds 2 row (c.rowLen ds) = [(a, n)]) : s.Ready [(a, n)] := by
  refine ⟨h.1, fun y hy => ?_⟩
  rw [List.mem_singleton.1 hy]
  by_cases empty : n = 0
  · subst empty
    exact fun p hp => nomatch hp
  · obtain ⟨z, hz, e⟩ := List.mem_map.1 (show (a, n) ∈ atRow c ds 2 row (c.rowLen ds) by rw [one]; exact List.mem_singleton_self _)
    refine h.2 (a, n) ?_
    rw [← e]
    refine List.mem_map_of_mem (List.mem_filter.2 ⟨List.mem_append_left _ ?_, by cases e; simpa using empty⟩)
    unfold tileC
    rw [if_neg engine]
    exact List.mem_flatMap.2 ⟨row, hrow, hz⟩

/-- A single row without statistics, in one ready range and nowhere unspecified, is read back as written (R105). -/
theorem State.memRead_writeRows {k : EngKind} {j a n : Nat} {o : RowWrite} (ready : s.Ready [(a, n)]) (wf : Memory.wf s.mem = true)
    (own : foreign c r.addr ds = []) (stats : o.st = []) (row : atRow c ds 2 o.row (c.rowLen ds) = [(a, n)]) (len : o.c.length = n) :
    (s.writeRows r c k j ds false [o]).memRead a n = o.c := by
  subst len
  have mem : (s.writeRows r c k j ds false [o]).mem = (s.writeBytes r.wid a o.c false).2.mem := by
    have one : s.runWriteRow r.wid [(a, o.c.length)] o.c [] false = (s.writeBytes r.wid a o.c false).2 := by
      simp [State.runWriteRow, joinRanges, State.runWrite]
    have row' : atRow c ds 2 o.row (if c.h.engine = 2 then c.h.tn else liveOf c ds 2) = [(a, o.c.length)] := row
    unfold State.writeRows
    simp only [own, row', one, stats, List.foldl_cons, List.foldl_nil]
    split
    · exact State.noteQuant_mem _ _ _ _ _
    · exact State.noteQuant_mem _ _ _ _ _
  exact (congrArg (sgetMany memReset · a o.c.length) mem).trans (State.memRead_writeBytes ready wf)

/-! ### The drain of a tile of a matrix engine -/

/-- The epilogue of a row draws free values at most, and its statistics are its program's (R125 to R131, R139). -/
theorem Engaged.mxeEpiRow {z : RunInst} {q : AccTile} {die row : Nat} (engine : c.h.engine ≠ 3) (hrow : row ∈ rowsOf c q.digits 1)
    (h : Engaged R wid i s x t) :
    Engaged R wid i s x (t.mxeEpiRow r z c q die row).2 ∧ (t.mxeEpiRow r z c q die row).1.Proper c q.digits := by
  unfold State.mxeEpiRow
  dsimp only
  split
  · exact ⟨h, convertRow_proper engine hrow fun p hp => ⟨p, hp, rfl⟩⟩
  · exact ⟨h.same, convertRow_proper engine hrow (State.freeRow_spec _ _ _ _).1⟩

/-- The rows of a tile through the epilogue, one after another. -/
def mxeEpiRows (r : Run) (z : RunInst) (c : RunCtx) (q : AccTile) (die : Nat) (p : List RowWrite × State) (rows : List Nat) :
    List RowWrite × State :=
  rows.foldl (fun p row =>
    let (o, s) := p.2.mxeEpiRow r z c q die row
    (p.1 ++ [o], s)) p

theorem Engaged.mxeEpiRows {z : RunInst} {q : AccTile} {die : Nat} (engine : c.h.engine ≠ 3) (h : Engaged R wid i s x t) :
    Engaged R wid i s x (Machine.mxeEpiRows r z c q die ([], t) (rowsOf c q.digits 1)).2
      ∧ ∀ o ∈ (Machine.mxeEpiRows r z c q die ([], t) (rowsOf c q.digits 1)).1, o.Proper c q.digits :=
  Engaged.foldlWith (fun p : List RowWrite × State => p.2) (fun p => p.1) h (fun _ h => nomatch h) fun v k hk h => by
    obtain ⟨h', proper⟩ := h.mxeEpiRow (r := r) (z := z) (die := die) engine hk
    exact ⟨h', _, proper, rfl⟩

/-- The rows of a tile that no rewritten memory enters are its programs' rows, and draw nothing (R139). -/
theorem State.mxeEpiRow_of_clean {z : RunInst} {q : AccTile} {die row : Nat} (clean : r.dirty = []) (noD : usesD c = false) :
    let n := liveOf c q.digits 2
    let xs := (((chunksOf c.h.tn c.h.tm q.vals).getD row []).take n).map some ++ List.replicate (c.h.tn - n) none
    s.mxeEpiRow r z c q die row = (convertRow c q.digits (c.shift die) row n
      (rowRun { tables := r.tables, d0 := [], d1 := [], b := [], eps := 0, chans := 0 } (progOf c) xs), s) := by
  unfold State.mxeEpiRow
  simp only [noD, clean, List.isEmpty_nil, if_true, Bool.false_eq_true, if_false]

end

/-- What an MXE is after a tile has drained (R105). -/
def RunInst.drained (x : RunInst) (t : AccTile) : RunInst := { x with tiles := x.tiles.filter fun y => !(y.draining && decide (y.key = t.key)) }

/-- What a drain comes to once its rows are written. -/
def State.drainEnd (s : State) (r : Run) (c : RunCtx) (inst cycles ns : Nat) (t : AccTile) : State :=
  (((s.updInst r.wid inst fun x => x.drained t).sendNotice r c inst t.pos t.digits (joinRanges (natRanges (tileC c t.digits)))).bump64
    (cycReg .mxe inst) cycles).chargeWb r.wid ns

theorem Engaged.drainEnd {R : Option (List (Nat × Nat))} {s t : State} {r : Run} {c : RunCtx} {i cycles ns : Nat} {x : RunInst} {q : AccTile}
    (h : Engaged R r.wid i s x t) : Engaged R r.wid i s (x.drained q) (t.drainEnd r c i cycles ns q) :=
  (Engaged.updInst (f := fun x => x.drained q) h).sendNotice.bump64.chargeWb

section

variable {inst cycles ns : Nat} {s : State} {r : Run} {x : RunInst} {w : Wb} {t : AccTile}

/-- An MXE tile without D reads nothing as it drains. -/
theorem tileReads_of_mxe {c : RunCtx} {ds : List Nat} (engine : c.h.engine = 1) (noD : usesD c = false) : tileReads c ds = [] := by
  simp [tileReads, engine, noD]

theorem State.runReads_nil (s : State) (r : Run) (k : EngKind) (i : Nat) : s.runReads r k i [] = s := by
  simp [State.runReads, State.latentUnits, State.viewSlices, State.noteReads]

/-- A drain without D, whose C and statistics are in place, writes its rows and ends (R105, R134). -/
theorem epilogueDrainDoneStep_of_clean (runs : s.runOn .mxe inst = some (r, x)) (entry : s.wb r.wid = some w)
    (drains : x.tiles.find? (fun t => t.draining) = some t) {c : RunCtx} (hc : ctxOf r = c) (engine : c.h.engine = 1) (noD : usesD c = false)
    (clean : s.cleanAll (some (dieOf .mxe inst)) (natRanges (tileC c t.digits ++ tileStats c t.digits))) :
    ∃ (p : Placing) (s2 : State), s2 = { s with place := p, err := { s.err with fresh := [] } }
      ∧ s2.Ready (natRanges (tileC c t.digits ++ tileStats c t.digits))
      ∧ epilogueDrainDoneStep inst cycles ns ⟨[], [], []⟩ s
        = (((mxeEpiRows r x c t (dieOf .mxe inst).2 ([], s2) (rowsOf c t.digits 1)).2.writeRows r c .mxe inst t.digits t.poison
            (mxeEpiRows r x c t (dieOf .mxe inst).2 ([], s2) (rowsOf c t.digits 1)).1).drainEnd r c inst cycles ns t).mxeEnd r.wid inst := by
  subst hc
  obtain ⟨views, clean⟩ := clean
  have join : natRanges (tileC (ctxOf r) t.digits) ++ natRanges (tileStats (ctxOf r) t.digits)
      = natRanges (tileC (ctxOf r) t.digits ++ tileStats (ctxOf r) t.digits) := by simp [natRanges]
  obtain ⟨p, ok, ready⟩ := State.prepareFor_of_runOn (.inl rfl) runs (key := 2 * inst + 1) (by omega) (reads := []) views
    (writes := natRanges (tileC (ctxOf r) t.digits ++ tileStats (ctxOf r) t.digits)) (fun y hy => (clean y hy).2.1)
  refine ⟨p, _, rfl, ready, ?_⟩
  have unread : natRanges (tileReads (ctxOf r) t.digits) = [] := by rw [tileReads_of_mxe engine noD]; rfl
  have unspoilt (v : State) : (t.poison || v.anyBad [] || Marks.sramUe ⟨[], [], []⟩) = t.poison := by simp [State.anyBad, Marks.sramUe]
  have quiet (v : State) : v.noteStepMarks .mxe inst w ⟨[], [], []⟩ = { v with err := { v.err with fresh := [] } } := rfl
  simp only [epilogueDrainDoneStep, runs, entry, drains, unread, join, ok, unspoilt, quiet, State.runReads_nil, Bool.not_true, Bool.false_eq_true, if_false]
  rfl

/-- A tile of one row that no rewritten memory enters leaves at C that row through the program in C's format (R105, R132). -/
theorem State.memRead_drainEnd {c : RunCtx} {k a n : Nat} (ready : s.Ready (natRanges (tileC c t.digits ++ tileStats c t.digits)))
    (wf : Memory.wf s.mem = true) (part : s.instOf r.wid inst = some x) (engine : c.h.engine = 1) (noD : usesD c = false)
    (one : rowsOf c t.digits 1 = [k]) (stats : statSlots c = []) (clean : r.dirty = []) (own : foreign c r.addr t.digits = [])
    (sound : t.poison = false) (row : atRow c t.digits 2 k (liveOf c t.digits 2) = [(a, n)]) :
    let e := mxeEpiRows r x c t (dieOf .mxe inst).2 ([], s) (rowsOf c t.digits 1)
    let acc := (chunksOf c.h.tn c.h.tm t.vals).getD k []
    let xs := (acc.take (liveOf c t.digits 2)).map some ++ List.replicate (c.h.tn - liveOf c t.digits 2) none
    let o := rowRun { tables := r.tables, d0 := [], d1 := [], b := [], eps := 0, chans := 0 } (progOf c) xs
    let bs := (convertRow c t.digits (c.shift (dieOf .mxe inst).2) k (liveOf c t.digits 2) o).c
    bs.length = n → ((e.2.writeRows r c .mxe inst t.digits t.poison e.1).drainEnd r c inst cycles ns t).memRead a n = bs := by
  intro e acc xs o bs len
  have hrow : k ∈ rowsOf c t.digits 1 := one ▸ List.mem_singleton_self k
  have three : c.h.engine ≠ 3 := by omega
  have long : c.rowLen t.digits = liveOf c t.digits 2 := if_neg (by omega)
  have he : e = ([convertRow c t.digits (c.shift (dieOf .mxe inst).2) k (liveOf c t.digits 2) o], s) := by
    simp only [e, one, mxeEpiRows, List.foldl_cons, List.foldl_nil, State.mxeEpiRow_of_clean clean noD, List.nil_append]
    rfl
  have proper : (convertRow c t.digits (c.shift (dieOf .mxe inst).2) k (liveOf c t.digits 2) o).Proper c t.digits :=
    convertRow_proper three hrow fun p hp => ⟨p, hp, rfl⟩
  have row' : atRow c t.digits 2 k (c.rowLen t.digits) = [(a, n)] := by rw [long]; exact row
  have read := State.memRead_writeRows (k := .mxe) (j := inst) (r := r) (o := convertRow c t.digits (c.shift (dieOf .mxe inst).2) k (liveOf c t.digits 2) o)
    (ready.row three hrow row') wf own (proper.bare stats) row' len
  have written : Engaged (some (natRanges (tileC c t.digits ++ tileStats c t.digits))) r.wid inst s x
      (s.writeRows r c .mxe inst t.digits false [convertRow c t.digits (c.shift (dieOf .mxe inst).2) k (liveOf c t.digits 2) o]) :=
    (Engaged.refl part).writeRows three fun p hp => List.mem_singleton.1 hp ▸ proper
  have rest : Engaged none r.wid inst _ _ (State.drainEnd _ r c inst cycles ns t) := (Engaged.refl written.inst).drainEnd
  rw [he, sound]
  exact (congrArg (sgetMany memReset · a n) rest.mem.1).trans read

end

/-- Settles O41: a step, a drain and a notice, each by what its command comes to. -/
theorem mxeStepsAndDrains : Obligations.MxeStepsAndDrains := by
  unfold Obligations.MxeStepsAndDrains
  refine ⟨?_, ?_, ?_⟩
  · intro inst cycles ns s r x w here c ds row free goes clean t tile
    obtain ⟨x', work, pos, ⟨t', mem, tile'⟩, others⟩ := State.mxeRun_of_clean (w := w) (cycles := cycles) (ns := ns) here.1 here.2.2.1 clean (tileFor_spec tile)
    have ended := (work.mxeEnd (.inr (List.ne_nil_of_mem mem))).served
    have run : exec (.mxeStep inst cycles ns ⟨[], [], []⟩) s = .next (mxeStepStep inst cycles ns ⟨[], [], []⟩ s).served := rfl
    rw [mxeStepStep_of_step here free goes tile] at run
    have only := ended.only
    rw [ended.mem.1, ended.mem.2] at only
    exact ⟨_, x', run, only, ended.inst, pos, ⟨t', mem, tile'⟩, others⟩
  · intro inst cycles ns s r x w t runs entry drains c ds engine noD clean wf
    obtain ⟨p, s2, hs2, ready, step⟩ := epilogueDrainDoneStep_of_clean (cycles := cycles) (ns := ns) runs entry drains (c := c) rfl engine noD clean
    have run : exec (.epilogueDrainDone inst cycles ns ⟨[], [], []⟩) s = .next (epilogueDrainDoneStep inst cycles ns ⟨[], [], []⟩ s).served := rfl
    rw [step] at run
    have three : c.h.engine ≠ 3 := by omega
    have part : s.instOf r.wid inst = some x := (State.instOf_of_runOn runs).1
    have begun : Engaged (some (natRanges (tileC c ds ++ tileStats c ds))) r.wid inst s x s2 := hs2 ▸ (Engaged.refl part).same
    obtain ⟨rows, proper⟩ := begun.mxeEpiRows (r := r) (z := x) (die := (dieOf .mxe inst).2) three (q := t)
    have done := (rows.writeRows (r := r) (k := .mxe) (j := inst) (poison := t.poison) three proper).drainEnd (c := c) (cycles := cycles) (ns := ns) (q := t)
    refine ⟨_, run, done.inst, done.only, (done.mem wf).2, fun k a n one stats dirty own sound row => ?_⟩
    have wf2 : Memory.wf s2.mem = true := hs2 ▸ wf
    exact State.memRead_drainEnd ready wf2 begun.inst engine noD one stats dirty own sound row
  · intro inst s n next rest
    refine ⟨fun closed => ?_, fun c opened => ⟨fun out => ?_, fun way => ?_⟩⟩
    · exact congrArg Host.Outcome.next (tileNoticeStep_of_lost next fun c opened => by rw [closed] at opened; cases opened)
    · exact congrArg Host.Outcome.next (tileNoticeStep_of_lost next fun c' opened' => by rw [opened] at opened'; cases opened'; exact out)
    · refine ⟨(s.withoutNotice n).markReady c.wid n.ranges, congrArg Host.Outcome.next (tileNoticeStep_of_open next opened way), rfl, ?_⟩
      simp [State.markReady, State.withoutNotice, updIf]

end Sys2Proof.Machine
end

section
/-! Settles O42, first the vector engines: rows enter a tile, and a finished tile is written and leaves (R105, R187, R200 to R203). -/

namespace Sys2Proof.Machine

open Sys2Proof

/-! ### The tile of a step -/

/-- The tile that a step of a vector or convolution engine works on: the one of its key, or a fresh one (R105, R201). -/
def RunInst.stepTile (x : RunInst) (c : RunCtx) (ds : List Nat) (fresh : AccTile) : AccTile :=
  { (x.tiles.find? fun t => t.key = tileKey c.h c.ls ds).getD fresh with pos := x.pos, digits := ds }

/-- An engine's part of a run without the tile of a key. -/
def RunInst.without (x : RunInst) (t : AccTile) : RunInst := { x with tiles := x.tiles.filter fun y => decide (y.key ≠ t.key) }

section

variable {s : State} {r : Run} {c : RunCtx} {ds : List Nat}

/-- A row that enters a tile moves its values and the running state of its rows (R187, R202). -/
theorem State.vxeEnter_eq (s : State) (r : Run) (c : RunCtx) (ds : List Nat) (t : AccTile) (k : Nat) (a : List Word) :
    s.vxeEnter r c ds t k a
      = { t with vals := (s.vxeEnter r c ds t k a).vals, ms := (s.vxeEnter r c ds t k a).ms, ls := (s.vxeEnter r c ds t k a).ls } := by
  unfold State.vxeEnter
  split <;> rfl

/-- The rows of a step enter its tile (R187). -/
def State.vxeEntered (s : State) (r : Run) (c : RunCtx) (ds : List Nat) (t : AccTile) : AccTile :=
  (rowsOf c ds 1).foldl (fun t j => s.vxeEnter r c ds t j (s.vxeRow c ds 0 j).1) t

theorem State.vxeEntered_eq (s : State) (r : Run) (c : RunCtx) (ds : List Nat) (t : AccTile) :
    s.vxeEntered r c ds t = { t with vals := (s.vxeEntered r c ds t).vals, ms := (s.vxeEntered r c ds t).ms, ls := (s.vxeEntered r c ds t).ls } := by
  have fold (l : List Nat) (f : AccTile → Nat → AccTile) (hf : ∀ t j, f t j = { t with vals := (f t j).vals, ms := (f t j).ms, ls := (f t j).ls })
      (t : AccTile) : l.foldl f t = { t with vals := (l.foldl f t).vals, ms := (l.foldl f t).ms, ls := (l.foldl f t).ls } := by
    induction l generalizing t with
    | nil => rfl
    | cons j l ih =>
      rw [List.foldl_cons, ih, hf t j]
  exact fold _ _ (fun t j => s.vxeEnter_eq r c ds t j _) t

end

/-! ### The end of a vector or convolution step -/

/-- What a step comes to once its tile has been dealt with: counted, charged, and the engine at its next position (R91, R205). -/
def State.stepEnd (s : State) (k : EngKind) (r : Run) (x : RunInst) (c : RunCtx) (cycles ns : Nat) : State :=
  (((s.bump64 (stepsReg k x.inst) 1).bump64 (cycReg k x.inst) cycles).chargeWb r.wid ns).advancePos r.wid x c

section

variable {R : Option (List (Nat × Nat))} {wid i : Nat} {s t : State} {x y : RunInst} {r : Run} {c : RunCtx} {k : EngKind}

theorem Engaged.stepEnd {cycles ns : Nat} (h : Engaged R r.wid x.inst s y t) (dense : ttSparse c.ls = false) :
    Engaged R r.wid x.inst s { y with pos := y.pos + 1, outer := x.outer } (t.stepEnd k r x c cycles ns) :=
  Engaged.advancePos (Engaged.chargeWb (Engaged.bump64 (Engaged.bump64 h))) dense rfl

/-! ### The rows of a vector tile -/

/-- The program of a row draws free values at most, and its statistics are its program's (R187, R200, R203). -/
theorem Engaged.vxeEpiRow {z : RunInst} {q : AccTile} {die row : Nat} (engine : c.h.engine ≠ 3) (hrow : row ∈ rowsOf c q.digits 1)
    (h : Engaged R wid i s x t) :
    Engaged R wid i s x (t.vxeEpiRow r z c q die row).2.2.2 ∧ (t.vxeEpiRow r z c q die row).1.Proper c q.digits := by
  unfold State.vxeEpiRow
  dsimp only
  split
  · exact ⟨h, convertRow_proper engine hrow fun p hp => ⟨p, hp, rfl⟩⟩
  · exact ⟨h.same, convertRow_proper engine hrow (State.freeRow_spec _ _ _ _).1⟩

/-- The rows of a tile through the program, one after another, with the clamped variances and the empty rows among them. -/
def vxeEpiRows (r : Run) (z : RunInst) (c : RunCtx) (q : AccTile) (die : Nat) (p : List RowWrite × Nat × Nat × State) (rows : List Nat) :
    List RowWrite × Nat × Nat × State :=
  rows.foldl (fun p k =>
    let (o, cl, e, s) := p.2.2.2.vxeEpiRow r z c q die k
    (p.1 ++ [o], p.2.1 + cl, p.2.2.1 + (if e then 1 else 0), s)) p

theorem Engaged.vxeEpiRows {z : RunInst} {q : AccTile} {die : Nat} (engine : c.h.engine ≠ 3) (h : Engaged R wid i s x t) :
    Engaged R wid i s x (Machine.vxeEpiRows r z c q die ([], 0, 0, t) (rowsOf c q.digits 1)).2.2.2
      ∧ ∀ o ∈ (Machine.vxeEpiRows r z c q die ([], 0, 0, t) (rowsOf c q.digits 1)).1, o.Proper c q.digits :=
  Engaged.foldlWith (fun p : List RowWrite × Nat × Nat × State => p.2.2.2) (fun p => p.1) h (fun _ h => nomatch h) fun v k hk h => by
    obtain ⟨h', proper⟩ := h.vxeEpiRow (r := r) (z := z) (die := die) engine hk
    exact ⟨h', _, proper, rfl⟩

/-- What a vector tile's finish has come to before its rows are written: ignored entries, clamped variances and empty rows are counted. -/
def State.vxeCounted (s : State) (r : Run) (z : RunInst) (c : RunCtx) (q : AccTile) : State :=
  let e := vxeEpiRows r z c q (dieOf .vxe z.inst).2 ([], 0, 0, s) (rowsOf c q.digits 1)
  let bads := if usesB c then (rowsOf c q.digits 1).map fun k => (s.vxeRow c q.digits 1 k).2 else []
  ((bads.foldl (fun s o => s.noteLane r .vxe z.inst o.1 o.2) e.2.2.2).bump (rVxeVarClamp z.inst) e.2.1).bump (rVxeEmptyRows z.inst) e.2.2.1

theorem State.vxeFinish_eq (s : State) (r : Run) (z : RunInst) (c : RunCtx) (q : AccTile) (poison : Bool) :
    s.vxeFinish r z c q poison = ((s.vxeCounted r z c q).writeRows r c .vxe z.inst q.digits poison
      (vxeEpiRows r z c q (dieOf .vxe z.inst).2 ([], 0, 0, s) (rowsOf c q.digits 1)).1).updInst r.wid z.inst fun x => x.without q := rfl

theorem Engaged.vxeCounted {z : RunInst} {q : AccTile} (engine : c.h.engine ≠ 3) (h : Engaged R wid i s x t) :
    Engaged R wid i s x (t.vxeCounted r z c q) :=
  Engaged.bump (Engaged.bump (Engaged.foldl (h.vxeEpiRows engine).1 fun _ _ _ h => h.noteLane))

/-- A vector tile that finishes is written and leaves (R105). -/
theorem Engaged.vxeFinish {q : AccTile} {poison : Bool} (engine : c.h.engine ≠ 3)
    (h : Engaged (some (natRanges (tileC c q.digits ++ tileStats c q.digits))) r.wid x.inst s y t) :
    Engaged (some (natRanges (tileC c q.digits ++ tileStats c q.digits))) r.wid x.inst s (y.without q) (t.vxeFinish r x c q poison) := by
  rw [State.vxeFinish_eq]
  exact Engaged.updInst (f := fun x => x.without q) ((h.vxeCounted engine).writeRows engine (h.vxeEpiRows engine).2)

/-- What is read for a vector step: its reads are noted, and the entries ignored in its rows. -/
def State.vxeRead (s : State) (r : Run) (x : RunInst) (c : RunCtx) (ds : List Nat) (reads : List (Nat × Nat)) : State :=
  ((rowsOf c ds 1).map fun k => (k, s.vxeRow c ds 0 k)).foldl (fun s p => s.noteLane r .vxe x.inst p.2.2.1 p.2.2.2) (s.runReads r .vxe x.inst reads)

theorem Engaged.vxeRead {z : RunInst} {ds : List Nat} {reads : List (Nat × Nat)} (h : Engaged R wid i s x t) (views : t.kv.views = []) :
    Engaged R wid i s x (t.vxeRead r z c ds reads) :=
  Engaged.foldl (h.runReads views) fun _ _ _ h => h.noteLane

theorem Steady.vxeRead {z : RunInst} {ds : List Nat} {reads : List (Nat × Nat)} (views : t.kv.views = []) :
    Steady t (t.vxeRead r z c ds reads) :=
  Steady.foldl (Steady.refl.runReads views) fun _ _ h => h.noteLane

end

/-! ### A vector step -/

section

variable {inst cycles ns : Nat} {s : State} {r : Run} {x : RunInst} {w : Wb} {c : RunCtx} {ds : List Nat}

theorem natRanges_append (l k : List (Int × Nat)) : natRanges (l ++ k) = natRanges l ++ natRanges k := by simp [natRanges]

theorem State.cleanAll_append {via : Option (Nat × Nat)} {l k : List (Nat × Nat)} (h : s.cleanAll via l) (h' : s.cleanAll via k) :
    s.cleanAll via (l ++ k) :=
  ⟨h.1, fun x hx => (List.mem_append.1 hx).elim (h.2 x) (h'.2 x)⟩

/-- What a position reads, and what it writes. -/
def stepReads (c : RunCtx) (ds : List Nat) (fin : Bool) : List (Nat × Nat) := natRanges (stepRanges c ds ++ if fin then tileReads c ds else [])
def stepWrites (c : RunCtx) (ds : List Nat) (fin : Bool) : List (Nat × Nat) := if fin then natRanges (tileC c ds ++ tileStats c ds) else []

/-- A position whose reads and writes are in place and clean, as it is worked on: nothing waits, nothing is bad. -/
theorem State.prepareFor_step {k : EngKind} (hk : k = .vxe ∨ k = .cve) {fin : Bool} (runs : s.runOn k inst = some (r, x))
    (step : s.cleanAll (some (dieOf k inst)) (natRanges (stepRanges c ds)))
    (tile : fin = true → s.cleanAll (some (dieOf k inst)) (natRanges (tileReads c ds))
      ∧ s.cleanAll (some (dieOf k inst)) (natRanges (tileC c ds ++ tileStats c ds))) :
    ∃ (p : Placing) (s2 : State), s2 = { s with place := p, err := { s.err with fresh := [] } }
      ∧ s.prepareFor r.wid (2 * inst) (stepReads c ds fin) (stepWrites c ds fin) = (true, { s with place := p })
      ∧ s2.Ready (stepWrites c ds fin) ∧ s2.anyBad (stepReads c ds fin) = false := by
  have reads : s.cleanAll (some (dieOf k inst)) (stepReads c ds fin) := by
    unfold stepReads
    rw [natRanges_append]
    refine State.cleanAll_append step ?_
    cases fin with
    | false => exact ⟨step.1, fun _ h => nomatch h⟩
    | true => exact (tile rfl).1
  have writes : s.cleanAll (some (dieOf k inst)) (stepWrites c ds fin) := by
    cases fin with
    | false => exact ⟨step.1, fun _ h => nomatch h⟩
    | true => exact (tile rfl).2
  obtain ⟨p, ok, ready⟩ := State.prepareFor_of_runOn (.inr hk) runs (key := 2 * inst) (by omega) step.1
    (fun y hy => ((State.cleanAll_append reads writes).2 y hy).2.1)
  refine ⟨p, _, rfl, ok, ready.mono fun y hy => List.mem_append_right _ hy, ?_⟩
  have ready' : ({ s with place := p, err := { s.err with fresh := [] } } : State).Ready (stepReads c ds fin) :=
    ready.mono fun y hy => List.mem_append_left _ hy
  exact ready'.anyBad fun y hy => (reads.2 y hy).2.2

/-- One position of a vector engine in place: its rows enter its tile, which is written when it finishes (R187, R203). -/
theorem vxeGo_of_clean {fin : Bool} {p : Placing} {s2 : State} (hs2 : s2 = { s with place := p, err := { s.err with fresh := [] } })
    (ok : s.prepareFor r.wid (2 * x.inst) (stepReads c ds fin) (stepWrites c ds fin) = (true, { s with place := p }))
    (sound : s2.anyBad (stepReads c ds fin) = false) :
    let q := s.vxeEntered r c ds (x.stepTile c ds (vxeTile c ds))
    let v := s2.vxeRead r x c ds (stepReads c ds fin)
    s.vxeGo r x c w ds true fin ⟨[], [], []⟩
      = (true, if fin then v.vxeFinish r x c q q.poison else v.putTile r.wid x.inst q) := by
  intro q v
  subst hs2
  unfold State.vxeGo
  extract_lets i reads writes
  have ok : s.prepareFor r.wid (2 * i) reads writes = (true, { s with place := p }) := ok
  rw [ok]
  simp -zeta only [Bool.not_true, Bool.false_eq_true, if_false]
  extract_lets s2 t0 rows t s3
  have unspoilt : s2.anyBad reads = false := sound
  have start : t0 = x.stepTile c ds (vxeTile c ds) := by
    simp only [t0, unspoilt, Marks.sramUe, List.any_nil, Bool.or_false]
    rfl
  have entered : t = q := by
    simp only [t, rows, if_true, List.foldl_map, start]
    rfl
  rw [entered]
  rfl

/-- VXE_STEP of a position that is not skipped (R98, R105). -/
theorem vxeStepStep_of_step {m : Marks} {v : State} (here : s.atStep .vxe inst r x w) (hc : ctxOf r = c) (hds : digs c x.pos = ds)
    (runs : skips c ds = false)
    {fin : Bool} (hfin : (finishesTile c.h c.ls c.counts ds && !dead c ds) = fin) (goes : s.vxeGo r x c w ds true fin m = (true, v)) :
    vxeStepStep inst cycles ns m s = (v.stepEnd .vxe r x c cycles ns).vecEnd r.wid .vxe inst := by
  subst hc hds hfin
  obtain ⟨on, entry, dense, left⟩ := here
  obtain ⟨-, rfl⟩ := State.instOf_of_runOn on
  simp only [vxeStepStep, on, entry, dense, runs, goes, Bool.false_and, Bool.not_false, Bool.true_or, Bool.not_true, Bool.false_eq_true, if_false,
    if_true, Nat.not_le.2 left]
  rfl

/-! ### A single row -/

/-- The rows of a tile that no rewritten memory enters and no key block is merged into are their programs' rows, and draw nothing (R187). -/
theorem State.vxeEpiRow_of_clean {z : RunInst} {q : AccTile} {die row : Nat} (clean : r.dirty = []) (plain : merges c = false)
    (noB : usesB c = false) (noD : usesD c = false) : ∃ cl e,
    s.vxeEpiRow r z c q die row = (convertRow c q.digits (c.shift die) row c.h.tn
      (rowRun { tables := r.tables, d0 := [], d1 := [], b := [], eps := BitVec.ofNat 32 (rdN c.t (c.h.epiOff + 12) 4), chans := 0 } (progOf c)
        ((tileRow c.h.tn q.vals row).map some)), cl, e, s) := by
  unfold State.vxeEpiRow
  simp only [plain, noB, noD, clean, List.isEmpty_nil, if_true, Bool.false_eq_true, if_false]
  exact ⟨_, _, rfl⟩

theorem tileRow_putRow {n row : Nat} {vals a : List Word} (len : a.length = n) (inside : row * n ≤ vals.length) :
    tileRow n (putRow n vals row a) row = a := by
  have first : (vals.take (row * n)).length = row * n := by rw [List.length_take]; omega
  unfold tileRow putRow
  rw [List.append_assoc, List.drop_left' first, List.take_left' len]

/-- A row that enters a fresh tile by itself is that row of it (R187). -/
theorem State.tileRow_vxeEntered {row : Nat} (fresh : x.tiles = []) (one : rowsOf c ds 1 = [row]) (plain : merges c = false)
    (len : (s.vxeRow c ds 0 row).1.length = c.h.tn) :
    tileRow c.h.tn (s.vxeEntered r c ds (x.stepTile c ds (vxeTile c ds))).vals row = (s.vxeRow c ds 0 row).1 := by
  have inside : row < c.h.tm := List.mem_range.1 (List.mem_of_mem_filter (show row ∈ rowsOf c ds 1 by rw [one]; exact List.mem_singleton_self row))
  have e : (s.vxeEntered r c ds (x.stepTile c ds (vxeTile c ds))).vals
      = putRow c.h.tn (List.replicate (c.h.tm * c.h.tn) f32Zero) row (s.vxeRow c ds 0 row).1 := by
    simp only [State.vxeEntered, one, List.foldl_cons, List.foldl_nil, State.vxeEnter, plain, RunInst.stepTile, fresh, List.find?_nil]
    rfl
  rw [e]
  exact tileRow_putRow len (by rw [List.length_replicate]; exact Nat.mul_le_mul_right _ inside.le)

/-- What is counted for a vector tile of one row without B: no row but that one is written (R191, R203). -/
theorem State.vxeCounted_of_one {q : AccTile} {j cl : Nat} {e : Bool} {o : RowWrite} (noB : usesB c = false) (one : rowsOf c q.digits 1 = [j])
    (epi : s.vxeEpiRow r x c q (dieOf .vxe x.inst).2 j = (o, cl, e, s)) :
    (vxeEpiRows r x c q (dieOf .vxe x.inst).2 ([], 0, 0, s) (rowsOf c q.digits 1)).1 = [o]
      ∧ ∃ clamped empty, s.vxeCounted r x c q = (s.bump (rVxeVarClamp x.inst) clamped).bump (rVxeEmptyRows x.inst) empty := by
  have rows : vxeEpiRows r x c q (dieOf .vxe x.inst).2 ([], 0, 0, s) (rowsOf c q.digits 1) = ([o], 0 + cl, 0 + (if e then 1 else 0), s) := by
    simp only [one, vxeEpiRows, List.foldl_cons, List.foldl_nil, epi, List.nil_append]
  refine ⟨by rw [rows], 0 + cl, 0 + (if e then 1 else 0), ?_⟩
  simp only [State.vxeCounted, rows, noB, Bool.false_eq_true, if_false, List.foldl_nil]

/-- A tile of one row, whose program draws nothing, leaves that row at C (R105). -/
theorem State.memRead_vxeFinish_of_one {q : AccTile} {cl a n : Nat} {e : Bool} {o : RowWrite}
    (ready : s.Ready (natRanges (tileC c q.digits ++ tileStats c q.digits))) (wf : Memory.wf s.mem = true) (engine : c.h.engine = 2)
    (noB : usesB c = false) (one : rowsOf c q.digits 1 = [o.row]) (own : foreign c r.addr q.digits = [])
    (row : atRow c q.digits 2 o.row c.h.tn = [(a, n)]) (epi : s.vxeEpiRow r x c q (dieOf .vxe x.inst).2 o.row = (o, cl, e, s))
    (bare : o.st = []) (len : o.c.length = n) : (s.vxeFinish r x c q false).memRead a n = o.c := by
  have hrow : o.row ∈ rowsOf c q.digits 1 := one ▸ List.mem_singleton_self _
  have three : c.h.engine ≠ 3 := by omega
  have place : atRow c q.digits 2 o.row (c.rowLen q.digits) = [(a, n)] := by rw [show c.rowLen q.digits = c.h.tn from if_pos engine, row]
  obtain ⟨rows, clamped, empty, counted⟩ := State.vxeCounted_of_one noB one epi
  have steady : Steady s (s.vxeCounted r x c q) := by
    rw [counted]
    exact (Steady.refl.bump (by simp only [rClkRun, rVxeVarClamp]; omega)).bump (by simp only [rClkRun, rVxeEmptyRows]; omega)
  have mem : (s.vxeCounted r x c q).mem = s.mem := by
    rw [counted]
    rfl
  rw [State.vxeFinish_eq, rows]
  exact State.memRead_writeRows ((ready.steady steady).row three hrow place) (by rw [mem]; exact wf) own bare place len

/-- A tile of one row that no rewritten memory enters leaves at C that row through the program in C's format (R105, R187). -/
theorem State.memRead_vxeFinish {q : AccTile} {j a n : Nat} (ready : s.Ready (natRanges (tileC c q.digits ++ tileStats c q.digits)))
    (wf : Memory.wf s.mem = true) (engine : c.h.engine = 2) (plain : merges c = false) (noB : usesB c = false) (noD : usesD c = false)
    (one : rowsOf c q.digits 1 = [j]) (stats : statSlots c = []) (clean : r.dirty = []) (own : foreign c r.addr q.digits = [])
    (row : atRow c q.digits 2 j c.h.tn = [(a, n)]) :
    let o := rowRun { tables := r.tables, d0 := [], d1 := [], b := [], eps := BitVec.ofNat 32 (rdN c.t (c.h.epiOff + 12) 4), chans := 0 } (progOf c)
      ((tileRow c.h.tn q.vals j).map some)
    let bs := (convertRow c q.digits (c.shift (dieOf .vxe x.inst).2) j c.h.tn o).c
    bs.length = n → (s.vxeFinish r x c q false).memRead a n = bs := by
  intro o bs len
  obtain ⟨cl, e, epi⟩ := State.vxeEpiRow_of_clean (s := s) (z := x) (q := q) (die := (dieOf .vxe x.inst).2) (row := j) clean plain noB noD
  have proper : (convertRow c q.digits (c.shift (dieOf .vxe x.inst).2) j c.h.tn o).Proper c q.digits :=
    convertRow_proper (by omega) (one ▸ List.mem_singleton_self j) fun p hp => ⟨p, hp, rfl⟩
  exact State.memRead_vxeFinish_of_one ready wf engine noB one own row epi (proper.bare stats) len

end

end Sys2Proof.Machine
end

section
/-! What a finished tile of a convolution engine writes: its channels, their indices, and nothing else (R97, R105, R365, R376 to R378). -/

namespace Sys2Proof.Machine

open Sys2Proof

/-! ### Ranges of a position -/

section

variable {c : RunCtx} {ds : List Nat} {b q cb : Nat}

/-- The unmasked output positions of a step are the first ones along W. -/
theorem mem_owLive_of_lt (h : q < (owLive c ds).length) : q ∈ owLive c ds := by
  by_contra out
  have before : ∀ p ∈ owLive c ds, p ∈ List.range q := fun p hp => by
    obtain ⟨row, live⟩ := List.mem_filter.1 hp
    rw [List.mem_range] at row ⊢
    have live : roleDigit c.ls ds 10 * c.h.tm + p < outExt c 2 := of_decide_eq_true live
    by_contra beyond
    exact out (List.mem_filter.2 ⟨List.mem_range.2 (by omega), decide_eq_true (by omega)⟩)
  have := ((List.nodup_range.filter _).subperm before).length_le
  rw [List.length_range] at this
  exact absurd h (not_lt.2 this)

/-- The ranges that a block of channels of C takes at a position. -/
def posRanges (c : RunCtx) (ds : List Nat) (q cb : Nat) : List (Int × Nat) :=
  chRanges c ds 2 (cLayout c) (outExt c 1) (outExt c 2) cb (min 32 (coutLim c - 32 * cb)) (roleDigit c.ls ds 8) (roleDigit c.ls ds 9)
    (roleDigit c.ls ds 10 * c.h.tm + q)

/-- What is outside all that a tile writes is outside each block of channels. -/
theorem outside_posRanges (engine : c.h.engine = 3) (hq : q ∈ owLive c ds) (hcb : cb ∈ ocBlocks c ds)
    (h : outside (natRanges (tileC c ds ++ tileStats c ds)) b) : outside (natRanges (posRanges c ds q cb)) b := by
  refine outside_natRanges.2 fun x hx => (outside_tile h).1 x ?_
  unfold tileC
  rw [if_pos engine]
  exact List.mem_flatMap.2 ⟨q, hq, List.mem_flatMap.2 ⟨cb, hcb, hx⟩⟩

/-- A program that looks for a channel index leaves it in the tile's ranges. -/
theorem within_idxAddr (engine : c.h.engine = 3) (hq : q ∈ owLive c ds) (looks : ∃ o ∈ progOf c, o.op = 0x40) (v : Nat) :
    Within (natRanges (tileC c ds ++ tileStats c ds)) (idxAddr c ds (roleDigit c.ls ds 10 * c.h.tm + q)).toNat (leBytes 4 v).length := by
  intro b h
  rw [leBytes_length]
  refine (outside_tile h).2 (idxAddr c ds (roleDigit c.ls ds 10 * c.h.tm + q), 4) ?_
  obtain ⟨o, ho, op⟩ := looks
  unfold tileStats
  rw [if_pos engine, if_pos (List.any_eq_true.2 ⟨o, ho, decide_eq_true op⟩)]
  exact List.mem_map_of_mem hq

end

/-! ### Bytes of a block of channels -/

theorem chunksOf_of_le {α : Type} {n : Nat} {l : List α} (some : l ≠ []) (h : l.length ≤ n) : chunksOf n l.length l = [l] := by
  cases l with
  | nil => exact absurd rfl some
  | cons a l =>
    rw [List.length_cons, chunksOf, List.take_of_length_le h, List.drop_of_length_le h]
    · cases l <;> rfl
    · exact fun e => nomatch e

/-- A group of FP8 elements is its elements and a scale (R151). -/
theorem length_quantRow_group {f : Nat} {xs : List Word} (hf : f = 2 ∨ f = 3) (len : xs.length ≤ 32) : (quantRow f 0 0 0 0 xs).1.length ≤ 33 := by
  have group : quantRow f 0 0 0 0 xs = (((chunksOf 32 xs.length xs).map fun y => (quantGroup8 f (y.map ofF32)).1).flatten,
      ⟨((chunksOf 32 xs.length xs).map fun y => (quantGroup8 f (y.map ofF32)).2.sat).sum, 0⟩) := by
    obtain rfl | rfl := hf <;> simp only [quantRow, List.map_map] <;> rfl
  rw [group]
  by_cases some : xs = []
  · subst some
    exact Nat.zero_le _
  · rw [chunksOf_of_le some len]
    simpa [quantGroup8, Nat.lt_succ_iff] using len

theorem cElems_le (c : RunCtx) (cb : Nat) : cElems c cb ≤ 32 := by
  unfold cElems
  dsimp only
  split
  · exact min_le_left _ _
  · split
    exacts [le_rfl, min_le_left _ _]

/-- The bytes that a block of channels is written as (R97, R376). -/
def blockBytes (c : RunCtx) (cb : Nat) (xs : List Word) : List Byte :=
  let bs := (quantRow (oper c 2).fmt 0 0 0 0 xs).1
  if (oper c 2).fmt = 2 || (oper c 2).fmt = 3 then bs else bs.take (cElems c cb * plainElem (oper c 2).fmt)

/-- They fit the unit that a position of a blocked layout has for them (R363). -/
theorem length_blockBytes_le {c : RunCtx} {cb : Nat} {xs : List Word} (format : (oper c 2).fmt ∈ [1, 2, 3, 9]) (len : xs.length ≤ 32) :
    (blockBytes c cb xs).length ≤ chUnit (oper c 2).fmt := by
  have few := cElems_le c cb
  unfold blockBytes
  generalize (oper c 2).fmt = f at format
  have plain {u : Nat} (hu : 32 * plainElem f ≤ u) : ((quantRow f 0 0 0 0 xs).1.take (cElems c cb * plainElem f)).length ≤ u :=
    (List.length_take_le _ _).trans ((Nat.mul_le_mul_right _ few).trans hu)
  simp only [List.mem_cons, List.not_mem_nil, or_false] at format
  obtain rfl | rfl | rfl | rfl := format
  · exact plain (by decide)
  · exact length_quantRow_group (.inl rfl) len
  · exact length_quantRow_group (.inr rfl) len
  · exact plain (by decide)

/-- What is outside a block's ranges is outside what is written of them, be it less than a blocked layout's unit. -/
theorem outside_block {c : RunCtx} {ds : List Nat} {b q cb n : Nat} (fits : n ≤ chUnit (oper c 2).fmt)
    (h : outside (natRanges (posRanges c ds q cb)) b) :
    outside (if cLayout c = 0 then (natRanges (posRanges c ds q cb)).map fun y => (y.1, n) else natRanges (posRanges c ds q cb)) b := by
  split
  · rename_i blocked
    intro y hy
    obtain ⟨z, hz, rfl⟩ := List.mem_map.1 hy
    have unit : z.2 = chUnit (oper c 2).fmt := by
      obtain ⟨z', hz', rfl⟩ := List.mem_map.1 hz
      have hz' := List.mem_of_mem_filter hz'
      rw [posRanges, chRanges, if_pos blocked] at hz'
      rw [List.mem_singleton.1 hz']
    have := h z hz
    dsimp only
    omega
  · exact h

/-! ### The positions of a tile -/

section

variable {R : Option (List (Nat × Nat))} {wid i : Nat} {s t : State} {x z : RunInst} {r : Run} {c : RunCtx}

/-- A position of a tile is written where it lies, and its channel index (R97, R365, R376 to R378). -/
theorem Engaged.cveWrite {ds : List Nat} {q : Nat} {bad : List (Nat × Nat)} {poison : Bool} {o : RowSt} (engine : c.h.engine = 3)
    (format : (oper c 2).fmt ∈ [1, 2, 3, 9]) (hq : q ∈ owLive c ds) (looks : o.arg.isSome = true → ∃ p ∈ progOf c, p.op = 0x40)
    (h : Engaged (some (natRanges (tileC c ds ++ tileStats c ds))) wid i s x t) :
    Engaged (some (natRanges (tileC c ds ++ tileStats c ds))) wid i s x (t.cveWrite r z c ds q bad poison o) := by
  unfold State.cveWrite
  extract_lets f b ow v
  have blocks : Engaged (some (natRanges (tileC c ds ++ tileStats c ds))) wid i s x v := by
    refine Engaged.foldl h fun u cb hcb h => ?_
    have fits := length_blockBytes_le (cb := cb) (xs := ((o.xs.drop (32 * (cb - b))).take 32).map fun v => v.getD f32Zero) format
      (by rw [List.length_map]; exact List.length_take_le _ _)
    exact Engaged.updRun (Engaged.bump (Engaged.bump (Engaged.runWriteRow h fun b hb => outside_block fits (outside_posRanges engine hq hcb hb))))
  clear_value v
  cases e : o.arg with
  | none => exact blocks
  | some a => exact Engaged.writeBytes blocks (within_idxAddr engine hq (looks (by rw [e]; rfl)) a)

/-- The positions of a tile through the program, one after another (R377). -/
def cveRows (v : State) (r : Run) (z : RunInst) (c : RunCtx) (q : AccTile) (p : List (Nat × RowSt) × State) (rows : List Nat) :
    List (Nat × RowSt) × State :=
  let ds := q.digits
  let d := if usesD c then v.cveD c ds else []
  let oc0 := roleDigit c.ls ds 11 * c.h.tn
  let steps := if r.dirty.isEmpty then [] else stepsOfTile c z q.key
  rows.foldl (fun p k =>
    let xs := (tileRow c.h.tn q.vals k).zipIdx.map fun v => if oc0 + v.2 < coutLim c then some v.1 else none
    let o := rowRun { tables := r.tables, d0 := d, d1 := [], b := [], eps := 0, chans := coutLim c } (progOf c) xs
    if r.dirty.isEmpty then (p.1 ++ [(k, o)], p.2)
    else
      let cols := depCols (coutLim c - oc0) c.h.tn
      let dep := rowDep { d0 := cols fun j => usesD c && v.stale r.dirty (natRanges [dChan c ds (oc0 + j)]), d1 := [], b := [],
                          chans := coutLim c } (progOf c) (cols (v.cveDirty c r.dirty steps k))
      let (o, s) := p.2.freeRow c dep o
      (p.1 ++ [(k, o)], s)) p

/-- The program of a position draws free values at most, and leaves a channel index only when it looks for one (R139, R378). -/
theorem Engaged.cveRows {q : AccTile} {v : State} (h : Engaged R wid i s x t) :
    Engaged R wid i s x (Machine.cveRows v r z c q ([], t) (List.range (owLive c q.digits).length)).2
      ∧ ∀ o ∈ (Machine.cveRows v r z c q ([], t) (List.range (owLive c q.digits).length)).1,
          o.1 ∈ owLive c q.digits ∧ (o.2.arg.isSome = true → ∃ p ∈ progOf c, p.op = 0x40) :=
  Engaged.foldlWith (fun p : List (Nat × RowSt) × State => p.2) (fun p => p.1) h (fun _ h => nomatch h) fun u k hk h => by
    have live := mem_owLive_of_lt (List.mem_range.1 hk)
    dsimp only
    split
    · exact ⟨h, _, ⟨live, fun some => (rowRun_spec _ _ _).2 some⟩, rfl⟩
    · exact ⟨h.same, _, ⟨live, fun some => (rowRun_spec _ _ _).2 ((State.freeRow_spec _ _ _ _).2 some)⟩, rfl⟩

theorem State.cveFinish_eq (s : State) (r : Run) (z : RunInst) (c : RunCtx) (q : AccTile) :
    s.cveFinish r z c q = (let e := cveRows s r z c q ([], s) (List.range (owLive c q.digits).length)
      e.1.foldl (fun s o => s.cveWrite r z c q.digits o.1 (foreign c r.addr q.digits) q.poison o.2) e.2).updInst r.wid z.inst
        fun x => x.without q := rfl

/-- A convolution tile that finishes is written and leaves (R105). -/
theorem Engaged.cveFinish {y : RunInst} {q : AccTile} (engine : c.h.engine = 3) (format : (oper c 2).fmt ∈ [1, 2, 3, 9])
    (h : Engaged (some (natRanges (tileC c q.digits ++ tileStats c q.digits))) r.wid z.inst s y t) :
    Engaged (some (natRanges (tileC c q.digits ++ tileStats c q.digits))) r.wid z.inst s (y.without q) (t.cveFinish r z c q) := by
  rw [State.cveFinish_eq]
  obtain ⟨rows, proper⟩ := h.cveRows (r := r) (z := z) (c := c) (q := q) (v := t)
  refine Engaged.updInst (f := fun x => x.without q) (Engaged.foldl rows fun u o ho h => ?_)
  obtain ⟨live, looks⟩ := proper o ho
  exact h.cveWrite engine format live looks

end

/-! ### A convolution step -/

section

variable {inst cycles ns : Nat} {s : State} {r : Run} {x : RunInst} {w : Wb} {c : RunCtx} {ds : List Nat}

/-- What is read for a convolution step: its reads are noted, and so many elements that the feed saturates and taps that padding skips
(R368, R371). -/
def State.cveRead (s : State) (r : Run) (x : RunInst) (reads : List (Nat × Nat)) (sat skipped : Nat) : State :=
  (((s.runReads r .cve x.inst reads).bump (rCveNfSat x.inst) sat).bump64 (rCveTapskipLo x.inst) skipped).updRun r.wid
    fun r => { r with sat := r.sat + sat }

theorem Engaged.cveRead {R : Option (List (Nat × Nat))} {wid i sat skipped : Nat} {t : State} {y z : RunInst} {reads : List (Nat × Nat)}
    (h : Engaged R wid i s y t) (views : t.kv.views = []) : Engaged R wid i s y (t.cveRead r z reads sat skipped) :=
  Engaged.updRun (Engaged.bump64 (Engaged.bump (h.runReads views)))

/-- What enters a tile depends on the memory that is read, and on nothing else of the state. -/
theorem State.cveEnter_congr {t : State} (h : t.readMany = s.readMany) (c : RunCtx) (ds : List Nat) (q : AccTile) :
    t.cveEnter c ds q = s.cveEnter c ds q := by
  simp only [State.cveEnter, State.convRow, State.cveFeed, State.cveWeights, State.poolRow, State.chWords, State.chElems, h]

/-- One position of a convolution engine in place: its values enter its tile, which is written when it finishes (R374 to R377). -/
theorem cveGo_of_clean {fin : Bool} {p : Placing} {s2 : State} (hs2 : s2 = { s with place := p, err := { s.err with fresh := [] } })
    (ok : s.prepareFor r.wid (2 * x.inst) (stepReads c ds fin) (stepWrites c ds fin) = (true, { s with place := p }))
    (sound : s2.anyBad (stepReads c ds fin) = false) :
    let q := s.cveEnter c ds (x.stepTile c ds (newTile c ds))
    ∃ sat skipped, s.cveGo r x c w ds true fin ⟨[], [], []⟩ = (true,
      if fin then (s2.cveRead r x (stepReads c ds fin) sat skipped).cveFinish r x c q
      else (s2.cveRead r x (stepReads c ds fin) sat skipped).putTile r.wid x.inst q) := by
  intro q
  subst hs2
  unfold State.cveGo
  extract_lets i reads writes old skipped
  have ok : s.prepareFor r.wid (2 * i) reads writes = (true, { s with place := p }) := ok
  rw [ok]
  simp -zeta only [Bool.not_true, Bool.false_eq_true, if_false]
  extract_lets s2 t0 t sat s3
  refine ⟨sat, skipped, ?_⟩
  have unspoilt : s2.anyBad reads = false := sound
  have start : t0 = x.stepTile c ds (newTile c ds) := by
    simp only [t0, old, unspoilt, Marks.sramUe, List.any_nil, Bool.or_false]
    rfl
  have entered : t = q := by
    have same : s2.readMany = s.readMany := rfl
    simp only [t, if_true, start, State.cveEnter_congr same]
    rfl
  rw [entered]
  rfl

/-- CVE_STEP of a position that is not skipped (R98, R105). -/
theorem cveStepStep_of_step {m : Marks} {v : State} (here : s.atStep .cve inst r x w) (hc : ctxOf r = c) (hds : digs c x.pos = ds)
    (runs : skips c ds = false)
    {fin : Bool} (hfin : (finishesTile c.h c.ls c.counts ds && !dead c ds) = fin) (goes : s.cveGo r x c w ds true fin m = (true, v)) :
    cveStepStep inst cycles ns m s = (v.stepEnd .cve r x c cycles ns).vecEnd r.wid .cve inst := by
  subst hc hds hfin
  obtain ⟨on, entry, -, left⟩ := here
  obtain ⟨-, rfl⟩ := State.instOf_of_runOn on
  simp only [cveStepStep, on, entry, runs, goes, Bool.not_false, Bool.true_or, Bool.not_true, Bool.false_eq_true, if_false,
    if_true, Nat.not_le.2 left]
  rfl

end

end Sys2Proof.Machine
end

section
/-! Settles O42: the steps of vector and convolution engines, and the steps that are skipped (R98, R105, R187, R203, R374 to R377). -/

namespace Sys2Proof.Machine

open Sys2Proof

section

variable {k : EngKind} {inst cycles ns : Nat} {s v : State} {r : Run} {x : RunInst} {w : Wb} {c : RunCtx} {ds : List Nat} {q : AccTile}

/-! ### A step whose reads and writes are in place -/

/-- Noting nothing but the pages that a step touches moves no more than an engine's step does. -/
theorem Engaged.prepared {R : Option (List (Nat × Nat))} {p : Placing} (runs : s.runOn k inst = some (r, x)) :
    Engaged R r.wid inst s x { s with place := p, err := { s.err with fresh := [] } } :=
  (Engaged.refl (State.instOf_of_runOn runs).1).same

/-- What VXE_STEP comes to where all that it reads and writes is in place and clean (R187, R203). -/
theorem vxeStepStep_of_clean (here : s.atStep .vxe inst r x w) (hc : ctxOf r = c) (hds : digs c x.pos = ds) (runs : skips c ds = false)
    {fin : Bool} (hfin : (finishesTile c.h c.ls c.counts ds && !dead c ds) = fin)
    (step : s.cleanAll (some (dieOf .vxe inst)) (natRanges (stepRanges c ds)))
    (tile : fin = true → s.cleanAll (some (dieOf .vxe inst)) (natRanges (tileReads c ds))
      ∧ s.cleanAll (some (dieOf .vxe inst)) (natRanges (tileC c ds ++ tileStats c ds))) :
    let q := s.vxeEntered r c ds (x.stepTile c ds (vxeTile c ds))
    ∃ v : State, (∀ R, Engaged R r.wid inst s x v) ∧ v.Ready (stepWrites c ds fin)
      ∧ vxeStepStep inst cycles ns ⟨[], [], []⟩ s
        = ((if fin then v.vxeFinish r x c q q.poison else v.putTile r.wid inst q).stepEnd .vxe r x c cycles ns).vecEnd r.wid .vxe inst := by
  obtain ⟨part, rfl⟩ := State.instOf_of_runOn here.1
  obtain ⟨p, s2, hs2, ok, ready, sound⟩ := State.prepareFor_step (.inl rfl) here.1 step tile
  have views : s2.kv.views = [] := hs2 ▸ step.1
  have begun (R) : Engaged R r.wid x.inst s x s2 := hs2 ▸ Engaged.prepared here.1
  exact ⟨_, fun R => (begun R).vxeRead views, ready.steady (Steady.vxeRead views),
    vxeStepStep_of_step here hc hds runs hfin (vxeGo_of_clean hs2 ok sound)⟩

/-- What CVE_STEP comes to where all that it reads and writes is in place and clean (R374 to R377). -/
theorem cveStepStep_of_clean (here : s.atStep .cve inst r x w) (hc : ctxOf r = c) (hds : digs c x.pos = ds) (runs : skips c ds = false)
    {fin : Bool} (hfin : (finishesTile c.h c.ls c.counts ds && !dead c ds) = fin)
    (step : s.cleanAll (some (dieOf .cve inst)) (natRanges (stepRanges c ds)))
    (tile : fin = true → s.cleanAll (some (dieOf .cve inst)) (natRanges (tileReads c ds))
      ∧ s.cleanAll (some (dieOf .cve inst)) (natRanges (tileC c ds ++ tileStats c ds))) :
    let q := s.cveEnter c ds (x.stepTile c ds (newTile c ds))
    ∃ v : State, (∀ R, Engaged R r.wid inst s x v)
      ∧ cveStepStep inst cycles ns ⟨[], [], []⟩ s
        = ((if fin then v.cveFinish r x c q else v.putTile r.wid inst q).stepEnd .cve r x c cycles ns).vecEnd r.wid .cve inst := by
  obtain ⟨part, rfl⟩ := State.instOf_of_runOn here.1
  obtain ⟨p, s2, hs2, ok, -, sound⟩ := State.prepareFor_step (.inr rfl) here.1 step tile
  have views : s2.kv.views = [] := hs2 ▸ step.1
  have begun (R) : Engaged R r.wid x.inst s x s2 := hs2 ▸ Engaged.prepared here.1
  obtain ⟨sat, skipped, goes⟩ := cveGo_of_clean (w := w) hs2 ok sound
  exact ⟨_, fun R => (begun R).cveRead views, cveStepStep_of_step here hc hds runs hfin goes⟩

/-! ### What a step leaves -/

/-- A step that does not finish its tile leaves it among its engine's tiles, with the others, and memory as it was. -/
theorem stepEnd_of_fill (runs : s.runOn k inst = some (r, x)) (dense : ttSparse c.ls = false) (h : Engaged none r.wid inst s x v) :
    let u := (v.putTile r.wid inst q).stepEnd k r x c cycles ns
    EngineOnly s u ∧ ∃ x', u.instOf r.wid inst = some x' ∧ x'.pos = x.pos + 1 ∧ q ∈ x'.tiles ∧ ∀ y ∈ x.tiles, y.key ≠ q.key → y ∈ x'.tiles := by
  obtain ⟨-, rfl⟩ := State.instOf_of_runOn runs
  have done := h.putTile (q := q) |>.stepEnd (k := k) (cycles := cycles) (ns := ns) dense
  have only := done.only
  rw [done.mem.1, done.mem.2] at only
  exact ⟨only, _, done.inst, rfl, x.mem_withTile q, fun y hy key => RunInst.mem_withTile_of_other hy (.inr key)⟩

/-- A step that finishes its tile leaves its engine's other tiles, and every byte outside what the tile writes. -/
theorem stepEnd_of_finish {l : List (Nat × Nat)} (runs : s.runOn k inst = some (r, x)) (dense : ttSparse c.ls = false)
    (wf : Memory.wf s.mem = true) (h : Engaged (some l) r.wid inst s (x.without q) v) :
    let u := v.stepEnd k r x c cycles ns
    EngineOnly { s with mem := u.mem, marks := u.marks } u ∧ (∀ a, outside l a → u.memByte a = s.memByte a) ∧ u.mem = v.mem
      ∧ ∃ x', u.instOf r.wid inst = some x' ∧ x'.pos = x.pos + 1 ∧ x'.tiles = x.tiles.filter fun y => decide (y.key ≠ q.key) := by
  obtain ⟨-, rfl⟩ := State.instOf_of_runOn runs
  have done := h.stepEnd (k := k) (cycles := cycles) (ns := ns) dense
  have rest : Engaged none r.wid x.inst v _ _ := (Engaged.refl h.inst).stepEnd (k := k) (cycles := cycles) (ns := ns) dense
  exact ⟨done.only, (done.mem wf).2, rest.mem.1, _, done.inst, rfl, rfl⟩

/-- A vector tile that one row enters and no program draws values for leaves at C that row through its program (R105, R187). -/
theorem memRead_vxeFinish_of_row {j a n : Nat} (engine : c.h.engine = 2) (wf : Memory.wf s.mem = true) (mem : v.mem = s.mem)
    (ready : v.Ready (natRanges (tileC c ds ++ tileStats c ds))) (fresh : x.tiles = []) (one : rowsOf c ds 1 = [j]) (plain : merges c = false)
    (noB : usesB c = false) (noD : usesD c = false) (stats : statSlots c = []) (clean : r.dirty = []) (own : foreign c r.addr ds = [])
    (row : atRow c ds 2 j c.h.tn = [(a, n)]) (len : (s.vxeRow c ds 0 j).1.length = c.h.tn)
    (hq : q = s.vxeEntered r c ds (x.stepTile c ds (vxeTile c ds))) :
    let o := rowRun { tables := r.tables, d0 := [], d1 := [], b := [], eps := BitVec.ofNat 32 (rdN c.t (c.h.epiOff + 12) 4), chans := 0 } (progOf c)
      ((s.vxeRow c ds 0 j).1.map some)
    let bs := (convertRow c ds (c.shift (dieOf .vxe x.inst).2) j c.h.tn o).c
    bs.length = n → (v.vxeFinish r x c q q.poison).memRead a n = bs := by
  have digits : q.digits = ds := by
    rw [hq, State.vxeEntered_eq]
    rfl
  have sound : q.poison = false := by
    rw [hq, State.vxeEntered_eq]
    simp only [RunInst.stepTile, fresh, List.find?_nil, Option.getD_none]
    rfl
  have entered : tileRow c.h.tn q.vals j = (s.vxeRow c ds 0 j).1 := by rw [hq]; exact State.tileRow_vxeEntered fresh one plain len
  clear hq
  subst digits
  rw [sound, ← entered]
  exact State.memRead_vxeFinish ready (mem ▸ wf) engine plain noB noD one stats clean own row

/-- VXE_STEP of a position that finishes its tile: the tile is written and gone, its engine at its next position (R105, R187, R203). -/
theorem vxeStepStep_of_finish (here : s.atStep .vxe inst r x w) (hc : ctxOf r = c) (hds : digs c x.pos = ds) (runs : skips c ds = false)
    (hfin : (finishesTile c.h c.ls c.counts ds && !dead c ds) = true) (engine : c.h.engine = 2)
    (step : s.cleanAll (some (dieOf .vxe inst)) (natRanges (stepRanges c ds)))
    (reads : s.cleanAll (some (dieOf .vxe inst)) (natRanges (tileReads c ds)))
    (writes : s.cleanAll (some (dieOf .vxe inst)) (natRanges (tileC c ds ++ tileStats c ds))) (wf : Memory.wf s.mem = true)
    (hq : q = s.vxeEntered r c ds (x.stepTile c ds (vxeTile c ds))) :
    ∃ (u : State) (x' : RunInst), vxeStepStep inst cycles ns ⟨[], [], []⟩ s = u.vecEnd r.wid .vxe inst
      ∧ EngineOnly { s with mem := u.mem, marks := u.marks } u ∧ u.instOf r.wid inst = some x' ∧ x'.pos = x.pos + 1
      ∧ x'.tiles = x.tiles.filter (fun y => decide (y.key ≠ q.key))
      ∧ (∀ a, outside (natRanges (tileC c ds ++ tileStats c ds)) a → u.memByte a = s.memByte a)
      ∧ ∀ j a n, x.tiles = [] → rowsOf c ds 1 = [j] → merges c = false → usesB c = false → usesD c = false → statSlots c = [] →
          r.dirty = [] → foreign c r.addr ds = [] → atRow c ds 2 j c.h.tn = [(a, n)] → (s.vxeRow c ds 0 j).1.length = c.h.tn →
          let o := rowRun { tables := r.tables, d0 := [], d1 := [], b := [], eps := BitVec.ofNat 32 (rdN c.t (c.h.epiOff + 12) 4), chans := 0 }
            (progOf c) ((s.vxeRow c ds 0 j).1.map some)
          let bs := (convertRow c ds (c.shift (dieOf .vxe inst).2) j c.h.tn o).c
          bs.length = n → u.memRead a n = bs := by
  obtain ⟨v, h, ready, run⟩ := vxeStepStep_of_clean (cycles := cycles) (ns := ns) here hc hds runs hfin step fun _ => ⟨reads, writes⟩
  rw [← hq, if_pos rfl] at run
  obtain ⟨-, rfl⟩ := State.instOf_of_runOn here.1
  have dense : ttSparse c.ls = false := hc ▸ here.2.2.1
  have digits : q.digits = ds := by
    rw [hq, State.vxeEntered_eq]
    rfl
  have h1 := h (some (natRanges (tileC c q.digits ++ tileStats c q.digits)))
  have finished := h1.vxeFinish (q := q) (poison := q.poison) (by omega)
  rw [digits] at finished
  obtain ⟨only, spared, mem, x', part, pos, tiles⟩ := stepEnd_of_finish (k := .vxe) (cycles := cycles) (ns := ns) here.1 dense wf finished
  refine ⟨_, x', run, only, part, pos, tiles, spared, fun j a n fresh one plain noB noD stats clean own row len => ?_⟩
  intro o bs fits
  exact (congrArg (sgetMany memReset · a n) mem).trans
    (memRead_vxeFinish_of_row engine wf (h none).mem.1 ready fresh one plain noB noD stats clean own row len hq fits)

/-- CVE_STEP of a position that finishes its tile: the tile is written and gone, its engine at its next position (R105, R374 to R378). -/
theorem cveStepStep_of_finish (here : s.atStep .cve inst r x w) (hc : ctxOf r = c) (hds : digs c x.pos = ds) (runs : skips c ds = false)
    (hfin : (finishesTile c.h c.ls c.counts ds && !dead c ds) = true) (engine : c.h.engine = 3) (format : (oper c 2).fmt ∈ [1, 2, 3, 9])
    (step : s.cleanAll (some (dieOf .cve inst)) (natRanges (stepRanges c ds)))
    (reads : s.cleanAll (some (dieOf .cve inst)) (natRanges (tileReads c ds)))
    (writes : s.cleanAll (some (dieOf .cve inst)) (natRanges (tileC c ds ++ tileStats c ds))) (wf : Memory.wf s.mem = true)
    (hq : q = s.cveEnter c ds (x.stepTile c ds (newTile c ds))) :
    ∃ (u : State) (x' : RunInst), cveStepStep inst cycles ns ⟨[], [], []⟩ s = u.vecEnd r.wid .cve inst
      ∧ EngineOnly { s with mem := u.mem, marks := u.marks } u ∧ u.instOf r.wid inst = some x' ∧ x'.pos = x.pos + 1
      ∧ x'.tiles = x.tiles.filter (fun y => decide (y.key ≠ q.key))
      ∧ ∀ a, outside (natRanges (tileC c ds ++ tileStats c ds)) a → u.memByte a = s.memByte a := by
  obtain ⟨v, h, run⟩ := cveStepStep_of_clean (cycles := cycles) (ns := ns) here hc hds runs hfin step fun _ => ⟨reads, writes⟩
  rw [← hq, if_pos rfl] at run
  obtain ⟨-, rfl⟩ := State.instOf_of_runOn here.1
  have dense : ttSparse c.ls = false := hc ▸ here.2.2.1
  have digits : q.digits = ds := by
    rw [hq]
    rfl
  have finished := (h (some (natRanges (tileC c q.digits ++ tileStats c q.digits)))).cveFinish (q := q) engine format
  rw [digits] at finished
  obtain ⟨only, spared, -, x', part, pos, tiles⟩ := stepEnd_of_finish (k := .cve) (cycles := cycles) (ns := ns) here.1 dense wf finished
  exact ⟨_, x', run, only, part, pos, tiles, spared⟩

end

/-- Settles O42: a step by what its position reads and its tile writes, and a skipped step by its counter and its position. -/
theorem vectorAndConvolutionSteps : Obligations.VectorAndConvolutionSteps := by
  unfold Obligations.VectorAndConvolutionSteps
  refine ⟨?_, ?_⟩
  · rintro k inst cycles ns s r x w (rfl | rfl) here c ds cmd fresh t0 enter fin runs step
    · have entered : enter = s.vxeEntered r c ds (x.stepTile c ds (vxeTile c ds)) := if_pos rfl
      have run : exec cmd s = .next (vxeStepStep inst cycles ns ⟨[], [], []⟩ s).served := rfl
      refine ⟨fun more _ => ?_, fun finishes engine _ reads writes wf => ?_⟩
      · obtain ⟨v, h, -, e⟩ := vxeStepStep_of_clean (cycles := cycles) (ns := ns) here rfl rfl runs more step fun e => nomatch e
        obtain ⟨only, left⟩ := stepEnd_of_fill (k := .vxe) (cycles := cycles) (ns := ns) (q := enter) here.1 here.2.2.1 (h none)
        obtain ⟨x', part, pos, mem, others⟩ := left
        rw [e, ← entered] at run
        exact ⟨_, x', run, only, part, pos, mem, others⟩
      · obtain ⟨u, x', e, only, part, pos, tiles, spared, written⟩ :=
          vxeStepStep_of_finish (cycles := cycles) (ns := ns) here rfl rfl runs finishes engine step reads writes wf entered
        rw [e] at run
        exact ⟨u, x', run, only, part, pos, tiles, spared, fun j a n _ => written j a n⟩
    · have entered : enter = s.cveEnter c ds (x.stepTile c ds (newTile c ds)) := if_neg (by decide)
      have run : exec cmd s = .next (cveStepStep inst cycles ns ⟨[], [], []⟩ s).served := rfl
      refine ⟨fun more _ => ?_, fun finishes engine format reads writes wf => ?_⟩
      · obtain ⟨v, h, e⟩ := cveStepStep_of_clean (cycles := cycles) (ns := ns) here rfl rfl runs more step fun e => nomatch e
        obtain ⟨only, left⟩ := stepEnd_of_fill (k := .cve) (cycles := cycles) (ns := ns) (q := enter) here.1 here.2.2.1 (h none)
        obtain ⟨x', part, pos, mem, others⟩ := left
        rw [e, ← entered] at run
        exact ⟨_, x', run, only, part, pos, mem, others⟩
      · obtain ⟨u, x', e, only, part, pos, tiles, spared⟩ :=
          cveStepStep_of_finish (cycles := cycles) (ns := ns) here rfl rfl runs finishes engine (format rfl) step reads writes wf entered
        rw [e] at run
        exact ⟨u, x', run, only, part, pos, tiles, spared, fun j a n vxe => nomatch vxe⟩
  · intro k inst cycles ns s r x w hk here more skip unfinished fills intents wf cmd
    obtain ⟨notices, step⟩ : ∃ notices, exec cmd s = .next ({ s.skipping k r.wid inst x with
        eng := { (s.skipping k r.wid inst x).eng with notices := notices } } : State).served := by
      obtain rfl | rfl | rfl := hk
      · have sent := (mxeStepStep_of_skip (cycles := cycles) (ns := ns) here more skip unfinished intents rfl fills ⟨[], [], []⟩).trans
          (State.sendNotices_eq _ _ _)
        exact ⟨_, congrArg (fun t : State => Host.Outcome.next t.served) sent⟩
      · exact ⟨_, congrArg (fun t : State => Host.Outcome.next t.served)
          (vxeStepStep_of_skip (cycles := cycles) (ns := ns) here more skip unfinished intents rfl ⟨[], [], []⟩)⟩
      · exact ⟨_, congrArg (fun t : State => Host.Outcome.next t.served)
          (cveStepStep_of_skip (cycles := cycles) (ns := ns) here more skip unfinished intents rfl ⟨[], [], []⟩)⟩
    exact ⟨_, step, State.skipping_spec here.1 wf notices⟩

end Sys2Proof.Machine
end

section
/-! Settles O39: the commands that clear the counters of a block (R146, R147, R180, R205, R244, R245, R290, R292, R332, R361, R383, R533). -/

namespace Sys2Proof.Machine

/-- A command that puts its counters at zero on a condition clears them when it is met. -/
theorem clearsCounters_of_met {c : Instr} {s : State} {l : List Nat} {p : Prop} [Decidable p] (wf : s.regsWf)
    (run : exec c s = .next (if p then s.zeroRegs l else s)) (met : p) : ClearsCounters c s l :=
  ⟨s.zeroRegs l, by rw [run, if_pos met], State.regsOnly_zeroRegs wf l⟩

/-- A command that first sees whether its block exists and BAR0 answers for its register clears its counters when both hold. -/
theorem clearsCounters_of_answered {c : Instr} {s : State} {l : List Nat} {there opened : Bool} (wf : s.regsWf)
    (run : exec c s = .next (if !(there && opened) then s else s.zeroRegs l)) (ht : there = true) (ho : opened = true) :
    ClearsCounters c s l := by
  subst ht ho
  exact ⟨s.zeroRegs l, run, State.regsOnly_zeroRegs wf l⟩

/-- Settles O39: each command puts the registers of its list at zero behind a guard, and the hypotheses open the guard. -/
theorem countersAreCleared : Obligations.CountersAreCleared := by
  unfold Obligations.CountersAreCleared
  intro s wf
  refine ⟨?mxe, ?narrow, ?vxe, ?gaz, ?exp, ?srv, ?xfe, ?cve, ?cde, ?cle, ?port, ?fabric, ?errors, ?selfTest⟩
  case mxe => exact fun i hi ho => clearsCounters_of_answered wf rfl (decide_eq_true hi) ho
  case narrow => exact fun i hi ho => clearsCounters_of_answered wf rfl (decide_eq_true hi) ho
  case vxe => exact fun i hi ho => clearsCounters_of_answered wf rfl (decide_eq_true hi) ho
  case gaz => exact fun i hi ho => clearsCounters_of_answered wf rfl (decide_eq_true hi) ho
  case exp => exact fun i hi ho => clearsCounters_of_answered wf rfl (decide_eq_true hi) ho
  case srv => exact fun i hi ho => clearsCounters_of_answered wf rfl (decide_eq_true hi) ho
  case xfe => exact fun i hi ho => clearsCounters_of_answered wf rfl (decide_eq_true hi) ho
  case cve => exact fun i hi ho => clearsCounters_of_answered wf rfl (decide_eq_true hi) ho
  case cde => exact fun i hi ho => clearsCounters_of_met wf rfl (by simp [hi, ho])
  case cle => exact fun i hi ho => clearsCounters_of_met wf rfl (by simp [hi, ho])
  case port => exact fun n hn ho => clearsCounters_of_met wf rfl (by simp [hn, ho])
  case fabric => exact fun ho => clearsCounters_of_met wf rfl ho
  case errors => exact fun ho => clearsCounters_of_met wf rfl ho
  case selfTest => exact fun ho => clearsCounters_of_met wf rfl ho

end Sys2Proof.Machine
end

section
/-! Settles O40: the histogram entries of a die and the table slots of its VXEs (R173, R175, R176, R180, R192, R193, R198, R205). -/

namespace Sys2Proof.Machine

open Sys2Proof

section

variable {s t u : State}

/-! ### What noting errors and reads leaves to the engines -/

/-- The engines' own state and the AON count have not moved, and registers stay canonical. -/
def LeavesEngines (s t : State) : Prop := t.eng = s.eng ∧ t.aon = s.aon ∧ (s.regsWf → t.regsWf)

theorem LeavesEngines.eng (h : LeavesEngines s t) : t.eng = s.eng := h.1

theorem LeavesEngines.aon (h : LeavesEngines s t) : t.aon = s.aon := h.2.1

theorem LeavesEngines.wf (h : LeavesEngines s t) : s.regsWf → t.regsWf := h.2.2

theorem LeavesEngines.refl : LeavesEngines s s := ⟨rfl, rfl, id⟩

/-- A change of parts that LeavesEngines does not speak of. -/
theorem LeavesEngines.same {marks : List (Nat × Bool)} {free : Nat} {sched : Sched} {place : Placing} {err : Errors}
    (h : LeavesEngines s t) : LeavesEngines s { t with marks, free, sched, place, err } := ⟨h.eng, h.aon, h.wf⟩

theorem LeavesEngines.ite {c : Prop} {d : Decidable c} (h : LeavesEngines s t) (k : LeavesEngines s u) :
    LeavesEngines s (if c then t else u) := by
  split
  exacts [h, k]

theorem LeavesEngines.snd {α : Type} {x : α × State} {r : α} (h : LeavesEngines s x.2) (e : x = (r, u)) : LeavesEngines s u := by
  rw [e] at h
  exact h

theorem LeavesEngines.foldl {α : Type} {l : List α} {f : State → α → State} (h : LeavesEngines s t)
    (k : ∀ v x, LeavesEngines s v → LeavesEngines s (f v x)) : LeavesEngines s (l.foldl f t) := by
  induction l generalizing t with
  | nil => exact h
  | cons x l ih => exact ih (k _ _ h)

theorem LeavesEngines.setReg {off : Nat} {w : Word} (h : LeavesEngines s t) : LeavesEngines s (t.setReg off w) :=
  ⟨h.eng, h.aon, fun wf => State.regsWf_setReg (h.wf wf) off w⟩

theorem LeavesEngines.bump {off n : Nat} (h : LeavesEngines s t) : LeavesEngines s (t.bump off n) := h.setReg

theorem LeavesEngines.bump64 {off n : Nat} (h : LeavesEngines s t) : LeavesEngines s (t.bump64 off n) := h.setReg.setReg

theorem LeavesEngines.merge {m : Merged} (h : LeavesEngines s t) : LeavesEngines s (t.merge m) := h.same

theorem LeavesEngines.emit {e : Ev} (h : LeavesEngines s t) : LeavesEngines s (t.emit e) := by
  have event := t.emit_event e
  refine ⟨?_, ?_, fun wf => event.wf (h.wf wf)⟩
  · rw [event.host]
    exact h.eng
  · rw [event.host]
    exact h.aon

theorem LeavesEngines.drawNat (h : LeavesEngines s t) : LeavesEngines s t.drawNat.2 := h.same

theorem LeavesEngines.dramSite {a : Nat} (h : LeavesEngines s t) : LeavesEngines s (t.dramSite a).2 := h.same

theorem LeavesEngines.noteCe {a symbols : Nat} {scrub : Bool} (h : LeavesEngines s t) : LeavesEngines s (t.noteCe a symbols scrub) := by
  unfold State.noteCe
  split
  next e => exact (h.dramSite.snd e).bump64.merge

theorem LeavesEngines.noteUe {a kind ring : Nat} (h : LeavesEngines s t) : LeavesEngines s (t.noteUe a kind ring) := by
  unfold State.noteUe
  split
  · exact h
  · split
    next e => exact ((h.dramSite.snd e).same.bump).emit

theorem LeavesEngines.noteSram {src : Nat} {part : Option Nat} {ring : Nat} {x : Nat × Nat × Bool} (h : LeavesEngines s t) :
    LeavesEngines s (t.noteSram src part ring x) := h.bump64.merge.ite h.bump.emit

/-- Errors that a read meets are counted and reported (R515, R517). -/
theorem LeavesEngines.noteMarks {m : Marks} {kind ring src : Nat} {part : Option Nat} (h : LeavesEngines s t) :
    LeavesEngines s (t.noteMarks m kind ring src part) :=
  ((h.foldl fun _ _ h => h.drawNat.noteCe).foldl fun _ _ h => h.noteUe).same.foldl fun _ _ h => h.noteSram

theorem LeavesEngines.readRaw {a n : Nat} {view : Bool} (h : LeavesEngines s t) : LeavesEngines s (t.readRaw a n view) :=
  h.bump.same.foldl fun _ _ h => h.same

theorem LeavesEngines.noteAccess {wid : Nat} {l : List (Nat × Nat)} (h : LeavesEngines s t) : LeavesEngines s (t.noteAccess wid l) := by
  unfold State.noteAccess
  extract_lets sl v w
  have hv : LeavesEngines s v := by
    unfold v
    split
    exacts [h.same, h]
  have hw : LeavesEngines s w := hv.foldl fun _ _ h => h.same.ite h.same
  exact hw.same.ite hw

/-- With no view open a read is counted in its Waybill, its lines and its pages alone. -/
theorem LeavesEngines.noteReads {wid : Nat} {l : List (Nat × Nat)} (h : LeavesEngines s t) (views : t.kv.views = []) :
    LeavesEngines s (t.noteReads wid l) := by
  have unviewed : t.viewSlices l = [] := by simp [State.viewSlices, State.viewAt_none views]
  simp only [State.noteReads, unviewed, List.flatMap_nil, List.filterMap_nil, List.eraseDups_nil, List.foldl_nil]
  exact (h.foldl fun _ _ h => h.noteAccess).foldl fun _ _ h => h.readRaw

/-! ### What a read of a range delivers -/

theorem State.memRead_add (s : State) (a m n : Nat) : s.memRead a (m + n) = s.memRead a m ++ s.memRead (a + m) n := by
  simp only [State.memRead_eq, List.range_add, List.map_append, List.map_map, Function.comp_def, Nat.add_assoc]

/-- The slices of a range lie between one 2 MiB boundary and the next. -/
theorem pageSlices_eq {a n : Nat} (hn : 0 < n) :
    pageSlices a n = (List.range (pageCount a n)).map fun j => (a + cutAt a n j, cutAt a n (j + 1) - cutAt a n j) := by
  unfold pageSlices pagesOf
  rw [if_neg (by omega), List.map_map]
  refine List.map_congr_left fun j hj => ?_
  obtain ⟨start, stop⟩ := cutAt_ends hn (List.mem_range.1 hj)
  simp only [Function.comp_apply, Prod.mk.injEq]
  omega

/-- The bytes of the slices before the j-th are those of the range before it. -/
theorem State.flatten_memRead_cuts (s : State) (a n j : Nat) :
    ((List.range j).map fun i => s.memRead (a + cutAt a n i) (cutAt a n (i + 1) - cutAt a n i)).flatten = s.memRead a (cutAt a n j) := by
  induction j with
  | zero => rw [cutAt_zero]; rfl
  | succ j ih =>
    rw [List.range_succ, List.map_append, List.flatten_append, ih, List.map_singleton, List.flatten_singleton, ← State.memRead_add,
      Nat.add_sub_cancel' (cutAt_le_succ a n j)]

/-- With no view open an engine reads the bytes of memory. -/
theorem State.readBytes_of_noView (views : s.kv.views = []) {a n : Nat} (hn : 0 < n) : s.readBytes a n = s.memRead a n := by
  simp only [State.readBytes, State.viewAt_none views]
  rw [pageSlices_eq hn, List.map_map]
  exact (s.flatten_memRead_cuts a n _).trans (by rw [cutAt_last hn])

/-- A range is poisoned where one of its slices is. -/
theorem State.poisonedIn_slices (s : State) (a n : Nat) : ((pageSlices a n).any fun y => s.poisonedIn y.1 y.2) = s.poisonedIn a n := by
  rw [Bool.eq_iff_iff]
  simp only [State.poisonedIn, List.any_eq_true]
  constructor
  · rintro ⟨y, hy, l, hl, marked⟩
    exact ⟨l, linesOf_slice hy hl, marked⟩
  · rintro ⟨l, hl, marked⟩
    rw [mem_linesOf] at hl
    obtain ⟨y, hy, low, high⟩ := exists_pageSlice (a := a) (n := n) (b := max a (64 * l)) (by omega) (by omega)
    refine ⟨y, hy, l, mem_linesOf.2 ?_, marked⟩
    obtain ⟨⟨-, first, last⟩, -⟩ := of_mem_pageSlices hy
    omega

/-- What is read of a range that is ready is bad where its lines are marked. -/
theorem State.Ready.readBad {a n : Nat} (h : s.Ready [(a, n)]) : s.readBad a n = s.poisonedIn a n := by
  have found (y : Nat × Nat) (hy : y ∈ pageSlices a n) : s.rawBad y.1 y.2 = s.poisonedIn y.1 y.2 := by
    obtain ⟨-, one, page⟩ := of_mem_pageSlices hy
    have ok := h.acc ⟨_, List.mem_singleton_self _, page⟩ false
    simp only [State.rawBad, one, List.any_cons, List.any_nil, ok, Bool.or_false, Bool.false_or]
  rw [← State.poisonedIn_slices, State.readBad]
  simp only [State.viewAt_none h.1]
  rw [Bool.eq_iff_iff, List.any_eq_true, List.any_eq_true]
  exact exists_congr fun y => and_congr_right fun hy => by rw [found y hy]

/-! ### Table slots (R192, R193, R205) -/

/-- A RESULT of a load is one of the codes of R193. -/
theorem State.tableResult_le (s : State) (die slot p a : Nat) (file : List Byte) (bad : Bool) :
    s.tableResult die slot p a file bad ≤ 7 := by
  unfold State.tableResult
  extract_lets head
  repeat' split
  all_goals omega

/-- A slot that is given a table holds it for its partition. -/
theorem State.tableAt_putTable (s : State) (q : TableSlot) : (s.putTable q).tableAt q.die q.part q.slot = some q.bytes := by
  have old : (s.eng.tables.filter fun x => !decide (x.die = q.die ∧ x.slot = q.slot)).find?
      (fun x => decide (x.die = q.die ∧ x.slot = q.slot ∧ x.part = q.part)) = none := by
    refine List.find?_eq_none.2 fun x hx => ?_
    have other := (List.mem_filter.1 hx).2
    rw [decide_eq_true_eq]
    rintro ⟨hdie, hslot, -⟩
    simp [hdie, hslot] at other
  rw [State.tableAt, State.putTable, List.find?_append, old, Option.none_or, List.find?_cons_of_pos (by simp)]
  rfl

/-- A load in progress over, with a RESULT; with RESULT 0 its slot holds the table. -/
def State.loadEnd (s : State) (q : TableSlot) (r : Nat) : State :=
  ((if r = 0 then s.putTable q else s).setFld (rVxeTblStatus q.die) 0 0 0).setFld (rVxeTblStatus q.die) 7 4 r

/-- What the end of a load shows: BUSY is clear, RESULT is there, and the slot holds its table with RESULT 0 alone. -/
theorem State.loadEnd_spec (wf : s.regsWf) (q : TableSlot) {r : Nat} (hr : r ≤ 7) :
    bit 0 ((s.loadEnd q r).reg (rVxeTblStatus q.die)) = false ∧ (s.loadEnd q r).fld (rVxeTblStatus q.die) 7 4 = r
      ∧ (r ≠ 0 → (s.loadEnd q r).eng.tables = s.eng.tables)
      ∧ (r = 0 → (s.loadEnd q r).tableAt q.die q.part q.slot = some q.bytes) := by
  have wf' : (if r = 0 then s.putTable q else s).regsWf := by
    split
    exacts [wf, wf]
  have cleared := State.regsWf_setFld wf' (rVxeTblStatus q.die) 0 0 0
  refine ⟨?_, ?_, fun failed => ?_, fun passed => ?_⟩
  · rw [State.loadEnd, State.bit_reg_setFld cleared _ _ _ _ (by decide), State.bit_reg_setFld wf' _ _ _ _ (by decide)]
    rfl
  · rw [State.loadEnd, State.fld_setFld cleared _ _ _ _ (by decide) (by decide)]
    exact Nat.mod_eq_of_lt (by omega)
  · rw [State.loadEnd, if_neg failed]
    rfl
  · rw [State.loadEnd, if_pos passed]
    exact s.tableAt_putTable q

/-- A load that waits for no page reads its file and ends (R193). -/
theorem State.tableRun_of_prepared {die a : Nat} {w : Word} {v : State} (cmd : s.reg (rVxeTblCmd die) = w)
    (addr : s.reg64 (rVxeTblAddrLo die) = a) (inside : rangeInPart (bits 20 16 w) a 7533 = true)
    (ok : s.prepareFor (2 ^ 64 + die) 0 [(a, 7533)] [] = (true, v)) :
    s.tableRun die false = (v.noteRead v.sched.nextWid a 7533).loadEnd
      { die := die, slot := bits 5 0 w, part := bits 20 16 w, bytes := (v.readBytes a 7533).take 0x1080 }
      (v.tableResult die (bits 5 0 w) (bits 20 16 w) a (v.readBytes a 7533) (v.readBad a 7533)) := by
  simp only [State.tableRun, State.loadEnd, cmd, addr, inside, if_true, ok, Bool.not_true, Bool.false_eq_true, if_false, List.any_cons,
    List.any_nil, Bool.or_false, Bool.false_or, List.foldl_cons, List.foldl_nil]

/-- Nothing is waited for by a load whose file is in place, and its file is ready to be read (R17). -/
theorem State.prepareFor_table {die a n : Nat} (views : s.kv.views = []) (place : s.inPlace (some (1, die)) a n) :
    ∃ p, s.prepareFor (2 ^ 64 + die) 0 [(a, n)] [] = (true, { s with place := p }) ∧ ({ s with place := p } : State).Ready [(a, n)] := by
  have via : s.accDie (2 ^ 64 + die) 0 = some (1, die) := by
    rw [State.accDie, if_pos (Nat.le_add_right _ _), Nat.add_sub_cancel_left]
  obtain ⟨p, ok, mine, pages⟩ := State.prepareFor_ready (s := s) (wid := 2 ^ 64 + die) (key := 0) (reads := [(a, n)]) (writes := []) views
    fun x hx => by
      rw [List.append_nil, List.mem_singleton] at hx
      rw [hx, via]
      exact place
  refine ⟨p, ok, views, fun x hx => ?_⟩
  rw [List.mem_singleton.1 hx, show ({ s with place := p } : State).place.via = some (1, die) from mine.trans via]
  exact State.inPlace_congr (t := { s with place := p }) pages rfl rfl place

/-- A load whose file is in place ends with the RESULT of the file as it stands (R193). -/
theorem State.tableRun_of_inPlace {die a : Nat} {w : Word} (cmd : s.reg (rVxeTblCmd die) = w) (addr : s.reg64 (rVxeTblAddrLo die) = a)
    (views : s.kv.views = []) (inside : rangeInPart (bits 20 16 w) a 7533 = true) (place : s.inPlace (some (1, die)) a 7533) :
    ∃ v, LeavesEngines s v ∧ s.tableRun die false
      = v.loadEnd { die := die, slot := bits 5 0 w, part := bits 20 16 w, bytes := (s.memRead a 7533).take 0x1080 }
          (s.tableResult die (bits 5 0 w) (bits 20 16 w) a (s.memRead a 7533) (s.poisonedIn a 7533)) := by
  obtain ⟨p, ok, ready⟩ := State.prepareFor_table views place
  have leaves : LeavesEngines s { s with place := p } := LeavesEngines.refl.same
  refine ⟨_, leaves.noteReads (wid := s.sched.nextWid) (l := [(a, 7533)]) views, (State.tableRun_of_prepared cmd addr inside ok).trans ?_⟩
  rw [ready.readBad, State.readBytes_of_noView ready.1 (by decide)]
  rfl

/-- A load that begins puts its word in the command register and BUSY in the status register. -/
def State.loadBegun (s : State) (die : Nat) (w : Word) : State := (s.setReg (rVxeTblCmd die) w).setFld (rVxeTblStatus die) 0 0 1

/-- A load that begins runs on the word that it was given, and on the address and the clocks from before. -/
theorem State.loadBegun_regs (wf : s.regsWf) (die : Nat) (w : Word) :
    (s.loadBegun die w).reg (rVxeTblCmd die) = w ∧ (s.loadBegun die w).reg64 (rVxeTblAddrLo die) = s.reg64 (rVxeTblAddrLo die)
      ∧ (s.loadBegun die w).reg rClkRun = s.reg rClkRun := by
  have wf' : (s.setReg (rVxeTblCmd die) w).regsWf := State.regsWf_setReg wf _ _
  have other (off : Nat) (h1 : off ≠ rVxeTblStatus die) (h2 : off ≠ rVxeTblCmd die) : (s.loadBegun die w).reg off = s.reg off := by
    rw [State.loadBegun, State.reg_setFld_other wf' _ _ _ h1, State.reg_setReg_other wf _ h2]
  simp only [rVxeTblStatus, rVxeTblCmd] at other
  refine ⟨?_, ?_, other _ (by simp only [rClkRun]; omega) (by simp only [rClkRun]; omega)⟩
  · rw [State.loadBegun, State.reg_setFld_other wf' _ _ _ (by simp only [rVxeTblStatus, rVxeTblCmd]; omega), State.reg_setReg_same wf]
  · simp only [State.reg64, rVxeTblAddrLo]
    rw [other _ (by omega) (by omega), other _ (by omega) (by omega)]

/-- TABLE_LOAD with no command in progress begins the load and runs it (R193, R205). -/
theorem tableLoadStep_of_idle {die : Nat} {w : Word} (hd : die < 4) (answers : s.barOpen (rVxeTblCmd die) = true) (op : bits 9 8 w = 1)
    (idle : bit 0 (s.reg (rVxeTblStatus die)) = false) (ue : Bool) :
    tableLoadStep die (some w) ue s = ((s.loadBegun die w).tableRun die ue).settle := by
  simp [tableLoadStep, hd, answers, op, idle, State.loadBegun]

/-- TABLE_CLEAR with no command in progress, by the slot's owner (R205). -/
theorem tableClearStep_of_idle {die : Nat} {w : Word} (hd : die < 4) (answers : s.barOpen (rVxeTblCmd die) = true) (op : bits 9 8 w = 2)
    (idle : bit 0 (s.reg (rVxeTblStatus die)) = false) :
    tableClearStep die w s = if s.slotOwner die (bits 5 0 w) = some (bits 20 16 w) then
        State.setFld { s with eng := { s.eng with
          tables := s.eng.tables.filter fun x => !(decide (x.die = die ∧ x.slot = bits 5 0 w)) } } (rVxeTblStatus die) 7 4 0
      else s.setFld (rVxeTblStatus die) 7 4 7 := by
  rw [tableClearStep, if_neg (by simpa [op] using hd)]
  simp only [State.byCmd, answers, idle, Bool.not_true, Bool.not_false, Bool.false_eq_true, if_false, if_true]

/-! ### Histogram entries (R173, R175, R176, R180) -/

/-- The commands that free histogram entries free them and nothing else (R180). -/
theorem thdClr_of_answers {die : Nat} (answers : s.barOpen (rMxeThdClr die) = true) :
    thdClrEntryStep die s = { s with eng := { s.eng with
        thd := s.eng.thd.filter fun x => !(decide (x.die = die ∧ x.slot = s.fld (rMxeThdSel die) 6 0)) } }
      ∧ thdClrAllStep die s = { s with eng := { s.eng with thd := s.eng.thd.filter fun x => x.die ≠ die } } := by
  simp [thdClrEntryStep, thdClrAllStep, answers]

/-- An entry that has taken a sample into a bin at a time (R173, R176). -/
def ThdEntry.sampled (x : ThdEntry) (bin : Nat) (drifts : Bool) (now : Nat) : ThdEntry :=
  { x with bins := x.bins.zipIdx.map (fun (p : Nat × Nat) => if p.2 = bin then satAdd 32 p.1 1 else p.1),
           samples := satAdd 32 x.samples 1, last := now,
           drifting := if drifts then satAdd 32 x.drifting 1 else x.drifting,
           since := if drifts then x.since + 1 else x.since }

theorem ThdEntry.bins_sampled {x : ThdEntry} {i n : Nat} (h : x.bins[i]? = some n) (bin : Nat) (drifts : Bool) (now : Nat) :
    (x.sampled bin drifts now).bins[i]? = some (if i = bin then satAdd 32 n 1 else n) := by
  simp [ThdEntry.sampled, h]

/-- The histogram entry in a slot of a die. -/
def State.thdAt (s : State) (die slot : Nat) : Option ThdEntry := s.eng.thd.find? fun y => decide (y.die = die ∧ y.slot = slot)

theorem State.thdAt_congr (h : t.eng.thd = s.eng.thd) (die slot : Nat) : t.thdAt die slot = s.thdAt die slot := by
  rw [State.thdAt, h, State.thdAt]

/-- The entry of a slot after a change that keeps its place. -/
theorem State.thdAt_updThd {die slot : Nat} {x : ThdEntry} {f : ThdEntry → ThdEntry} (h : s.thdAt die slot = some x)
    (hf : ∀ y, (f y).die = y.die ∧ (f y).slot = y.slot) :
    (s.updThd die slot f).thdAt die slot = some (f x) := by
  refine (find?_updIf (fun y => by rw [(hf y).1, (hf y).2]) s.eng.thd).trans ?_
  change (s.thdAt die slot).map _ = _
  rw [h, Option.map_some, if_pos (List.find?_some h)]

/-- The entry of a key stands in its slot, when no other does. -/
theorem State.thdAt_of_key {die part dig : Nat} {x : ThdEntry}
    (key : (s.eng.thd.filter fun x => decide (x.die = die)).find? (fun x => decide (x.part = part ∧ x.dig = dig)) = some x)
    (alone : ∀ y ∈ s.eng.thd, y.die = die → y.slot = x.slot → y = x) : s.thdAt die x.slot = some x := by
  obtain ⟨listed, here⟩ := List.mem_filter.1 (List.mem_of_find?_eq_some key)
  obtain ⟨y, hy⟩ : ∃ y, s.thdAt die x.slot = some y :=
    Option.isSome_iff_exists.1 (List.find?_isSome.2 ⟨x, listed, by simpa using here⟩)
  obtain ⟨hdie, hslot⟩ : y.die = die ∧ y.slot = x.slot := by simpa using List.find?_some hy
  rw [hy, alone y (List.mem_of_find?_eq_some hy) hdie hslot]

/-- A key that has an entry keeps it (R175). -/
theorem State.thdEntry_of_key {die part dig : Nat} {x : ThdEntry}
    (key : (s.eng.thd.filter fun x => decide (x.die = die)).find? (fun x => decide (x.part = part ∧ x.dig = dig)) = some x) :
    s.thdEntry die part dig = (x.slot, s) := by
  simp only [State.thdEntry, key]

/-- A check's tile has left its Theodolite, and the errors met in the check store are noted (R173, R517). -/
def State.checkTaken (s : State) (die : Nat) (m : Marks) (part : Nat) : State :=
  let t := s.noteMarks m 0 0xFFFFFFFF (srcOf 1 die) (some part)
  { t with eng := { t.eng with checks := t.eng.checks.filter (fun x => x.die ≠ die) } }

theorem State.checkTaken_eng (s : State) (die : Nat) (m : Marks) (part : Nat) :
    (s.checkTaken die m part).eng = { s.eng with checks := s.eng.checks.filter (fun x => x.die ≠ die) }
      ∧ (s.checkTaken die m part).aon = s.aon := by
  have leaves : LeavesEngines s (s.noteMarks m 0 0xFFFFFFFF (srcOf 1 die) (some part)) := LeavesEngines.refl.noteMarks
  refine ⟨?_, leaves.aon⟩
  rw [State.checkTaken, leaves.eng]

/-- A sample has made the entry of a slot x: a run of drifting samples that is long enough is reported and starts anew (R176). -/
def State.driftNoted (s : State) (die slot : Nat) (x : ThdEntry) (q : ThdCheck) (b : Nat) (e : FNum) : State :=
  if decide (b ≤ bits 9 5 q.drift) && decide (bits 31 16 q.drift ≠ 0 ∧ bits 31 16 q.drift ≤ x.since) then
    (s.updThd die slot fun x => { x with since := 0 }).emit (ev 0x0110 lvBlock (some q.part) (srcOf 1 die)
      [q.dig, q.addr, x.samples, x.drifting, (toF32 e).toNat + q.pos * 2 ^ 32])
  else s

/-- The report moves no check, and of the entry only the length of its run. -/
theorem State.driftNoted_spec {die slot : Nat} {x : ThdEntry} (entry : s.thdAt die slot = some x) (q : ThdCheck) (b : Nat) (e : FNum) :
    (s.driftNoted die slot x q b e).eng.checks = s.eng.checks
      ∧ ∃ since, (s.driftNoted die slot x q b e).thdAt die slot = some { x with since := since } := by
  have told (v : State) (report : Ev) : (v.emit report).eng = v.eng := (LeavesEngines.emit .refl).eng
  rw [State.driftNoted]
  split
  · rw [State.thdAt, told]
    exact ⟨rfl, 0, State.thdAt_updThd (f := fun x => { x with since := 0 }) entry fun _ => ⟨rfl, rfl⟩⟩
  · exact ⟨rfl, x.since, entry⟩

section

variable {die : Nat} {m : Marks} {q : ThdCheck} {x : ThdEntry}

/-- A check whose reference is not finite is counted as skipped (R173). -/
theorem theodoliteCheckDoneStep_of_skip (sound : Marks.sramUe m = false) (check : s.eng.checks.find? (fun x => decide (x.die = die)) = some q)
    (key : (s.checkTaken die m q.part).thdEntry die q.part q.dig = (x.slot, s.checkTaken die m q.part)) (skips : thdBin q.pairs = none) :
    theodoliteCheckDoneStep ⟨die, m⟩ s
      = (s.checkTaken die m q.part).updThd die x.slot fun x => { x with skipNf := satAdd 32 x.skipNf 1 } := by
  unfold State.checkTaken at *
  simp only [theodoliteCheckDoneStep, check, sound, Bool.false_eq_true, if_false, key, skips]

/-- A check with an error adds one sample to the entry of its key (R173, R176). -/
theorem theodoliteCheckDoneStep_of_sample (sound : Marks.sramUe m = false) (check : s.eng.checks.find? (fun x => decide (x.die = die)) = some q)
    (key : (s.checkTaken die m q.part).thdEntry die q.part q.dig = (x.slot, s.checkTaken die m q.part))
    (entry : (s.checkTaken die m q.part).thdAt die x.slot = some x) {b : Nat} {e : FNum} (samples : thdBin q.pairs = some (b, e)) :
    let t := theodoliteCheckDoneStep ⟨die, m⟩ s
    t.eng.checks = (s.checkTaken die m q.part).eng.checks ∧ ∃ since, t.thdAt die x.slot
      = some { x.sampled b (decide (b ≤ bits 9 5 q.drift)) (s.checkTaken die m q.part).aon with since := since } := by
  have added := State.thdAt_updThd (f := fun x => x.sampled b (decide (b ≤ bits 9 5 q.drift)) (s.checkTaken die m q.part).aon) entry
    fun _ => ⟨rfl, rfl⟩
  have step : theodoliteCheckDoneStep ⟨die, m⟩ s = ((s.checkTaken die m q.part).updThd die x.slot fun x =>
      x.sampled b (decide (b ≤ bits 9 5 q.drift)) (s.checkTaken die m q.part).aon).driftNoted die x.slot
        (x.sampled b (decide (b ≤ bits 9 5 q.drift)) (s.checkTaken die m q.part).aon) q b e := by
    dsimp only [State.checkTaken, State.thdAt, ThdEntry.sampled] at key added ⊢
    simp only [theodoliteCheckDoneStep, check, sound, Bool.false_eq_true, if_false, key, samples, added, State.driftNoted]
  rw [step]
  exact State.driftNoted_spec added q b e

end

end

/-- Settles O40: each command by what its step comes to, on the entries of a die, on a slot, and on the entry that a check's key has. -/
theorem theodoliteAndTables : Obligations.TheodoliteAndTables := by
  unfold Obligations.TheodoliteAndTables
  refine ⟨?clears, ?load, ?clear, ?check⟩
  case clears =>
    intro die s answers
    obtain ⟨one, all⟩ := thdClr_of_answers answers
    exact ⟨congrArg Host.Outcome.next one, congrArg Host.Outcome.next all⟩
  case load =>
    intro die w s hd answers op idle wf views a r inside place
    let s0 : State := { s with err := { s.err with fresh := [] } }
    have wf0 : s0.regsWf := wf
    obtain ⟨cmd, addr, clocks⟩ := State.loadBegun_regs wf0 die w
    obtain ⟨v, leaves, run⟩ := State.tableRun_of_inPlace (s := s0.loadBegun die w) cmd addr views inside
      (State.inPlace_congr (s := s) (t := s0.loadBegun die w) rfl rfl clocks place)
    have begun : (s0.loadBegun die w).regsWf := State.regsWf_setFld (State.regsWf_setReg wf0 _ _) _ _ _ _
    obtain ⟨busy, result, failed, passed⟩ := v.loadEnd_spec (leaves.wf begun)
      { die := die, slot := bits 5 0 w, part := bits 20 16 w, bytes := (s.memRead a 7533).take 0x1080 } (r := r) (s.tableResult_le _ _ _ _ _ _)
    have step : exec (.tableLoad die ⟨some w, ⟨[], [], []⟩⟩) s = .next ((s0.loadBegun die w).tableRun die false).settle.served :=
      congrArg (fun t : State => Host.Outcome.next t.served) (tableLoadStep_of_idle (s := s0) hd answers op idle false)
    refine ⟨_, step.trans (by rw [run]; rfl), busy, result, fun h => (failed h).trans ?_, passed⟩
    rw [leaves.eng]
    rfl
  case clear => exact fun die w s hd answers op idle => congrArg Host.Outcome.next (tableClearStep_of_idle hd answers op idle)
  case check =>
    intro die m s q x sound check key alone
    obtain ⟨eng, aon⟩ := s.checkTaken_eng die m q.part
    have thd : (s.checkTaken die m q.part).eng.thd = s.eng.thd := by rw [eng]
    have checks : ∀ c ∈ (s.checkTaken die m q.part).eng.checks, c.die ≠ die := by
      rw [eng]
      exact fun c hc => by simpa using (List.mem_filter.1 hc).2
    have mine : (s.checkTaken die m q.part).thdEntry die q.part q.dig = (x.slot, s.checkTaken die m q.part) :=
      State.thdEntry_of_key (by rw [thd]; exact key)
    have entry : (s.checkTaken die m q.part).thdAt die x.slot = some x := (State.thdAt_congr thd _ _).trans (State.thdAt_of_key key alone)
    refine ⟨_, rfl, ?_⟩
    change (∀ c ∈ (theodoliteCheckDoneStep ⟨die, m⟩ s).eng.checks, c.die ≠ die)
      ∧ ∃ y, (theodoliteCheckDoneStep ⟨die, m⟩ s).thdAt die x.slot = some y ∧ _
    cases bin : thdBin q.pairs with
    | none =>
      rw [theodoliteCheckDoneStep_of_skip sound check mine bin]
      exact ⟨checks, _, State.thdAt_updThd entry fun _ => ⟨rfl, rfl⟩, rfl, rfl, fun _ => ⟨rfl, rfl, rfl⟩, fun _ _ h => nomatch h⟩
    | some sample =>
      obtain ⟨b, e⟩ := sample
      obtain ⟨same, since, added⟩ := theodoliteCheckDoneStep_of_sample sound check mine entry bin
      refine ⟨by rw [same]; exact checks, _, added, rfl, rfl, fun h => (nomatch h), fun b' e' h => ?_⟩
      cases h
      exact ⟨rfl, aon, fun i n h => ThdEntry.bins_sampled h b (decide (b ≤ bits 9 5 q.drift)) s.aon, by simp [ThdEntry.sampled]⟩

end Sys2Proof.Machine
end

section
/-! Refutes O33 and O38, each by a state in which a command's own bookkeeping changes what a clause asks of the state before it. -/

namespace Sys2Proof.Machine

open Sys2Proof

/-! ### A LEND whose read is the last one in flight (R241, R266, R275) -/

/-- A VIEW_CLOSE of the view at 0, its one descriptor in page 0. -/
def closeJob : KvJob :=
  { wid := 1, gaz := 0, next := 0, count := 1, notDone := 0, quota := false, closing := false, descs := [[0x11]] }

/-- The KV Waybill that runs it. -/
def closeWb : Wb := { newWb 1 1 0 0 none (BitVec.ofNat 512 0x40) with phase := .running }

/-- A LEND_HOST of page 0 that waits for the page to be in the Siding. -/
def lendWb : Wb := { newWb 2 1 0 0 none (BitVec.ofNat 512 (0x30 + 2 ^ 21 * 2 ^ 192 + 4 * 2 ^ 256)) with phase := .running }

/-- Page 0 is lent and has no backing yet, the Siding has room for it, and the LEND holds the only lease on the view. -/
def lendReads : State :=
  { State.reset.setReg (rSrvQuotaSid 0 0) 16 with
    sched := { State.reset.sched with wbs := [closeWb, lendWb] }
    place := { State.reset.place with
      pages := [{ num := 0, cold := true, place := .none, lent := .host 0, heat := 0, last := 0, lastView := 0, gone := none, taking := none }]
      leases := [{ page := 1, frame := 16, view := 0, wid := 2, copy := false, before := false }] }
    kv := { views := [{ base := 0, part := 0, spec := [], list := [], closing := none, holeSaid := false }], nodes := [], jobs := [closeJob] } }

-- The states are evaluated one after another, so that the evaluations do not all hold memory at once.
set_option Elab.async false
set_option maxRecDepth 4000
set_option exponentiation.threshold 512

/-- The view is closed at once. -/
theorem lendReads_closed : ∃ u, exec (.viewClose 1 ⟨0, ⟨[], [], []⟩⟩) lendReads = .next u ∧ u.kvJob 1 = none := by
  refine ⟨_, rfl, ?_⟩
  decide

theorem lendReads_at : lendReads.kvAt 1 0x11 closeWb closeJob [0x11] := by
  unfold State.kvAt
  exact ⟨rfl, rfl, rfl, rfl, rfl, by decide, by decide⟩

theorem exists_eq_true_mk {α : Type} {x : Bool × α} (h : x.1 = true) : ∃ y, x = (true, y) := ⟨x.2, Prod.ext h rfl⟩

/-- Nothing has to be waited for: the page takes backing in the Siding. -/
theorem lendReads_prepares : ∃ s1, lendReads.prepareFor 1 2 (lendReads.kvTouches closeWb.part [0x11]).1
    ((lendReads.kvTouches closeWb.part [0x11]).2 ++ closeJob.place closeWb) = (true, s1) :=
  exists_eq_true_mk (by decide)

theorem lendReads_busy : lendReads.viewBusy (kvHandles [0x11]) = true := by decide

/-- Refutes O38: the descriptor of a VIEW_CLOSE may lie in a page that takes backing when RESULT is about to be written, which ends the LEND
that waited for it. Where a read of that LEND is the last one in flight, its lease ends with it, and the view is closed at once, where the
statement has it wait closed for VIEW_CLOSE_DONE. -/
theorem not_viewsAndTables : ¬ Obligations.ViewsAndTables := by
  intro h
  obtain ⟨-, closes, -⟩ := h
  obtain ⟨s1, ready⟩ := lendReads_prepares
  obtain ⟨-, -, waits⟩ := closes 1 0 lendReads s1 closeWb closeJob [0x11] lendReads_at ready
  obtain ⟨t, ex, -, j, job, -⟩ := waits ⟨_, List.mem_singleton_self _, rfl, rfl, rfl⟩ lendReads_busy
  obtain ⟨u, ex', gone⟩ := lendReads_closed
  cases ex.symm.trans ex'
  rw [gone] at job
  cases job

/-! ### A demand return whose own count faults its pool (R266, R269, R274) -/

theorem State.lendsDone_moves (s : State) : s.lendsDone.place.moves = s.place.moves :=
  List.foldlRecOn (motive := fun t : State => t.place.moves = s.place.moves) _ _ rfl fun t h w _ => by
    split
    · rw [State.endWb_eq]
      exact h
    · exact h

theorem State.pageAt_moves (s : State) (n : Nat) (q : Place) : (s.pageAt n q).place.moves = s.place.moves := by
  unfold State.pageAt
  dsimp only
  split
  · exact State.lendsDone_moves _
  · rfl

theorem State.returnLost_moves (s : State) (m : Move) : (s.returnLost m).place.moves = s.place.moves := by
  rw [State.returnLost, State.poisonPage, State.markAll_eq]
  exact State.pageAt_moves s m.page m.dst

/-- A demand return when its pool is asked about: it has been counted (R269, R274). -/
def State.returnCounted (s : State) (m : Move) : State :=
  let key := TxnOwner.wid (.move m.page)
  let s := { s with vrl := { s.vrl with incs := s.vrl.incs.filter (fun x => x.1 ≠ key), failed := s.vrl.failed.filter (fun x => x.1 ≠ key) } }
  let s := s.bump (rSrvDemand m.die) 1
  { s with place := { s.place with demand := s.place.demand.filter (· ≠ m.page) } }

/-- The demand return of a page to the Siding from the host pool of its partition. -/
def hostReturn (n d i : Nat) : Move :=
  { page := n, die := d, src := .host i, dst := .siding, cause := .demand, switched := false, xfe := none, failed := none }

/-- A return whose pool is faulted once the return is counted makes no move (R274). -/
theorem State.startMove_moves_of_lost {s : State} {n d i k : Nat} {g : Page} (page : s.page n = some g) (pool : g.place.pool = some k)
    (faulted : (s.returnCounted (hostReturn n d i)).poolFaulted g.part k = true) : (s.startMove (hostReturn n d i)).place.moves = s.place.moves := by
  have lost : s.startMove (hostReturn n d i)
      = (s.returnCounted (hostReturn n d i)).returnLost { hostReturn n d i with xfe := s.moveXfe n } :=
    if_pos ((Option.any_eq_true _ _).2 ⟨g, page, by rw [pool]; exact faulted⟩)
  exact (congrArg (·.place.moves) lost).trans (State.returnLost_moves _ _)

theorem State.moveTxns_of_noFabric {s : State} {m : Move} (h : (m.dst.isFabric || m.src.isFabric) = false) : s.moveTxns m = s := by
  simp only [State.moveTxns, h, Bool.not_false, if_true]

/-- With a slot free on a die that is not fenced the first move that may start does (R269). -/
theorem moveStartStep_of_first {s : State} {d : Nat} {m : Move} (free : (s.place.moves.filter fun m => decide (m.die = d)).length < 4)
    (up : s.fenced 2 d = false) (first : (s.moveList d).find? (fun m => !m.usesPool
      || (decide (((s.place.moves.filter fun m => decide (m.die = d)).filter Move.usesPool).length < 2) && (s.moveXfe m.page).isSome)) = some m) :
    moveStartStep d s = s.startMove m := by
  simp only [moveStartStep, Nat.not_le.2 free, up, first, decide_false, Bool.or_self, Bool.false_eq_true, if_false]

/-- A page homed on die 1, held in the host pool of a partition whose number is so high that its SRV_POOL_FAULT falls on SRV_DEMAND of
that die. -/
def aliasedPage : Page :=
  { num := 1047434 * 2 ^ 31 + 1, cold := true, place := .host 0, lent := .no, heat := 0, last := 0, lastView := 0, gone := none, taking := none }

/-- It is asked for, the Siding has room for it, and a Transfer Engine may carry it. -/
def aliased : State :=
  { State.reset with
    regs := [(rXfeCfg 2, 1), (rSrvQuotaSid 1 aliasedPage.part, 16), (rPrtEngOther aliasedPage.part, 0xFF0000)]
    place := { State.reset.place with pages := [aliasedPage], demand := [aliasedPage.num] } }

/-- Its return. -/
def aliasedMove : Move := hostReturn aliasedPage.num 1 0

theorem aliased_first : (aliased.moveList 1).find? (fun m => !m.usesPool
    || (decide (((aliased.place.moves.filter fun m => decide (m.die = 1)).filter Move.usesPool).length < 2) && (aliased.moveXfe m.page).isSome))
      = some aliasedMove := by decide

/-- No pool of its partition is faulted, until the return has been counted. -/
theorem aliased_faults : aliased.poolFaulted aliasedPage.part 0 = false
    ∧ (aliased.returnCounted aliasedMove).poolFaulted aliasedPage.part 0 = true := by decide

theorem aliased_started : exec (.moveStart 1) aliased = .next (aliased.startMove aliasedMove) :=
  congrArg Host.Outcome.next (moveStartStep_of_first (by decide) rfl aliased_first)

theorem aliased_page : aliased.page aliasedPage.num = some aliasedPage :=
  List.find?_cons_of_pos (decide_eq_true rfl)

theorem aliased_moves : (aliased.startMove aliasedMove).place.moves = [] := by
  have faulted := aliased_faults.2
  unfold aliasedMove at faulted ⊢
  exact State.startMove_moves_of_lost aliased_page rfl faulted

/-- Refutes O33: MOVE_START counts a demand return in SRV_DEMAND before it asks whether the page's pool is faulted. In a state with a page of a
partition number so high that its SRV_POOL_FAULT is that counter, the count itself faults the pool: the page comes back poisoned and
no move begins, where the statement, by the register as it stood, has one begin. Such a page is mapped by no PAGE_MAP of the 32 partitions (R413),
but the statement asks for every state. -/
theorem not_movesAndQuotas : ¬ Obligations.MovesAndQuotas := by
  intro h
  obtain ⟨-, -, starts, -⟩ := h
  obtain ⟨-, first⟩ := starts 1 aliased
  obtain ⟨u, -, -, begun, -⟩ := first aliasedMove (by decide) rfl aliased_first
  have sound : ¬(aliasedMove.cause = .demand ∧ ∃ g i, aliased.page aliasedMove.page = some g ∧ g.place.pool = some i
      ∧ aliased.poolFaulted g.part i = true) := by
    rintro ⟨-, g, i, page, pool, faulted⟩
    cases aliased_page.symm.trans page
    cases pool
    exact absurd faulted (by rw [aliased_faults.1]; decide)
  obtain ⟨listed, ex⟩ := begun sound
  rw [if_pos (show aliasedMove.usesPool = true from rfl), State.moveTxns_of_noFabric rfl] at ex
  have same : u = aliased.startMove aliasedMove := by
    injection ex.symm.trans aliased_started
  rw [same, aliased_moves] at listed
  cases listed

end Sys2Proof.Machine
end

section
/-! A Waybill's reads and writes in memory that is clean: what they deliver, and all that they move (R28, R220, R233, R260, R521). -/

namespace Sys2Proof.Machine

open Sys2Proof

section

variable {s t u : State} {l : List (Nat × Nat)} {a n wid : Nat}

/-! ### Reads that meet nothing -/

/-- A range that is ready, with none of its lines marked. -/
def State.Clean (s : State) (a n : Nat) : Prop := s.Ready [(a, n)] ∧ s.poisonedIn a n = false

/-- What clean reads move: what is noted of pages and of errors, and registers, which read as before. -/
structure Undisturbed (s t : State) : Prop where
  only   : t = { s with regs := t.regs, place := t.place, err := t.err }
  steady : Steady s t
  regs   : s.regsWf → t.regsWf ∧ ∀ off, t.reg off = s.reg off

theorem Undisturbed.refl : Undisturbed s s := ⟨rfl, .refl, fun wf => ⟨wf, fun _ => rfl⟩⟩

theorem Undisturbed.trans (h : Undisturbed s t) (k : Undisturbed t u) : Undisturbed s u where
  only := by
    have h := h.only
    rw [k.only, h]
  steady := h.steady.trans k.steady
  regs := fun wf => by
    obtain ⟨wft, st⟩ := h.regs wf
    obtain ⟨wfu, tu⟩ := k.regs wft
    exact ⟨wfu, fun off => (tu off).trans (st off)⟩

theorem Undisturbed.foldl {α : Type} {k : List α} {f : State → α → State} (h : Undisturbed s t)
    (hf : ∀ v, ∀ y ∈ k, Undisturbed s v → Undisturbed s (f v y)) : Undisturbed s (k.foldl f t) :=
  List.foldlRecOn k f h fun v hv y hy => hf v y hy hv

theorem Undisturbed.kv (h : Undisturbed s t) : t.kv = s.kv := by rw [h.only]

theorem Undisturbed.aon (h : Undisturbed s t) : t.aon = s.aon := by rw [h.only]

theorem Undisturbed.mem (h : Undisturbed s t) : t.mem = s.mem := by rw [h.only]

theorem Undisturbed.marks (h : Undisturbed s t) : t.marks = s.marks := by rw [h.only]

theorem Undisturbed.sched (h : Undisturbed s t) : t.sched = s.sched := by rw [h.only]

theorem Undisturbed.clk (h : Undisturbed s t) : t.clk = s.clk := by rw [h.only]

theorem State.Clean.steady (c : s.Clean a n) (h : Steady s t) (marks : t.marks = s.marks) : t.Clean a n := by
  refine ⟨c.1.steady h, ?_⟩
  rw [State.poisonedIn, marks]
  exact c.2

theorem State.Clean.undisturbed (c : s.Clean a n) (h : Undisturbed s t) : t.Clean a n := c.steady h.steady h.marks

/-- Counting nothing leaves a register as it reads. -/
theorem State.reg_bump_zero (wf : s.regsWf) (off j : Nat) : (s.bump off 0).reg j = s.reg j := by
  have same := State.reg_bump wf off 0 j
  refine BitVec.eq_of_toNat_eq (same.trans ?_)
  split
  · next e =>
    subst e
    rw [satAdd, Nat.add_zero, Nat.min_eq_left (by have := (s.reg j).isLt; omega)]
  · rfl

/-- A slice of a range that is clean is clean. -/
theorem State.poisonedIn_slice (c : s.poisonedIn a n = false) {y : Nat × Nat} (hy : y ∈ pageSlices a n) : s.poisonedIn y.1 y.2 = false := by
  rw [← State.poisonedIn_slices, List.any_eq_false] at c
  exact Bool.eq_false_iff.2 (c y hy)

/-- A read that meets no marked line counts none (R521). -/
theorem Undisturbed.countPoison (c : s.poisonedIn a n = false) : Undisturbed s (s.countPoison a n) := by
  have unmarked : ((linesOf a n).filter fun l => sget markReset s.marks l) = [] :=
    List.filter_eq_nil_iff.2 fun l hl => List.any_eq_false.1 c l hl
  have counted : s.countPoison a n = { s.bump rErrPoisonRead 0 with err := (s.countPoison a n).err } := by
    simp only [State.countPoison, unmarked]
    rfl
  rw [counted]
  exact ⟨rfl, (Steady.refl.bump (off := rErrPoisonRead) (by decide)).same, fun wf => ⟨State.regsWf_bump wf _ _, State.reg_bump_zero wf _⟩⟩

theorem Undisturbed.touchPage {view : Bool} : Undisturbed s (s.touchPage a n view) :=
  ⟨rfl, Steady.refl.touchPage, fun wf => ⟨wf, fun _ => rfl⟩⟩

theorem Undisturbed.readRaw {view : Bool} (c : s.poisonedIn a n = false) : Undisturbed s (s.readRaw a n view) :=
  (Undisturbed.countPoison c).foldl fun _ _ _ h => h.trans .touchPage

/-- A Waybill's access to clean memory meets nothing that is noted (R259, R260, R265). -/
theorem State.noteAccess_clean (c : s.Clean a n) : s.noteAccess wid (pageSlices a n) = s := by
  have ok {y : Nat × Nat} (hy : y ∈ pageSlices a n) : s.accPage false (pageOf y.1) = .ok :=
    c.1.acc ⟨_, List.mem_singleton_self _, (of_mem_pageSlices hy).2.2⟩ false
  have found : ∀ x ∈ ((pageSlices a n).flatMap fun x => (pageSlices x.1 x.2).map fun y => (y, s.accPage false (pageOf y.1))), x.2 = .ok := by
    simp only [List.mem_flatMap, List.mem_map]
    rintro _ ⟨y, hy, z, hz, rfl⟩
    obtain ⟨-, -, page⟩ := of_mem_pageSlices hz
    rw [(of_mem_pageSlices hy).2.1, List.mem_singleton] at page
    exact page ▸ ok hy
  have sound : ((pageSlices a n).any fun x => s.rawBad x.1 x.2) = false := by
    refine List.any_eq_false.2 fun y hy => ?_
    simp [State.rawBad, (of_mem_pageSlices hy).2.1, ok hy, State.poisonedIn_slice c.2 hy]
  have noFault : ((pageSlices a n).flatMap fun x => (pageSlices x.1 x.2).map fun y => (y, s.accPage false (pageOf y.1))).find?
      (fun x => decide (x.2 = .fault)) = none := List.find?_eq_none.2 fun x hx => by rw [found x hx]; decide
  have noLoss : ((pageSlices a n).flatMap fun x => (pageSlices x.1 x.2).map fun y => (y, s.accPage false (pageOf y.1))).filter
      (fun x => decide (x.2 = .lost)) = [] := List.filter_eq_nil_iff.2 fun x hx => by rw [found x hx]; decide
  simp only [State.noteAccess, noFault, noLoss, List.foldl_nil, sound, Bool.false_eq_true, if_false]

/-- With no view open a clean read only touches its pages. -/
theorem State.noteRead_clean (c : s.Clean a n) : s.noteRead wid a n = (pageSlices a n).foldl (fun t x => t.readRaw x.1 x.2 false) s := by
  have views := c.1.1
  have unviewed : s.viewSlices [(a, n)] = [] := by simp [State.viewSlices, State.viewAt_none views]
  have touched : s.touches [(a, n)] = pageSlices a n := by simp [State.touches, State.viewAt_none views]
  have plain : ([(a, n)].flatMap fun r => (pageSlices r.1 r.2).filter fun x => (s.viewAt x.1).isNone) = pageSlices a n := by
    simp [State.viewAt_none views]
  simp only [State.noteRead, State.noteReads, unviewed, plain, touched, State.noteAccess_clean c, List.flatMap_nil, List.filterMap_nil,
    List.eraseDups_nil, List.foldl_nil, List.foldl_cons]

theorem Undisturbed.noteRead (c : s.Clean a n) : Undisturbed s (s.noteRead wid a n) := by
  rw [State.noteRead_clean c]
  refine Undisturbed.foldl .refl fun v y hy h => h.trans (.readRaw ?_)
  exact State.poisonedIn_slice (c.undisturbed h).2 hy

/-- A clean read delivers the bytes of memory (R233). -/
theorem State.kvRead_clean (c : s.Clean a n) (hn : 0 < n) : s.kvRead wid a n = (.inl (s.memRead a n), s.noteRead wid a n) := by
  have entry : (s.noteRead wid a n).wb wid = s.wb wid := by rw [State.wb, (Undisturbed.noteRead c).sched]; rfl
  simp only [State.kvRead, entry, Nat.lt_irrefl, if_false, c.1.readBad, c.2, Bool.false_eq_true, State.readBytes_of_noView c.1.1 hn]

/-! ### Writes to memory that is ready -/

/-- What a write to a range moves: its bytes, the marks of lines, the notes of the write, and nothing else. -/
structure Stored (a n : Nat) (s t : State) : Prop where
  only   : t = { s with mem := t.mem, marks := t.marks, out := t.out, place := t.place, eng := t.eng, vrl := t.vrl }
  steady : Steady s t
  wf     : Memory.wf t.mem = true
  beyond : ∀ b, b < a ∨ a + n ≤ b → t.memByte b = s.memByte b

theorem State.noteDirty_only (t : State) (wid a n : Nat) : t.noteDirty wid a n = { t with eng := (t.noteDirty wid a n).eng } := by
  unfold State.noteDirty
  split <;> rfl

theorem State.copyWrite_only (t : State) (a n : Nat) : t.copyWrite a n = { t with vrl := (t.copyWrite a n).vrl } := by
  unfold State.copyWrite
  split
  · rfl
  · split <;> rfl

/-- One slice of a write to ready memory, with what is noted of it. -/
theorem Stored.slice {bs : List Byte} {m : Nat} (wf : Memory.wf s.mem = true) (backed : s.takeBacking (pageOf a) = s) :
    Stored a bs.length s ((s.writeSlice a bs false).noteDirty wid a m) where
  only := by
    rw [State.noteDirty_only, State.writeSlice, backed, State.copyWrite_only, State.memWrite_eq, State.invalidate_eq]
    rfl
  steady := by
    rw [State.noteDirty_only]
    exact (Steady.refl.writeSlice backed).same
  wf := by
    rw [State.noteDirty_mem, (State.writeSlice_spec backed bs).1]
    exact Memory.wf_memStore wf a bs
  beyond := fun b hb => by
    rw [State.memByte, State.noteDirty_mem, (State.writeSlice_spec backed bs).1]
    exact State.memByte_memStore_other wf hb

/-- A write to ready memory is made whole (R28, R220). -/
theorem State.writeBytes_ready {bs : List Byte} (ready : s.Ready [(a, bs.length)]) (wf : Memory.wf s.mem = true) :
    (s.writeBytes wid a bs false).1 = true ∧ Stored a bs.length s (s.writeBytes wid a bs false).2 := by
  unfold State.writeBytes
  refine List.foldlRecOn (motive := fun q : Bool × Bool × State => q.1 = true ∧ Stored a bs.length s q.2.2) _ _
    ⟨rfl, rfl, .refl, wf, fun _ _ => rfl⟩ ?_
  rintro ⟨ok, said, t⟩ ⟨rfl, st⟩ y hy
  obtain ⟨⟨-, low, high⟩, -, page⟩ := of_mem_pageSlices hy
  have here := ready.steady st.steady
  have acc := here.acc ⟨_, List.mem_singleton_self _, page⟩ true
  have backed := State.takeBacking_inPlace (here.2 _ (List.mem_singleton_self _)) page
  have part := Stored.slice (wid := wid) (bs := (bs.drop (y.1 - a)).take y.2) (m := ((bs.drop (y.1 - a)).take y.2).length) st.wf backed
  simp only [State.viewAt_none here.1, acc, Option.isSome_none, Bool.false_eq_true, if_false]
  refine ⟨trivial, ?_, st.steady.trans part.steady, part.wf, fun b hb => ?_⟩
  · have h := st.only
    have k := part.only
    dsimp only at h k
    rw [k, h]
  · refine (part.beyond b ?_).trans (st.beyond b hb)
    rw [List.length_take, List.length_drop]
    omega

end

end Sys2Proof.Machine
end

section
/-! Settles O36 and O37: a KV descriptor whose turn it is, and what HASH, LOOKUP, INSERT, RELEASE and REMOVE make of one block (R226, R229 to
R238). -/

namespace Sys2Proof.Machine

open Sys2Proof

theorem State.kvAt.code {s : State} {wid op : Nat} {w : Wb} {j : KvJob} {d : List Byte} (h : s.kvAt wid op w j d) : kvCode d = op := by
  obtain ⟨-, -, -, -, -, code, -⟩ := h
  exact code

theorem State.kvBegin_of_running {s : State} {wid op : Nat} {w : Wb} (hw : s.wb wid = some w) (running : w.phase = .running) :
    s.kvBegin wid op = s := by
  have idle : s.begin? wid opKv = none := by simp [State.begin?, State.mayBegin, hw, running]
  rw [State.kvBegin, idle]

theorem State.kvNext_of_kvAt {s : State} {wid op : Nat} {w : Wb} {j : KvJob} {d : List Byte} (h : s.kvAt wid op w j d) :
    s.kvNext wid op = some (w, j, d) := by
  obtain ⟨hw, -, hj, here, hd, code, turn⟩ := h
  simp only [State.kvNext, hw, hj, hd, here, code, turn, decide_true, Bool.not_false, Bool.and_self, if_true]

theorem State.kvRun_of_kvAt {s s1 : State} {wid op ns : Nat} {w : Wb} {j : KvJob} {d : List Byte} (h : s.kvAt wid op w j d)
    (ready : s.prepareFor wid 2 (s.kvTouches w.part d).1 ((s.kvTouches w.part d).2 ++ j.place w) = (true, s1))
    (f : Wb → KvJob → List Byte → State → State) : s.kvRun wid op ns f = f w j d (s1.chargeWb wid ns) := by
  have next := State.kvNext_of_kvAt h
  obtain ⟨hw, running, -⟩ := h
  simp only [State.kvRun, State.kvBegin_of_running hw running, next, ready, running, Bool.not_true, Bool.false_eq_true, if_false, if_true]

theorem kvOpStep_of_kvAt {s s1 : State} {wid op : Nat} (ns : Nat) {w : Wb} {j : KvJob} {d : List Byte} (h : s.kvAt wid op w j d)
    (ready : s.prepareFor wid 2 (s.kvTouches w.part d).1 ((s.kvTouches w.part d).2 ++ j.place w) = (true, s1)) :
    let k := (s1.chargeWb wid ns).kvExec wid w.part d
    kvOpStep wid op ns s = k.s.kvWritten w j k.result k.matched k.done :=
  State.kvRun_of_kvAt h ready _

/-- Settles O36: a begun Waybill's next descriptor is executed as it stands, whichever of the five operations it is of. -/
theorem kvDescriptor : Obligations.KvDescriptor := by
  rintro wid ns op m s0 s s1 w j d rfl here ready k t
  have step : (kvOpStep wid op ns (s0.meetsErr wid m)).served = t := congrArg State.served (kvOpStep_of_kvAt ns here ready)
  refine ⟨?_, ?_, ?_, ?_, ?_⟩ <;> (rintro rfl; exact congrArg Host.Outcome.next step)

/-! ### The length of a chain value -/

theorem keccakRound_length (a : List DWord) (rc : DWord) : (keccakRound a rc).length = 25 := rfl

theorem keccakF_length {a : List DWord} (h : a.length = 25) : (keccakF a).length = 25 :=
  List.foldlRecOn (motive := fun a : List DWord => a.length = 25) keccakRC keccakRound h fun a _ rc _ => keccakRound_length a rc

theorem flatten_leBytes_length (l : List DWord) : ((l.map fun v => leBytes 8 v.toNat).flatten).length = 8 * l.length := by
  induction l with
  | nil => rfl
  | cons v l ih => rw [List.map_cons, List.flatten_cons, List.length_append, ih, leBytes_length, List.length_cons]; omega

/-- A chain value has 16 bytes (R226). -/
theorem chainVal_length (prev ids : List Byte) : (chainVal prev ids).length = 16 := by
  have absorbed (l : List (List Byte)) : (l.foldl (fun s b => keccakF (keccakAbsorb s b)) (List.replicate 25 0)).length = 25 :=
    List.foldlRecOn (motive := fun a : List DWord => a.length = 25) l _ List.length_replicate fun a h b _ =>
      keccakF_length (by rw [keccakAbsorb, List.length_map, List.length_zipIdx, h])
  change (List.take 16 (List.flatten ((List.take 17 _).map _))).length = 16
  rw [List.length_take, flatten_leBytes_length, List.length_take, absorbed]
  rfl

section

variable {s t u : State} {wid op ns p : Nat} {w : Wb} {j : KvJob} {d h : List Byte} {n : Node}

/-! ### An operation on one block -/

/-- No error is met by a command that is given none. -/
theorem State.meetsErr_none (hw : s.wb wid = some w) : s.meetsErr wid ⟨[], [], []⟩ = { s with err := { s.err with fresh := [] } } := by
  rw [State.meetsErr, hw]
  rfl

/-- A run of a descriptor with its RESULT, its counts of blocks matched and done, and the state that it leaves. -/
def KvRun.Gives (k : KvRun) (result matched done : Nat) (t : State) : Prop :=
  k.result = result ∧ k.matched = matched ∧ k.done = done ∧ k.s = t

/-- What is noted of Waybills, accesses and errors has moved, and nothing else. -/
def NotedOnly (s u : State) : Prop := u = { s with sched := u.sched, place := u.place, err := u.err }

theorem NotedOnly.parts (h : NotedOnly s u) :
    u.kv = s.kv ∧ u.aon = s.aon ∧ u.mem = s.mem ∧ u.marks = s.marks ∧ (s.regsWf → u.regsWf) ∧ ∀ p die, u.noRoom p die = s.noRoom p die := by
  unfold NotedOnly at h
  rw [h]
  exact ⟨rfl, rfl, rfl, rfl, id, fun _ _ => rfl⟩

/-- A descriptor whose ranges and whose own place are in place is executed on a state that differs in what is noted alone, and in which they
are ready (R233, R252). -/
theorem kvOpStep_of_inPlace (here : s.kvAt wid op w j d) (views : s.kv.views = []) {reads writes : List (Nat × Nat)}
    (touches : ∀ v : State, v.kvTouches w.part d = (reads, writes))
    (place : ∀ x ∈ reads ++ (writes ++ j.place w), s.inPlace (s.accDie wid 2) x.1 x.2) :
    ∃ u : State, NotedOnly s u ∧ u.Ready (reads ++ (writes ++ j.place w))
      ∧ ∀ {r m n : Nat} {t : State}, (u.kvExec wid w.part d).Gives r m n t →
        kvOpStep wid op ns (s.meetsErr wid ⟨[], [], []⟩) = t.kvWritten w j r m n := by
  rw [State.meetsErr_none here.1]
  obtain ⟨p, ready, via, pages⟩ := State.prepareFor_ready (s := { s with err := { s.err with fresh := [] } }) (wid := wid) (key := 2)
    (reads := reads) (writes := writes ++ j.place w) views place
  have charged (v : State) : v.chargeWb wid ns = { v with sched := (v.chargeWb wid ns).sched } := by
    unfold State.chargeWb
    split <;> rfl
  have prepared : ({ s with place := p, err := { s.err with fresh := [] } } : State).Ready (reads ++ (writes ++ j.place w)) :=
    ⟨views, fun x hx => State.inPlace_congr (s := s) (t := { s with place := p, err := { s.err with fresh := [] } }) pages rfl rfl
      (by rw [via]; exact place x hx)⟩
  have step := kvOpStep_of_kvAt ns (s := { s with err := { s.err with fresh := [] } }) here (by rw [touches]; exact ready)
  refine ⟨({ s with place := p, err := { s.err with fresh := [] } } : State).chargeWb wid ns, ?_, ?_, ?_⟩
  · rw [charged]
    rfl
  · rw [charged]
    exact prepared.steady Steady.refl.same
  · rintro _ _ _ _ ⟨rfl, rfl, rfl, rfl⟩
    exact step

theorem kvLoop_one (f : KvRun → KvRun) (k : KvRun) : kvLoop f 1 k = f k := by
  rw [kvLoop]
  split <;> rfl

section

variable {p : Nat} (one : kvCount d = 1)
include one

theorem kvExec_hash (code : kvCode d = 0x01) : s.kvExec wid p d = (kvFresh s d).hashBlock wid d := by
  simp [State.kvExec, code, one, kvLoop_one]

theorem kvExec_lookup (code : kvCode d = 0x02) : s.kvExec wid p d = (kvFresh s d).lookupBlock wid p d := by
  simp [State.kvExec, code, one, kvLoop_one]

theorem kvExec_insert (code : kvCode d = 0x03) (root : kvRoot d = true) : s.kvExec wid p d = (kvFresh s d).insertBlock wid p d := by
  simp [State.kvExec, code, one, root, kvLoop_one]

theorem kvExec_list (code : kvCode d = 0x04 ∨ kvCode d = 0x05) :
    s.kvExec wid p d = (kvFresh s d).listEntry wid p d (decide (kvCode d = 0x05)) := by
  obtain code | code := code <;> simp [State.kvExec, code, one, kvLoop_one]

end

section

variable {h : List Byte} (c : s.Clean (kvIds d) 2048) (hv : chainVal (kvStart d) (s.memRead (kvIds d) 2048) = h)
include c hv

/-- The identifiers of the first block are read clean; with no HASHES its chain value is not written (R226). -/
theorem hashed_of_clean (hh : kvHashes d = 0) :
    (kvFresh s d).hashed wid d = (h, { kvFresh s d with s := s.noteRead wid (kvIds d) 2048 }) := by
  have read := State.kvRead_clean (wid := wid) c (by decide)
  simp only [KvRun.hashed, kvFresh, Nat.mul_zero, Nat.add_zero, read, hh, if_true, hv]

/-- HASH writes the chain value of its block (R231). -/
theorem hashBlock_of_clean (hh : kvHashes d ≠ 0) (ready : s.Ready [(kvHashes d, 16)]) (wf : Memory.wf s.mem = true) :
    ((kvFresh s d).hashBlock wid d).Gives 0 0 1 ((s.noteRead wid (kvIds d) 2048).writeBytes wid (kvHashes d) h false).2 := by
  have read := State.kvRead_clean (wid := wid) c (by decide)
  have quiet := Undisturbed.noteRead (wid := wid) c
  have ok := (State.writeBytes_ready (wid := wid) (s := s.noteRead wid (kvIds d) 2048) (a := kvHashes d) (bs := h)
    (by rw [← hv, chainVal_length]; exact ready.steady quiet.steady) (quiet.mem ▸ wf)).1
  simp [KvRun.Gives, KvRun.hashBlock, KvRun.hashed, kvFresh, read, hv, hh, State.kvWrite, ok, KvRun.next]

end

/-! ### Nodes -/

theorem State.node_congr (e : t.kv = s.kv) (p : Nat) (h : List Byte) : t.node p h = s.node p h := by rw [State.node, e, State.node]

theorem State.of_node (e : s.node p h = some n) : n.part = p ∧ n.h = h := by simpa using List.find?_some e

theorem State.node_updNode {f : Node → Node} (hf : ∀ n, (f n).part = n.part ∧ (f n).h = n.h) (e : s.node p h = some n) :
    (s.updNode p h f).node p h = some (f n) := by
  refine (find?_updIf (fun n => by rw [(hf n).1, (hf n).2]) s.kv.nodes).trans ?_
  change (s.node p h).map _ = _
  rw [e]
  exact congrArg some (if_pos (List.find?_some e))

/-- A node that is removed is in the tree no more, whatever its parent's count of children (R238). -/
theorem State.node_dropNode (s : State) (n : Node) : (s.dropNode n).node n.part n.h = none := by
  have gone : (s.kv.nodes.filter fun x => !(decide (x.part = n.part ∧ x.h = n.h))).find? (fun x => decide (x.part = n.part ∧ x.h = n.h)) = none :=
    List.find?_eq_none.2 fun x hx => by simpa only [Bool.not_eq_true', ← Bool.not_eq_true] using (List.mem_filter.1 hx).2
  unfold State.dropNode
  dsimp only
  split
  · exact gone
  · refine (find?_updIf (fun _ => by rfl) _).trans ?_
    rw [gone]
    rfl

/-! ### Probes -/

theorem Steady.bump64 {off m : Nat} (h : Steady s t) (lo : rClkRun ≠ off) (hi : rClkRun ≠ off + 4) : Steady s (t.bump64 off m) :=
  h.same (run := (sget_sset_ne _ hi).trans (sget_sset_ne _ lo))

/-- A probe is counted in registers alone (R244). -/
theorem State.countProbe_only (s : State) (h : List Byte) (hit : Bool) :
    s.countProbe h hit = { s with regs := (s.countProbe h hit).regs } := by
  unfold State.countProbe
  dsimp only
  split <;> rfl

@[simp] theorem State.countProbe_kv (s : State) (h : List Byte) (hit : Bool) : (s.countProbe h hit).kv = s.kv := by
  rw [State.countProbe_only]

@[simp] theorem State.countProbe_aon (s : State) (h : List Byte) (hit : Bool) : (s.countProbe h hit).aon = s.aon := by
  rw [State.countProbe_only]

@[simp] theorem State.countProbe_mem (s : State) (h : List Byte) (hit : Bool) : (s.countProbe h hit).mem = s.mem := by
  rw [State.countProbe_only]

@[simp] theorem State.countProbe_marks (s : State) (h : List Byte) (hit : Bool) : (s.countProbe h hit).marks = s.marks := by
  rw [State.countProbe_only]

theorem Steady.countProbe {hit : Bool} (k : Steady s t) : Steady s (t.countProbe h hit) := by
  have probes : Steady s (t.bump64 (rGazProbesLo (nodeDie h)) 1) :=
    k.bump64 (by simp only [rClkRun, rGazProbesLo]; omega) (by simp only [rClkRun, rGazProbesLo]; omega)
  exact Steady.ite (probes.bump64 (by simp only [rClkRun, rGazHitsLo]; omega) (by simp only [rClkRun, rGazHitsLo]; omega)) probes

/-! ### LOOKUP (R235) -/

/-- A node that is found, once it is used (R235). -/
def Node.used (n : Node) (aon : Nat) (acquire : Bool) : Node := { n with last := aon, refs := if acquire then n.refs + 1 else n.refs }

/-- The state in which the node of the first block has been found and used, its handle still to be written. -/
def State.foundFirst (s : State) (wid p : Nat) (d h : List Byte) : State :=
  ((s.noteRead wid (kvIds d) 2048).countProbe h true).updNode p h fun n => n.used s.aon (kvAcquire d)

section

variable (c : s.Clean (kvIds d) 2048)
include c

theorem State.node_noteRead (p : Nat) (h : List Byte) : (s.noteRead wid (kvIds d) 2048).node p h = s.node p h :=
  State.node_congr (Undisturbed.noteRead c).kv p h

theorem State.foundFirst_steady : Steady s (s.foundFirst wid p d h) := ((Undisturbed.noteRead c).steady.countProbe).same

theorem State.foundFirst_mem : (s.foundFirst wid p d h).mem = s.mem :=
  (State.countProbe_mem _ h true).trans (Undisturbed.noteRead (wid := wid) c).mem

theorem State.node_foundFirst (found : s.node p h = some n) : (s.foundFirst wid p d h).node p h = some (n.used s.aon (kvAcquire d)) := by
  unfold State.foundFirst
  refine State.node_updNode (fun _ => ⟨rfl, rfl⟩) ?_
  exact (State.node_congr (State.countProbe_kv _ h true) p h).trans ((State.node_noteRead (wid := wid) c p h).trans found)

variable (hv : chainVal (kvStart d) (s.memRead (kvIds d) 2048) = h) (hh : kvHashes d = 0)
include hv hh

/-- A block that the tree does not have ends the probing and nothing else. -/
theorem lookupBlock_of_absent (absent : s.node p h = none) :
    ((kvFresh s d).lookupBlock wid p d).Gives 0 0 1
      ((s.noteRead wid (kvIds d) 2048).countProbe h false) := by
  rw [KvRun.lookupBlock, hashed_of_clean c hv hh]
  simp [KvRun.Gives, kvFresh, State.node_noteRead c, absent, KvRun.next]

theorem lookupBlock_of_found (found : s.node p h = some n) (room : n.refs < 0xFFFFFFFF) (ready : s.Ready [(kvHandles d, 8)])
    (wf : Memory.wf s.mem = true) :
    ((kvFresh s d).lookupBlock wid p d).Gives 0 1 1
      (((s.foundFirst wid p d h).writeBytes wid (kvHandles d) (leBytes 8 n.handle) false).2) := by
  have ok := (State.writeBytes_ready (wid := wid) (s := s.foundFirst wid p d h) (a := kvHandles d) (bs := leBytes 8 n.handle)
    (by rw [leBytes_length]; exact ready.steady (State.foundFirst_steady c)) (State.foundFirst_mem c ▸ wf)).1
  have aon : (s.noteRead wid (kvIds d) 2048).aon = s.aon := (Undisturbed.noteRead c).aon
  obtain ⟨rfl, rfl⟩ := State.of_node found
  have few : ¬(n.refs = 0xFFFFFFFF) := by omega
  rw [KvRun.lookupBlock, hashed_of_clean c hv hh]
  unfold State.foundFirst Node.used at ok ⊢
  simp [KvRun.Gives, kvFresh, State.node_noteRead c, found, KvRun.found, few, aon, State.kvWrite, ok, KvRun.next]

end

/-! ### RELEASE and REMOVE (R238) -/

section

variable (c : s.Clean (kvHashes d) 16) (he : s.memRead (kvHashes d) 16 = h)
include c he

theorem listEntry_of_absent (absent : s.node p h = none) (remove : Bool) :
    ((kvFresh s d).listEntry wid p d remove).Gives 4 0 0 (s.noteRead wid (kvHashes d) 16) := by
  have read := State.kvRead_clean (wid := wid) c (by decide)
  have node : (s.noteRead wid (kvHashes d) 16).node p h = none := (State.node_congr (Undisturbed.noteRead c).kv p h).trans absent
  simp [KvRun.Gives, KvRun.listEntry, kvFresh, read, he, node]

theorem listEntry_of_found (found : s.node p h = some n) (remove : Bool) :
    let k := { kvFresh s d with s := s.noteRead wid (kvHashes d) 16 }
    (kvFresh s d).listEntry wid p d remove = if remove then
        if n.refs ≠ 0 ∨ n.kids ≠ 0 then { k with result := 7 } else { k with s := k.s.dropNode n }.next h
      else if n.refs = 0 then { k with result := 5 }
      else { k with s := k.s.updNode p h fun n => { n with refs := n.refs - 1 } }.next h := by
  have read := State.kvRead_clean (wid := wid) c (by decide)
  have node : (s.noteRead wid (kvHashes d) 16).node p h = some n := (State.node_congr (Undisturbed.noteRead c).kv p h).trans found
  simp [KvRun.listEntry, kvFresh, read, he, node]

end

/-! ### INSERT (R236) -/

/-- Whether a die has room rests on its nodes, on its fence and on two registers (R229, R233). -/
theorem State.noRoom_congr {die : Nat} (kv : t.kv = s.kv) (clk : t.clk = s.clk) (cfg : t.reg (rGazCfg die) = s.reg (rGazCfg die))
    (quota : t.reg (rGazQuota die p) = s.reg (rGazQuota die p)) : t.noRoom p die = s.noRoom p die := by
  unfold State.noRoom State.gazOn State.gazCap State.gazUsed State.gazHeld State.fld State.fenced
  rw [kv, clk, cfg, quota]

theorem Undisturbed.noRoom (k : Undisturbed s t) (wf : s.regsWf) (p die : Nat) : t.noRoom p die = s.noRoom p die :=
  State.noRoom_congr k.kv k.clk ((k.regs wf).2 _) ((k.regs wf).2 _)

/-- Counting a probe leaves the room of its die as it was. -/
theorem State.noRoom_countProbe (s : State) (p : Nat) (h : List Byte) : (s.countProbe h false).noRoom p (nodeDie h) = s.noRoom p (nodeDie h) := by
  have kept (off : Nat) (lo : off ≠ rGazProbesLo (nodeDie h)) (hi : off ≠ rGazProbesLo (nodeDie h) + 4) :
      (s.countProbe h false).reg off = s.reg off := (sget_sset_ne _ hi).trans (sget_sset_ne _ lo)
  refine State.noRoom_congr (State.countProbe_kv s h false) rfl (kept _ ?_ ?_) (kept _ ?_ ?_) <;>
    simp only [rGazCfg, rGazQuota, rGazProbesLo] <;> omega

theorem State.regsWf_countProbe (wf : s.regsWf) : (s.countProbe h false).regsWf := State.regsWf_bump64 wf _ _

/-- An event of a Waybill moves nothing but its entry, the host interface and registers (R59, R63). -/
theorem State.emitFor_only (s : State) (wid : Nat) (e : Ev) : s.emitFor wid e
    = { s with regs := (s.emitFor wid e).regs, out := (s.emitFor wid e).out, host := (s.emitFor wid e).host,
               io := (s.emitFor wid e).io, sched := (s.updWb wid fun w => { w with events := w.events + 1 }).sched } :=
  (State.emit_event _ e).host

/-- A root that is created adds itself to the tree; its event moves nothing of it and no memory (R236, R242). -/
theorem State.addNode_root (s : State) (wid : Nat) {n : Node} (root : n.root = true) :
    (s.addNode wid n).kv = { s.kv with nodes := s.kv.nodes ++ [n] } ∧ (s.addNode wid n).mem = s.mem ∧ (s.addNode wid n).marks = s.marks := by
  simp only [State.addNode, root, if_true]
  split
  · rw [State.emitFor_only]
    exact ⟨rfl, rfl, rfl⟩
  · exact ⟨rfl, rfl, rfl⟩

theorem State.node_addNode (absent : s.node n.part n.h = none) (root : n.root = true) : (s.addNode wid n).node n.part n.h = some n := by
  rw [State.node, (s.addNode_root wid root).1, List.find?_append]
  change (s.node n.part n.h).or _ = _
  rw [absent, Option.none_or, List.find?_cons_of_pos (by simp)]

/-- The node that INSERT creates for a first block that is a root. -/
def rootNode (d h hb : List Byte) (p aon : Nat) : Node :=
  { h := h, parent := kvStart d, root := true, handle := leNat hb, part := p, die := nodeDie h, refs := if kvAcquire d then 1 else 0,
    kids := 0, last := aon }

/-- The state in which the first block has not been found and its handle has been read. -/
def State.missedFirst (s : State) (wid : Nat) (d h : List Byte) : State :=
  ((s.noteRead wid (kvIds d) 2048).countProbe h false).noteRead wid (kvHandles d) 8

section

variable (c : s.Clean (kvIds d) 2048) (ch : s.Clean (kvHandles d) 8)
include c ch

/-- The handle is read clean after the probe. -/
theorem State.Clean.handle : ((s.noteRead wid (kvIds d) 2048).countProbe h false).Clean (kvHandles d) 8 :=
  (ch.undisturbed (Undisturbed.noteRead c)).steady Steady.refl.countProbe (State.countProbe_marks _ h false)

theorem State.missedFirst_parts : (s.missedFirst wid d h).kv = s.kv ∧ (s.missedFirst wid d h).aon = s.aon
    ∧ (s.missedFirst wid d h).mem = s.mem ∧ (s.missedFirst wid d h).marks = s.marks := by
  have first := Undisturbed.noteRead (wid := wid) c
  have second := Undisturbed.noteRead (wid := wid) (State.Clean.handle (wid := wid) (h := h) c ch)
  exact ⟨second.kv.trans ((State.countProbe_kv _ h false).trans first.kv), second.aon.trans ((State.countProbe_aon _ h false).trans first.aon),
    second.mem.trans ((State.countProbe_mem _ h false).trans first.mem), second.marks.trans ((State.countProbe_marks _ h false).trans first.marks)⟩

theorem State.noRoom_missedFirst (wf : s.regsWf) : (s.missedFirst wid d h).noRoom p (nodeDie h) = s.noRoom p (nodeDie h) := by
  have first := Undisturbed.noteRead (wid := wid) c
  have second := Undisturbed.noteRead (wid := wid) (State.Clean.handle (wid := wid) (h := h) c ch)
  exact (second.noRoom (State.regsWf_countProbe (first.regs wf).1) p _).trans ((State.noRoom_countProbe _ p h).trans (first.noRoom wf p _))

/-- INSERT creates a root for a block that the tree does not have, on a die with room (R229, R236). -/
theorem insertBlock_of_absent (hv : chainVal (kvStart d) (s.memRead (kvIds d) 2048) = h) (hh : kvHashes d = 0) (root : kvRoot d = true)
    (absent : s.node p h = none) (room : s.noRoom p (nodeDie h) = none) (wf : s.regsWf) :
    ((kvFresh s d).insertBlock wid p d).Gives 0 0 1
      ((s.missedFirst wid d h).addNode wid (rootNode d h (s.memRead (kvHandles d) 8) p s.aon)) := by
  have read := State.kvRead_clean (wid := wid) (State.Clean.handle (wid := wid) (h := h) c ch) (by decide)
  have bytes : ((s.noteRead wid (kvIds d) 2048).countProbe h false).memRead (kvHandles d) 8 = s.memRead (kvHandles d) 8 :=
    congrArg (sgetMany memReset · (kvHandles d) 8) ((State.countProbe_mem _ h false).trans (Undisturbed.noteRead (wid := wid) c).mem)
  have free := (State.noRoom_missedFirst (wid := wid) (p := p) c ch wf).trans room
  have aon := (State.missedFirst_parts (wid := wid) (h := h) c ch).2.1
  rw [KvRun.insertBlock, hashed_of_clean c hv hh]
  unfold State.missedFirst at free aon ⊢
  simp [KvRun.Gives, kvFresh, State.node_noteRead c, absent, KvRun.create, read, bytes, free, aon, root, rootNode, KvRun.next]

end

/-! ### The operations on one block, from a descriptor in place -/

theorem NotedOnly.memRead (h : NotedOnly s u) (a n : Nat) : u.memRead a n = s.memRead a n := by
  obtain ⟨-, -, mem, -⟩ := h.parts
  rw [State.memRead, mem]
  rfl

theorem NotedOnly.node (h : NotedOnly s u) (p : Nat) (v : List Byte) : u.node p v = s.node p v := State.node_congr h.parts.1 p v

/-- A range that is clean is so for a descriptor that is executed once it is ready (R260). -/
theorem State.cleanAt.clean {via : Option (Nat × Nat)} {a n : Nat} (c : s.cleanAt via a n) (h : NotedOnly s u) {l : List (Nat × Nat)}
    (ready : u.Ready l) (mem : (a, n) ∈ l) : u.Clean a n := by
  refine ⟨ready.mono fun x hx => List.mem_singleton.1 hx ▸ mem, List.any_eq_false.2 fun k hk => ?_⟩
  have unmarked := c.2.2 k hk
  rw [State.poisoned, Nat.mul_div_cancel_left k (by decide)] at unmarked
  obtain ⟨-, -, -, marks, -⟩ := h.parts
  rw [marks, unmarked]
  decide

/-- What a Gazetteer writes to ready memory is read back, and the bytes around it and the tree are as they were. -/
theorem State.writeBytes_block {a : Nat} {bs : List Byte} (ready : s.Ready [(a, bs.length)]) (wf : Memory.wf s.mem = true) :
    (s.writeBytes wid a bs false).2.memRead a bs.length = bs ∧ (s.writeBytes wid a bs false).2.kv = s.kv
      ∧ ∀ b, b < a ∨ a + bs.length ≤ b → (s.writeBytes wid a bs false).2.memByte b = s.memByte b := by
  have stored := (State.writeBytes_ready (wid := wid) ready wf).2
  refine ⟨State.memRead_writeBytes ready wf, ?_, stored.beyond⟩
  rw [stored.only]

variable (one : kvCount d = 1) (own : s.inPlace (s.accDie wid 2) (wArg w.slot 0 + 64 * j.next) 64)
include one own

theorem exec_hash (here : s.kvAt wid 0x01 w j d) (wf : Memory.wf s.mem = true) (c : s.cleanAt (s.accDie wid 2) (kvIds d) 2048)
    (out : s.inPlace (s.accDie wid 2) (kvHashes d) 16) (hh : kvHashes d ≠ 0) (ids : kvIds d ≠ 0) :
    ∃ u : State, exec (.hash wid ⟨ns, ⟨[], [], []⟩⟩) s = .next (u.kvWritten w j 0 0 1).served
      ∧ u.memRead (kvHashes d) 16 = chainVal (kvStart d) (s.memRead (kvIds d) 2048) ∧ u.kv = s.kv
      ∧ ∀ a, a < kvHashes d ∨ kvHashes d + 16 ≤ a → u.memByte a = s.memByte a := by
  generalize hv : chainVal (kvStart d) (s.memRead (kvIds d) 2048) = h
  have len : h.length = 16 := hv ▸ chainVal_length _ _
  have code := here.code
  obtain ⟨v, noted, ready, step⟩ := kvOpStep_of_inPlace (ns := ns) here c.1 (reads := [(kvIds d, 2048)]) (writes := [(kvHashes d, 16)])
    (fun v => by simp [State.kvTouches, code, one, ids, hh]) (by simpa [KvJob.place] using ⟨c.2.1, out, own⟩)
  obtain ⟨kv, -, mem, -⟩ := noted.parts
  have clean := c.clean noted ready (by simp)
  have quiet := Undisturbed.noteRead (wid := wid) clean
  have there : v.Ready [(kvHashes d, 16)] := ready.mono (by simp)
  have gives := hashBlock_of_clean (wid := wid) clean ((congrArg _ (noted.memRead _ _)).trans hv) hh there (mem ▸ wf)
  rw [← kvExec_hash (p := w.part) one code] at gives
  obtain ⟨back, tree, beyond⟩ := State.writeBytes_block (wid := wid) (s := v.noteRead wid (kvIds d) 2048) (a := kvHashes d) (bs := h)
    (len ▸ there.steady quiet.steady) (by rw [quiet.mem, mem]; exact wf)
  rw [len] at back beyond
  refine ⟨_, congrArg (fun t : State => Host.Outcome.next t.served) (step gives), back, tree.trans (quiet.kv.trans kv), fun a ha => ?_⟩
  refine (beyond a ha).trans ?_
  rw [State.memByte, quiet.mem, mem]
  rfl

section

variable (here : s.kvAt wid 0x02 w j d) (c : s.cleanAt (s.accDie wid 2) (kvIds d) 2048) (out : s.inPlace (s.accDie wid 2) (kvHandles d) 8)
  (hh : kvHashes d = 0) (ids : kvIds d ≠ 0) (handles : kvHandles d ≠ 0) {h : List Byte}
  (hv : chainVal (kvStart d) (s.memRead (kvIds d) 2048) = h)
include here c out hh ids handles hv

/-- A LOOKUP is executed where the identifiers are clean and the handle may be written. -/
theorem lookup_ready : ∃ v : State, NotedOnly s v ∧ v.Clean (kvIds d) 2048 ∧ v.Ready [(kvHandles d, 8)]
    ∧ chainVal (kvStart d) (v.memRead (kvIds d) 2048) = h
    ∧ ∀ {r m n : Nat} {t : State}, ((kvFresh v d).lookupBlock wid w.part d).Gives r m n t →
      exec (.lookup wid ⟨ns, ⟨[], [], []⟩⟩) s = .next (t.kvWritten w j r m n).served := by
  have code := here.code
  obtain ⟨v, noted, ready, step⟩ := kvOpStep_of_inPlace (ns := ns) here c.1 (reads := [(kvIds d, 2048)]) (writes := [(kvHandles d, 8)])
    (fun v => by simp [State.kvTouches, code, one, ids, hh, handles]) (by simpa [KvJob.place] using ⟨c.2.1, out, own⟩)
  refine ⟨v, noted, c.clean noted ready (by simp), ready.mono (by simp), (congrArg _ (noted.memRead _ _)).trans hv, fun gives => ?_⟩
  rw [← kvExec_lookup (p := w.part) one code] at gives
  exact congrArg (fun t : State => Host.Outcome.next t.served) (step gives)

theorem exec_lookup_of_absent (absent : s.node w.part h = none) :
    ∃ u : State, exec (.lookup wid ⟨ns, ⟨[], [], []⟩⟩) s = .next (u.kvWritten w j 0 0 1).served ∧ u.kv = s.kv ∧ SameMemory s u := by
  obtain ⟨v, noted, clean, -, hv, step⟩ := lookup_ready (ns := ns) one own here c out hh ids handles hv
  obtain ⟨kv, -, mem, marks, -⟩ := noted.parts
  have quiet := Undisturbed.noteRead (wid := wid) clean
  refine ⟨_, step (lookupBlock_of_absent clean hv hh ((noted.node _ _).trans absent)), ?_, fun a => ?_, fun a => ?_⟩
  · rw [State.countProbe_kv, quiet.kv, kv]
  · rw [State.memByte, State.countProbe_mem, quiet.mem, mem]
    rfl
  · rw [State.poisoned, State.countProbe_marks, quiet.marks, marks]
    rfl

theorem exec_lookup_of_found (wf : Memory.wf s.mem = true) {n : Node} (found : s.node w.part h = some n) (room : n.refs < 0xFFFFFFFF) :
    ∃ u : State, exec (.lookup wid ⟨ns, ⟨[], [], []⟩⟩) s = .next (u.kvWritten w j 0 1 1).served
      ∧ u.memRead (kvHandles d) 8 = leBytes 8 n.handle
      ∧ u.node w.part h = some { n with last := s.aon, refs := if kvAcquire d then n.refs + 1 else n.refs } := by
  obtain ⟨v, noted, clean, ready, hv, step⟩ := lookup_ready (ns := ns) one own here c out hh ids handles hv
  obtain ⟨-, aon, mem, -⟩ := noted.parts
  have still := (noted.node _ _).trans found
  have wfv : Memory.wf v.mem = true := mem ▸ wf
  obtain ⟨back, tree, -⟩ := State.writeBytes_block (wid := wid) (s := v.foundFirst wid w.part d h) (a := kvHandles d) (bs := leBytes 8 n.handle)
    (by rw [leBytes_length]; exact ready.steady (State.foundFirst_steady clean)) (State.foundFirst_mem clean ▸ wfv)
  rw [leBytes_length] at back
  refine ⟨_, step (lookupBlock_of_found clean hv hh still room ready wfv), back, ?_⟩
  rw [State.node_congr tree, State.node_foundFirst clean still, aon]
  rfl

end

theorem exec_insert (here : s.kvAt wid 0x03 w j d) (c : s.cleanAt (s.accDie wid 2) (kvIds d) 2048)
    (ch : s.cleanAt (s.accDie wid 2) (kvHandles d) 8) (hh : kvHashes d = 0) (evicts : kvEvicts d = 0) (ids : kvIds d ≠ 0)
    (handles : kvHandles d ≠ 0) (root : kvRoot d = true) {h : List Byte} (hv : chainVal (kvStart d) (s.memRead (kvIds d) 2048) = h)
    (absent : s.node w.part h = none) (room : s.noRoom w.part (nodeDie h) = none) (wf : s.regsWf) :
    ∃ (u : State) (n : Node), exec (.insert wid ⟨ns, ⟨[], [], []⟩⟩) s = .next (u.kvWritten w j 0 0 1).served ∧ u.node w.part h = some n
      ∧ n.handle = leNat (s.memRead (kvHandles d) 8) ∧ n.root = true ∧ n.kids = 0 ∧ n.die = nodeDie h
      ∧ n.refs = (if kvAcquire d then 1 else 0) ∧ n.last = s.aon ∧ SameMemory s u := by
  have code := here.code
  obtain ⟨v, noted, ready, step⟩ := kvOpStep_of_inPlace (ns := ns) here c.1 (reads := [(kvIds d, 2048), (kvHandles d, 8)])
    (writes := [(kvHandles d, 8)]) (fun v => by simp [State.kvTouches, code, one, ids, hh, handles, evicts])
    (by simpa [KvJob.place] using ⟨c.2.1, ch.2.1, own⟩)
  obtain ⟨-, aon, mem, marks, regs, rooms⟩ := noted.parts
  have clean := c.clean noted ready (by simp)
  have cleanHandle := ch.clean noted ready (by simp)
  have gives := insertBlock_of_absent (wid := wid) clean cleanHandle ((congrArg _ (noted.memRead _ _)).trans hv) hh root
    ((noted.node _ _).trans absent) ((rooms _ _).trans room) (regs wf)
  rw [← kvExec_insert (p := w.part) one code root] at gives
  obtain ⟨kv, -, mem', marks'⟩ := State.missedFirst_parts (wid := wid) (h := h) clean cleanHandle
  let n := rootNode d h (v.memRead (kvHandles d) 8) w.part v.aon
  obtain ⟨-, memAdded, marksAdded⟩ := State.addNode_root (v.missedFirst wid d h) wid (n := n) rfl
  have fresh : (v.missedFirst wid d h).node n.part n.h = none := (State.node_congr kv _ _).trans ((noted.node _ _).trans absent)
  refine ⟨_, n, congrArg (fun t : State => Host.Outcome.next t.served) (step gives), State.node_addNode fresh rfl,
    congrArg leNat (noted.memRead _ _), rfl, rfl, rfl, rfl, aon, fun a => ?_, fun a => ?_⟩
  · rw [State.memByte, memAdded, mem', mem]
    rfl
  · rw [State.poisoned, marksAdded, marks', marks]
    rfl

section

variable (here : s.kvAt wid op w j d) (which : op = 0x04 ∨ op = 0x05) (c : s.cleanAt (s.accDie wid 2) (kvHashes d) 16) (hh : kvHashes d ≠ 0)
  {e : List Byte} (he : s.memRead (kvHashes d) 16 = e)
include here which c hh he

/-- A RELEASE or REMOVE is executed where its entry is clean. -/
theorem list_ready : ∃ v : State, NotedOnly s v ∧ v.Clean (kvHashes d) 16 ∧ v.memRead (kvHashes d) 16 = e
    ∧ ∀ {r m n : Nat} {t : State}, ((kvFresh v d).listEntry wid w.part d (decide (op = 0x05))).Gives r m n t →
      exec (if op = 0x04 then .release wid ⟨ns, ⟨[], [], []⟩⟩ else .remove wid ⟨ns, ⟨[], [], []⟩⟩) s = .next (t.kvWritten w j r m n).served := by
  obtain rfl : kvCode d = op := here.code
  obtain ⟨v, noted, ready, step⟩ := kvOpStep_of_inPlace (ns := ns) here c.1 (reads := [(kvHashes d, 16)]) (writes := [])
    (fun v => by obtain code | code := which <;> simp [State.kvTouches, code, one, hh]) (by simpa [KvJob.place] using ⟨c.2.1, own⟩)
  refine ⟨v, noted, c.clean noted ready (by simp), (noted.memRead _ _).trans he, fun gives => ?_⟩
  rw [← kvExec_list (p := w.part) one which] at gives
  have done := congrArg (fun t : State => (Host.Outcome.next t.served : Host.Outcome State Fault Refusal)) (step gives)
  obtain code | code := which <;> rw [code] at done ⊢ <;> exact done

theorem exec_list_of_absent (absent : s.node w.part e = none) :
    ∃ u : State, exec (if op = 0x04 then .release wid ⟨ns, ⟨[], [], []⟩⟩ else .remove wid ⟨ns, ⟨[], [], []⟩⟩) s
      = .next (u.kvWritten w j 4 0 0).served ∧ u.kv = s.kv := by
  obtain ⟨v, noted, clean, he, step⟩ := list_ready (ns := ns) one own here which c hh he
  exact ⟨_, step (listEntry_of_absent clean he ((noted.node _ _).trans absent) _), (Undisturbed.noteRead clean).kv.trans noted.parts.1⟩

/-- What RELEASE and REMOVE make of a node that is found (R238). -/
theorem exec_list_of_found {n : Node} (found : s.node w.part e = some n) :
    ∃ v : State, v.kv = s.kv
      ∧ let gives (r k : Nat) (t : State) : Prop := exec (if op = 0x04 then .release wid ⟨ns, ⟨[], [], []⟩⟩ else .remove wid ⟨ns, ⟨[], [], []⟩⟩) s
          = .next (t.kvWritten w j r 0 k).served
        (op = 0x04 → n.refs = 0 → gives 5 0 v)
        ∧ (op = 0x04 → n.refs ≠ 0 → gives 0 1 (v.updNode w.part e fun n => { n with refs := n.refs - 1 }))
        ∧ (op = 0x05 → n.refs ≠ 0 ∨ n.kids ≠ 0 → gives 7 0 v)
        ∧ (op = 0x05 → n.refs = 0 → n.kids = 0 → gives 0 1 (v.dropNode n)) := by
  obtain ⟨v, noted, clean, he, step⟩ := list_ready (ns := ns) one own here which c hh he
  have entry := listEntry_of_found (wid := wid) clean he ((noted.node _ _).trans found) (decide (op = 0x05))
  refine ⟨v.noteRead wid (kvHashes d) 16, (Undisturbed.noteRead clean).kv.trans noted.parts.1, ?_, ?_, ?_, ?_⟩
  · rintro rfl refs
    exact step (by rw [entry]; simp [KvRun.Gives, kvFresh, refs])
  · rintro rfl refs
    exact step (by rw [entry]; simp [KvRun.Gives, KvRun.next, kvFresh, refs])
  · rintro rfl used
    exact step (by rw [entry]; simp [KvRun.Gives, kvFresh, used])
  · rintro rfl refs kids
    exact step (by rw [entry]; simp [KvRun.Gives, KvRun.next, kvFresh, refs, kids])

end

end

/-- Settles O37: each operation by what its one block or entry comes to, on a descriptor whose ranges are in place and clean. -/
theorem kvOperations : Obligations.KvOperations := by
  unfold Obligations.KvOperations
  intro wid ns op s w j d here one wf v k own h e
  refine ⟨?hash, ?lookup, ?insert, ?list⟩
  case hash =>
    rintro rfl c out hh ids
    exact exec_hash one own here wf c out hh ids
  case lookup =>
    rintro rfl c out hh ids handles
    exact ⟨exec_lookup_of_absent one own here c out hh ids handles rfl, fun n found room =>
      exec_lookup_of_found one own here c out hh ids handles rfl wf found room⟩
  case insert =>
    rintro rfl c ch hh evicts ids handles root absent room regs
    exact exec_insert one own here c ch hh evicts ids handles root rfl absent room regs
  case list =>
    intro which c hh call
    refine ⟨exec_list_of_absent one own here which c hh rfl, fun n found => ?_⟩
    obtain ⟨u, kv, noRefs, released, inUse, removed⟩ := exec_list_of_found (ns := ns) one own here which c hh rfl found
    have still : u.node w.part e = some n := (State.node_congr kv _ _).trans found
    refine ⟨fun ho refs => ⟨u, noRefs ho refs, kv⟩, fun ho refs => ⟨_, released ho refs, State.node_updNode (fun _ => ⟨rfl, rfl⟩) still⟩,
      fun ho used => ⟨u, inUse ho used, kv⟩, fun ho refs kids => ⟨_, removed ho refs kids, ?_⟩⟩
    obtain ⟨part, value⟩ := State.of_node found
    rw [← part, ← value]
    exact State.node_dropNode u n

end Sys2Proof.Machine
end

section
/-! Settles O3, the state after reset, and O34 and O35: what a host access at an HDM offset does where no page is lent, and at a lent page
(R255, R260, R275 to R277). -/

namespace Sys2Proof.Machine

open Sys2Proof

/-- Settles O3: the state after reset lists nothing, so every map is canonical and no field of one command is in use. -/
theorem resetIsSound : Obligations.ResetIsSound where
  mem := rfl
  marks := rfl
  sems := rfl
  regs := rfl
  latched := rfl
  io := rfl
  fresh := rfl
  serving := rfl
  via := rfl
  ctxs := fun _ h => nomatch h

section

variable {off : Nat} {s : State} {g : Page} (ready : s.ready = true) (trained : s.clk.trained = true)
  (up : bit 9 (s.reg rHifLinkStatus) = true)

/-- Where no page is lent to the host at an offset, none serves it. -/
theorem State.hdmPage_none (h : ∀ g ∈ s.place.pages, g.lent ≠ .host (off / 2 ^ 21 * 2 ^ 21)) : s.hdmPage off = none :=
  List.find?_eq_none.2 fun g hg => by simp only [decide_eq_false (h g hg), Bool.false_and, Bool.false_eq_true, not_false_iff]

/-- A line that the host is given is recorded; with room in the filter none is given up for it (R276). -/
theorem State.snoopAdd_of_room {l : Nat} (room : s.place.snoop.length < 8388608) :
    s.snoopAdd l = { s with place := { s.place with snoop := s.place.snoop.filter (· ≠ l) ++ [l] } } := by
  have fewer := List.length_filter_le (· ≠ l) s.place.snoop
  unfold State.snoopAdd
  exact if_neg (by omega)

include ready trained up

/-- An access at an offset where no page is lent is counted; a read of it returns poison, a write to it is dropped (R277). -/
theorem hostHdmAccessStep_stray (h : s.hdmPage off = none) (beat : HdmBeat) :
    hostHdmAccessStep off none beat s = (s.bump rSrvHdmStray 1).put (.hdmData off (List.replicate 64 0) true)
      ∧ ∀ bs, hostHdmAccessStep off (some bs) beat s = s.bump rSrvHdmStray 1 := by
  simp [hostHdmAccessStep, ready, trained, up, h]

/-- One at a lent page within reach records its line; a read that meets no error puts the line out, and a write is stored (R260, R276). -/
theorem hostHdmAccessStep_lent (h : s.hdmPage off = some g) (reach : s.outOf (3, 0) g.die = false) (room : s.place.snoop.length < 8388608) :
    let a := g.addr + off % 2 ^ 21
    ∃ p : Placing, a / 64 ∈ p.snoop
      ∧ hostHdmAccessStep off none ⟨false, ⟨[], [], []⟩⟩ s = (({ s with place := p, err := { s.err with fresh := [] } } : State).countPoison a 1).put
          (.hdmData off (s.memRead (a / 64 * 64) 64) (s.poisoned a))
      ∧ ∀ bs m, hostHdmAccessStep off (some bs) ⟨false, m⟩ s = ({ s with place := p } : State).memWrite a bs := by
  intro a
  refine ⟨{ s.place with snoop := s.place.snoop.filter (· ≠ a / 64) ++ [a / 64] }, by simp, ?_⟩
  simp only [hostHdmAccessStep, ready, trained, up, h, State.snoopAdd_of_room room, Bool.not_true, Bool.or_self, Bool.false_eq_true, if_false]
  refine ⟨?_, fun bs m => if_neg (Bool.eq_false_iff.1 reach)⟩
  have bad : (s.poisoned a || s.outOf (3, 0) g.die || Marks.sramUe ⟨[], [], []⟩) = s.poisoned a := by
    rw [reach, Bool.or_false]
    exact Bool.or_false _
  exact congrArg (State.put _) (congrArg (Out.hdmData off _) bad)

end

/-- Settles O34: with no page lent there, no page serves the access. -/
theorem strayHostAccess : Obligations.StrayHostAccess := by
  intro off bs beat s ready trained up unlent
  obtain ⟨read, write⟩ := hostHdmAccessStep_stray ready trained up (State.hdmPage_none unlent) beat
  exact ⟨⟨_, congrArg (fun t : State => Host.Outcome.next t.seen) read⟩, congrArg (fun t : State => Host.Outcome.next t.seen) (write bs)⟩

/-- Settles O35: a read counts at most marked lines, a write is stored at the page's address (log entry 18). -/
theorem hostAccessesLentPages : Obligations.HostAccessesLentPages := by
  intro off s g ready trained up lent reach room wf a
  obtain ⟨p, recorded, read, write⟩ := hostHdmAccessStep_lent ready trained up lent reach room
  refine ⟨⟨_, congrArg (fun t : State => Host.Outcome.next t.seen) read, ⟨fun _ => rfl, fun _ => rfl⟩, recorded, rfl⟩, fun bs m =>
    ⟨_, congrArg (fun t : State => Host.Outcome.next t.seen) (write bs m), ?_, ?_, fun k b hb => ?_, fun x hx => ?_⟩⟩
  · rw [State.memWrite_eq]
    exact recorded
  · rw [State.memWrite_eq]
    rfl
  · exact State.memByte_memWrite_same (s := { s with place := p }) wf hb
  · exact (State.memByte_memWrite (s := { s with place := p }) a bs x).trans (State.memByte_memStore_other (s := { s with place := p }) wf hx)

end Sys2Proof.Machine
end

section
/-! What the placement commands are made of: a PLACE Waybill that begins, entries of pages that are changed one after another, pages that
appear and leave, and the end of a Waybill's work (R254 to R258). -/

namespace Sys2Proof.Machine

open Sys2Proof

section

variable {s t : State} {wid : Nat} {w : Wb}

/-! ### The first of a list that fails a test -/

/-- An element of a list that passes a test, with none before it that does, is the one found. -/
theorem find?_zipIdx {α : Type} {l : List α} {p : α × Nat → Bool} {i : Nat} {x : α} (hx : l[i]? = some x) (found : p (x, i) = true)
    (before : ∀ j y, j < i → l[j]? = some y → p (y, j) = false) : l.zipIdx.find? p = some (x, i) := by
  obtain ⟨hi, rfl⟩ := List.getElem?_eq_some_iff.1 hx
  refine List.find?_eq_some_iff_getElem.2 ⟨found, i, by simpa using hi, by simp, fun j hj => ?_⟩
  simpa using before j _ hj (List.getElem?_eq_getElem (by omega))

/-- No element is found where none passes the test. -/
theorem find?_zipIdx_none {α : Type} {l : List α} {p : α × Nat → Bool} (h : ∀ i x, l[i]? = some x → p (x, i) = false) :
    l.zipIdx.find? p = none :=
  List.find?_eq_none.2 fun x hx => by simp [h _ _ (List.mem_zipIdx_iff_getElem?.1 hx)]

theorem firstBad_eq_some {l : List Nat} {f : Nat → Bool} {i n : Nat} (hn : l[i]? = some n) (bad : f n = true)
    (before : ∀ j m, j < i → l[j]? = some m → f m = false) : firstBad l f = some i := by
  rw [firstBad, find?_zipIdx (p := fun x => f x.1) hn bad before]
  rfl

theorem firstBad_eq_none {l : List Nat} {f : Nat → Bool} (h : ∀ n ∈ l, f n = false) : firstBad l f = none := by
  rw [firstBad, find?_zipIdx_none fun i n hn => h n (List.mem_of_getElem? hn)]
  rfl

/-! ### Entries of pages -/

/-- The entry of a page after one page's was changed. -/
theorem State.page_updPage (s : State) {m : Nat} {f : Page → Page} (hf : ∀ g, (f g).num = g.num) (n : Nat) :
    (s.updPage m f).page n = if n = m then (s.page n).map f else s.page n := by
  refine (find?_updIf (fun g => by rw [hf g]) s.place.pages).trans ?_
  change (s.page n).map _ = _
  cases h : s.page n with
  | none => simp
  | some g =>
    have e : g.num = n := by simpa using List.find?_some h
    by_cases c : n = m <;> simp [e, c]

/-- Entries after a list of changes, each of one page's, and none of which matters twice. -/
theorem State.page_foldl {α : Type} {l : List α} {key : α → Nat} {f : State → α → State} {upd : Nat → Page → Page}
    (again : ∀ n g, upd n (upd n g) = upd n g)
    (hf : ∀ x ∈ l, ∀ s n, (f s x).page n = if n = key x then (s.page n).map (upd n) else s.page n) (s : State) (n : Nat) :
    (l.foldl f s).page n = if n ∈ l.map key then (s.page n).map (upd n) else s.page n := by
  induction l generalizing s with
  | nil => rfl
  | cons x l ih =>
    rw [List.foldl_cons, ih (fun y hy => hf y (List.mem_cons_of_mem x hy)), hf x List.mem_cons_self, List.map_cons]
    have twice (o : Option Page) : (o.map (upd n)).map (upd n) = o.map (upd n) := by
      rw [Option.map_map]
      exact congrArg (Option.map · o) (funext (again n))
    by_cases here : n = key x
    · subst here
      simp only [List.mem_cons, true_or, if_true, twice, ite_self]
    · simp only [List.mem_cons, here, false_or, if_false]

/-- The same for changes of entries alone, each page's the same whenever it comes. -/
theorem State.page_foldl_updPage {l : List Nat} {f : Page → Page} (again : ∀ g, f (f g) = f g) (num : ∀ g, (f g).num = g.num) (s : State)
    (n : Nat) : (l.foldl (fun s n => s.updPage n f) s).page n = if n ∈ l then (s.page n).map f else s.page n := by
  have h := State.page_foldl (l := l) (key := id) (upd := fun _ => f) (fun _ => again) (fun x _ s n => s.page_updPage num n) s n
  rwa [List.map_id] at h

/-- A change of entries moves nothing else. -/
theorem State.foldl_updPage_only {α : Type} (l : List α) (key : α → Nat) (f : α → Page → Page) (s : State) :
    ∃ p, l.foldl (fun s x => s.updPage (key x) (f x)) s = { s with place := { s.place with pages := p } } :=
  List.foldlRecOn (motive := fun t : State => ∃ p, t = { s with place := { s.place with pages := p } }) l _ ⟨s.place.pages, rfl⟩ <| by
    rintro _ ⟨p, rfl⟩ x _
    exact ⟨_, rfl⟩

theorem State.page_congr (h : t.place.pages = s.place.pages) (n : Nat) : t.page n = s.page n := by rw [State.page, h, State.page]

/-! ### Memory of pages that appear or leave -/

/-- Pages read as zero and carry no mark. -/
def State.clearPages (s : State) (l : List Nat) : State := l.foldl (fun s n => s.memClear (n * 2 ^ 21) (2 ^ 21)) s

theorem State.clearPages_only (s : State) (l : List Nat) :
    s.clearPages l = { s with mem := (s.clearPages l).mem, marks := (s.clearPages l).marks } :=
  List.foldlRecOn (motive := fun t : State => t = { s with mem := t.mem, marks := t.marks }) l _ rfl fun t h n _ => by
    rw [h]
    rfl

theorem State.poisoned_memClear (s : State) (a n x : Nat) :
    (s.memClear a n).poisoned x = if a / 64 ≤ x / 64 ∧ 64 * (x / 64) < a + n then false else s.poisoned x := by
  have := sget_filter (d := markReset) (m := s.marks) (p := fun k => !(decide (a / 64 ≤ k ∧ 64 * k < a + n))) (j := x / 64)
  unfold State.poisoned State.memClear
  rw [this]
  by_cases hx : a / 64 ≤ x / 64 ∧ 64 * (x / 64) < a + n <;> simp [hx, markReset]

theorem State.memByte_clearPages (s : State) (l : List Nat) (a : Nat) :
    (s.clearPages l).memByte a = if pageOf a ∈ l then 0 else s.memByte a := by
  induction l generalizing s with
  | nil => rfl
  | cons n l ih =>
    refine (ih _).trans ?_
    rw [State.memByte_memClear]
    have here : (n * 2 ^ 21 ≤ a ∧ a < n * 2 ^ 21 + 2 ^ 21) ↔ pageOf a = n := by
      unfold pageOf
      omega
    simp only [here, List.mem_cons, or_comm (a := pageOf a = n), ite_or]
    rfl

theorem State.poisoned_clearPages (s : State) (l : List Nat) (a : Nat) :
    (s.clearPages l).poisoned a = if pageOf a ∈ l then false else s.poisoned a := by
  induction l generalizing s with
  | nil => rfl
  | cons n l ih =>
    refine (ih _).trans ?_
    rw [State.poisoned_memClear]
    have here : (n * 2 ^ 21 / 64 ≤ a / 64 ∧ 64 * (a / 64) < n * 2 ^ 21 + 2 ^ 21) ↔ pageOf a = n := by
      unfold pageOf
      omega
    simp only [here, List.mem_cons, or_comm (a := pageOf a = n), ite_or]

theorem find?_number (l : List Nat) (n : Nat) : (l.find? fun m => decide (m = n)) = if n ∈ l then some n else none := by
  induction l with
  | nil => rfl
  | cons m l ih =>
    rw [List.find?_cons, ih]
    by_cases h : m = n
    · simp [h]
    · simp [h, Ne.symm h]

/-- Pages that a MAP brings, and the memory behind them cleared (R255). -/
theorem State.mapPages_eq (s : State) (cold : Bool) (l : List Nat) :
    s.mapPages cold l = ({ s with place := { s.place with pages := s.place.pages ++ l.map (freshPage cold) } } : State).clearPages l := rfl

theorem State.page_mapPages (s : State) (cold : Bool) (l : List Nat) (n : Nat) :
    (s.mapPages cold l).page n = (s.page n).or (if n ∈ l then some (freshPage cold n) else none) := by
  rw [State.mapPages_eq, State.clearPages_only]
  refine List.find?_append.trans (congrArg _ ?_)
  rw [List.find?_map]
  change (l.find? fun m => decide (m = n)).map (freshPage cold) = _
  rw [find?_number]
  split <;> rfl

/-- The state that pages have left: without their entries, and the demands for them, and with the memory behind them cleared (R256). -/
theorem State.dropPages_eq (s : State) (l : List Nat) :
    s.dropPages l = ({ s with place := { s.place with pages := s.place.pages.filter (fun g => !l.contains g.num),
                                                      demand := s.place.demand.filter (fun n => !l.contains n) } } : State).clearPages l := rfl

theorem State.page_dropPages (s : State) (l : List Nat) (n : Nat) : (s.dropPages l).page n = if n ∈ l then none else s.page n := by
  rw [State.dropPages_eq, State.clearPages_only]
  change (s.place.pages.filter _).find? _ = _
  rw [List.find?_filter]
  split
  next gone =>
    refine List.find?_eq_none.2 fun g _ => ?_
    simp only [decide_eq_true_eq]
    rintro ⟨stays, rfl⟩
    simp [gone] at stays
  next stays =>
    refine congrArg (fun f => List.find? f s.place.pages) (funext fun g => ?_)
    by_cases h : g.num = n
    · simp [h, stays]
    · simp [h]

/-! ### A PLACE Waybill that begins and ends -/

theorem State.checked_passed {f : State → State} (passes : s.r53 w.part w.slot = none) (allowed : s.secCheck w.part = none) :
    s.checked w f = f s := by
  rw [State.checked, passes]
  dsimp only
  rw [allowed]

/-- A PLACE Waybill of an action that may begin and passes its checks, with nothing to wait for (R53, R254, R258). -/
structure State.PlaceAt (s : State) (wid act : Nat) (w : Wb) : Prop where
  begins  : s.begin? wid opPlace = some w
  action  : placeAct w.slot = act
  passes  : s.r53 w.part w.slot = none
  allowed : s.secCheck w.part = none
  sound   : w.lost = none
  still   : ∀ n ∈ placePages w.slot, s.moveOf n = none ∧ ∀ g, s.page n = some g → g.busy = false
  first   : s.placeFirst w

/-- The state in which a PLACE Waybill has begun. -/
def State.placed (s : State) (w : Wb) : State :=
  ({ s with place := { s.place with placeQ := s.place.placeQ.filter (· ≠ w.wid) } } : State).startWb w

theorem State.wb_of_mem_placeWaits {x : Wb} (h : x ∈ s.placeWaits) : s.wb x.wid = some x := by
  obtain ⟨n, -, hn⟩ := List.mem_filterMap.1 (List.mem_of_mem_filter h)
  rwa [State.wid_of_wb hn]

/-- A Waybill of which none waits ahead is behind none (R258). -/
theorem State.placeFirst.not_behind (h : s.placeFirst w) : (s.placeWaits.any fun x =>
    ((s.placeWaits.map (·.wid)).takeWhile (· ≠ w.wid)).contains x.wid && (placeDies x.slot).any (placeDies w.slot).contains) = false := by
  refine List.any_eq_false.2 fun x hx => ?_
  rw [Bool.and_eq_true, List.contains_iff_mem, List.takeWhile_map, List.mem_map]
  rintro ⟨⟨y, hy, same⟩, shares⟩
  obtain ⟨d, mine, others⟩ := List.any_eq_true.1 shares
  have e := State.wb_of_mem_placeWaits ((List.takeWhile_sublist _).subset hy)
  rw [same, State.wb_of_mem_placeWaits hx] at e
  cases e
  exact h x hy d mine (List.contains_iff_mem.1 others)

theorem State.PlaceAt.begun {act : Nat} (h : s.PlaceAt wid act w) (f : Wb → State → State) : s.placing wid act f = f w (s.placed w) := by
  obtain rfl := State.wid_of_wb (State.begin?_eq_some h.begins).1
  have still : ((placePages w.slot).any fun n => (s.moveOf n).isSome || (s.page n).any fun g => g.busy) = false := by
    refine List.any_eq_false.2 fun n hn => ?_
    obtain ⟨move, busy⟩ := h.still n hn
    cases page : s.page n with
    | none => simp [move]
    | some g => simp [move, busy g page]
  unfold State.placing
  rw [h.begins]
  dsimp only
  rw [if_neg (not_not_intro h.action), State.checked_passed h.passes h.allowed, if_neg (by rw [h.first.not_behind, still]; decide)]
  rfl

theorem State.wb_placed (hw : s.wb wid = some w) : (s.placed w).wb wid = some { w with phase := .running } :=
  State.wb_startWb (s := { s with place := { s.place with placeQ := s.place.placeQ.filter (· ≠ w.wid) } }) hw

theorem State.wb_placed_other {n : Nat} (h : n ≠ w.wid) : (s.placed w).wb n = s.wb n := by
  refine (State.wb_updWb { s with place := { s.place with placeQ := s.place.placeQ.filter (· ≠ w.wid) } } (fun _ => by rfl) n).trans ?_
  rw [if_neg h]
  rfl

/-- A Waybill that was not lost ends with the status and the DETAIL given (R59). -/
theorem State.endWb_endedWith_detail (h : s.wb wid = some w) (sound : w.lost = none) (st detail src : Nat) :
    (s.endWb wid st detail src).endedWith wid st (detailSat detail) src := by
  refine ⟨w.over st detail src, ?_, rfl, ?_⟩
  · rw [State.wb_endWb, if_pos rfl, h]
    rfl
  · simp only [Wb.over, sound]
    exact ⟨trivial, trivial, trivial⟩

/-- A DETAIL of 32 bits is written as it is (R59). -/
theorem detailSat_of_lt {n : Nat} (h : n < 2 ^ 32) : detailSat n = n := Nat.min_eq_left (by omega)

theorem detailSat_ne_zero {n : Nat} (h : n ≠ 0) : detailSat n ≠ 0 := by
  unfold detailSat
  omega

theorem State.page_endWb (s : State) (wid st detail src n : Nat) : (s.endWb wid st detail src).page n = s.page n :=
  State.page_congr (by rw [State.endWb_eq]) n

theorem State.memByte_congr (h : t.mem = s.mem) (a : Nat) : t.memByte a = s.memByte a := by rw [State.memByte, h, State.memByte]

theorem State.poisoned_congr (h : t.marks = s.marks) (a : Nat) : t.poisoned a = s.poisoned a := by rw [State.poisoned, h, State.poisoned]

/-- What a PLACE Waybill does leaves other Waybills as they are, and ends its own with the status given. -/
theorem State.PlaceAt.ends {act : Nat} (h : s.PlaceAt wid act w) {v : State} (sched : v.sched = (s.placed w).sched) (st detail : Nat) :
    (v.endWb wid st detail 0).endedWith wid st (detailSat detail) 0 ∧ OtherWbs wid s (v.endWb wid st detail 0) := by
  obtain ⟨hw, -⟩ := State.begin?_eq_some h.begins
  have same := State.wb_congr (congrArg Sched.wbs sched)
  refine ⟨State.endWb_endedWith_detail ((same wid).trans (State.wb_placed hw)) h.sound st detail 0, fun n hn => ?_⟩
  rw [State.wb_endWb, if_neg hn, same, State.wb_placed_other (by rwa [State.wid_of_wb hw])]

/-! ### Admission (R251, R263) -/

/-- By how much a state breaks R263 rests on its registers and its pages. -/
theorem State.shortfall_congr (assy : t.assy = s.assy) (regs : t.regs = s.regs) (pages : t.place.pages = s.place.pages) (p : Nat) :
    t.shortfall p = s.shortfall p := by
  have reg : t.reg = s.reg := funext fun off => by rw [State.reg, assy, regs, State.reg]
  have fld (off hi lo : Nat) : t.fld off hi lo = s.fld off hi lo := by rw [State.fld, reg, State.fld]
  have quota : t.admitQ p = s.admitQ p := funext fun d => by rw [State.admitQ, State.swapMode, fld, fld, fld, State.admitQ, State.swapMode]
  have pool : t.poolPages p = s.poolPages p := funext fun i => by rw [State.poolPages, fld, fld, State.poolPages]
  have faulted : t.poolFaulted p = s.poolFaulted p := funext fun i => by rw [State.poolFaulted, reg, State.poolFaulted]
  have mapped : t.mappedOn p = s.mappedOn p := funext fun d => by rw [State.mappedOn, pages, State.mappedOn]
  have lent : t.lentOn p = s.lentOn p := funext fun d => by rw [State.lentOn, pages, State.lentOn]
  simp only [State.shortfall, quota, pool, faulted, mapped, lent]

theorem State.tableExcess_congr (pages : t.place.pages = s.place.pages) : t.tableExcess = s.tableExcess := by
  simp only [State.tableExcess, pages]

theorem State.letIn_admitted {done : State → State} (h : max (t.shortfall w.part) t.tableExcess = 0) : s.letIn w t done = done t :=
  if_pos h

theorem State.letIn_refused {done : State → State} (h : max (t.shortfall w.part) t.tableExcess ≠ 0) :
    s.letIn w t done = s.endWb w.wid stMemQuota (max (t.shortfall w.part) t.tableExcess) 0 :=
  if_neg h

/-- Which counters the end of leases raises rests on registers and leases (R223). -/
theorem State.endLeases_regs_congr (assy : t.assy = s.assy) (regs : t.regs = s.regs) (leases : t.place.leases = s.place.leases)
    (f : Lease → Bool) : (t.endLeases f).regs = (s.endLeases f).regs := by
  have fold (l : List Lease) (s t : State) (assy : t.assy = s.assy) (regs : t.regs = s.regs) :
      (l.foldl (fun s l => s.bump (rExpOldCopy (l.page % 4)) 1) t).regs = (l.foldl (fun s l => s.bump (rExpOldCopy (l.page % 4)) 1) s).regs := by
    induction l generalizing s t with
    | nil => exact regs
    | cons x l ih => exact ih _ _ assy (by simp only [State.bump, State.setReg, State.reg, assy, regs])
  unfold State.endLeases
  rw [leases]
  exact fold _ _ _ assy regs

end

end Sys2Proof.Machine
end

section
/-! Settles O31: MAP, UNMAP and HINT of placement pages, and the end of an UNMAP (R253 to R258, R263). -/

namespace Sys2Proof.Machine

open Sys2Proof

section

variable {s : State} {wid : Nat} {w : Wb}

/-! ### MAP (R255) -/

/-- COLD of a PLACE Waybill (R253). -/
def placeCold (w : Slot) : Bool := decide (bitsN 8 8 (wArg w 2) = 1)

/-- A MAP is refused at the first page that is mapped (R254). -/
theorem mapStep_of_mapped (h : s.PlaceAt wid 1 w) (views : s.kv.views = []) {i n : Nat} (hn : (placePages w.slot)[i]? = some n)
    (mapped : (s.page n).isSome = true) (before : ∀ j m, j < i → (placePages w.slot)[j]? = some m → s.page m = none) :
    mapStep wid s = (s.placed w).endWb wid stMemFault i 0 := by
  have found : firstBad (placePages w.slot) (fun n => ((s.placed w).page n).isSome
      || (s.placed w).kv.views.any fun v => v.crosses (n * 2 ^ 21) (2 ^ 21)) = some i :=
    firstBad_eq_some hn (by rw [Bool.or_eq_true]; exact .inl mapped) fun j m hj hm => by
      change ((s.page m).isSome || s.kv.views.any _) = false
      rw [before j m hj hm, views]
      rfl
  rw [mapStep, h.begun]
  dsimp only
  rw [found]

/-- One of pages none of which is mapped takes effect where it is admitted (R254, R263). -/
theorem mapStep_of_unmapped (h : s.PlaceAt wid 1 w) (views : s.kv.views = []) (unmapped : ∀ n ∈ placePages w.slot, s.page n = none) :
    mapStep wid s = (s.placed w).letIn w ((s.placed w).mapPages (placeCold w.slot) (placePages w.slot)) fun t => t.endWb wid stOk 0 0 := by
  have found : firstBad (placePages w.slot) (fun n => ((s.placed w).page n).isSome
      || (s.placed w).kv.views.any fun v => v.crosses (n * 2 ^ 21) (2 ^ 21)) = none :=
    firstBad_eq_none fun n hn => by
      change ((s.page n).isSome || s.kv.views.any _) = false
      rw [unmapped n hn, views]
      rfl
  rw [mapStep, h.begun]
  dsimp only
  rw [found]
  rfl

/-- Beside entries and memory a MAP moves nothing. -/
theorem State.mapPages_only (s : State) (cold : Bool) (l : List Nat) : ∃ mem marks,
    s.mapPages cold l = { s with place := { s.place with pages := s.place.pages ++ l.map (freshPage cold) }, mem, marks } := by
  rw [State.mapPages_eq, State.clearPages_only]
  exact ⟨_, _, rfl⟩

/-- Whether a MAP is admitted does not rest on the PLACE Waybills that wait. -/
theorem State.admitted_placed (s : State) (w : Wb) (cold : Bool) (l : List Nat) (p : Nat) :
    ((s.placed w).mapPages cold l).shortfall p = ((s.startWb w).mapPages cold l).shortfall p
      ∧ ((s.placed w).mapPages cold l).tableExcess = ((s.startWb w).mapPages cold l).tableExcess := by
  obtain ⟨_, _, e⟩ := (s.placed w).mapPages_only cold l
  obtain ⟨_, _, e'⟩ := (s.startWb w).mapPages_only cold l
  rw [e, e']
  exact ⟨State.shortfall_congr rfl rfl rfl p, State.tableExcess_congr rfl⟩

/-- A MAP that is admitted (R255). -/
theorem map_admitted (h : s.PlaceAt wid 1 w) (views : s.kv.views = []) (unmapped : ∀ n ∈ placePages w.slot, s.page n = none)
    (fits : ((s.startWb w).mapPages (placeCold w.slot) (placePages w.slot)).shortfall w.part = 0)
    (room : ((s.startWb w).mapPages (placeCold w.slot) (placePages w.slot)).tableExcess = 0) :
    ∃ t, exec (.map wid) s = .next t ∧ t.endedWith wid 0x00 0 0
      ∧ (∀ n ∈ placePages w.slot, ∃ g, t.page n = some g ∧ g.cold = placeCold w.slot ∧ g.place = .none ∧ g.lent = .no ∧ g.heat = 0
          ∧ ∀ a, n * 2 ^ 21 ≤ a → a < (n + 1) * 2 ^ 21 → t.memByte a = 0 ∧ t.poisoned a = false)
      ∧ (∀ n, n ∉ placePages w.slot → t.page n = s.page n) ∧ OtherWbs wid s t
      ∧ t.regs = (s.endLeases fun l => decide (l.wid = wid)).regs := by
  obtain ⟨short, excess⟩ := s.admitted_placed w (placeCold w.slot) (placePages w.slot) w.part
  let v := (s.placed w).mapPages (placeCold w.slot) (placePages w.slot)
  have step : mapStep wid s = v.endWb wid stOk 0 0 := by
    rw [mapStep_of_unmapped h views unmapped, State.letIn_admitted (by rw [short, excess, fits, room]; rfl)]
  obtain ⟨mem, marks, only⟩ := (s.placed w).mapPages_only (placeCold w.slot) (placePages w.slot)
  obtain ⟨ended, others⟩ := h.ends (v := v) (by unfold v; rw [only]) stOk 0
  refine ⟨_, congrArg Host.Outcome.next step, ended, fun n hn => ⟨freshPage (placeCold w.slot) n, ?_, rfl, rfl, rfl, rfl, fun a low high => ?_⟩,
    fun n hn => ?_, others, ?_⟩
  · rw [State.page_endWb, State.page_mapPages, if_pos hn]
    change (s.page n).or _ = _
    rw [unmapped n hn, Option.none_or]
  · have page : pageOf a ∈ placePages w.slot := by
      have e : pageOf a = n := by unfold pageOf; omega
      rwa [e]
    rw [State.memByte_congr (State.endWb_mem _ _ _ _ _), State.poisoned_congr (State.endWb_marks _ _ _ _ _)]
    unfold v
    rw [State.mapPages_eq, State.memByte_clearPages, State.poisoned_clearPages, if_pos page, if_pos page]
    exact ⟨rfl, rfl⟩
  · rw [State.page_endWb, State.page_mapPages, if_neg hn, Option.or_none]
    rfl
  · rw [State.endWb_eq]
    exact State.endLeases_regs_congr (by unfold v; rw [only]; rfl) (by unfold v; rw [only]; rfl) (by unfold v; rw [only]; rfl) _

/-- One that is not admitted changes no page (R254, R263). -/
theorem map_refused (h : s.PlaceAt wid 1 w) (views : s.kv.views = []) (unmapped : ∀ n ∈ placePages w.slot, s.page n = none)
    (exceeds : 0 < max (((s.startWb w).mapPages (placeCold w.slot) (placePages w.slot)).shortfall w.part)
      ((s.startWb w).mapPages (placeCold w.slot) (placePages w.slot)).tableExcess) :
    ∃ t, exec (.map wid) s = .next t ∧ t.place.pages = s.place.pages ∧ t.place.moves = s.place.moves ∧ t.mem = s.mem
      ∧ ∃ n, n ≠ 0 ∧ t.endedWith wid 0x32 n 0 := by
  obtain ⟨short, excess⟩ := s.admitted_placed w (placeCold w.slot) (placePages w.slot) w.part
  rw [← short, ← excess] at exceeds
  have step := (mapStep_of_unmapped h views unmapped).trans (State.letIn_refused exceeds.ne')
  rw [State.wid_of_wb (State.begin?_eq_some h.begins).1] at step
  refine ⟨_, congrArg Host.Outcome.next step, ?_, ?_, State.endWb_mem _ _ _ _ _, _, detailSat_ne_zero exceeds.ne', (h.ends rfl stMemQuota _).1⟩
  · rw [State.endWb_eq]; rfl
  · rw [State.endWb_eq]; rfl

/-! ### UNMAP (R256) -/

/-- An UNMAP of pages that are not lent lets those in use go once they are used no more. -/
theorem unmapStep_of_unlent (h : s.PlaceAt wid 2 w) (unlent : ∀ n ∈ placePages w.slot, s.pageLent n = false) :
    let l := placePages w.slot
    let busy := l.filter s.pageInUse
    let v := (s.placed w).dropPages (l.filter fun n => (s.page n).isSome && !s.pageInUse n)
    unmapStep wid s = if busy.isEmpty then v.endWb wid stOk 0 0 else busy.foldl (fun s n => s.updPage n fun g => { g with gone := some wid }) v := by
  have found : firstBad (placePages w.slot) (s.placed w).pageLent = none := firstBad_eq_none unlent
  intro l busy v
  rw [unmapStep, h.begun]
  dsimp only
  rw [found]
  rfl

/-- Beside entries, demands and memory the leaving of pages moves nothing. -/
theorem State.dropPages_only (s : State) (l : List Nat) : ∃ mem marks, s.dropPages l = { s with
    place := { s.place with pages := s.place.pages.filter (fun g => !l.contains g.num), demand := s.place.demand.filter (fun n => !l.contains n) },
    mem, marks } := by
  rw [State.dropPages_eq, State.clearPages_only]
  exact ⟨_, _, rfl⟩

theorem State.memByte_dropPages (s : State) {l : List Nat} {n a : Nat} (hn : n ∈ l) (low : n * 2 ^ 21 ≤ a) (high : a < (n + 1) * 2 ^ 21) :
    (s.dropPages l).memByte a = 0 := by
  have page : pageOf a = n := by unfold pageOf; omega
  rw [State.dropPages_eq, State.memByte_clearPages, if_pos (page ▸ hn)]

/-- An UNMAP of pages that nothing uses (R256). -/
theorem unmap_done (h : s.PlaceAt wid 2 w) (unlent : ∀ n ∈ placePages w.slot, s.pageLent n = false)
    (unused : ∀ n ∈ placePages w.slot, s.pageInUse n = false) :
    ∃ t, exec (.unmap wid) s = .next t ∧ t.endedWith wid 0x00 0 0 ∧ (∀ n ∈ placePages w.slot, t.page n = none)
      ∧ (∀ n ∈ placePages w.slot, (s.page n).isSome = true → ∀ a, n * 2 ^ 21 ≤ a → a < (n + 1) * 2 ^ 21 → t.memByte a = 0)
      ∧ ∀ n, n ∉ placePages w.slot → t.page n = s.page n := by
  let gone := (placePages w.slot).filter fun n => (s.page n).isSome && !s.pageInUse n
  have mem_gone {n : Nat} (hn : n ∈ placePages w.slot) : n ∈ gone ↔ (s.page n).isSome = true := by simp [gone, hn, unused n hn]
  have step : unmapStep wid s = ((s.placed w).dropPages gone).endWb wid stOk 0 0 := by
    rw [unmapStep_of_unlent h unlent, List.filter_eq_nil_iff.2 fun n hn => by simp [unused n hn]]
    rfl
  obtain ⟨_, _, only⟩ := (s.placed w).dropPages_only gone
  have page (n : Nat) : (((s.placed w).dropPages gone).endWb wid stOk 0 0).page n = if n ∈ gone then none else s.page n := by
    rw [State.page_endWb, State.page_dropPages]
    rfl
  refine ⟨_, congrArg Host.Outcome.next step, (h.ends (by rw [only]) stOk 0).1, fun n hn => ?_, fun n hn mapped a low high => ?_, fun n hn => ?_⟩
  · rw [page]
    split
    next => rfl
    next stays => simpa [mem_gone hn] using stays
  · rw [State.memByte_congr (State.endWb_mem _ _ _ _ _), State.memByte_dropPages _ ((mem_gone hn).2 mapped) low high]
  · rw [page, if_neg fun c => hn (List.mem_of_mem_filter c)]

/-- A page in use is left to the end of its use (R256). -/
theorem unmap_waits (h : s.PlaceAt wid 2 w) (unlent : ∀ n ∈ placePages w.slot, s.pageLent n = false) {n : Nat} {g : Page}
    (hn : n ∈ placePages w.slot) (page : s.page n = some g) (used : s.pageInUse n = true) :
    ∃ t, exec (.unmap wid) s = .next t ∧ t.page n = some { g with gone := some wid } := by
  have busy : n ∈ (placePages w.slot).filter s.pageInUse := List.mem_filter.2 ⟨hn, used⟩
  have step := unmapStep_of_unlent h unlent
  dsimp only at step
  rw [if_neg (by rw [List.isEmpty_iff]; exact List.ne_nil_of_mem busy)] at step
  refine ⟨_, congrArg Host.Outcome.next step, ?_⟩
  rw [State.page_foldl_updPage (f := fun g => { g with gone := some wid }) (fun _ => rfl) (fun _ => rfl), if_pos busy, State.page_dropPages, if_neg (by simp [used])]
  change (s.page n).map _ = _
  rw [page]
  rfl

/-! ### HINT (R257) -/

/-- A HINT of pages that are mapped and not lent. -/
theorem hint_done (h : s.PlaceAt wid 3 w) (fit : ∀ n ∈ placePages w.slot, (s.page n).isSome = true ∧ s.pageLent n = false) :
    ∃ t, exec (.hint wid) s = .next t ∧ t.endedWith wid 0x00 0 0
      ∧ (∀ n ∈ placePages w.slot, t.page n = (s.page n).map fun g => { g with cold := placeCold w.slot })
      ∧ (∀ n, n ∉ placePages w.slot → t.page n = s.page n) ∧ SameMemory s t := by
  have found : firstBad (placePages w.slot) (fun n => ((s.placed w).page n).isNone || (s.placed w).pageLent n) = none :=
    firstBad_eq_none fun n hn => by
      obtain ⟨mapped, unlent⟩ := fit n hn
      change ((s.page n).isNone || s.pageLent n) = false
      rw [unlent, Bool.or_false, ← Option.not_isSome, mapped]
      rfl
  let v := (placePages w.slot).foldl (fun s n => s.updPage n fun g => { g with cold := placeCold w.slot }) (s.placed w)
  have step : hintStep wid s = v.endWb wid stOk 0 0 := by
    rw [hintStep, h.begun]
    dsimp only
    rw [found]
    rfl
  have page (n : Nat) : (v.endWb wid stOk 0 0).page n
      = if n ∈ placePages w.slot then (s.page n).map fun g => { g with cold := placeCold w.slot } else s.page n := by
    rw [State.page_endWb]
    exact State.page_foldl_updPage (f := fun g => { g with cold := placeCold w.slot }) (fun _ => rfl) (fun _ => rfl) (s.placed w) n
  obtain ⟨_, only⟩ : ∃ p, v = { s.placed w with place := { (s.placed w).place with pages := p } } :=
    State.foldl_updPage_only _ id (fun _ g => { g with cold := placeCold w.slot }) _
  refine ⟨_, congrArg Host.Outcome.next step, (h.ends (by rw [only]) stOk 0).1, fun n hn => by rw [page, if_pos hn],
    fun n hn => by rw [page, if_neg hn], fun a => ?_, fun a => ?_⟩
  · rw [State.memByte_congr (State.endWb_mem _ _ _ _ _), only]
    rfl
  · rw [State.poisoned_congr (State.endWb_marks _ _ _ _ _), only]
    rfl

/-! ### UNMAP_RELEASE (R222, R256) -/

/-- Once nothing uses the page that an UNMAP waits for, it is unmapped. -/
theorem unmapRelease_done {g : Page} (hw : s.wb wid = some w) (sound : w.lost = none)
    (waits : s.place.pages.filter (fun g => decide (g.gone = some wid)) = [g]) (free : s.pageHeld g.num = false) :
    ∃ t : State, exec (.unmapRelease wid) s = .next t.pumpColls ∧ (∀ l ∈ t.place.leases, l.page ≠ g.num) ∧ t.endedWith wid 0x00 0 0
      ∧ t.page g.num = none ∧ (∀ m, m ≠ g.num → t.page m = s.page m)
      ∧ ∀ a, g.num * 2 ^ 21 ≤ a → a < (g.num + 1) * 2 ^ 21 → t.memByte a = 0 := by
  let u := s.endLeases fun x => [g.num].contains x.page
  have ended := State.endLeases_eq s fun x => [g.num].contains x.page
  obtain ⟨_, _, only⟩ := u.dropPages_only [g.num]
  have step : unmapReleaseStep wid s = ((u.dropPages [g.num]).endWb wid stOk 0 0).pumpColls := by
    simp [unmapReleaseStep, waits, free, u]
  have page (n : Nat) : ((u.dropPages [g.num]).endWb wid stOk 0 0).page n = if n = g.num then none else s.page n := by
    rw [State.page_endWb, State.page_dropPages, State.page_congr (s := s) (t := u) (by unfold u; rw [ended])]
    simp only [List.mem_singleton]
  refine ⟨_, congrArg Host.Outcome.next step, fun l hl => ?_, ?_, by rw [page, if_pos rfl], fun m hm => by rw [page, if_neg hm], fun a low high => ?_⟩
  · rw [State.endWb_eq, only] at hl
    have left := List.mem_of_mem_filter hl
    unfold u at left
    rw [ended] at left
    simpa using (List.mem_filter.1 left).2
  · refine State.endWb_endedWith ((State.wb_congr ?_ wid).trans hw) sound stOk 0
    rw [only]
    unfold u
    rw [ended]
  · rw [State.memByte_congr (State.endWb_mem _ _ _ _ _), State.memByte_dropPages _ List.mem_cons_self low high]

end

/-- Settles O31: by action, what a PLACE Waybill does that begins; and what an UNMAP has left to the end of a page's use. -/
theorem placementMap : Obligations.PlacementMap := by
  refine ⟨?_, ?_⟩
  · intro wid act s w begins action passes allowed sound still first l cold
    have h : s.PlaceAt wid act w := ⟨begins, action, passes, allowed, sound, still, first⟩
    refine ⟨?map, ?mapped, ?unmap, ?hint⟩
    case map =>
      rintro rfl unmapped views
      exact ⟨map_admitted h views unmapped, map_refused h views unmapped⟩
    case mapped =>
      rintro rfl i n small hn mapped before views
      have ended := (h.ends rfl stMemFault i).1
      rw [detailSat_of_lt small] at ended
      exact ⟨_, congrArg Host.Outcome.next (mapStep_of_mapped h views hn mapped before), by rw [State.endWb_eq]; rfl,
        State.endWb_mem _ _ _ _ _, ended⟩
    case unmap =>
      rintro rfl unlent
      exact ⟨unmap_done h unlent, fun n hn g page used => unmap_waits h unlent hn page used⟩
    case hint =>
      rintro rfl fit
      exact hint_done h fit
  · rintro wid s w n g hw sound waits rfl free
    exact unmapRelease_done hw sound waits free

end Sys2Proof.Machine
end

section
/-! Settles O32: lending pages to the host and to the fabric, and taking them back (R254, R263, R275, R276, R278 to R280). -/

namespace Sys2Proof.Machine

open Sys2Proof

section

variable {s : State} {wid act : Nat} {w : Wb} {mk : Nat → Nat → Lent} {same : Nat → Lent → Bool}

/-! ### LEND (R275, R278) -/

/-- Offset at which the i-th page of a LEND is lent (R275). -/
def lendOff (w : Slot) (i : Nat) : Nat := placeOff w + i * 2 ^ 21

/-- Does a page keep a LEND from lending it, i-th of its range: it is not mapped, it is lent, or a page has its offset (R275, R278)? -/
def State.lendBad (s : State) (w : Slot) (same : Nat → Lent → Bool) (x : Nat × Nat) : Bool :=
  (s.page x.1).isNone || s.pageLent x.1 || s.place.pages.any fun g => same (lendOff w x.2) g.lent

/-- A page lent as the i-th page of a LEND (R275, R278). -/
def Page.lentAs (w : Slot) (mk : Nat → Nat → Lent) (i : Nat) (g : Page) : Page :=
  { g with lent := mk (lendOff w i) (bitsN 9 8 (wArg w 2)) }

/-- The pages of a LEND, each lent at its offset. -/
def State.lendPages (s : State) (w : Slot) (mk : Nat → Nat → Lent) : State :=
  (placePages w).zipIdx.foldl (fun s x => s.updPage x.1 (Page.lentAs w mk x.2)) s

/-- A LEND that has begun, by the first page that it cannot lend. -/
theorem State.lending_begun (h : s.PlaceAt wid act w) : s.lending wid act mk same =
    match (placePages w.slot).zipIdx.find? ((s.placed w).lendBad w.slot same) with
    | some x => (s.placed w).endWb wid stMemFault x.2 0
    | none =>
      if (placePages w.slot).any fun n => s.fenced 2 (n % 4) then (s.placed w).endWb wid stMemPoison 0 0
      else (s.placed w).letIn w ((s.placed w).lendPages w.slot mk) State.lendsDone :=
  h.begun _

section

variable (h : s.PlaceAt wid act w)
include h

/-- A LEND is refused at the first page that it cannot lend (R254). -/
theorem State.lending_of_bad {i n : Nat} (hn : (placePages w.slot)[i]? = some n) (bad : s.lendBad w.slot same (n, i) = true)
    (before : ∀ j m, j < i → (placePages w.slot)[j]? = some m → s.lendBad w.slot same (m, j) = false) :
    s.lending wid act mk same = (s.placed w).endWb wid stMemFault i 0 := by
  have found : (placePages w.slot).zipIdx.find? ((s.placed w).lendBad w.slot same) = some (n, i) := find?_zipIdx hn bad before
  rw [State.lending_begun h, found]

variable (good : ∀ i n, (placePages w.slot)[i]? = some n → s.lendBad w.slot same (n, i) = false)
include good

/-- One with a home die that is fenced lends nothing (log entry 90). -/
theorem State.lending_of_fenced (fence : ∃ n ∈ placePages w.slot, s.fenced 2 (n % 4) = true) :
    s.lending wid act mk same = (s.placed w).endWb wid stMemPoison 0 0 := by
  have found : (placePages w.slot).zipIdx.find? ((s.placed w).lendBad w.slot same) = none := find?_zipIdx_none good
  rw [State.lending_begun h, found]
  exact if_pos (List.any_eq_true.2 fence)

/-- One that may lend its pages does where it is admitted (R254, R263). -/
theorem State.lending_of_reach (reach : ∀ n ∈ placePages w.slot, s.fenced 2 (n % 4) = false) :
    s.lending wid act mk same = (s.placed w).letIn w ((s.placed w).lendPages w.slot mk) State.lendsDone := by
  have found : (placePages w.slot).zipIdx.find? ((s.placed w).lendBad w.slot same) = none := find?_zipIdx_none good
  rw [State.lending_begun h, found]
  exact if_neg (Bool.eq_false_iff.1 (List.any_eq_false.2 fun n hn => Bool.eq_false_iff.1 (reach n hn)))

end

/-- The pages of a range are numbered from its first. -/
theorem getElem?_pagesOf {a n i p : Nat} (h : (pagesOf a n)[i]? = some p) : i = p - pageOf a := by
  unfold pagesOf at h
  split at h
  · simp at h
  · obtain ⟨_, e⟩ := List.getElem?_eq_some_iff.1 h
    simp at e
    omega

/-- Each page of a LEND is lent at its offset, and no other page. -/
theorem State.page_lendPages (s : State) (w : Slot) (mk : Nat → Nat → Lent) :
    (∀ i n, (placePages w)[i]? = some n → (s.lendPages w mk).page n = (s.page n).map (Page.lentAs w mk i))
    ∧ ∀ n, n ∉ placePages w → (s.lendPages w mk).page n = s.page n := by
  have each (n : Nat) := State.page_foldl (l := (placePages w).zipIdx) (key := Prod.fst) (f := fun s x => s.updPage x.1 (Page.lentAs w mk x.2))
    (upd := fun n => Page.lentAs w mk (n - pageOf (wArg w 0))) (fun _ _ => rfl)
    (fun x hx t n => by
      rw [State.page_updPage t (fun _ => by rfl), getElem?_pagesOf (List.mem_zipIdx_iff_getElem?.1 hx)]
      split
      next e => rw [e]
      next => rfl) s n
  simp only [List.zipIdx_map_fst] at each
  refine ⟨fun i n hn => (each n).trans ?_, fun n hn => (each n).trans (if_neg hn)⟩
  rw [if_pos (List.mem_of_getElem? hn), ← getElem?_pagesOf hn]

theorem State.lendPages_only (s : State) (w : Slot) (mk : Nat → Nat → Lent) :
    ∃ p, s.lendPages w mk = { s with place := { s.place with pages := p } } :=
  State.foldl_updPage_only _ Prod.fst (fun x => Page.lentAs w mk x.2) s

/-- What a LEND comes to, by the state of its pages; `free i` says that no page has the offset of its i-th page. -/
theorem State.lending_spec (h : s.PlaceAt wid act w) {free : Nat → Prop}
    (offset : ∀ i, free i ↔ ∀ g ∈ s.place.pages, same (lendOff w.slot i) g.lent = false) :
    let l := placePages w.slot
    let good (i n : Nat) : Prop := (s.page n).isSome = true ∧ s.pageLent n = false ∧ free i
    ((∀ i n, l[i]? = some n → good i n) →
      ((∃ n ∈ l, s.fenced 2 (n % 4) = true) →
        (s.lending wid act mk same).place.pages = s.place.pages ∧ (s.lending wid act mk same).endedWith wid 0x31 0 0)
      ∧ ((∀ n ∈ l, s.fenced 2 (n % 4) = false) →
        ∃ u : State, u = { s with sched := u.sched, place := u.place }
          ∧ (∀ i n, l[i]? = some n → u.page n = (s.page n).map (Page.lentAs w.slot mk i))
          ∧ (∀ n, n ∉ l → u.page n = s.page n)
          ∧ (max (u.shortfall w.part) u.tableExcess = 0 → s.lending wid act mk same = u.lendsDone)
          ∧ (max (u.shortfall w.part) u.tableExcess ≠ 0 → (s.lending wid act mk same).place.pages = s.place.pages
              ∧ ∃ k, k ≠ 0 ∧ (s.lending wid act mk same).endedWith wid 0x32 k 0)))
    ∧ ∀ i n, i < 2 ^ 32 → l[i]? = some n → ¬good i n → (∀ j m, j < i → l[j]? = some m → good j m) →
        (s.lending wid act mk same).place.pages = s.place.pages ∧ (s.lending wid act mk same).endedWith wid 0x30 i 0 := by
  intro l good
  have bad_iff (i n : Nat) : s.lendBad w.slot same (n, i) = false ↔ good i n := by
    simp only [State.lendBad, Bool.or_eq_false_iff, good, offset, List.any_eq_false, Bool.not_eq_true, and_assoc, ← Option.not_isSome,
      Bool.not_eq_false']
  have pages (st k : Nat) : ((s.placed w).endWb wid st k 0).place.pages = s.place.pages := by
    rw [State.endWb_eq]
    rfl
  refine ⟨fun all => ⟨fun fence => ?_, fun reach => ?_⟩, fun i n small hn bad before => ?_⟩
  · rw [State.lending_of_fenced h (fun i n hn => (bad_iff i n).2 (all i n hn)) fence]
    exact ⟨pages _ _, (h.ends rfl stMemPoison 0).1⟩
  · have step := State.lending_of_reach (mk := mk) h (fun i n hn => (bad_iff i n).2 (all i n hn)) reach
    obtain ⟨lent, others⟩ := (s.placed w).page_lendPages w.slot mk
    obtain ⟨p, only⟩ := (s.placed w).lendPages_only w.slot mk
    refine ⟨(s.placed w).lendPages w.slot mk, by rw [only]; rfl, lent, others, fun fits => step.trans (State.letIn_admitted fits),
      fun exceeds => ?_⟩
    rw [step, State.letIn_refused exceeds, State.wid_of_wb (State.begin?_eq_some h.begins).1]
    exact ⟨pages _ _, _, detailSat_ne_zero exceeds, (h.ends rfl stMemQuota _).1⟩
  · have ended := (h.ends rfl stMemFault i).1
    rw [detailSat_of_lt small] at ended
    rw [State.lending_of_bad h hn (Bool.eq_true_of_not_eq_false fun c => bad ((bad_iff i n).1 c)) fun j m hj hm =>
      (bad_iff j m).2 (before j m hj hm)]
    exact ⟨pages _ _, ended⟩

/-! ### RECLAIM (R279) -/

/-- Lent pages of a PLACE Waybill of which the host holds no line, and those of which it may hold lines (R276). -/
def State.backAtOnce (s : State) (w : Slot) : List Nat := ((placePages w).filter s.pageLent).filter fun n => (s.heldLines n).isEmpty

def State.backLater (s : State) (w : Slot) : List Nat := ((placePages w).filter s.pageLent).filter fun n => !(s.heldLines n).isEmpty

theorem State.mem_backAtOnce {l : Slot} {n : Nat} :
    n ∈ s.backAtOnce l ↔ n ∈ placePages l ∧ s.pageLent n = true ∧ s.heldLines n = [] := by
  simp only [State.backAtOnce, List.mem_filter, List.isEmpty_iff, and_assoc]

theorem State.mem_backLater {l : Slot} {n : Nat} :
    n ∈ s.backLater l ↔ n ∈ placePages l ∧ s.pageLent n = true ∧ s.heldLines n ≠ [] := by
  simp only [State.backLater, List.mem_filter, Bool.not_eq_true', List.isEmpty_eq_false_iff, and_assoc]

/-- Pages are lent no more. -/
def State.unlend (s : State) (l : List Nat) : State := l.foldl (fun s n => s.updPage n fun g => { g with lent := .no }) s

theorem State.page_unlend (s : State) (l : List Nat) (n : Nat) :
    (s.unlend l).page n = if n ∈ l then (s.page n).map (fun g => { g with lent := .no }) else s.page n :=
  State.page_foldl_updPage (f := fun g => { g with lent := .no }) (fun _ => rfl) (fun _ => rfl) s n

theorem State.unlend_only (s : State) (l : List Nat) : ∃ p, s.unlend l = { s with place := { s.place with pages := p } } :=
  State.foldl_updPage_only l id (fun _ g => { g with lent := .no }) s

/-- The lines of a page are back-invalidated, and its RECLAIM waits for them (R279). -/
def State.takeBack (s : State) (wid n : Nat) : State :=
  (s.heldLines n).foldl (fun s l => s.put (.backInvalidate l)) (s.updPage n fun g => { g with taking := some wid })

theorem State.takeBack_eq (s : State) (wid n : Nat) : s.takeBack wid n
    = { s.updPage n (fun g => { g with taking := some wid }) with out := s.out ++ (s.heldLines n).map .backInvalidate } := by
  have fold (l : List Nat) (t : State) : l.foldl (fun s l => s.put (.backInvalidate l)) t = { t with out := t.out ++ l.map .backInvalidate } := by
    induction l generalizing t with
    | nil => simp
    | cons x l ih => rw [List.foldl_cons, ih]; simp [State.put]
  exact fold _ _

theorem State.page_takeBacks (s : State) (l : List Nat) (wid n : Nat) : (l.foldl (fun s n => s.takeBack wid n) s).page n
    = if n ∈ l then (s.page n).map (fun g => { g with taking := some wid }) else s.page n := by
  have each := State.page_foldl (l := l) (key := id) (f := fun s n => s.takeBack wid n) (upd := fun _ g => { g with taking := some wid })
    (fun _ _ => rfl) (fun x _ t n => by
      rw [State.takeBack_eq]
      exact t.page_updPage (f := fun g => { g with taking := some wid }) (fun _ => rfl) n) s n
  rwa [List.map_id] at each

/-- What is put out for pages that wait: each line of theirs that the host may hold. -/
theorem State.out_takeBacks (s : State) (l : List Nat) (wid : Nat) :
    (l.foldl (fun s n => s.takeBack wid n) s).out = s.out ++ l.flatMap fun n => (s.heldLines n).map .backInvalidate := by
  induction l generalizing s with
  | nil => simp
  | cons m l ih =>
    rw [List.foldl_cons, ih, State.takeBack_eq]
    simp [State.heldLines, State.updPage]

/-- A RECLAIM that has begun: pages with no line that the host may hold return at once, the others wait. -/
theorem reclaimStep_begun (h : s.PlaceAt wid 6 w) : reclaimStep wid s =
    let t := (s.backLater w.slot).foldl (fun s n => s.takeBack wid n) ((s.placed w).unlend (s.backAtOnce w.slot))
    if (s.backLater w.slot).isEmpty then t.endWb wid stOk 0 0 else t :=
  h.begun _

/-- A RECLAIM of pages that the host holds no line of (R279). -/
theorem reclaim_done (h : s.PlaceAt wid 6 w) (unheld : ∀ n ∈ placePages w.slot, s.heldLines n = []) :
    ∃ t, exec (.reclaim wid) s = .next t ∧ t.endedWith wid 0x00 0 0 ∧ (∀ n ∈ placePages w.slot, t.pageLent n = false)
      ∧ ∀ n, n ∉ placePages w.slot → t.page n = s.page n := by
  have none : s.backLater w.slot = [] := List.filter_eq_nil_iff.2 fun n hn => by simp [unheld n (List.mem_of_mem_filter hn)]
  have step := reclaimStep_begun h
  rw [none] at step
  obtain ⟨p, only⟩ := (s.placed w).unlend_only (s.backAtOnce w.slot)
  let v := (s.placed w).unlend (s.backAtOnce w.slot)
  have page (n : Nat) : (v.endWb wid stOk 0 0).page n
      = if n ∈ s.backAtOnce w.slot then (s.page n).map (fun g => { g with lent := .no }) else s.page n :=
    (State.page_endWb ..).trans ((s.placed w).page_unlend _ n)
  refine ⟨v.endWb wid stOk 0 0, congrArg Host.Outcome.next step, (h.ends (by unfold v; rw [only]) stOk 0).1, fun n hn => ?_, fun n hn => ?_⟩
  · rw [State.pageLent, page]
    split
    next => cases s.page n <;> rfl
    next kept => exact Bool.eq_false_iff.2 fun lent => kept (State.mem_backAtOnce.2 ⟨hn, lent, unheld n hn⟩)
  · rw [page, if_neg fun c => hn (State.mem_backAtOnce.1 c).1]

/-- A page with lines that the host may hold waits for each of them (R279). -/
theorem reclaim_waits (h : s.PlaceAt wid 6 w) {n : Nat} {g : Page} (hn : n ∈ placePages w.slot) (page : s.page n = some g)
    (lent : s.pageLent n = true) (lines : s.heldLines n ≠ []) :
    ∃ t, exec (.reclaim wid) s = .next t ∧ t.page n = some { g with taking := some wid } ∧ ∀ k ∈ s.heldLines n, Out.backInvalidate k ∈ t.out := by
  have later : n ∈ s.backLater w.slot := State.mem_backLater.2 ⟨hn, lent, lines⟩
  have step := reclaimStep_begun h
  dsimp only at step
  rw [if_neg (by rw [List.isEmpty_iff]; exact List.ne_nil_of_mem later)] at step
  obtain ⟨p, only⟩ := (s.placed w).unlend_only (s.backAtOnce w.slot)
  refine ⟨_, congrArg Host.Outcome.next step, ?_, fun k hk => ?_⟩
  · rw [State.page_takeBacks, if_pos later, State.page_unlend, if_neg fun c => lines (State.mem_backAtOnce.1 c).2.2]
    change (s.page n).map _ = _
    rw [page]
    rfl
  · rw [State.out_takeBacks, only]
    exact List.mem_append_right _ (List.mem_flatMap.2 ⟨n, later, List.mem_map_of_mem hk⟩)

/-! ### RECLAIM_DONE (R279) -/

/-- When the host has answered, the pages that a RECLAIM takes back return to placement, and none of their lines is recorded. -/
theorem reclaimDone_returns (hw : s.wb wid = some w) (sound : w.lost = none) (waits : ∃ g ∈ s.place.pages, g.taking = some wid) :
    ∃ t, exec (.reclaimDone wid) s = .next t ∧ t.endedWith wid 0x00 0 0
      ∧ (∀ g ∈ s.place.pages, g.taking = some wid → t.pageLent g.num = false ∧ t.heldLines g.num = [])
      ∧ (∀ n, (∀ g ∈ s.place.pages, g.taking = some wid → g.num ≠ n) → t.page n = s.page n) ∧ SameMemory s t := by
  let l := (s.place.pages.filter fun g => g.taking = some wid).map (·.num)
  have mem_l {n : Nat} : n ∈ l ↔ ∃ g ∈ s.place.pages, g.taking = some wid ∧ g.num = n := by simp [l, and_assoc]
  let u := l.foldl (fun s n => s.updPage n fun g => { g with lent := .no, taking := none }) s
  let v : State := { u with place := { u.place with snoop := u.place.snoop.filter (fun x => !l.contains (x / 32768)) } }
  have step : reclaimDoneStep wid s = v.endWb wid stOk 0 0 := by
    obtain ⟨g, hg, taken⟩ := waits
    have some : ¬l.isEmpty = true := by
      rw [List.isEmpty_iff]
      exact List.ne_nil_of_mem (mem_l.2 ⟨g, hg, taken, rfl⟩)
    exact if_neg some
  have page (n : Nat) : (v.endWb wid stOk 0 0).page n
      = if n ∈ l then (s.page n).map (fun g => { g with lent := .no, taking := none }) else s.page n :=
    (State.page_endWb ..).trans (State.page_foldl_updPage (f := fun g => { g with lent := .no, taking := none }) (fun _ => rfl) (fun _ => rfl) s n)
  obtain ⟨p, only⟩ : ∃ p, u = { s with place := { s.place with pages := p } } :=
    State.foldl_updPage_only l id (fun _ g => { g with lent := .no, taking := none }) s
  refine ⟨_, congrArg Host.Outcome.next step, State.endWb_endedWith (w := w) ?_ sound stOk 0, fun g hg taken => ⟨?_, ?_⟩, fun n hn => ?_,
    fun a => ?_, fun a => ?_⟩
  · unfold v
    rw [only]
    exact hw
  · rw [State.pageLent, page, if_pos (mem_l.2 ⟨g, hg, taken, rfl⟩)]
    cases s.page g.num <;> rfl
  · rw [State.heldLines, State.endWb_eq]
    refine List.filter_eq_nil_iff.2 fun x hx => ?_
    have stays := (List.mem_filter.1 hx).2
    rw [decide_eq_true_eq]
    rintro e
    rw [e, Bool.not_eq_true', ← Bool.not_eq_true, List.contains_iff_mem] at stays
    exact stays (mem_l.2 ⟨g, hg, taken, rfl⟩)
  · rw [page, if_neg]
    rintro c
    obtain ⟨g, hg, taken, e⟩ := mem_l.1 c
    exact hn g hg taken e
  · rw [State.memByte_congr (State.endWb_mem _ _ _ _ _)]
    unfold v
    rw [only]
    rfl
  · rw [State.poisoned_congr (State.endWb_marks _ _ _ _ _)]
    unfold v
    rw [only]
    rfl

end

/-- Settles O32: by action, what a PLACE Waybill that begins does; and what a RECLAIM has left to the host's answers. -/
theorem lendingAndReclaim : Obligations.LendingAndReclaim := by
  refine ⟨?_, fun wid s w hw sound waits => reclaimDone_returns hw sound waits⟩
  intro wid act s w begins action passes allowed sound still first l c off mark free good
  have h : s.PlaceAt wid act w := ⟨begins, action, passes, allowed, sound, still, first⟩
  have lend (isLend : act = 4 ∨ act = 5) : ∃ mk same, exec c s = .next (s.lending wid act mk same)
      ∧ (∀ i, mark i = mk (lendOff w.slot i) (bitsN 9 8 (wArg w.slot 2)))
      ∧ ∀ i, free i ↔ ∀ g ∈ s.place.pages, same (lendOff w.slot i) g.lent = false := by
    obtain rfl | rfl := isLend
    · refine ⟨fun o _ => .host o, _, rfl, fun _ => rfl, fun i => forall₂_congr fun g _ => ?_⟩
      change g.lent ≠ .host (lendOff w.slot i) ↔ _
      cases g.lent <;> simp
    · refine ⟨fun o t => .fabric o t, _, rfl, fun _ => rfl, fun i => forall₂_congr fun g _ => ?_⟩
      change (∀ t, g.lent ≠ .fabric (lendOff w.slot i) t) ↔ _
      cases g.lent <;> simp
  refine ⟨fun isLend => ?lend, fun isLend => ?refused, ?back, ?waits⟩
  case lend =>
    obtain ⟨mk, same, step, lent, offset⟩ := lend isLend
    intro all
    obtain ⟨fenced, reached⟩ := (State.lending_spec (mk := mk) h offset).1 all
    refine ⟨fun fence => ⟨_, step, fenced fence⟩, fun reach => ?_⟩
    obtain ⟨u, only, mine, others, fits, exceeds⟩ := reached reach
    refine ⟨u, only, fun i n hn => ?_, others, fun c => step.trans (congrArg _ (fits c)), fun c => ⟨_, step, exceeds c⟩⟩
    rw [lent]
    exact mine i n hn
  case refused =>
    obtain ⟨mk, same, step, -, offset⟩ := lend isLend
    intro i n small hn bad before
    exact ⟨_, step, (State.lending_spec (mk := mk) h offset).2 i n small hn bad before⟩
  case back =>
    rintro rfl unheld
    exact reclaim_done h unheld
  case waits =>
    rintro rfl n hn g page lent lines
    exact reclaim_waits h hn page lent lines

end Sys2Proof.Machine
end

section
/-! Settles O49: an inbound request is checked in order, and one that a window permits is served at the lent page (R278, R306 to R308, R319,
R320). -/

namespace Sys2Proof.Machine

open Sys2Proof

section

variable {s s1 : State} {port : Option Nat} {op rsp : Nat} {m : Msg} {f : Msg → Nat → State → List Byte × Nat × State}

/-! ### A request is taken -/

/-- To take a message moves nothing but the fabric's own state, and there neither endpoint nor incarnation (R299, R303). -/
theorem State.of_takeOp (h : s.takeOp port op = some (m, s1)) :
    ∃ v : Vrela, s1 = { s with vrl := v } ∧ v.ep = s.vrl.ep ∧ v.inc = s.vrl.inc := by
  unfold State.takeOp State.takeMsg at h
  split at h
  · obtain ⟨_, -, e⟩ := Option.map_eq_some_iff.1 h
    cases e
    exact ⟨_, rfl, rfl, rfl⟩
  · split at h
    · cases h
    · obtain ⟨_, -, e⟩ := Option.map_eq_some_iff.1 h
      cases e
      exact ⟨_, rfl, rfl, rfl⟩

section

variable (take : s.takeOp port op = some (m, s1))
include take

/-- One for another endpoint, or before the module has one, is dropped and counted (R319). -/
theorem State.serve_misrouted (h : m.dst ≠ s.vrl.ep ∨ s.vrl.ep = 0) : s.serve port op rsp f = s1.bump rVrlMisroute 1 := by
  obtain ⟨v, rfl, ep, -⟩ := State.of_takeOp take
  rw [State.serve, take]
  dsimp only
  rw [ep]
  exact if_pos (by simpa using h)

variable (dst : m.dst = s.vrl.ep) (known : s.vrl.ep ≠ 0)
include dst known

/-- One for the module goes through the checks of an inbound request. -/
theorem State.serve_addressed : s.serve port op rsp f = match s1.inbound m with
    | (.inl st, u) => u.answer port m rsp st 0 []
    | (.inr a, u) => (f m a u).2.2.answer port m rsp 0 (f m a u).2.1 (f m a u).1 := by
  obtain ⟨v, rfl, ep, -⟩ := State.of_takeOp take
  rw [State.serve, take]
  dsimp only
  rw [ep]
  exact if_neg (by simp [dst, known])

/-- One of another incarnation is STALE (R319). -/
theorem State.serve_stale (h : m.inc ≠ s.vrl.inc) : s.serve port op rsp f = s1.answer port m rsp 3 0 [] := by
  obtain ⟨v, rfl, -, inc⟩ := State.of_takeOp take
  rw [State.serve_addressed take dst known, State.inbound, if_pos (by rwa [inc])]

variable (inc : m.inc = s.vrl.inc)
include inc

/-- An ill-formed one is MALFORMED (R306 to R308, R319). -/
theorem State.serve_malformed (h : malformed m = true) : s.serve port op rsp f = s1.answer port m rsp 4 0 [] := by
  obtain ⟨v, rfl, -, same⟩ := State.of_takeOp take
  rw [State.serve_addressed take dst known, State.inbound, if_neg (by rw [same]; exact not_not_intro inc), if_pos h]

variable (formed : malformed m = false)
include formed

omit dst known in
/-- A well-formed one is judged by the window that permits it. -/
theorem State.inbound_formed : s1.inbound m = match s.windowFor m with
    | none => (.inl 2, s1.deny m)
    | some k => match s.fabPage m.off with
      | none => (.inl 1, s1)
      | some g => if g.part ≠ s.fld (rVrlWinHi k) 20 16 then (.inl 2, s1.deny m) else (.inr (g.addr + m.off % 2 ^ 21), s1) := by
  obtain ⟨v, rfl, -, same⟩ := State.of_takeOp take
  rw [State.inbound, if_neg (by rw [same]; exact not_not_intro inc), if_neg (Bool.eq_false_iff.1 formed)]
  rfl

/-- One that no window permits is DENIED and counted (R319). -/
theorem State.serve_denied (h : s.windowFor m = none) : s.serve port op rsp f = (s1.deny m).answer port m rsp 2 0 [] := by
  rw [State.serve_addressed take dst known, State.inbound_formed take inc formed, h]

variable {k : Nat} (window : s.windowFor m = some k)
include window

/-- One for an offset at which no page is lent is NOT_LENT (R319). -/
theorem State.serve_notLent (h : s.fabPage m.off = none) : s.serve port op rsp f = s1.answer port m rsp 1 0 [] := by
  rw [State.serve_addressed take dst known, State.inbound_formed take inc formed, window]
  dsimp only
  rw [h]

variable {g : Page} (page : s.fabPage m.off = some g)
include page

/-- One for a page of another partition than the window's is DENIED and counted (R319). -/
theorem State.serve_foreign (h : g.part ≠ s.fld (rVrlWinHi k) 20 16) : s.serve port op rsp f = (s1.deny m).answer port m rsp 2 0 [] := by
  rw [State.serve_addressed take dst known, State.inbound_formed take inc formed, window]
  dsimp only
  rw [page]
  dsimp only
  rw [if_pos h]

/-- One that a window permits is served at the lent page (R278, R319). -/
theorem State.serve_permitted (h : g.part = s.fld (rVrlWinHi k) 20 16) : s.serve port op rsp f =
    let x := f m (g.addr + m.off % 2 ^ 21) s1
    x.2.2.answer port m rsp 0 x.2.1 x.1 := by
  rw [State.serve_addressed take dst known, State.inbound_formed take inc formed, window]
  dsimp only
  rw [page]
  dsimp only
  rw [if_neg (not_not_intro h)]

end

/-! ### What is read and written for it -/

theorem State.seen_of_fresh (h : s.err.fresh = []) : s.seen = s := by
  rw [State.seen, ← h]

/-- No error is met by a read that is given none. -/
theorem State.noteMarks_none (h : s.err.fresh = []) (kind ring src : Nat) (part : Option Nat) : s.noteMarks ⟨[], [], []⟩ kind ring src part = s :=
  State.seen_of_fresh h

/-- Where no line is new to the command, counting marked lines moves registers alone (R521). -/
theorem State.countPoison_only (h : s.err.fresh = []) (a n : Nat) : s.countPoison a n = { s with regs := (s.countPoison a n).regs } := by
  unfold State.countPoison
  rw [h]
  dsimp only [List.filter_nil]
  rw [← h]
  rfl

/-- An answer that leaves finds no line. -/
theorem State.seen_answer (h : s.err.fresh = []) (st poison : Nat) (body : List Byte) :
    (s.answer port m rsp st poison body).seen = s.answer port m rsp st poison body :=
  State.seen_of_fresh ((Keeps.refl (F := True) (V := True) (s := s)).answer.noFresh trivial h)

/-- Chunks of a write that are poisoned mark the lines they touch (R320). -/
def State.markChunks (s : State) (a n poison : Nat) (l : List Nat) : State :=
  l.foldl (fun s i => if 64 * i < n ∧ poison.testBit i then s.markAll (linesOf (a + 64 * i) (min 64 (n - 64 * i))) true else s) s

theorem State.writeChunks_eq (s : State) (a : Nat) (bs : List Byte) (poison : Nat) :
    s.writeChunks a bs poison = (s.memWrite a bs).markChunks a bs.length poison (List.range 4) := rfl

theorem State.markChunks_only (s : State) (a n poison : Nat) (l : List Nat) :
    s.markChunks a n poison l = { s with marks := (s.markChunks a n poison l).marks } :=
  List.foldlRecOn (motive := fun t : State => t = { s with marks := t.marks }) l _ rfl fun t h i _ => by
    split
    · rw [State.markAll_eq, h]
    · exact h

/-- A byte of a poisoned chunk lies in a marked line afterwards. -/
theorem State.poisoned_markChunks {a n x poison : Nat} (wf : swf markReset s.marks = true) (within : x < n)
    (bad : poison.testBit (x / 64) = true) (l : List Nat) (h : x / 64 ∈ l ∨ s.poisoned (a + x) = true) :
    (s.markChunks a n poison l).poisoned (a + x) = true := by
  induction l generalizing s with
  | nil => exact h.resolve_left List.not_mem_nil
  | cons i l ih =>
    rw [State.markChunks, List.foldl_cons]
    have mark (ls : List Nat) : (s.markAll ls true).poisoned (a + x) = if (a + x) / 64 ∈ ls then true else s.poisoned (a + x) :=
      State.sget_markAll wf ls true _
    split
    next chunk =>
      refine ih (State.marksWf_markAll wf _ _) ?_
      rw [mark]
      split
      · exact .inr rfl
      next far =>
        refine h.imp (fun hx => (List.mem_cons.1 hx).resolve_left fun e => far ?_) id
        rw [mem_linesOf]
        omega
    next clean =>
      refine ih wf (h.imp (fun hx => (List.mem_cons.1 hx).resolve_left fun e => clean ?_) id)
      rw [← e]
      exact ⟨by omega, bad⟩

theorem State.writeChunks_only (s : State) (a : Nat) (bs : List Byte) (poison : Nat) :
    s.writeChunks a bs poison = { s with mem := (s.memStore a bs).mem, marks := (s.writeChunks a bs poison).marks } := by
  rw [State.writeChunks_eq, State.markChunks_only, State.memWrite_eq]

/-- What is written in chunks is read back, and every other byte is as before. -/
theorem State.writeChunks_spec (wf : Memory.wf s.mem = true) (a : Nat) (bs : List Byte) (poison : Nat) :
    (s.writeChunks a bs poison).memRead a bs.length = bs
      ∧ ∀ x, outside [(a, bs.length)] x → (s.writeChunks a bs poison).memByte x = s.memByte x := by
  rw [State.writeChunks_only]
  exact ⟨State.memRead_memStore wf a bs, fun x hx => State.memByte_memStore_other wf (hx _ List.mem_cons_self)⟩

/-- A word is the bytes of the number that it spells. -/
theorem leBytes_leNat (bs : List Byte) : leBytes bs.length (leNat bs) = bs := by
  induction bs with
  | nil => rfl
  | cons b bs ih =>
    rw [List.length_cons, leBytes, leNat]
    have low : BitVec.ofNat 8 (b.toNat + 256 * leNat bs) = b := BitVec.eq_of_toNat_eq (by rw [BitVec.toNat_ofNat]; omega)
    have high : (b.toNat + 256 * leNat bs) / 256 = leNat bs := by omega
    rw [low, high, ih]

/-! ### Requests that are served -/

/-- A request that has arrived, and that a window permits for a lent page within reach (R278, R319, R320). -/
structure State.Served (s : State) (port : Option Nat) (op : Nat) (m : Msg) (s1 : State) (a : Nat) : Prop where
  take   : s.takeOp port op = some (m, s1)
  dst    : m.dst = s.vrl.ep
  known  : s.vrl.ep ≠ 0
  inc    : m.inc = s.vrl.inc
  formed : malformed m = false
  reach  : s.outOf (portDie port) (homeOf a) = false
  lent   : ∃ k g, s.windowFor m = some k ∧ s.fabPage m.off = some g ∧ g.part = s.fld (rVrlWinHi k) 20 16 ∧ a = g.addr + m.off % 2 ^ 21

variable {a : Nat}

theorem State.Served.serve (h : s.Served port op m s1 a) : s.serve port op rsp f =
    let x := f m a s1
    x.2.2.answer port m rsp 0 x.2.1 x.1 := by
  obtain ⟨k, g, window, page, part, rfl⟩ := h.lent
  exact State.serve_permitted h.take h.dst h.known h.inc h.formed window page part

/-- A message has at most 256 bytes of data (R306). -/
theorem len_le_of_formed (h : malformed m = false) : m.len ≤ 256 := by
  simp only [malformed, Bool.or_eq_false_iff, decide_eq_false_iff_not] at h
  omega

theorem State.Served.fresh (h : s.Served port op m s1 a) (fresh : s.err.fresh = []) : s1.err.fresh = [] := by
  obtain ⟨v, rfl, -⟩ := State.of_takeOp h.take
  exact fresh

theorem State.Served.near (h : s.Served port op m s1 a) : ¬ s1.outOf (portDie port) (homeOf a) = true := by
  have reach := h.reach
  obtain ⟨v, rfl, -⟩ := State.of_takeOp h.take
  exact Bool.eq_false_iff.1 reach

/-- READ (R307, R521). -/
theorem read_served (fresh : s.err.fresh = []) (h : s.Served port 1 m s1 a) : ∃ u : State,
    exec (.read port ⟨[], [], []⟩) s = .next (u.answer port m 8 0 (s.poisonBits a m.len) (s.memRead a m.len))
      ∧ u = { s1 with regs := u.regs } := by
  have fresh1 := h.fresh fresh
  have counted := State.countPoison_only fresh1 a m.len
  have step : readStep port ⟨[], [], []⟩ s = (s1.countPoison a m.len).answer port m 8 0 (s1.poisonBits a m.len) (s1.memRead a m.len) := by
    refine h.serve.trans ?_
    dsimp only
    rw [if_neg h.near, State.noteMarks_none fresh1]
    exact congrArg (State.answer _ port m 8 0 · _) (Nat.or_zero _)
  have unread : s1.poisonBits a m.len = s.poisonBits a m.len ∧ s1.memRead a m.len = s.memRead a m.len := by
    obtain ⟨v, rfl, -⟩ := State.of_takeOp h.take
    exact ⟨rfl, rfl⟩
  rw [unread.1, unread.2] at step
  refine ⟨_, congrArg Host.Outcome.next ((congrArg State.seen step).trans (State.seen_answer ?_ _ _ _)), counted⟩
  rw [counted]
  exact fresh1

/-- WRITE (R307, R320). -/
theorem write_served (h : s.Served port 2 m s1 a) (wf : Memory.wf s.mem = true) (marks : swf markReset s.marks = true)
    (whole : m.len ≤ m.body.length) : ∃ u : State,
    exec (.write port) s = .next (u.answer port m 9 0 0 []) ∧ u = { s1 with mem := u.mem, marks := u.marks }
      ∧ u.memRead a m.len = m.body.take m.len ∧ (∀ x, outside [(a, m.len)] x → u.memByte x = s.memByte x)
      ∧ ∀ x, x < m.len → m.poison.testBit (x / 64) = true → u.poisoned (a + x) = true := by
  have length : (m.body.take m.len).length = m.len := List.length_take_of_le whole
  have step : writeStep port s = (s1.writeChunks a (m.body.take m.len) m.poison).answer port m 9 0 0 [] := by
    refine h.serve.trans ?_
    dsimp only
    rw [if_neg h.near]
  obtain ⟨v, rfl, -⟩ := State.of_takeOp h.take
  obtain ⟨back, beyond⟩ := State.writeChunks_spec (s := { s with vrl := v }) wf a (m.body.take m.len) m.poison
  rw [length] at back beyond
  refine ⟨_, congrArg Host.Outcome.next step, ?_, back, beyond, fun x hx bad => ?_⟩
  · rw [State.writeChunks_only]
  · have small := len_le_of_formed h.formed
    rw [State.writeChunks_eq]
    exact State.poisoned_markChunks (State.marksWf_memWrite (s := { s with vrl := v }) marks _ _) (by rwa [length]) bad _
      (.inl (List.mem_range.2 (by omega)))

/-- What an atomic stores, if its operation gives anything (R308). -/
def State.stored (s : State) (a poison : Nat) (new : Option Nat) : State :=
  match new with
  | some n => s.writeChunks a (leBytes 8 n) poison
  | none => s

theorem State.stored_only (s : State) (a poison : Nat) (new : Option Nat) :
    s.stored a poison new
      = { s with mem := (s.stored a poison new).mem, marks := (s.stored a poison new).marks, regs := (s.stored a poison new).regs } := by
  cases new with
  | none => rfl
  | some n =>
    rw [State.stored, State.writeChunks_only]

theorem State.memRead_stored (wf : Memory.wf s.mem = true) (a poison : Nat) (new : Option Nat) :
    (s.stored a poison new).memRead a 8 = leBytes 8 (new.getD (leNat (s.memRead a 8)))
      ∧ ∀ x, outside [(a, 8)] x → (s.stored a poison new).memByte x = s.memByte x := by
  cases new with
  | none => exact ⟨(leBytes_leNat (s.memRead a 8)).symm, fun _ _ => rfl⟩
  | some n => exact State.writeChunks_spec wf a (leBytes 8 n) poison

/-- An atomic answers the old word and stores what its operation gives (R308). -/
theorem atomic_served {upd : Nat → Nat → Nat → Option Nat} (fresh : s.err.fresh = []) (h : s.Served port op m s1 a)
    (wf : Memory.wf s.mem = true) {new : Option Nat} (gives : upd (leNat (s.memRead a 8)) (rdN m.body 0 8) (rdN m.body 8 8) = new) :
    ∃ u : State, s.atomic ⟨port, ⟨[], [], []⟩⟩ op upd = u.answer port m 10 0 (s.poisonBits a 8) (s.memRead a 8)
      ∧ u = { s1 with mem := u.mem, marks := u.marks, regs := u.regs }
      ∧ u.memRead a 8 = leBytes 8 (new.getD (leNat (s.memRead a 8))) ∧ (∀ x, outside [(a, 8)] x → u.memByte x = s.memByte x)
      ∧ (new = none → u.mem = s.mem ∧ u.marks = s.marks) := by
  have fresh1 := h.fresh fresh
  obtain ⟨rs, counted⟩ : ∃ rs, s1.countPoison a 8 = { s1 with regs := rs } := ⟨_, State.countPoison_only fresh1 a 8⟩
  have word : leBytes 8 (leNat (s1.memRead a 8)) = s1.memRead a 8 := leBytes_leNat (s1.memRead a 8)
  have step : s.atomic ⟨port, ⟨[], [], []⟩⟩ op upd
      = (((s1.countPoison a 8).stored a m.poison (upd (leNat (s1.memRead a 8)) (rdN m.body 0 8) (rdN m.body 8 8))).answer port m 10 0
          (s1.poisonBits a 8) (s1.memRead a 8)).seen := by
    refine congrArg State.seen (h.serve.trans ?_)
    dsimp only
    rw [if_neg h.near, State.noteMarks_none fresh1]
    exact (congrArg (State.answer _ port m 10 0 · _) (Nat.or_zero _)).trans (congrArg (State.answer _ port m 10 0 _ ·) word)
  have unread : s1.poisonBits a 8 = s.poisonBits a 8 ∧ s1.memRead a 8 = s.memRead a 8 ∧ s1.mem = s.mem ∧ s1.marks = s.marks := by
    obtain ⟨v, rfl, -⟩ := State.of_takeOp h.take
    exact ⟨rfl, rfl, rfl, rfl⟩
  obtain ⟨bits, read, mem, marks⟩ := unread
  rw [counted, bits, read, gives, State.seen_answer (by rw [State.stored_only]; exact fresh1)] at step
  obtain ⟨back, beyond⟩ := State.memRead_stored (s := { s1 with regs := rs }) (mem ▸ wf) a m.poison new
  refine ⟨_, step, State.stored_only _ _ _ _, back.trans (by rw [← read]; rfl), fun x hx => (beyond x hx).trans ?_, fun e => ?_⟩
  · rw [State.memByte, State.memByte, ← mem]
  · subst e
    exact ⟨mem, marks⟩

/-- CAS stores exactly when the old word is the one compared (R308). -/
theorem cas_served (fresh : s.err.fresh = []) (h : s.Served port 5 m s1 a) (wf : Memory.wf s.mem = true) : ∃ u : State,
    s.atomic ⟨port, ⟨[], [], []⟩⟩ 5 (fun old x y => if old = y then some x else none)
        = u.answer port m 10 0 (s.poisonBits a 8) (s.memRead a 8)
      ∧ u = { s1 with mem := u.mem, marks := u.marks, regs := u.regs }
      ∧ u.memRead a 8
          = leBytes 8 (if leNat (s.memRead a 8) = rdN m.body 8 8 then rdN m.body 0 8 else leNat (s.memRead a 8))
      ∧ (∀ x, outside [(a, 8)] x → u.memByte x = s.memByte x)
      ∧ (leNat (s.memRead a 8) ≠ rdN m.body 8 8 → u.mem = s.mem ∧ u.marks = s.marks) := by
  have served {new : Option Nat} := atomic_served (upd := fun old x y => if old = y then some x else none) (new := new) fresh h wf
  by_cases same : leNat (s.memRead a 8) = rdN m.body 8 8
  · obtain ⟨u, step, only, back, beyond, -⟩ := served (if_pos same)
    rw [if_pos same]
    exact ⟨u, step, only, back, beyond, (absurd same ·)⟩
  · obtain ⟨u, step, only, back, beyond, unmoved⟩ := served (if_neg same)
    rw [if_neg same]
    exact ⟨u, step, only, back, beyond, fun _ => unmoved rfl⟩

/-! ### Requests that are refused -/

/-- The commands that serve requests, each with the step that serves it. -/
theorem exec_inbound (port : Option Nat) (k : Marks) (s : State) {x : Instr × Nat × Nat}
    (h : x ∈ ([(.read port k, 1, 8), (.write port, 2, 9), (.atomicAdd ⟨port, k⟩, 3, 10), (.atomicSwap ⟨port, k⟩, 4, 10),
          (.atomicCas ⟨port, k⟩, 5, 10)] : List (Instr × Nat × Nat))) :
    ∃ f, exec x.1 s = .next (s.serve port x.2.1 x.2.2 f) ∨ exec x.1 s = .next (s.serve port x.2.1 x.2.2 f).seen := by
  simp only [List.mem_cons, List.not_mem_nil, or_false] at h
  obtain rfl | rfl | rfl | rfl | rfl := h
  · exact ⟨_, .inr rfl⟩
  · exact ⟨_, .inl rfl⟩
  · exact ⟨_, .inr rfl⟩
  · exact ⟨_, .inr rfl⟩
  · exact ⟨_, .inr rfl⟩

/-- Such a command ends where the service ends, when that finds no line. -/
theorem exec_eq_serve {x : Instr × Nat × Nat} {t : State}
    (h : exec x.1 s = .next (s.serve port x.2.1 x.2.2 f) ∨ exec x.1 s = .next (s.serve port x.2.1 x.2.2 f).seen)
    (step : s.serve port x.2.1 x.2.2 f = t) (fresh : t.seen = t) : exec x.1 s = .next t := by
  subst step
  exact h.elim id fun h => h.trans (congrArg _ fresh)

end

/-- Settles O49: the checks of R319 in their order, then the effects of R307 and R308 at the lent page. -/
theorem inboundRequestsAreServed : Obligations.InboundRequestsAreServed := by
  intro port s fresh served
  have toServed {op m s1 a} (h : served op m s1 a) : s.Served port op m s1 a := by
    obtain ⟨take, dst, known, inc, formed, reach, lent⟩ := h
    exact { take, dst, known, inc, formed, reach, lent }
  refine ⟨fun m s1 a h => read_served fresh (toServed h), fun m s1 a h wf marks whole => write_served (toServed h) wf marks whole,
    fun op m s1 a h wf => ?_, fun k x hx m s1 take => ?_⟩
  · intro old x y b cmd new ops
    obtain rfl | rfl | rfl := ops
    · obtain ⟨u, step, only, back, beyond, -⟩ :=
        atomic_served (upd := fun old x _ => some ((old + x) % 2 ^ 64)) (new := some new) fresh (toServed h) wf rfl
      exact ⟨u, congrArg Host.Outcome.next step, only, back, beyond, fun h => by cases h⟩
    · obtain ⟨u, step, only, back, beyond, -⟩ := atomic_served (upd := fun _ x _ => some x) (new := some x) fresh (toServed h) wf rfl
      exact ⟨u, congrArg Host.Outcome.next step, only, back, beyond, fun h => by cases h⟩
    · obtain ⟨u, step, only, back, beyond, unmoved⟩ := cas_served fresh (toServed h) wf
      have stored : new = if old = y then x else old := (if_neg (by decide)).trans (if_neg (by decide))
      exact ⟨u, congrArg Host.Outcome.next step, only, back.trans (congrArg (leBytes 8) stored.symm), beyond, fun _ => unmoved⟩
  · obtain ⟨f, step⟩ := exec_inbound port k s hx
    have fresh1 : s1.err.fresh = [] := by
      obtain ⟨v, rfl, -⟩ := State.of_takeOp take
      exact fresh
    refine ⟨fun h => exec_eq_serve step (State.serve_misrouted take h) (State.seen_of_fresh fresh1),
      fun dst known h => exec_eq_serve step (State.serve_stale take dst known h) (State.seen_answer fresh1 _ _ _),
      fun dst known inc h => exec_eq_serve step (State.serve_malformed take dst known inc h) (State.seen_answer fresh1 _ _ _),
      fun dst known inc formed => ⟨fun h => ?_, fun k window => ⟨fun h => ?_, fun g page h => ?_⟩⟩⟩
    · exact exec_eq_serve step (State.serve_denied take dst known inc formed h) (State.seen_answer (s := s1.deny m) fresh1 _ _ _)
    · exact exec_eq_serve step (State.serve_notLent take dst known inc formed window h) (State.seen_answer fresh1 _ _ _)
    · exact exec_eq_serve step (State.serve_foreign take dst known inc formed window page h) (State.seen_answer (s := s1.deny m) fresh1 _ _ _)

end Sys2Proof.Machine
end

section
/-! Settles O30: the bytes that a piece of a FILL or of a copy within device memory moves when it ends (R284 to R287, R421). -/

namespace Sys2Proof.Machine

open Sys2Proof

section

variable {s t : State} {x : Xfer} {q : Piece} {a n wid idx : Nat} {bs : List Byte} {host : BytesRead}

/-! ### The transfers in progress -/

/-- To count that nothing was left out changes nothing. -/
theorem State.unmoved_zero (s : State) (q : Piece) : s.unmoved q 0 = s := by
  have piece (l : List Piece) : updIf (fun p => decide (p.idx = q.idx)) (fun p => { p with lost := p.lost + 0 }) l = l :=
    (List.map_congr_left fun p _ => by split <;> rfl).trans (List.map_id l)
  have xfer (l : List Xfer) : updIf (fun y => decide (y.wid = q.wid)) (fun y => { y with
      pieces := updIf (fun p => decide (p.idx = q.idx)) (fun p => { p with lost := p.lost + 0 }) y.pieces }) l = l :=
    (List.map_congr_left fun y _ => by simp only [piece, ite_self, id]).trans (List.map_id l)
  simp only [State.unmoved, State.updPiece, State.updXfer, xfer]

/-- A read of clean memory moves no transfer. -/
theorem State.xfers_noteRead (c : s.Clean a n) : (s.noteRead wid a n).place.xfers = s.place.xfers := by
  rw [State.noteRead_clean c]
  refine List.foldlRecOn (motive := fun t : State => t.place.xfers = s.place.xfers) _ _ rfl fun t h y _ => ?_
  exact List.foldlRecOn (motive := fun t : State => t.place.xfers = s.place.xfers) _ _ h fun _ h _ _ => h

theorem State.xfers_invalidate (s : State) (a n : Nat) : (s.invalidate a n).place.xfers = s.place.xfers :=
  List.foldlRecOn (motive := fun t : State => t.place.xfers = s.place.xfers) _ _ rfl fun _ h _ _ => h

theorem State.xfers_writeSlice (backed : s.takeBacking (pageOf a) = s) {m : Nat} :
    ((s.writeSlice a bs false).noteDirty wid a m).place.xfers = s.place.xfers := by
  rw [State.noteDirty_only, State.writeSlice, backed, State.copyWrite_only, State.memWrite_eq]
  exact State.xfers_invalidate s a bs.length

/-- A write to ready memory moves no transfer. -/
theorem State.xfers_writeBytes (ready : s.Ready [(a, bs.length)]) : (s.writeBytes wid a bs false).2.place.xfers = s.place.xfers := by
  unfold State.writeBytes
  refine (List.foldlRecOn (motive := fun r : Bool × Bool × State => Steady s r.2.2 ∧ r.2.2.place.xfers = s.place.xfers) _ _
    ⟨.refl, rfl⟩ ?_).2
  rintro ⟨ok, said, t⟩ ⟨steady, kept⟩ y hy
  obtain ⟨-, -, page⟩ := of_mem_pageSlices hy
  have here := ready.steady steady
  have backed := State.takeBacking_inPlace (here.2 _ (List.mem_singleton_self _)) page
  simp only [State.viewAt_none here.1, here.acc ⟨_, List.mem_singleton_self _, page⟩ true, Option.isSome_none, Bool.false_eq_true, if_false]
  refine ⟨?_, (State.xfers_writeSlice backed).trans kept⟩
  rw [State.noteDirty_only]
  exact (steady.writeSlice backed).same

/-! ### What a piece delivers -/

/-- What memory reads as, byte by byte. -/
theorem State.memByte_of_memRead {f : Nat → Byte} (h : s.memRead a n = (List.range n).map f) {k : Nat} (hk : k < n) :
    s.memByte (a + k) = f k := by
  rw [State.memRead_eq] at h
  exact List.map_inj_left.1 h k (List.mem_range.2 hk)

/-- A write to ready memory drops nothing. -/
theorem State.Ready.droppedBytes (h : s.Ready [(a, n)]) : s.droppedBytes a n = 0 := by
  refine List.sum_eq_zero fun y hy => ?_
  obtain ⟨z, hz, rfl⟩ := List.mem_map.1 hy
  simp only [State.viewAt_none h.1, h.acc ⟨_, List.mem_singleton_self _, (of_mem_pageSlices hz).2.2⟩ true, Option.isSome_none,
    Bool.false_eq_true, if_false]

/-- A source and a destination that share no byte leave nothing unspecified (R284). -/
theorem State.blur_none (apart : x.fill = true ∨ x.src + x.len ≤ a ∨ a + bs.length ≤ x.src) : s.blur x a bs = (bs, s) := by
  unfold State.blur
  extract_lets hit
  have missed : (bs.zipIdx.any fun b => hit b.2) = false := by
    refine List.any_eq_false.2 fun b hb => ?_
    have inside := List.snd_lt_of_mem_zipIdx hb
    simp only [hit, Bool.and_eq_true, Bool.not_eq_true', decide_eq_true_eq]
    rintro ⟨⟨copy, -⟩, low, high⟩
    rw [copy] at apart
    have := apart.resolve_left Bool.false_ne_true
    omega
  rw [missed]
  rfl

/-- What a step that moves a piece's bytes leaves: they are at its destination, and nothing else of memory, no register as it reads and no
transfer has changed. -/
structure Delivered (a : Nat) (bs : List Byte) (s t : State) : Prop where
  back   : t.memRead a bs.length = bs
  beyond : ∀ b, b < a ∨ a + bs.length ≤ b → t.memByte b = s.memByte b
  regs   : t.regsWf ∧ ∀ off, t.reg off = s.reg off
  xfers  : t.place.xfers = s.place.xfers

/-- One run of sound bytes at a ready destination (R284, R285). -/
theorem State.deliver_one {off : Nat} (dst : x.dstSpace = 0) (ready : s.Ready [(x.dst + off, bs.length)])
    (apart : x.fill = true ∨ x.src + x.len ≤ x.dst + off ∨ x.dst + off + bs.length ≤ x.src) :
    s.deliver x q off [(bs, false)] = (s.writeBytes x.wid (x.dst + off) bs false).2 := by
  simp only [State.deliver, List.foldl_cons, List.foldl_nil, State.blur_none apart, dst, if_true, ready.droppedBytes, State.unmoved_zero]

theorem Delivered.writeBytes (ready : s.Ready [(a, bs.length)]) (wf : Memory.wf s.mem = true) (regs : s.regsWf) :
    Delivered a bs s (s.writeBytes wid a bs false).2 := by
  obtain ⟨-, stored⟩ := State.writeBytes_ready (wid := wid) ready wf
  refine ⟨State.memRead_writeBytes ready wf, stored.beyond, ?_, State.xfers_writeBytes ready⟩
  rw [stored.only]
  exact ⟨regs, fun _ => rfl⟩

/-- What a piece reads of clean memory, before it delivers it. -/
theorem Delivered.of_read {m : Nat} (c : s.Clean n m) (regs : s.regsWf) (h : Delivered a bs (s.noteRead wid n m) t) :
    Delivered a bs s t where
  back := h.back
  beyond := fun b hb => (h.beyond b hb).trans (by rw [State.memByte, (Undisturbed.noteRead c).mem, State.memByte])
  regs := ⟨h.regs.1, fun off => (h.regs.2 off).trans (((Undisturbed.noteRead c).regs regs).2 off)⟩
  xfers := h.xfers.trans (State.xfers_noteRead c)

/-! ### The copy of a piece -/

/-- A state whose accesses are those of a die (R17). -/
def State.through (s : State) (d : Option (Nat × Nat)) : State := { s with place := { s.place with via := d } }

/-- A piece within device memory reads its source, and delivers it. -/
theorem State.copyPiece_local {pattern : Nat} (dst : x.dstSpace = 0) (src : x.fill = true ∨ x.srcSpace = 0)
    (runs : ∀ host, (s.through q.die).sourceRuns x pattern q.off q.len host = [(bs, false)]) :
    s.copyPiece x q pattern host
      = s.asDie q.die fun t => ((x.reads q).foldl (fun t r => t.noteRead x.wid r.1 r.2) t).deliver x q q.off [(bs, false)] := by
  have noHost : (!x.fill && decide (x.srcSpace = 1)) = false := by
    obtain h | h := src
    · rw [h]; rfl
    · rw [h]; exact Bool.and_false _
  unfold State.through at runs
  simp only [State.copyPiece, State.asDie, dst, noHost, runs, Nat.zero_ne_one, decide_false, Bool.false_and, Bool.or_false,
    Bool.false_eq_true, if_false, reduceCtorEq, List.any_cons, List.any_nil]

theorem Delivered.asDie {d : Option (Nat × Nat)} {f : State → State} (h : Delivered a bs (s.through d) (f (s.through d))) :
    Delivered a bs s (s.asDie d f) := ⟨h.back, h.beyond, h.regs, h.xfers⟩

/-- A state whose accesses began on pages (R256). -/
def State.servedBy (s : State) (l : List Nat) : State := { s with place := { s.place with serving := l } }

theorem Delivered.asBegun {f : State → State} (h : ∀ l, Delivered a bs (s.servedBy l) (f (s.servedBy l))) :
    Delivered a bs s (s.asBegun x q f) :=
  have h := h (s.place.serving ++ x.began q)
  ⟨h.back, h.beyond, h.regs, h.xfers⟩

section

variable (dst : x.dstSpace = 0) (views : s.kv.views = []) (place : s.inPlace q.die (x.dst + q.off) q.len) (wf : Memory.wf s.mem = true)
  (regs : s.regsWf)
include dst views place wf regs

/-- A piece of a FILL delivers the pattern (R286). -/
theorem Delivered.fill (fill : x.fill = true) (pattern : Nat) :
    Delivered (x.dst + q.off) (fillBytes pattern (x.dst + q.off) q.len) s (s.copyPiece x q pattern host) := by
  have length : (fillBytes pattern (x.dst + q.off) q.len).length = q.len := by simp [fillBytes]
  have reads : x.reads q = [] := by simp [Xfer.reads, fill]
  have ready : (s.through q.die).Ready [(x.dst + q.off, (fillBytes pattern (x.dst + q.off) q.len).length)] :=
    ⟨views, fun y hy => by rw [List.mem_singleton.1 hy, length]; exact place⟩
  rw [State.copyPiece_local dst (.inl fill) fun _ => by rw [State.sourceRuns, if_pos fill]]
  refine Delivered.asDie ?_
  rw [reads, List.foldl_nil, State.deliver_one dst ready (.inl fill)]
  exact Delivered.writeBytes ready wf regs

/-- A piece of a copy delivers what its source holds (R284). -/
theorem Delivered.copy (fill : x.fill = false) (src : x.srcSpace = 0) (source : s.inPlace q.die (x.src + q.off) q.len)
    (sound : s.poisonedIn (x.src + q.off) q.len = false) (apart : x.src + x.len ≤ x.dst + q.off ∨ x.dst + q.off + q.len ≤ x.src)
    (pattern : Nat) : Delivered (x.dst + q.off) (s.memRead (x.src + q.off) q.len) s (s.copyPiece x q pattern host) := by
  have length : (s.memRead (x.src + q.off) q.len).length = q.len := by simp [State.memRead_eq]
  have reads : x.reads q = [(x.src + q.off, q.len)] := by simp [Xfer.reads, fill, src]
  have clean : (s.through q.die).Clean (x.src + q.off) q.len :=
    ⟨⟨views, fun y hy => by rw [List.mem_singleton.1 hy]; exact source⟩, sound⟩
  have ready : (s.through q.die).Ready [(x.dst + q.off, q.len)] :=
    ⟨views, fun y hy => by rw [List.mem_singleton.1 hy]; exact place⟩
  have read : (s.through q.die).readBytes (x.src + q.off) q.len = s.memRead (x.src + q.off) q.len := by
    obtain none | some := Nat.eq_zero_or_pos q.len
    · rw [none]; rfl
    · exact State.readBytes_of_noView views some
  have runs (host : BytesRead) : (s.through q.die).sourceRuns x pattern q.off q.len host
      = [(s.memRead (x.src + q.off) q.len, false)] := by
    simp only [State.sourceRuns, fill, src, Bool.false_eq_true, if_false, if_true, clean.1.readBad, clean.2, read]
  rw [State.copyPiece_local dst (.inr src) runs]
  refine Delivered.asDie ?_
  have noted := Undisturbed.noteRead (wid := x.wid) clean
  rw [reads, List.foldl_cons, List.foldl_nil, State.deliver_one dst _ (.inr (by rwa [length]))]
  · refine Delivered.of_read (wid := x.wid) clean regs ?_
    exact Delivered.writeBytes (by rw [length]; exact ready.steady noted.steady) (noted.mem ▸ wf) (noted.regs regs).1
  · rw [length]
    exact ready.steady noted.steady

end

/-! ### The end of a piece -/

/-- A piece whose pages are in place waits for none of them (R252). -/
theorem State.readyFor_inPlace (views : s.kv.views = []) (place : ∀ r ∈ x.reads q ++ x.writes q, s.inPlace q.die r.1 r.2) :
    s.readyFor x q = (true, s) := by
  have ready : ({ s with place := { s.place with via := q.die, serving := s.place.serving ++ x.began q } } : State).Ready
      (x.reads q ++ x.writes q) := ⟨views, place⟩
  simp only [State.readyFor, ready.prepare]

theorem State.launch_sent {w : Wb} (wb : s.wb wid = some w) (xfer : s.xferOf wid = some x) (piece : x.piece idx = some q)
    (sent : q.sent = true) : s.launch wid idx = s := by
  unfold State.launch
  rw [wb, xfer]
  dsimp only
  rw [piece]
  dsimp only
  rw [sent]
  rfl

theorem State.chargeWb_only (s : State) (wid ns : Nat) : s.chargeWb wid ns = { s with sched := (s.chargeWb wid ns).sched } := by
  unfold State.chargeWb
  split <;> rfl

/-- A piece that has run on an engine, within device memory, and that nothing keeps from its end (R285, R287). -/
structure State.PieceOver (s : State) (wid idx : Nat) (w : Wb) (x : Xfer) (q : Piece) (i : Nat) : Prop where
  wb      : s.wb wid = some w
  xfer    : s.xferOf wid = some x
  piece   : x.piece idx = some q
  run     : q.run = true
  sent    : q.sent = true
  xfe     : q.xfe = some i
  lost    : q.lost = 0
  returns : s.xfeReturns i = false
  dst     : x.dstSpace = 0
  src     : x.fill = true ∨ x.srcSpace = 0
  views   : s.kv.views = []
  place   : ∀ r ∈ x.reads q ++ x.writes q, s.inPlace q.die r.1 r.2
  alone   : ∀ t ∈ s.vrl.txns, t.owner ≠ .piece wid idx

variable {w : Wb} {i ns : Nat}

/-- The state in which a piece has been copied. -/
def State.pieceCopied (s : State) (w : Wb) (x : Xfer) (q : Piece) (host : BytesRead) : State :=
  s.seen.asBegun x q fun t => t.copyPiece x q (wArg w.slot 1) (s.seen.hostSeen x q host)

/-- Such a piece is copied, its engine counts what of it was not lost, its time is charged, and it ends. -/
theorem State.PieceOver.step (h : s.PieceOver wid idx w x q i) :
    xferPieceDoneStep wid idx ns host ⟨[], [], []⟩ s =
      let t := s.pieceCopied w x q host
      let lost := (((t.xferOf wid).bind fun x => x.piece idx).map (·.lost)).getD 0
      ((t.bump64 (rXfeBytesLo i) (q.len - lost)).chargeWb wid ns).endPiece wid idx := by
  have launched := State.launch_sent h.wb h.xfer h.piece h.sent
  have alone : (s.vrl.txns.any fun t => decide (t.owner = .piece wid idx)) = false :=
    List.any_eq_false.2 fun t ht => by simpa using h.alone t ht
  unfold xferPieceDoneStep
  rw [launched, h.wb, h.xfer]
  dsimp only
  rw [h.piece]
  dsimp only
  rw [h.run, h.xfe, Option.any_some, h.returns, State.readyFor_inPlace h.views h.place, alone]
  have local2 : (x.fill || decide (x.srcSpace ≠ 2)) = true := by
    obtain e | e := h.src
    · rw [e]; rfl
    · rw [e]; exact Bool.or_true _
  have device : decide ((0 : Nat) = 2) = false ∧ decide ((0 : Nat) ≠ 2) = true := ⟨rfl, rfl⟩
  have sramUe : Marks.sramUe ⟨[], [], []⟩ = false := rfl
  simp only [h.dst, local2, device, sramUe, Bool.and_false, Bool.false_and, Bool.and_self, Bool.not_true, Bool.or_self,
    Bool.false_eq_true, if_false, if_true]
  rfl

/-- What it delivers is what its end leaves of memory, and its engine's counter rises by its length (R285, R421). -/
theorem State.PieceOver.moves (h : s.PieceOver wid idx w x q i) (d : Delivered a bs s.seen (s.pieceCopied w x q host)) :
    ∃ u : State, xferPieceDoneStep wid idx ns host ⟨[], [], []⟩ s = u.endPiece wid idx
      ∧ u.memRead a bs.length = bs ∧ (∀ b, b < a ∨ a + bs.length ≤ b → u.memByte b = s.memByte b)
      ∧ u.reg64 (rXfeBytesLo i) = (s.reg64 (rXfeBytesLo i) + q.len) % 2 ^ 64 := by
  have kept : (s.pieceCopied w x q host).xferOf wid = some x := by
    rw [State.xferOf, d.xfers]
    exact h.xfer
  have step := h.step (host := host) (ns := ns)
  simp only [kept, Option.bind_some, h.piece, Option.map_some, Option.getD_some, h.lost, Nat.sub_zero] at step
  have counter : (s.pieceCopied w x q host).reg64 (rXfeBytesLo i) = s.reg64 (rXfeBytesLo i) := by
    rw [State.reg64, State.reg64, d.regs.2, d.regs.2]
    rfl
  have mem (v : State) (r : Nat) : ((v.bump64 r q.len).chargeWb wid ns).mem = v.mem := by
    rw [State.chargeWb_only]
    rfl
  refine ⟨_, step, ?_, fun b hb => ?_, ?_⟩
  · rw [State.memRead, mem]
    exact d.back
  · rw [State.memByte, mem]
    exact d.beyond b hb
  · rw [State.chargeWb_only]
    exact (State.reg64_bump64 d.regs.1 _ _).trans (by rw [counter])

end

/-- Settles O30: what the piece's runs deliver at its destination, for a FILL the pattern and for a copy what the source holds. -/
theorem pieceMovesItsBytes : Obligations.PieceMovesItsBytes := by
  intro wid idx ns host io s w x q i wb xfer piece run sent failed xfe lost returns dst views place alone wf regs
  have die : q.die = some (dieOf .xfe i) := by rw [Piece.die, xfe]; rfl
  rw [← die] at place ⊢
  have writes : x.writes q = [(x.dst + q.off, q.len)] := if_pos dst
  have done (src : x.fill = true ∨ x.srcSpace = 0) (reads : ∀ r ∈ x.reads q, s.inPlace q.die r.1 r.2) :
      ({ s with io := io } : State).PieceOver wid idx w x q i :=
    { wb, xfer, piece, run, sent, xfe, lost, returns, dst, src, views, alone,
      place := fun r hr => (List.mem_append.1 hr).elim (reads r) fun hr => by
        rw [writes, List.mem_singleton] at hr
        subst hr
        exact place }
  refine ⟨fun fill => ?_, fun fill src source clean apart => ?_⟩
  · have reads : x.reads q = [] := by simp [Xfer.reads, fill]
    have d : Delivered (x.dst + q.off) (fillBytes (wArg w.slot 1) (x.dst + q.off) q.len) ({ s with io := io } : State).seen
        (({ s with io := io } : State).pieceCopied w x q host) :=
      Delivered.asBegun fun l => Delivered.fill (s := ({ s with io := io } : State).seen.servedBy l) dst views place wf regs fill _
    obtain ⟨u, step, back, beyond, counter⟩ := (done (.inl fill) (by simp [reads])).moves (ns := ns) d
    have length : (fillBytes (wArg w.slot 1) (x.dst + q.off) q.len).length = q.len := by simp [fillBytes]
    rw [length] at back beyond
    exact ⟨u, congrArg (fun t : State => Host.Outcome.next ({ t with io := [] } : State).seen) step,
      fun k hk => State.memByte_of_memRead back hk, beyond, counter⟩
  · have reads : x.reads q = [(x.src + q.off, q.len)] := by simp [Xfer.reads, fill, src]
    have sound : s.poisonedIn (x.src + q.off) q.len = false := List.any_eq_false.2 fun l hl => by
      have := clean l hl
      rw [State.poisoned, Nat.mul_div_cancel_left l (by decide)] at this
      simp [this]
    have d : Delivered (x.dst + q.off) (s.memRead (x.src + q.off) q.len) ({ s with io := io } : State).seen
        (({ s with io := io } : State).pieceCopied w x q host) :=
      Delivered.asBegun fun l =>
        Delivered.copy (s := ({ s with io := io } : State).seen.servedBy l) dst views place wf regs fill src source sound apart _
    obtain ⟨u, step, back, beyond, counter⟩ := (done (.inr src) (by simpa [reads] using source)).moves (ns := ns) d
    have length : (s.memRead (x.src + q.off) q.len).length = q.len := by simp [State.memRead_eq]
    rw [length] at back beyond
    exact ⟨u, congrArg (fun t : State => Host.Outcome.next ({ t with io := [] } : State).seen) step,
      fun k hk => State.memByte_of_memRead (back.trans (s.memRead_eq _ _)) hk, beyond, counter⟩

end Sys2Proof.Machine
end
